-- ==== Sys2Proof/Word.lean ====
section
/-! DEFINITION. The word types of the GWL-4096-A1 model and the sparse table every addressed store is held in. -/
namespace Sys2Proof

/-- One byte of an addressed memory. -/
abbrev Byte := BitVec 8
/-- A 64-bit word: an instruction word (R72) or a register's value (R502). -/
abbrev Word := BitVec 64
/-- One scratchpad row or packet payload unit of 64 B (R42, R282); byte 0 is the least significant. -/
abbrev Row := BitVec 512

/-- A sparse table: key and value pairs, keys strictly rising, no value equal to its key's default. -/
abbrev Tab (α : Type) := List (Nat × α)
/-- An addressed memory: address and byte pairs, an unlisted address reading as the memory's empty byte. -/
abbrev Memory := List (Nat × BitVec 8)
/-- A finite set of numbers, strictly rising. -/
abbrev NSet := List Nat

end Sys2Proof
end

