-- ==== Sys2Proof/Syntax.lean ====
section
/-! DEFINITION. The commands of the block: one constructor of `Instr` per row of spec/opcode_table.json, with what each
carries. A command names the unit it happens at and carries the message, the words or the physical observation of that step
(log 3). -/
namespace Sys2Proof

/-- Core index 64·y + x (R25). -/
abbrev CoreIx := Fin 4096
/-- Memory site M00 to M39 (R26). -/
abbrev SiteIx := Fin 40
/-- Compute die index 8·j + i (R25). -/
abbrev DieIx := Fin 64
/-- Implemented partitions (R12). -/
abbrev PartIx := Fin 64
/-- Edge port dies E0 to E7. -/
abbrev EdgeIx := Fin 8
/-- Host ports H0 to H3. -/
abbrev HostIx := Fin 4
/-- Fabric endpoints by node number (R284): cores, ledger dies, edge port dies and steward dies. -/
abbrev NodeIx := Fin 0x1054
/-- Event controllers: 0 to 63 the partitions', 64 the module's (R399). -/
abbrev CtrlIx := Fin 65

/-- A function that may hold a session (R364, R366): a virtual function by its partition, the physical function of a
host port, or a management port. -/
inductive Path
  | vf (p : PartIx)
  | pf (h : HostIx)
  | mgmt (m : Fin 2)
  deriving DecidableEq, Repr

/-- One requester of a scratchpad bank in one array cycle: requester code 0 to 4 (R68), row address, write or read (R46), and whether an
earlier cycle deferred it (R524). -/
structure Access where
  req : Fin 5
  row : Fin 131072
  write : Bool
  late : Bool := false
  deriving DecidableEq, Repr

/-- What the hardware met while it carried out one core step: cycles withheld or waited (R55, R70, R89), rows with
correctable and uncorrectable errors (R44), bank collisions (one list of requesters a cycle, R46), the values a fault put
into accumulators, proof sums and the comparator (R334), and the number of failed block checks on the way (R53). -/
structure Obs where
  phaseStall : Nat
  fetchStall : Nat
  rampStall : Nat
  /-- Correctable row errors found and corrected. -/
  corrected : Nat
  /-- Rows read that hold an uncorrectable error. -/
  bad : List (Fin 131072)
  /-- Bank collisions; those among the bead array's own accesses follow from its instruction and are none of these (R167). -/
  clashes : List (List Access)
  /-- Output row, column and the error added to that accumulator, in units of its last place. -/
  faults : List (Nat × Nat × Int)
  /-- Output row and error added to the proof column's side of its check. -/
  colFaults : List (Nat × Int)
  /-- Segment, column (64 for the segment total) and error added to the proof row's side. -/
  rowFaults : List (Nat × Nat × Int)
  /-- The two comparator paths of a SELECT run disagree (R205). -/
  selectDiffers : Bool
  /-- The last 200 ns window that ended during the step, one entry an array cycle: whether the bead array, the sparse engine and the
  vector unit were busy in it; empty where none ended (R454). -/
  window : List (Bool × Bool × Bool)
  deriving DecidableEq, Repr
/-- A step in which nothing went wrong and nothing waited. -/
def Obs.clean : Obs := ⟨0, 0, 0, 0, [], [], [], [], [], false, []⟩

/-- Packet kinds of R283; `copyReq` is the kind 0 request of a DRAM_COPY, told apart here by name (log 3). -/
inductive PktKind
  | readReq | copyReq | writeData | readResp | ack | fenced | refused | resend | reduction | gatherReq | stream | mirror | push
  deriving DecidableEq, Repr

/-- Reduction fields of a TC2 packet (R250). -/
structure RedHdr where
  stream : Nat
  b0 : Nat
  /-- 0 values, 1 exponents (R244). -/
  pass : Nat
  /-- 0 contribution, 1 retraction, 2 raw resend, 3 module sum. -/
  kind : Nat
  /-- Logical core and epoch of each producer. -/
  prov : List (Nat × Nat)
  ebytes : List Nat
  deriving DecidableEq, Repr

/-- A fabric packet (R282). The router that injects it writes class, channel, multicast bit and packet check; a delivery command says
whether the check held at its endpoint. -/
structure Pkt where
  kind : PktKind
  src : Nat
  dst : Nat
  part : Nat
  tag : Nat
  gen : Nat
  resend : Nat
  /-- Block-check retries so far (R338). -/
  tries : Nat
  remCtr : Nat
  /-- Descriptor sequence number of the source and packets in the descriptor. -/
  seq : Nat
  total : Nat
  prov : Bool
  poison : Bool
  bchk : Bool
  ce : Bool
  ece : Bool
  /-- Remote address, bytes 16–23: a partition address, a destination row address or a stream address. -/
  addr : Nat
  /-- Bytes 24–31: the destination of a DRAM_COPY; the index count of a gather request; column mask + 2^64 × row mask of a
  multicast. -/
  addr2 : Nat
  /-- Bytes asked for by a request, or row units of a gather request. -/
  len : Nat
  /-- Logical core, epoch and recovery stamp of the producer (R340). -/
  prod : Nat × Nat × Nat
  red : Option RedHdr
  data : List Row
  /-- Block check carried in the trailer. -/
  crc : BitVec 32
  /-- Traffic class and virtual channel (R283, R285). -/
  tc : Nat := 0
  vc : Nat := 0
  mcast : Bool := false
  /-- Set while the packet is on a detour (R286): never where a packet is injected or consumed. -/
  detour : Bool := false
  /-- Packet check of the trailer (R282). -/
  chk : BitVec 32 := 0
  /-- The packets a merged packet stands for beside its own header's: node, tag, generation, descriptor sequence number (log 60). -/
  merged : List (Nat × Nat × Nat × Nat) := []
  deriving DecidableEq, Repr

/-- Control-net messages other than event records, with their payloads (R305). -/
inductive CtlMsg
  /-- Tag, arrivals merged, tags or marks differ, step barrier or group barrier, group, checkpoint mark (R90). -/
  | barArrive (tag merged : Nat) (differ isStep : Bool) (group : Nat) (mark : Option Nat)
  | barRelease (tag : Nat) (isStep : Bool) (group : Nat)
  | proofToken (core epoch : Nat) (pass : Bool)
  | retractToken (core epoch : Nat) (pass : Bool)
  | aliasUpdate (entry new gen : Nat)
  | forecastNote (level : Nat)
  | supplyDistress
  /-- 0 PAUSE, 1 recovery hold; the hold of a STOP action, 2, or 3 where it ends the open groups (R346; log 81). -/
  | hold (kind : Nat)
  | groupDrop (group part : Nat)
  /-- Stream and block of a raw resend request (R260). -/
  | resendRaw (stream block : Nat)
  /-- One of the two messages of a router's counts: 0 the blocked fractions, 1 the marks and replays (R294). -/
  | congReport (router half : Nat) (counts : List Nat)
  /-- A checkpoint copy order: partition and slot (R210, R236). -/
  | stewardOrder (part slot : Nat)
  deriving DecidableEq, Repr
/-- A control message (R304): priority bit, partition, destination and source; addressing (0 node, 1 logical core, 2 partition
broadcast, 3 toward the barrier root) and the source's sequence number. -/
structure Ctl where
  msg : CtlMsg
  high : Bool
  part : Nat
  dst : Nat
  src : Nat
  mode : Nat := 0
  seq : Nat := 0
  deriving DecidableEq, Repr
/-- Every type but RESEND_RAW, EVENT_RECORD, CONG_REPORT and STEWARD_ORDER is high priority (R305). -/
def CtlMsg.isHigh : CtlMsg → Bool
  | .resendRaw .. | .congReport .. | .stewardOrder .. => false
  | _ => true

/-- An answer as it reaches its endpoint: the packet, and whether its packet check held there (R289). -/
structure Answer where
  pkt : Pkt
  ok : Bool
  deriving DecidableEq, Repr
/-- How a packet is issued: the cycles it waited for a free tag (R64), and what reading its source rows met (R44, R46). -/
structure Issue where
  cycles : Nat
  obs : Obs
  deriving DecidableEq, Repr
/-- A request for raw values (R260), and how its packet is issued. -/
structure RawAsk where
  msg : Ctl
  issue : Issue
  deriving DecidableEq, Repr
/-- A tag whose timeout has run out, and whether its packet itself went missing on the way: on a link, or with a damaged header (R281, R289,
R292). -/
structure TagExpiry where
  num : BitVec 8
  lost : Bool
  deriving DecidableEq, Repr

/-- An event record (R410): event number, source node, sequence number, partition or 0xFF, time base, detail of 128 bits. -/
structure EvRec where
  num : Nat
  src : Nat
  seq : Nat
  part : Nat
  time : Nat
  detail : Nat
  deriving DecidableEq, Repr

/-! ### Kifildo Link (R424, R425) -/

/-- What a Kifildo Link frame carries, by type (R425). -/
inductive KlBody
  | hello (highest bitmap sender crc : Nat)
  | helloAck (highest bitmap sender crc : Nat)
  | ack
  | heartbeat
  /-- Stream, first block, one byte a block (R255); the frame's poison bit is that of R247. -/
  | expMax (stream b0 : Nat) (bytes : List Nat)
  /-- A block's module sum, or the difference of two; none is a marker (R255, R261). TREE results are FP32 codes. -/
  | moduleSum (stream block : Nat) (diff : Bool) (sums : List (Option Int))
  | prepared (group : Nat)
  | activation (k : Pkt)
  | token (core epoch : Nat) (pass retract : Bool)
  /-- One checkpoint block with its check, or the 4 KiB header of the slot, of a sending partition (R238). -/
  | ckptData (sender slot : Nat) (header : Bool) (block data : Nat) (crc : BitVec 32)
  | ckptAck (slot : Nat) (header : Bool) (block : Nat) (ok : Bool)
  /-- A frame of a reserved type, 11 to 31. -/
  | reserved (type : Nat)
  deriving DecidableEq, Repr
/-- A Kifildo Link frame (R424). -/
structure KlFrame where
  ver : Nat
  prov : Bool
  poison : Bool
  retx : Bool
  dst : Nat
  src : Nat
  part : Nat
  seq : Nat
  /-- Cumulative acknowledgement of the same channel, reverse direction. -/
  cum : Nat
  body : KlBody
  deriving DecidableEq, Repr
/-- Channel of a frame's type (R425). -/
def KlBody.chan : KlBody → Nat
  | .hello .. | .helloAck .. | .ack | .heartbeat | .reserved _ => 3
  | .expMax .. | .moduleSum .. | .prepared .. => 0
  | .activation .. | .token .. => 1
  | .ckptData .. | .ckptAck .. => 2
/-- Code of a frame's type (R425). -/
def KlBody.type : KlBody → Nat
  | .hello .. => 0
  | .helloAck .. => 1
  | .ack => 2
  | .heartbeat => 3
  | .expMax .. => 4
  | .moduleSum .. => 5
  | .prepared .. => 6
  | .activation .. => 7
  | .token .. => 8
  | .ckptData .. => 9
  | .ckptAck .. => 10
  | .reserved t => t
/-- A received frame as the parser walks it (R428 to R430): MAC verdict, frame length, VLAN tags; EtherType Kifildo Link, or an IP version with
its header numbers; lengths; and the Kifildo Link frame: its header, payload and trailer, and what its type's own fields and payload say
(R424; log 24). -/
structure RxFrame where
  /-- The FCS is bad. -/
  macBad : Bool
  /-- FEC codewords of the frame that could not be corrected (R418). -/
  fecBad : Nat
  /-- A PAUSE frame of IEEE 802.3. -/
  pause : Bool
  len : Nat
  vlans : Nat
  /-- 0 Kifildo Link EtherType, 4 IPv4, 6 IPv6, 1 anything else. -/
  ether : Nat
  /-- IPv4 header length in bytes; IPv6 extension headers as their kinds, 0 for a permitted kind. -/
  ihl : Nat
  exts : List Nat
  frag : Bool
  udp : Bool
  portOk : Bool
  /-- L2 payload, IP total length, IP payload length less the extension headers, UDP length. -/
  l2 : Nat
  ip : Nat
  ipLessExt : Nat
  udpLen : Nat
  head : BitVec 256
  payload : List Byte
  trailer : BitVec 32
  body : KlBody
  /-- ARP, Neighbor Discovery or ICMP echo, which the stewards answer. -/
  answerable : Bool
  deriving DecidableEq, Repr

/-! ### Job capsules (R386). The spec gives the header's and section table's bytes; a section's contents it gives as
structures of their own chapters. A capsule operand carries its bytes as checked by R387 (header, digest) and the decoded
sections (log 9). -/

/-- A core program: logical core, partition address, words (R69, R70). -/
structure Program where
  core : Nat
  addr : Nat
  words : List Word
  deriving DecidableEq, Repr
/-- A stream entry (R242). -/
structure Stream where
  blocks : Nat
  tree : Bool
  tfmt : Nat
  domain : Bool
  rawFmt : Nat
  homeFirst : Nat
  homeCount : Nat
  n : Nat
  group : Nat
  contrib : Nat
  tensorId : Nat
  sumArea : Nat
  weights : Nat
  mom1 : Nat
  mom2 : Nat
  colFac : Nat
  rows : Nat
  deriving DecidableEq, Repr
/-- A contributor entry: logical core, raw row, return row (R243). -/
structure Contributor where
  core : Nat
  rawRow : Nat
  retRow : Nat
  deriving DecidableEq, Repr
/-- What one plan carries: programs, barrier groups and their members, streams, contributors, period and offset of each
update group, private stream maps (number and map address; address and bytes) and home tables (R386). -/
structure Plan where
  programs : List Program
  barGroups : List (Nat × List Nat)
  /-- Stream entries of 64 B and contributor entries of 8 B, in the layouts of R242 and R243. -/
  streams : List Row
  contribs : List Word
  periods : List (Nat × Nat × Nat)
  maps : List (Nat × Nat)
  mapData : List (Nat × List Byte)
  homes : List (Nat × Nat)
  deriving DecidableEq, Repr
/-- An update group: number, record address, row 0, init flag, t0, L0 (R269 to R271). -/
structure UpdGroup where
  num : Nat
  record : Nat
  row0 : Row
  init : Bool
  t0 : Nat
  l0 : Nat
  deriving DecidableEq, Repr
/-- An input buffer: number, slot 0 address, slot size, required flag (R392). -/
structure InputBuf where
  num : Nat
  slot0 : Nat
  size : Nat
  required : Bool
  deriving DecidableEq, Repr
/-- A capsule's header fields and decoded sections. -/
structure Capsule where
  active : Nat
  standby : Nat
  clockFloor : Nat
  warmup : Nat
  recovery : Nat
  planGroup : Nat
  seed : Word
  policy : Nat
  mirror : Nat
  entries : List Nat
  normal : Option Plan
  uniform : Plan
  groups : List UpdGroup
  streamGroups : List Nat
  predictors : List Nat
  bounds : List Row
  micro : List (List (BitVec 32))
  /-- Tolerance entries of 24 B, one per active logical core in its order (R326; log 103). -/
  tolerance : List (BitVec 192)
  offload : List (Nat × Nat)
  /-- Own rank and the module ID of every rank (R255). -/
  domain : Option (Nat × List Nat)
  inputs : List InputBuf
  /-- Persistent region of each logical core, start row and rows, and its buddy (R352). -/
  persist : List (Nat × Nat × Nat)
  buddies : List (Nat × Nat)
  deriving DecidableEq, Repr

/-! ### The configuration image (R485 to R488), decoded sections (log 9) -/
/-- An extent entry (R211). -/
structure Extent where
  pbase : Nat
  len : Nat
  siteFirst : Nat
  siteCount : Nat
  frame : Nat
  readOnly : Bool
  shared : Bool
  owner : Nat
  group : Nat
  /-- The entry's valid bit; entry e of a table is its place in the list. -/
  valid : Bool := true
  deriving DecidableEq, Repr
/-- One partition as the image declares it (R364). -/
structure PartDecl where
  num : Nat
  clusters : List Nat
  extents : List Extent
  hostPort : Nat
  vf : Nat
  share : Nat
  key : BitVec 256
  idle : Nat
  ports : List Nat
  deriving DecidableEq, Repr
/-- A stream group: number, owner, offset of its map in the shared extent, permitted partitions. -/
structure GroupDecl where
  num : Nat
  owner : Nat
  mapOff : Nat
  members : List Nat
  deriving DecidableEq, Repr
/-- A declared port: edge die, port, mode, lanes code, PFC enable and mask, UDP (R417, R447). -/
structure PortDecl where
  edge : Nat
  port : Nat
  mode : Nat
  lanes : Nat
  pfc : Bool
  mask : Nat
  udp : Bool
  deriving DecidableEq, Repr
/-- A KL peer: module ID and its address as one number (R423). -/
structure Peer where
  id : Nat
  addr : Nat
  deriving DecidableEq, Repr
/-- The sections of an image that act on the module's state (R487). -/
structure Image where
  number : Nat
  serial : Nat
  /-- Cores FENCED_FACTORY. -/
  fenced : List Nat
  /-- Die, divisor, supply in mV (R462). -/
  rows : List (Nat × Nat × Nat)
  imageCap : Nat
  capW : Nat
  ramp : Nat
  lowCap : Nat
  idleHold : Nat
  parts : List PartDecl
  groups : List GroupDecl
  recvFirst : Nat
  recvCount : Nat
  /-- Permitted checkpoint senders: module, partition, offset in 4 KiB blocks of the frames (R437). -/
  ckptSenders : List (Nat × Nat × Nat)
  /-- Sub-ports that may receive checkpoint data (R420). -/
  ckptPorts : List Nat
  moduleId : Nat
  ports : List PortDecl
  ethertype : Nat
  udpPort : Nat
  rto : Nat
  retries : Nat
  peers : List Peer
  /-- Priority of each Kifildo Link channel, and the check of the link section as HELLO carries it (R422, R427). -/
  klPrio : List Nat
  linkCrc : BitVec 32
  hostModes : List Nat
  /-- CXL windows: partition, host port, base, length (R437). -/
  cxl : List (Nat × Nat × Nat × Nat)
  mgmtPort : Nat
  pinmux : Nat
  adminKey : Option (BitVec 256)
  adminPwKey : Option (BitVec 256)
  kdf : Nat
  adminIdle : Nat
  quotas : List (Nat × Nat)
  /-- Controller, class, count, time: coalescing defaults (R487). -/
  coal : List (Nat × Nat × Nat × Nat)
  /-- The lowest detail of R490 that S0 found in the section bytes themselves: 5 for sections that overlap, 6 for a factory
  floor plan that differs from the fuses, 9 for a malformed peer table, 11 for a key record that does not open or a partition
without one; else 0. -/
  bodyFault : Nat
  deriving DecidableEq, Repr
/-- What a bring-up meets: whether each device can be read, each slot's decoded sections, units failing a test once and
twice (R495), carry lines and rim crossings failing twice (by number; 64 × side + side offset), cores that do not finish their tests by
READY (R36), DRAM rows repaired by site (R497), received checkpoint blocks found bad by their key, and the sources that read a leak
(R500, R517). -/
structure BringUp where
  readA : Bool
  readB : Bool
  bodyA : Option Image
  bodyB : Option Image
  failOnce : List Nat
  failTwice : List Nat
  badLines : List Nat
  badRims : List Nat
  unfinished : List CoreIx
  repaired : List (Nat × Nat)
  recvBad : List Nat
  leak : BitVec 3
  deriving DecidableEq, Repr, Inhabited

/-- A checkpoint block read back for a restore: partition block number, bytes, poison and check (R240). -/
structure RestoreBlk where
  block : Nat
  data : Nat
  poison : Bool
  crc : BitVec 32
  deriving DecidableEq, Repr
/-- What the energy meter hands over with one reading: busbar mV and 0.1 A, input power in W averaged over 1 ms, energy of the
interval charged to no partition, power in W and energy in mJ of each partition (R478, R479), and stage-2 currents in 0.25 A that power tiles
report (R482). -/
structure Meter where
  mv : BitVec 16
  deciamps : BitVec 16
  watts : BitVec 16
  overhead : Nat
  parts : List (PartIx × Nat × Nat)
  currents : List (DieIx × BitVec 10) := []
  deriving DecidableEq, Repr

/-- The commands, in the order of spec/opcode_table.json. -/
inductive Instr
  /-- POWER_ON (R494). -/
  | powerOn (b : BringUp)
  /-- INPUT_LOSS (R470). -/
  | inputLoss
  /-- MOD_RST_N_ASSERT (R442). -/
  | modRstNAssert (held : Bool) (b : BringUp)
  /-- WARM_RESTART (R498). -/
  | warmRestart (path : Path) (b : BringUp)
  /-- FULL_RELOAD (R498). -/
  | fullReload (path : Path) (b : BringUp)
  /-- NOP (R73). -/
  | nop (c : CoreIx) (w : Word) (o : Obs)
  /-- END (R101). -/
  | endProgram (c : CoreIx) (w : Word) (o : Obs)
  /-- WAIT_COUNT (R82). -/
  | waitCount (c : CoreIx) (w : Word) (o : Obs)
  /-- BARRIER_GROUP (R93). -/
  | barrierGroup (c : CoreIx) (w : Word) (o : Obs)
  /-- BARRIER_STEP (R94). -/
  | barrierStep (c : CoreIx) (w : Word) (o : Obs)
  /-- FORECAST (R88). -/
  | forecast (c : CoreIx) (w : Word) (o : Obs)
  /-- FORECAST_MATURES (R456). -/
  | forecastMatures (c : CoreIx)
  /-- CHKPT_MARK (R90). -/
  | chkptMark (c : CoreIx) (w : Word) (o : Obs)
  /-- REPEAT (R91). -/
  | repeatBody (c : CoreIx) (w : Word) (o : Obs)
  /-- SETR (R92). -/
  | setr (c : CoreIx) (w : Word) (o : Obs)
  /-- LOAD_TILE (R157). -/
  | loadTile (c : CoreIx) (w : Word) (o : Obs)
  /-- STREAM (R161). -/
  | stream (c : CoreIx) (w0 w1 : Word) (o : Obs)
  /-- PROOF (R83). -/
  | proof (c : CoreIx) (w : Word) (o : Obs)
  /-- PROOF_TOKEN_SEND (R342). -/
  | proofTokenSend (c : CoreIx) (epoch : BitVec 16)
  /-- VEC_ADD (R141). -/
  | vecAdd (c : CoreIx) (w0 w1 : Word) (o : Obs)
  /-- VEC_SUB (R141). -/
  | vecSub (c : CoreIx) (w0 w1 : Word) (o : Obs)
  /-- VEC_MUL (R141). -/
  | vecMul (c : CoreIx) (w0 w1 : Word) (o : Obs)
  /-- VEC_FMA (R141). -/
  | vecFma (c : CoreIx) (w0 w1 : Word) (o : Obs)
  /-- VEC_MAX (R137). -/
  | vecMax (c : CoreIx) (w0 w1 : Word) (o : Obs)
  /-- VEC_MIN (R137). -/
  | vecMin (c : CoreIx) (w0 w1 : Word) (o : Obs)
  /-- VEC_CMP_EQ (R138). -/
  | vecCmpEq (c : CoreIx) (w0 w1 : Word) (o : Obs)
  /-- VEC_CMP_LT (R138). -/
  | vecCmpLt (c : CoreIx) (w0 w1 : Word) (o : Obs)
  /-- VEC_CMP_LE (R138). -/
  | vecCmpLe (c : CoreIx) (w0 w1 : Word) (o : Obs)
  /-- VEC_CVT (R127). -/
  | vecCvt (c : CoreIx) (w0 w1 : Word) (o : Obs)
  /-- VEC_EXP (R141). -/
  | vecExp (c : CoreIx) (w0 w1 : Word) (o : Obs)
  /-- VEC_RECIP (R141). -/
  | vecRecip (c : CoreIx) (w0 w1 : Word) (o : Obs)
  /-- VEC_RSQRT (R141). -/
  | vecRsqrt (c : CoreIx) (w0 w1 : Word) (o : Obs)
  /-- VEC_RSUM (R525). -/
  | vecRsum (c : CoreIx) (w0 w1 : Word) (o : Obs)
  /-- VEC_RMAX (R525). -/
  | vecRmax (c : CoreIx) (w0 w1 : Word) (o : Obs)
  /-- VEC_RANGE (R336). -/
  | vecRange (c : CoreIx) (w0 w1 : Word) (o : Obs)
  /-- VEC_BEXP (R124). -/
  | vecBexp (c : CoreIx) (w0 w1 : Word) (o : Obs)
  /-- VEC_QGRID (R125). -/
  | vecQgrid (c : CoreIx) (w0 w1 : Word) (o : Obs)
  /-- VEC_MXSCALE (R127). -/
  | vecMxscale (c : CoreIx) (w0 w1 : Word) (o : Obs)
  /-- SPARSE_TILE (R191). -/
  | sparseTile (c : CoreIx) (w0 w1 : Word) (o : Obs)
  /-- DRAM_READ (R58). -/
  | dramRead (c : CoreIx) (w0 w1 w2 w3 w4 : Word) (o : Obs)
  /-- DRAM_WRITE (R58). -/
  | dramWrite (c : CoreIx) (w0 w1 w2 w3 w4 : Word) (o : Obs)
  /-- CORE_PUSH (R58). -/
  | corePush (c : CoreIx) (w0 w1 w2 w3 w4 : Word) (o : Obs)
  /-- REDUCE_SEND_EXPONENTS (R246). -/
  | reduceSendExponents (c : CoreIx) (w0 w1 w2 w3 w4 : Word) (o : Obs)
  /-- REDUCE_SEND_VALUES (R249). -/
  | reduceSendValues (c : CoreIx) (w0 w1 w2 w3 w4 : Word) (o : Obs)
  /-- DRAM_COPY (R58). -/
  | dramCopy (c : CoreIx) (w0 w1 w2 w3 w4 : Word) (o : Obs)
  /-- GATHER (R86). -/
  | gather (c : CoreIx) (w0 w1 w2 : Word) (o : Obs)
  /-- MIRROR (R87). -/
  | mirror (c : CoreIx) (w : Word) (o : Obs)
  /-- PACKET_ISSUE (R64). -/
  | packetIssue (c : CoreIx) (seq : BitVec 16) (how : Issue)
  /-- READ_REQUEST (R212). -/
  | readRequest (m : SiteIx) (k : Pkt) (ok : Bool) (misreads : Nat)
  /-- WRITE_DATA (R216). -/
  | writeData (m : SiteIx) (k : Pkt) (ok : Bool)
  /-- GATHER_REQUEST (R234). -/
  | gatherRequest (m : SiteIx) (k : Pkt) (ok : Bool)
  /-- STREAM_RECEIVE (R228). -/
  | streamReceive (m : SiteIx) (k : Pkt) (ok more : Bool) (misreads : Nat)
  /-- GROUP_PACKET_READ (R230). -/
  | groupPacketRead (m : SiteIx) (g : Fin 64) (off misreads : Nat)
  /-- GROUP_WAIT_EXPIRY (R231). -/
  | groupWaitExpiry (m : SiteIx) (g : Fin 64) (off : Nat)
  /-- READ_RESPONSE (R58). -/
  | readResponse (c : CoreIx) (k : Pkt) (ok : Bool) (fails : Nat) (o : Obs)
  /-- ACKNOWLEDGEMENT (R63). -/
  | acknowledgement (c : CoreIx) (a : Answer)
  /-- FENCED_ACKNOWLEDGEMENT (R106). -/
  | fencedAcknowledgement (c : CoreIx) (a : Answer)
  /-- REFUSED_ACKNOWLEDGEMENT (R60). -/
  | refusedAcknowledgement (c : CoreIx) (a : Answer)
  /-- RESEND_REQUEST (R289). -/
  | resendRequest (n : NodeIx) (a : Answer)
  /-- CORE_PUSH_DATA (R63). -/
  | corePushData (c : CoreIx) (k : Pkt) (ok : Bool) (fails : Nat) (o : Obs)
  /-- MIRROR_DATA (R352). -/
  | mirrorData (c : CoreIx) (k : Pkt) (ok : Bool) (o : Obs)
  /-- STREAM_DELIVERY (R287). -/
  | streamDelivery (c : CoreIx) (k : Pkt) (ok : Bool) (fails : Nat) (o : Obs)
  /-- EXPONENT_CONTRIBUTION (R246). -/
  | exponentContribution (m : SiteIx) (k : Pkt) (ok : Bool)
  /-- AGREED_BYTES (R247). -/
  | agreedBytes (c : CoreIx) (k : Pkt) (ok : Bool) (o : Obs)
  /-- CONTRIBUTION (R252). -/
  | contribution (m : SiteIx) (k : Pkt) (ok : Bool)
  /-- RETRACTION (R258). -/
  | retraction (m : SiteIx) (k : Pkt) (ok : Bool)
  /-- RAW_RESEND (R260). -/
  | rawResend (m : SiteIx) (k : Pkt) (ok : Bool)
  /-- TREE_CONTRIBUTION (R257). -/
  | treeContribution (m : SiteIx) (k : Pkt) (ok : Bool)
  /-- TAG_TIMEOUT (R292). -/
  | tagTimeout (c : CoreIx) (tag : TagExpiry)
  /-- FLIT_REPLAY (R281). -/
  | flitReplay (c : CoreIx) (k : Fin 7)
  /-- LINK_DEGRADED (R281). -/
  | linkDegraded (c : CoreIx) (k : Fin 7)
  /-- RATE_RECOVERY (R293). -/
  | rateRecovery (c : CoreIx) (cls : Fin 3)
  /-- CONGESTION_INTERVAL (R294). -/
  | congestionInterval (c : CoreIx) (blocked : Vector (BitVec 8) 5) (marks : Nat)
  /-- CONG_REPORT (R294). -/
  | congReport (m : Ctl)
  /-- BAR_ARRIVE (R306). -/
  | barArrive (p : PartIx) (msgs : List Ctl) (nodes : List CoreIx) (moves : List (CoreIx × Bool))
  /-- GROUP_RESOLVED (R273). -/
  | groupResolved (p : PartIx) (g : BitVec 12) (retired : List SiteIx)
  /-- BAR_RELEASE (R95). -/
  | barRelease (c : CoreIx) (m : Ctl)
  /-- CHECKPOINT_SNAPSHOT (R236). -/
  | checkpointSnapshot (p : PartIx)
  /-- PROOF_TOKEN (R258). -/
  | proofToken (m : Ctl)
  /-- RETRACT_TOKEN (R305). -/
  | retractToken (m : Ctl)
  /-- ALIAS_UPDATE (R105). -/
  | aliasUpdate (c : CoreIx) (m : Ctl)
  /-- FORECAST_NOTE (R456). -/
  | forecastNote (d : DieIx) (m : Ctl)
  /-- SUPPLY_DISTRESS (R459). -/
  | supplyDistress (c : CoreIx) (m : Ctl)
  /-- HOLD (R97). -/
  | hold (p : PartIx) (m : Ctl)
  /-- GROUP_DROP (R231). -/
  | groupDrop (m : SiteIx) (c : Ctl)
  /-- RESEND_RAW (R260). -/
  | resendRaw (c : CoreIx) (ask : RawAsk)
  /-- STEWARD_ORDER (R210). -/
  | stewardOrder (m : SiteIx) (c : Ctl) (blocks misreads : Nat)
  /-- EVENT_RECORD (R401). -/
  | eventRecord (k : CtrlIx) (e : EvRec)
  /-- COALESCE_TIMER_EXPIRY (R405). -/
  | coalesceTimerExpiry (k : CtrlIx) (cls : Fin 16)
  /-- EVT_COMPLETE_WRITE (R403). -/
  | evtCompleteWrite (path : Path) (v : BitVec 32)
  /-- EVT_COMMIT_WRITE (R409). -/
  | evtCommitWrite (path : Path) (v : BitVec 32)
  /-- EVT_RQ_HEAD_WRITE (R411). -/
  | evtRqHeadWrite (path : Path) (v : BitVec 32)
  /-- EVT_CTRL_WRITE (R407). -/
  | evtCtrlWrite (path : Path) (v : BitVec 32)
  /-- EVT_EVENT_ENABLE_WRITE (R404). -/
  | evtEventEnableWrite (path : Path) (n : Fin 512) (v : BitVec 32)
  /-- CHALLENGE (R367). -/
  | challenge (path : Path)
  /-- NONCE_EXPIRY (R367). -/
  | nonceExpiry (path : Path)
  /-- LOCKOUT_END (R370). -/
  | lockoutEnd (path : Path)
  /-- SESSION_TIMEOUT (R371). -/
  | sessionTimeout (path : Path)
  /-- OQ_TAIL_WRITE (R374). -/
  | oqTailWrite (path : Path) (v : BitVec 32) (entries : List Row)
  /-- CQ_HEAD_WRITE (R374). -/
  | cqHeadWrite (path : Path) (v : BitVec 32)
  /-- QUEUE_CFG_WRITE (R374). -/
  | queueCfgWrite (path : Path) (cq : Bool) (v : BitVec 32)
  /-- ARBITRATION_CYCLE (R380). -/
  | arbitrationCycle (a : Fin 65)
  /-- OPEN (R384). -/
  | openSession (path : Path) (tag : Fin 4096)
  /-- CLOSE (R397). -/
  | closeSession (path : Path) (tag : Fin 4096)
  /-- TEARDOWN_DONE (R372). -/
  | teardownDone (p : PartIx)
  /-- SHARED_EXTENT_ZEROING (R373). -/
  | sharedExtentZeroing (p : PartIx)
  /-- LOAD_CAPSULE (R385). -/
  | loadCapsule (path : Path) (tag : Fin 4096) (header : BitVec 2048) (rest : List Byte) (body : Capsule)
  /-- START (R388). -/
  | start (path : Path) (tag : Fin 4096)
  /-- PAUSE (R389). -/
  | pause (path : Path) (tag : Fin 4096)
  /-- PAUSE_EXPIRED (R389). -/
  | pauseExpired (p : PartIx)
  /-- RESUME (R390). -/
  | resume (path : Path) (tag : Fin 4096)
  /-- CANCEL_KIND_0 (R391). -/
  | cancelKind0 (path : Path) (tag : Fin 4096)
  /-- CANCEL_KIND_1 (R391). -/
  | cancelKind1 (path : Path) (tag : Fin 4096)
  /-- FEED (R392). -/
  | feed (path : Path) (tag : Fin 4096)
  /-- FEED_TRANSFER (R392). -/
  | feedTransfer (path : Path) (tag : Fin 4096) (data : Nat)
  /-- READ_OUT (R393). -/
  | readOut (path : Path) (tag : Fin 4096)
  /-- CHECKPOINT (R394). -/
  | checkpoint (path : Path) (tag : Fin 4096)
  /-- RESTORE (R240). -/
  | restore (path : Path) (tag : Fin 4096) (valid : Bool)
  /-- JOIN_GROUP (R396). -/
  | joinGroup (path : Path) (tag : Fin 4096)
  /-- LEAVE_GROUP (R229). -/
  | leaveGroup (path : Path) (tag : Fin 4096)
  /-- USTEP_OVERRUN (R100). -/
  | ustepOverrun (c : CoreIx)
  /-- EPOCH_AUTO_CLOSE (R335). -/
  | epochAutoClose (c : CoreIx)
  /-- CORE_HANG (R334). -/
  | coreHang (c : CoreIx)
  /-- FAULT_RETRY_DONE (R358). -/
  | faultRetryDone (p : PartIx) (repeats : Bool) (digest : BitVec 32) (unit : BitVec 16)
  /-- RECOVERY_DRAIN_DONE (R354). -/
  | recoveryDrainDone (p : PartIx)
  /-- MIRROR_RESTORE_DONE (R354). -/
  | mirrorRestoreDone (p : PartIx)
  /-- HEALTH_DECAY (R349). -/
  | healthDecay (unit : BitVec 16)
  /-- HEALTH_RECORD_WRITE (R351). -/
  | healthRecordWrite
  /-- HEALTH_CLEARED (R349). -/
  | healthCleared (path : Path) (v : BitVec 32)
  /-- TEST_SLICE (R222). -/
  | testSlice (m : SiteIx) (ch : Fin 32) (repaired : Nat) (unrepairable : Bool) (misreads : List Nat)
  /-- REFRESH (R220). -/
  | refresh (m : SiteIx) (ch : Fin 32) (hot : Bool)
  /-- SELF_REFRESH_ENTRY (R221). -/
  | selfRefreshEntry (m : SiteIx) (ch : Fin 32)
  /-- HEARTBEAT_SEND (R274). -/
  | heartbeatSend (p : PartIx)
  /-- REDUCE_MEMBER_LOST (R274). -/
  | reduceMemberLost (p : PartIx) (rank : BitVec 14)
  /-- HELLO (R427). -/
  | hello (sub : Fin 256) (f : KlFrame)
  /-- HELLO_ACK (R427). -/
  | helloAck (sub : Fin 256) (f : KlFrame)
  /-- HELLO_RETRY (R427). -/
  | helloRetry (sub : Fin 256) (peer : BitVec 14)
  /-- ACK (R426). -/
  | ack (sub : Fin 256) (f : KlFrame) (ch : Fin 3)
  /-- HEARTBEAT (R274). -/
  | heartbeat (f : KlFrame)
  /-- EXP_MAX (R255). -/
  | expMax (f : KlFrame)
  /-- MODULE_SUM (R255). -/
  | moduleSum (f : KlFrame)
  /-- PREPARED (R275). -/
  | prepared (f : KlFrame)
  /-- ACTIVATION (R319). -/
  | activation (sub : Fin 256) (f : KlFrame)
  /-- TOKEN (R344). -/
  | token (f : KlFrame)
  /-- CKPT_DATA (R239). -/
  | ckptData (sub : Fin 256) (f : KlFrame)
  /-- CKPT_ACK (R238). -/
  | ckptAck (f : KlFrame)
  /-- KL_RETRANSMIT_TIMEOUT (R426). -/
  | klRetransmitTimeout (sub : Fin 256) (peer : BitVec 14) (ch : Fin 3) (seq : BitVec 32)
  /-- FRAME_RECEIVE (R428). -/
  | frameReceive (sub : Fin 256) (r : RxFrame) (flow : List (Fin 8 × Bool))
  /-- EXCEPTION_SERVICE (R429). -/
  | exceptionService (e : EdgeIx)
  /-- PFC_FRAME (R421). -/
  | pfcFrame (sub : Fin 256) (l : List (Fin 8 × BitVec 16))
  /-- PFC_PAUSE_EXPIRY (R421). -/
  | pfcPauseExpiry (sub : Fin 256) (prio : Fin 8)
  /-- LINK_UP (R419). -/
  | linkUp (port : Fin 34) (sub : Fin 8)
  /-- LINK_DOWN (R419). -/
  | linkDown (port : Fin 34) (sub : Fin 8)
  /-- FLR_VF (R434). -/
  | flrVf (p : PartIx)
  /-- FLR_PF (R434). -/
  | flrPf (h : HostIx)
  /-- HOT_RESET (R434). -/
  | hotReset (h : HostIx)
  /-- VF_ENABLE_CLEAR (R434). -/
  | vfEnableClear (h : HostIx)
  /-- HOST_LINK_LOST (R435). -/
  | hostLinkLost (h : HostIx)
  /-- HOST_LINK_RETRAIN (R435). -/
  | hostLinkRetrain (h : HostIx) (gen : Fin 3) (width : Fin 4)
  /-- STEWARD_MODE_ENTERED (R481). -/
  | stewardModeEntered
  /-- MGMT_ORDER (R439). -/
  | mgmtOrder (m : Fin 2) (src : Nat) (magic : BitVec 16) (ver : BitVec 8) (entry : Row)
  /-- MGMT_REGISTER_READ (R438). -/
  | mgmtRegisterRead (m : Fin 2) (src : Nat) (magic : BitVec 16) (ver : BitVec 8) (seq : BitVec 32) (off : BitVec 26) (size : Fin 9)
  /-- MGMT_REGISTER_WRITE (R438). -/
  | mgmtRegisterWrite (m : Fin 2) (src : Nat) (magic : BitVec 16) (ver : BitVec 8) (off : BitVec 26) (size : Fin 9) (v : Word)
  /-- MGMT_CHALLENGE (R438). -/
  | mgmtChallenge (m : Fin 2) (src : Nat) (magic : BitVec 16) (ver : BitVec 8) (seq : BitVec 32)
  /-- POUT_MAX (R440). -/
  | poutMax (target : Fin 2) (w : Option (BitVec 16))
  /-- STATUS_WORD (R440). -/
  | statusWord (target : Fin 2)
  /-- READ_VIN (R440). -/
  | readVin (target : Fin 2)
  /-- READ_IIN (R440). -/
  | readIin (target : Fin 2)
  /-- READ_TEMPERATURE_1 (R440). -/
  | readTemperature1 (target : Fin 2) (inlet : BitVec 8)
  /-- READ_POUT (R440). -/
  | readPout (target : Fin 2)
  /-- ALERT_RESPONSE (R440). -/
  | alertResponse
  /-- UART_COMMAND (R441). -/
  | uartCommand (line : List Byte)
  /-- BYPASS (R441). -/
  | bypass
  /-- IDCODE (R441). -/
  | idcode
  /-- SAMPLE_PRELOAD (R441). -/
  | samplePreload (pins load : Nat)
  /-- EXTEST (R441). -/
  | extest (pins load : Nat)
  /-- PWRCAP_WINDOW (R443). -/
  | pwrcapWindow (duty : Fin 1001)
  /-- PWRCAP_LEVEL_CHANGE (R443). -/
  | pwrcapLevelChange (high : Bool)
  /-- LEAK_DETECTED (R473). -/
  | leakDetected (src : BitVec 3)
  /-- LEAK_HOLD_ENTRY (R473). -/
  | leakHoldEntry
  /-- PINMUX_SWITCH (R445). -/
  | pinmuxSwitch (path : Path) (v : BitVec 32)
  /-- PINMUX_SWITCH_END (R445). -/
  | pinmuxSwitchEnd (pin : Fin 13)
  /-- LED_TEST_PULSE (R446). -/
  | ledTestPulse (n : Fin 4) (low : Bool)
  /-- REF_LOSS_PRIMARY (R449). -/
  | refLossPrimary (d : DieIx)
  /-- REF_LOSS_BOTH (R449). -/
  | refLossBoth (d : DieIx)
  /-- PHASE_SHED (R458). -/
  | phaseShed (d : DieIx) (k : Fin 16)
  /-- SUPPLY_DISTRESS_ONSET (R459). -/
  | supplyDistressOnset (d : DieIx)
  /-- DISTRESS_PERSISTS (R460). -/
  | distressPersists (d : DieIx)
  /-- DISTRESS_END (R459). -/
  | distressEnd (d : DieIx)
  /-- DROOP_STRETCH (R457). -/
  | droopStretch (c : CoreIx) (ps : BitVec 8)
  /-- DROOP_RECOVERY (R457). -/
  | droopRecovery (c : CoreIx) (cycles : Nat)
  /-- THERMAL_SAMPLE (R467). -/
  | thermalSample (d : DieIx) (temp : BitVec 8)
  /-- THERMAL_STEP (R467). -/
  | thermalStep (d : DieIx)
  /-- THERMAL_RECOVERY (R467). -/
  | thermalRecovery (d : DieIx)
  /-- THERM_TRIP (R472). -/
  | thermTrip (d : DieIx)
  /-- CAP_CHECK (R475). -/
  | capCheck (m : Meter) (cores : List CoreIx)
  /-- CAP_PAUSE (R475). -/
  | capPause
  /-- CAP_RESUME (R475). -/
  | capResume (p : PartIx)
  /-- CAP_RAMP_STEP (R474). -/
  | capRampStep
  /-- PWR_CAP_COMMIT (R477). -/
  | pwrCapCommit (path : Path) (v : BitVec 32)
  /-- MODULE_ACTIVE_REQUEST (R471). -/
  | moduleActiveRequest (path : Path)
  /-- MODULE_HOLD_REQUEST (R471). -/
  | moduleHoldRequest (path : Path)
  /-- STANDBY_REQUEST (R471). -/
  | standbyRequest (path : Path)
  /-- STEWARD_SET (R481). -/
  | stewardSet (path : Path)
  /-- STEWARD_MODE_LEFT (R481). -/
  | stewardModeLeft (path : Path)
  /-- IDLE_HOLD_ENTRY (R471). -/
  | idleHoldEntry
  /-- CORE_PAUSE_HOLD (R469). -/
  | corePauseHold (c : CoreIx)
  /-- SCRATCHPAD_WINDOW_ACCESS (R49). -/
  | scratchpadWindowAccess (path : Path) (off : BitVec 24) (size : Fin 9) (data : Option Word) (corrected bad : Bool)
  /-- SCRATCHPAD_RETENTION_RETURN (R49). -/
  | scratchpadRetentionReturn (c : CoreIx)
  /-- APERTURE_ACCESS (R505). -/
  | apertureAccess (path : Path) (off : BitVec 24) (size : Fin 9) (data : Option Word)
  /-- LATCHED_READ (R510). -/
  | latchedRead (path : Path) (off : BitVec 26) (size : Fin 9)
  /-- ERASE (R492). -/
  | erase (path : Path) (slot : Fin 2)
  /-- PROGRAM (R492). -/
  | program (path : Path) (slot : Fin 2) (offset : BitVec 12)
  /-- COMMIT (R492). -/
  | commit (path : Path) (slot : Fin 2)
  /-- SEAL (R492). -/
  | sealKey (path : Path)
  /-- CFGS_OPERATION_DONE (R492). -/
  | cfgsOperationDone (failed : Bool) (body : Option Image)
  /-- REGISTER_WRITE (R4). -/
  | registerWrite (path : Path) (off : BitVec 26) (size : Fin 9) (v : Word)
  /-- PROGRAM_FETCH_RESPONSE (R71). -/
  | programFetchResponse (c : CoreIx) (failures cycles : Nat)
  /-- LEAK_DET_DEASSERT (R473). -/
  | leakDetDeassert
  /-- REF_RETURN (R449). -/
  | refReturn (d : DieIx) (primary : Bool)
  /-- PERST_ASSERT (R518). -/
  | perstAssert (h : HostIx)
  /-- CXL_MEM_COMPLETION (R437). -/
  | cxlMemCompletion (p : PartIx) (ok : Bool) (block : Nat) (read : Option RestoreBlk)
  /-- CAPSULE_LOAD_DONE (R385). -/
  | capsuleLoadDone (p : PartIx)
  /-- RESTORE_DONE (R395). -/
  | restoreDone (p : PartIx) (blocks : List RestoreBlk)
  /-- MODULE_HOLD_EXIT_DONE (R471). -/
  | moduleHoldExitDone
  /-- VOLTAGE_REACHED (R463). -/
  | voltageReached (c : CoreIx)
  /-- FLOW_TACH_PULSE (R444). -/
  | flowTachPulse
  /-- PHASE_FAULT (R458). -/
  | phaseFault (d : DieIx) (k : Fin 16)
  deriving DecidableEq, Repr

end Sys2Proof
end

