-- ==== Sys2Proof/Config.lean ====
section
/-! DEFINITION. What the spec leaves open: free values, as constants with no body. Nothing in Lean can compute one. -/
namespace Sys2Proof.Config

/-- binary64 evaluation of a sum of products, as the proof path of the FP32 and MX classes forms it; R171 fixes
neither the order nor the grouping of the additions (log 5). An operand is significand and exponent, signed. -/
opaque dot64 : List ((Int × Int) × (Int × Int)) → Int × Int
/-- Where inside the bound of R141 the vector unit's EXP lands before rounding, for an FP32-scaled operand (log 6). -/
opaque expOffset : Bool → Nat → Int → Nat
/-- POW of a microprogram with its flags: R267 names the operation and states no result for it (log 7). Operands and result are FP32 codes. -/
opaque pow : BitVec 32 → BitVec 32 → BitVec 32 × BitVec 5
/-- The FP32 mean of a factored template's row or column with its flags: R265 names the mean and gives no order of its additions (log 15). -/
opaque mean : List (BitVec 32) → BitVec 32 × BitVec 5
/-- The element a stream delivery holds where an INDEX tile that it expands names one position twice: R185 multiplies and adds both, and no
rule says what the one element of the expanded tile then is (log 8). Arguments: the two codes. -/
opaque dupWeight : Nat → Nat → Nat
/-- The random source of nonces (R367), by the free counter. -/
opaque nonce : Nat → BitVec 256
/-- MOD.SESS_SALT, a per-module value (R369). -/
opaque salt : BitVec 128
/-- Silicon stepping of MOD.ID (R501). -/
opaque stepping : BitVec 4
/-- Serial number fuses, of which MOD.ID shows the low 32 bits (R501). -/
opaque serial : BitVec 64
/-- Fuse hash of the owner's image key (R486). -/
opaque ownerKeyHash : BitVec 256
/-- A sealed key's ciphertext and authentication tag: AES-256-GCM under the key S0 derives from its device-unique key (R488).
Arguments: role, partition byte, nonce, key. -/
opaque sealKey : Nat → Nat → BitVec 96 → BitVec 256 → BitVec 384
/-- The nonce of a sealed key record, by the free counter (R488). -/
opaque sealNonce : Nat → BitVec 96
/-- ECDSA over P-384 with SHA-384 (R486): whether a signature is good. Arguments: the 160 bytes signed, whose last 96 are the
public key, and the 96 bytes of the signature. -/
opaque ecdsaOk : List Byte → List Byte → Bool
/-- The identity code of the JTAG port (R441). -/
opaque idcode : BitVec 32

/-- What a bring-up meets that a plain write to MOD.RESET starts, and the order entries that stand in host memory where a plain write to
OQ_TAIL hands them over: the two writes do not carry them (R374, R498; log 77). By the free counter. -/
opaque bringUp : Nat → BringUp
opaque orderEntry : Nat → Row
/-- The 4 KiB header of a checkpoint slot: R238 names what it holds and gives no layout. Arguments: partition, mark, copy kind, and
the free counter for its generation. -/
opaque slotHeader : Nat → Nat → Nat → Nat → BitVec 32768
/-- The result of a successful OPEN: R384 puts the interface version and the count into one field and gives no layout. -/
opaque openResult : Nat → Nat → BitVec 64
/-- The device recovery key in S0's fuses (R491). -/
opaque recoveryKey : BitVec 256
/-- What the health record shows as the cause of a fault that R348 gives no cause for: a regulator phase, a bring-up test. -/
opaque otherCause : BitVec 8
/-- The 256 bytes in which a core's boundary state stands in a mirror area; R352 gives their length and place, not their layout (log 18). -/
opaque boundaryImage : List Nat → BitVec 2048

end Sys2Proof.Config
end

