-- ==== Sys2Proof/Machine/Events.lean ====
section
/-! DEFINITION. The events of R415 with their numbers, controllers and classes, and the fault classes of R345. -/
namespace Sys2Proof.Machine

/-- Events by name (R415). -/
inductive Ev
  | ordersCompleted | pauseExpired | pairCommitRejected | sessionOpened | sessionClosed | sessionTimeout | sessionLocked
  | floorplanUpdated | healthCleared | checkpointDone | streamMemberDropped | dramRowRepaired | planSwitched | planNormalRefused
  | ustepOverrun | rangeConfirmed | reduceReopened | sparseMetaError | sparseHeaderError | spadUe | blockCheckMismatch
  | dramBlockPoisoned | nonfiniteSkip | reduceIncomplete | checkpointFailed | unitDerated | linkDegraded | channelRetired
  | ledgerEngineFault | unitRetired | linkUp | linkDown | klVersionRefused | parserException | hostLinkLost | microstepReplayed
  | coreReturned | placementSwitched | coreFenced | stepReplayed | rangeFail | proofMismatch | spadConflict | arrayNoTile
  | dmaDescError | dmaCompressError | dmaAccessFault | packetLost | queueError | seqFault | barrierMismatch | coreHang
  | reduceMemberLost | partitionStopped | partitionFaultedHold | fabricIsolationFault | powerCapChanged | thermalStep
  | supplyDistress | phaseShed | dieActivityCapped | moduleReady | imageWritten | imageFallback | safeModeEntered
  | ledOpenLoad | stewardModeEntered | stewardModeLeft | leakDetected | thermTrip | evtOverflow
  deriving DecidableEq, Repr

/-- Event number (R415). -/
def Ev.num : Ev → Nat
  | .ordersCompleted => 1
  | .pauseExpired => 2
  | .pairCommitRejected => 3
  | .sessionOpened => 16
  | .sessionClosed => 17
  | .sessionTimeout => 18
  | .sessionLocked => 19
  | .floorplanUpdated => 32
  | .healthCleared => 33
  | .checkpointDone => 48
  | .streamMemberDropped => 49
  | .dramRowRepaired => 50
  | .planSwitched => 64
  | .planNormalRefused => 65
  | .ustepOverrun => 80
  | .rangeConfirmed => 96
  | .reduceReopened => 97
  | .sparseMetaError => 112
  | .sparseHeaderError => 113
  | .spadUe => 114
  | .blockCheckMismatch => 115
  | .dramBlockPoisoned => 116
  | .nonfiniteSkip => 128
  | .reduceIncomplete => 129
  | .checkpointFailed => 130
  | .unitDerated => 144
  | .linkDegraded => 145
  | .channelRetired => 146
  | .ledgerEngineFault => 147
  | .unitRetired => 148
  | .linkUp => 160
  | .linkDown => 161
  | .klVersionRefused => 162
  | .parserException => 163
  | .hostLinkLost => 176
  | .microstepReplayed => 192
  | .coreReturned => 193
  | .placementSwitched => 194
  | .coreFenced => 195
  | .stepReplayed => 196
  | .rangeFail => 208
  | .proofMismatch => 209
  | .spadConflict => 224
  | .arrayNoTile => 225
  | .dmaDescError => 226
  | .dmaCompressError => 227
  | .dmaAccessFault => 228
  | .packetLost => 229
  | .queueError => 230
  | .seqFault => 231
  | .barrierMismatch => 232
  | .coreHang => 233
  | .reduceMemberLost => 256
  | .partitionStopped => 272
  | .partitionFaultedHold => 273
  | .fabricIsolationFault => 288
  | .powerCapChanged => 320
  | .thermalStep => 321
  | .supplyDistress => 322
  | .phaseShed => 323
  | .dieActivityCapped => 324
  | .moduleReady => 384
  | .imageWritten => 385
  | .imageFallback => 386
  | .safeModeEntered => 387
  | .ledOpenLoad => 388
  | .stewardModeEntered => 389
  | .stewardModeLeft => 390
  | .leakDetected => 480
  | .thermTrip => 481
  | .evtOverflow => 511

/-- Coalescing class (R415). -/
def Ev.cls : Ev → Nat
  | .ordersCompleted => 0
  | .pauseExpired => 0
  | .pairCommitRejected => 15
  | .sessionOpened => 1
  | .sessionClosed => 1
  | .sessionTimeout => 1
  | .sessionLocked => 1
  | .floorplanUpdated => 10
  | .healthCleared => 10
  | .checkpointDone => 9
  | .streamMemberDropped => 9
  | .dramRowRepaired => 9
  | .planSwitched => 2
  | .planNormalRefused => 2
  | .ustepOverrun => 5
  | .rangeConfirmed => 4
  | .reduceReopened => 8
  | .sparseMetaError => 7
  | .sparseHeaderError => 7
  | .spadUe => 7
  | .blockCheckMismatch => 7
  | .dramBlockPoisoned => 7
  | .nonfiniteSkip => 8
  | .reduceIncomplete => 8
  | .checkpointFailed => 9
  | .unitDerated => 10
  | .linkDegraded => 10
  | .channelRetired => 10
  | .ledgerEngineFault => 10
  | .unitRetired => 10
  | .linkUp => 12
  | .linkDown => 12
  | .klVersionRefused => 12
  | .parserException => 12
  | .hostLinkLost => 12
  | .microstepReplayed => 3
  | .coreReturned => 3
  | .placementSwitched => 3
  | .coreFenced => 3
  | .stepReplayed => 3
  | .rangeFail => 4
  | .proofMismatch => 4
  | .spadConflict => 5
  | .arrayNoTile => 5
  | .dmaDescError => 6
  | .dmaCompressError => 6
  | .dmaAccessFault => 6
  | .packetLost => 6
  | .queueError => 6
  | .seqFault => 5
  | .barrierMismatch => 5
  | .coreHang => 5
  | .reduceMemberLost => 8
  | .partitionStopped => 2
  | .partitionFaultedHold => 2
  | .fabricIsolationFault => 11
  | .powerCapChanged => 13
  | .thermalStep => 13
  | .supplyDistress => 13
  | .phaseShed => 13
  | .dieActivityCapped => 13
  | .moduleReady => 14
  | .imageWritten => 14
  | .imageFallback => 14
  | .safeModeEntered => 14
  | .ledOpenLoad => 14
  | .stewardModeEntered => 14
  | .stewardModeLeft => 14
  | .leakDetected => 13
  | .thermTrip => 13
  | .evtOverflow => 15

/-- Whether partition controllers hold the event. -/
def Ev.atPart : Ev → Bool
  | .ordersCompleted => true
  | .pauseExpired => true
  | .pairCommitRejected => true
  | .floorplanUpdated => true
  | .checkpointDone => true
  | .streamMemberDropped => true
  | .planSwitched => true
  | .planNormalRefused => true
  | .ustepOverrun => true
  | .rangeConfirmed => true
  | .reduceReopened => true
  | .sparseMetaError => true
  | .sparseHeaderError => true
  | .spadUe => true
  | .blockCheckMismatch => true
  | .dramBlockPoisoned => true
  | .nonfiniteSkip => true
  | .reduceIncomplete => true
  | .checkpointFailed => true
  | .microstepReplayed => true
  | .coreReturned => true
  | .placementSwitched => true
  | .coreFenced => true
  | .stepReplayed => true
  | .rangeFail => true
  | .proofMismatch => true
  | .spadConflict => true
  | .arrayNoTile => true
  | .dmaDescError => true
  | .dmaCompressError => true
  | .dmaAccessFault => true
  | .packetLost => true
  | .queueError => true
  | .seqFault => true
  | .barrierMismatch => true
  | .coreHang => true
  | .reduceMemberLost => true
  | .partitionStopped => true
  | .partitionFaultedHold => true
  | .evtOverflow => true
  | _ => false

/-- Whether the module controller holds the event. -/
def Ev.atModule : Ev → Bool
  | .pairCommitRejected => true
  | .sessionOpened => true
  | .sessionClosed => true
  | .sessionTimeout => true
  | .sessionLocked => true
  | .floorplanUpdated => true
  | .healthCleared => true
  | .dramRowRepaired => true
  | .unitDerated => true
  | .linkDegraded => true
  | .channelRetired => true
  | .ledgerEngineFault => true
  | .unitRetired => true
  | .linkUp => true
  | .linkDown => true
  | .klVersionRefused => true
  | .parserException => true
  | .hostLinkLost => true
  | .coreReturned => true
  | .coreFenced => true
  | .partitionStopped => true
  | .partitionFaultedHold => true
  | .fabricIsolationFault => true
  | .powerCapChanged => true
  | .thermalStep => true
  | .supplyDistress => true
  | .phaseShed => true
  | .dieActivityCapped => true
  | .moduleReady => true
  | .imageWritten => true
  | .imageFallback => true
  | .safeModeEntered => true
  | .ledOpenLoad => true
  | .stewardModeEntered => true
  | .stewardModeLeft => true
  | .leakDetected => true
  | .thermTrip => true
  | .evtOverflow => true
  | _ => false

/-- Every event, by rising number. -/
def Ev.all : List Ev := [
  .ordersCompleted, .pauseExpired, .pairCommitRejected, .sessionOpened, .sessionClosed, .sessionTimeout,
  .sessionLocked, .floorplanUpdated, .healthCleared, .checkpointDone, .streamMemberDropped, .dramRowRepaired,
  .planSwitched, .planNormalRefused, .ustepOverrun, .rangeConfirmed, .reduceReopened, .sparseMetaError,
  .sparseHeaderError, .spadUe, .blockCheckMismatch, .dramBlockPoisoned, .nonfiniteSkip, .reduceIncomplete,
  .checkpointFailed, .unitDerated, .linkDegraded, .channelRetired, .ledgerEngineFault, .unitRetired,
  .linkUp, .linkDown, .klVersionRefused, .parserException, .hostLinkLost, .microstepReplayed,
  .coreReturned, .placementSwitched, .coreFenced, .stepReplayed, .rangeFail, .proofMismatch,
  .spadConflict, .arrayNoTile, .dmaDescError, .dmaCompressError, .dmaAccessFault, .packetLost,
  .queueError, .seqFault, .barrierMismatch, .coreHang, .reduceMemberLost, .partitionStopped,
  .partitionFaultedHold, .fabricIsolationFault, .powerCapChanged, .thermalStep, .supplyDistress, .phaseShed,
  .dieActivityCapped, .moduleReady, .imageWritten, .imageFallback, .safeModeEntered, .ledOpenLoad,
  .stewardModeEntered, .stewardModeLeft, .leakDetected, .thermTrip, .evtOverflow]

/-- The assigned event of a number at a controller; `part` is true at a partition controller. -/
def Ev.ofNum (part : Bool) (n : Nat) : Option Ev :=
  Ev.all.find? (fun e => e.num = n && (if part then e.atPart else e.atModule))

/-- Fault class of R345; none for an event that is no fault event. -/
def Ev.faultClass : Ev → Option Nat
  | .proofMismatch => some 0 | .rangeFail => some 1 | .rangeConfirmed => some 2 | .coreHang => some 3
  | .seqFault => some 4 | .spadConflict => some 5 | .dmaDescError | .dmaCompressError => some 6
  | .dmaAccessFault => some 7 | .packetLost => some 8 | .barrierMismatch => some 9
  | .spadUe | .dramBlockPoisoned | .blockCheckMismatch => some 10
  | .sparseMetaError | .sparseHeaderError => some 11 | .arrayNoTile => some 12
  | .ustepOverrun => some 13 | .nonfiniteSkip => some 14 | _ => none

end Sys2Proof.Machine
end

