-- ==== Sys2Proof/Machine/Bits.lean ====
section
/-! DEFINITION. Bit fields, byte order and sign extension, and the sparse table operations. -/
namespace Sys2Proof

/-- Bits `[lo+len-1:lo]` of a word as a number (bit 0 least significant, 00_scope). -/
def bits {n : Nat} (w : BitVec n) (lo len : Nat) : Nat := (w.toNat >>> lo) % 2 ^ len
/-- One bit of a word. -/
def bit {n : Nat} (w : BitVec n) (i : Nat) : Bool := w.getLsbD i
/-- `w` with bits `[lo+len-1:lo]` replaced by `v`. -/
def setBits {n : Nat} (w : BitVec n) (lo len v : Nat) : BitVec n :=
  BitVec.ofNat n (w.toNat - (bits w lo len) * 2 ^ lo + (v % 2 ^ len) * 2 ^ lo)
/-- Byte `i` of a little-endian number. -/
def byteOf (v i : Nat) : Byte := BitVec.ofNat 8 (v >>> (8 * i))
/-- The `n` bytes of a little-endian number, lowest first. -/
def leBytes (v : Nat) : Nat → List Byte
  | 0 => []
  | n + 1 => BitVec.ofNat 8 v :: leBytes (v / 256) n
/-- The number a list of bytes spells, lowest first. -/
def ofLe : List Byte → Nat
  | [] => 0
  | b :: t => b.toNat + 256 * ofLe t
/-- The number a list of bytes spells, highest first (image keys and signatures, R485). -/
def ofBe (l : List Byte) : Nat := ofLe l.reverse
/-- Two's complement value of the low `w` bits of `v`. -/
def sext (w v : Nat) : Int :=
  let u := v % 2 ^ w
  if w = 0 then 0 else if u < 2 ^ (w - 1) then (u : Int) else (u : Int) - 2 ^ w
/-- The low `w` bits of an integer in two's complement. -/
def ofInt (w : Nat) (i : Int) : Nat := (i % (2 ^ w : Int)).toNat
/-- ⌈a ÷ b⌉. -/
def cdiv (a b : Nat) : Nat := (a + b - 1) / b
/-- Saturating addition in `w` bits (R68: tallies saturate). -/
def satAdd (w a b : Nat) : Nat := min (a + b) (2 ^ w - 1)
/-- `0, 1, …, n-1` shifted by `a`. -/
def rangeFrom (a : Nat) : Nat → List Nat
  | 0 => []
  | n + 1 => a :: rangeFrom (a + 1) n
/-- Concatenates rows into one number, the first row least significant. -/
def ofRows : List Row → Nat
  | [] => 0
  | r :: t => r.toNat + 2 ^ 512 * ofRows t
/-- Cuts a number into `n` rows, least significant first. -/
def toRows (v : Nat) : Nat → List Row
  | 0 => []
  | n + 1 => BitVec.ofNat 512 v :: toRows (v / 2 ^ 512) n
/-- The 64 bytes of a row, lowest first. -/
def rowBytes (r : Row) : List Byte := leBytes r.toNat 64
/-- Element `i` of width `w` in packed data (R111). -/
def elem (data w i : Nat) : Nat := (data >>> (i * w)) % 2 ^ w
/-- Packs element codes of width `w`, element 0 lowest (R111). -/
def pack (w : Nat) : List Nat → Nat
  | [] => 0
  | c :: t => c % 2 ^ w + 2 ^ w * pack w t
/-- Integer square root of a number below 4^n, one bit of the root at a time. -/
def isqrtBits (v : Nat) : Nat → Nat
  | 0 => 0
  | n + 1 =>
    let r := 2 * isqrtBits (v / 4) n
    if (r + 1) * (r + 1) ≤ v then r + 1 else r
/-- ⌊√v⌋. -/
def isqrt (v : Nat) : Nat := isqrtBits v (Nat.log2 v / 2 + 1)

/-- Replaces position `i` of a list. -/
def listSet {α : Type} (l : List α) (i : Nat) (a : α) : List α := l.set i a
/-- Drops the first element equal to `a`, if any (a delivered message leaves its in-flight list). -/
def dropFirst {α : Type} [DecidableEq α] (a : α) : List α → List α
  | [] => []
  | b :: t => if b = a then t else b :: dropFirst a t

/-- Inserts into a list sorted by `le`, after its equals. -/
def insertBy {α : Type} (le : α → α → Bool) (a : α) : List α → List α
  | [] => [a]
  | b :: t => if le b a then b :: insertBy le a t else a :: b :: t
/-- Stable sort by insertion. -/
def sortBy {α : Type} (le : α → α → Bool) (l : List α) : List α := l.foldl (fun acc a => insertBy le a acc) []
/-- One bit of the CRC-32C register (reflected polynomial 0x82F63B78). -/
def crcBit (c : Nat) : Nat := if c % 2 = 1 then (c / 2) ^^^ 0x82F63B78 else c / 2
/-- One byte into a CRC-32C register. -/
def crcByte (c : Nat) (b : Byte) : Nat :=
  crcBit (crcBit (crcBit (crcBit (crcBit (crcBit (crcBit (crcBit (c ^^^ b.toNat))))))))
/-- CRC-32C continued over bytes from the value `c` of an earlier part; 0 starts one. -/
def crcMore (c : BitVec 32) (l : List Byte) : BitVec 32 :=
  BitVec.ofNat 32 (l.foldl crcByte (c.toNat ^^^ 0xFFFFFFFF) ^^^ 0xFFFFFFFF)
/-- CRC-32C of bytes (R53). -/
def crc32c (l : List Byte) : BitVec 32 := crcMore 0 l
/-- Bytes of rows in order. -/
def rowsBytes (l : List Row) : List Byte := l.flatMap rowBytes

namespace Tab
/-- The value at a key; an unlisted key reads as its default. -/
def get {α : Type} (d : Nat → α) : Tab α → Nat → α
  | [], k => d k
  | (k', v) :: t, k => if k = k' then v else get d t k
/-- Lists a pair before the first greater key. -/
def ins {α : Type} (k : Nat) (v : α) : Tab α → Tab α
  | [] => [(k, v)]
  | (k', v') :: t => if k < k' then (k, v) :: (k', v') :: t else (k', v') :: ins k v t
/-- Takes a key's entry away. -/
def del {α : Type} (k : Nat) (t : Tab α) : Tab α := t.filter (fun e => e.1 ≠ k)
/-- Stores a value and keeps the canonical form: storing a key's default removes its entry. -/
def put {α : Type} [DecidableEq α] (d : Nat → α) (k : Nat) (v : α) (t : Tab α) : Tab α :=
  if v = d k then del k t else ins k v (del k t)
/-- Every key listed lies above `lo`, keys rise strictly and no entry holds its default. -/
def wfFrom {α : Type} [DecidableEq α] (d : Nat → α) : Nat → Tab α → Bool
  | _, [] => true
  | lo, (k, v) :: t => decide (lo ≤ k) && decide (v ≠ d k) && wfFrom d (k + 1) t
/-- The canonical form. -/
def wf {α : Type} [DecidableEq α] (d : Nat → α) (t : Tab α) : Bool := wfFrom d 0 t
/-- Returns every key that satisfies `p` to its default. -/
def clear {α : Type} (p : Nat → Bool) (t : Tab α) : Tab α := t.filter (fun kv => !p kv.1)
end Tab

namespace NSet
/-- Adds a number to a set. -/
def add (k : Nat) : NSet → NSet
  | [] => [k]
  | a :: t => if k < a then k :: a :: t else if k = a then a :: t else a :: add k t
/-- Removes a number from a set. -/
def del (k : Nat) (s : NSet) : NSet := s.filter (· ≠ k)
end NSet

namespace Memory
/-- What an unlisted byte of a memory reads as: zero. DESIGN CHOICE (log 2): R497 leaves DRAM zero after
its test and R372 zeroes scratchpad and DRAM; the spec gives no content before either. -/
def empty : Nat → Byte := fun _ => 0
/-- One byte. -/
def read (m : Memory) (a : Nat) : Byte := Tab.get empty m a
/-- Stores one byte. -/
def write (m : Memory) (a : Nat) (b : Byte) : Memory := Tab.put empty a b m
/-- `n` bytes from `a`, lowest address first. -/
def readBytes (m : Memory) (a : Nat) : Nat → List Byte
  | 0 => []
  | n + 1 => read m a :: readBytes m (a + 1) n
/-- Stores bytes from `a` upward. -/
def writeBytes (m : Memory) (a : Nat) : List Byte → Memory
  | [] => m
  | b :: t => writeBytes (write m a b) (a + 1) t
/-- The little-endian number of `n` bytes at `a`. -/
def readNat (m : Memory) (a n : Nat) : Nat := ofLe (readBytes m a n)
/-- Stores the low `n` bytes of a number at `a`, little-endian. -/
def writeNat (m : Memory) (a n v : Nat) : Memory := writeBytes m a (leBytes v n)
/-- The 64 B row at `a`. -/
def readRow (m : Memory) (a : Nat) : Row := BitVec.ofNat 512 (readNat m a 64)
/-- Stores a whole row at `a` (R45). -/
def writeRow (m : Memory) (a : Nat) (r : Row) : Memory := writeBytes m a (rowBytes r)
/-- Every byte of `[a, a+n)` becomes zero, the empty byte. -/
def zero (m : Memory) (a n : Nat) : Memory := Tab.clear (fun k => decide (a ≤ k) && decide (k < a + n)) m
/-- The canonical form of a memory. -/
def wf (m : Memory) : Bool := Tab.wf empty m
end Memory

end Sys2Proof
end

