-- ==== Sys2Proof/Machine/Float.lean ====
section
/-! DEFINITION. The 15 number formats, their exact values, rounding, conversion and flags (05_number_formats, R110 to R150). -/
namespace Sys2Proof.Machine

/-- Format codes of R110. -/
inductive Fmt
  | fp32 | f19 | bf16 | fp16 | e4m3 | e5m2 | e3m2 | e2m3 | e2m1 | int8 | int4 | int32 | e8m0 | gr32 | ul8
  deriving DecidableEq, Repr

/-- The format of a 4-bit code; code 0xF is reserved (R110). -/
def Fmt.ofCode : Nat → Option Fmt
  | 0 => some .fp32 | 1 => some .f19 | 2 => some .bf16 | 3 => some .fp16 | 4 => some .e4m3 | 5 => some .e5m2
  | 6 => some .e3m2 | 7 => some .e2m3 | 8 => some .e2m1 | 9 => some .int8 | 10 => some .int4 | 11 => some .int32
  | 12 => some .e8m0 | 13 => some .gr32 | 14 => some .ul8 | _ => none

/-- Element width in bits as stored; F19 stands in a 32-bit container (R110). -/
def Fmt.width : Fmt → Nat
  | .fp32 | .f19 | .int32 | .gr32 => 32
  | .bf16 | .fp16 => 16
  | .e3m2 | .e2m3 => 6
  | .e2m1 | .int4 => 4
  | _ => 8
/-- Rows that 64 elements occupy (R111, the pitch P of R156). -/
def Fmt.pitch (f : Fmt) : Nat := if f.width = 32 then 4 else if f.width = 16 then 2 else 1
/-- Exponent bits, fraction bits and bias of a floating format (R113). -/
def Fmt.shape : Fmt → Nat × Nat × Int
  | .fp32 => (8, 23, 127) | .f19 => (8, 10, 127) | .bf16 => (8, 7, 127) | .fp16 => (5, 10, 15)
  | .e4m3 => (4, 3, 7) | .e5m2 => (5, 2, 15) | .e3m2 => (3, 2, 3) | .e2m3 => (2, 3, 1) | .e2m1 => (2, 1, 1)
  | _ => (0, 0, 0)
/-- The floating formats of R113. -/
def Fmt.isFloat : Fmt → Bool
  | .fp32 | .f19 | .bf16 | .fp16 | .e4m3 | .e5m2 | .e3m2 | .e2m3 | .e2m1 => true
  | _ => false
/-- Width of an integer format (R119). -/
def Fmt.intBits : Fmt → Nat
  | .int8 => 8 | .int4 => 4 | .int32 => 32 | _ => 0
/-- Formats with an infinity (R113). -/
def Fmt.hasInf : Fmt → Bool
  | .fp32 | .f19 | .bf16 | .fp16 | .e5m2 => true
  | _ => false

/-- An exact value: NaN, an infinity, or ±m × 2^e. A decoded value keeps the exponent of its format's last place. -/
inductive Val
  | nan
  | inf (neg : Bool)
  | fin (neg : Bool) (m : Nat) (e : Int)
  deriving DecidableEq, Repr, Inhabited

/-- Sticky flags: bit 0 NV, 1 OF, 2 UF, 3 NX, 4 SAT, as FMT.FLAGS places them (R150). -/
abbrev Flags := BitVec 5
def fNV : Flags := 1#5
def fOF : Flags := 2#5
def fUF : Flags := 4#5
def fNX : Flags := 8#5
def fSAT : Flags := 16#5

/-- Rounding modes of R128. -/
inductive Rnd
  | rn | rz | sr
  deriving DecidableEq, Repr
/-- Modes by the rnd field: 0 RN, 1 RZ, 2 SR, 3 reserved. -/
def Rnd.ofCode : Nat → Option Rnd
  | 0 => some .rn | 1 => some .rz | 2 => some .sr | _ => none

/-- What an instruction says about rounding: the mode, `ieee` (the sat field), and flush to zero. -/
structure RCtx where
  rnd : Rnd
  ieee : Bool
  ftz : Bool
  deriving DecidableEq, Repr
/-- RN, SATFINITE, no flush. -/
def RCtx.plain : RCtx := ⟨.rn, false, false⟩

/-- Decodes a floating code (R113). -/
def decFloat (f : Fmt) (c : Nat) : Val :=
  let (eb, fb, bias) := f.shape
  let s := decide ((c >>> (eb + fb)) % 2 = 1)
  let e := (c >>> fb) % 2 ^ eb
  let m := c % 2 ^ fb
  if f.hasInf && decide (e = 2 ^ eb - 1) then (if m = 0 then .inf s else .nan)
  else if decide (f = .e4m3) && decide (e = 15) && decide (m = 7) then .nan
  else if e = 0 then .fin s m (1 - bias - fb)
  else .fin s (2 ^ fb + m) ((e : Int) - bias - fb)

/-- Largest finite magnitude of a floating format, as significand and exponent (R114). -/
def Fmt.maxFin (f : Fmt) : Nat × Int :=
  let (eb, fb, bias) := f.shape
  if f = .e4m3 then (14, 15 - bias - 3)
  else
    let top : Int := if f.hasInf then 2 ^ eb - 2 else 2 ^ eb - 1
    (2 ^ (fb + 1) - 1, top - bias - fb)
/-- Code of the largest finite magnitude. -/
def Fmt.maxCode (f : Fmt) : Nat :=
  let (eb, fb, _) := f.shape
  if f = .e4m3 then 0x7E else if f.hasInf then 2 ^ (eb + fb) - 2 ^ fb - 1 else 2 ^ (eb + fb) - 1
/-- Code of +Inf. -/
def Fmt.infCode (f : Fmt) : Nat := let (eb, fb, _) := f.shape; (2 ^ eb - 1) * 2 ^ fb
/-- Canonical NaN (R114); formats without one take 0 (R145). -/
def Fmt.nanCode (f : Fmt) : Nat :=
  let (_, fb, _) := f.shape
  if f = .e4m3 then 0x7F else if f.hasInf then f.infCode + 2 ^ (fb - 1) else 0
def Fmt.signed (f : Fmt) (neg : Bool) (c : Nat) : Nat :=
  let (eb, fb, _) := f.shape
  if neg then c + 2 ^ (eb + fb) else c

/-- m₁·2^e₁ compared with m₂·2^e₂. -/
def cmpMag (m₁ : Nat) (e₁ : Int) (m₂ : Nat) (e₂ : Int) : Ordering :=
  let lo := min e₁ e₂
  compare (m₁ <<< (e₁ - lo).toNat) (m₂ <<< (e₂ - lo).toNat)

/-- One rounding of the magnitude m·2^e to a multiple of 2^q: the integer significand and whether it was inexact.
`lsb` is the exponent of the source's last place, which gives the d of R129; none is an exact intermediate, d = 16.
`u` is the 64-bit generator output of R130. -/
def roundMag (rnd : Rnd) (u : Nat) (lsb : Option Int) (m : Nat) (e q : Int) : Nat × Bool :=
  if q ≤ e then (m <<< (e - q).toNat, false)
  else
    let sh := (q - e).toNat
    let k := m >>> sh
    let r := m % 2 ^ sh
    let up : Bool := match rnd with
      | .rn => decide (2 * r > 2 ^ sh) || (decide (2 * r = 2 ^ sh) && decide (k % 2 = 1))
      | .rz => false
      | .sr =>
        let d := match lsb with
          | some l => (q - l).toNat
          | none => 16
        let b := min 16 d
        decide ((r * 2 ^ b) >>> sh + u >>> (64 - b) ≥ 2 ^ b)
    (if up then k + 1 else k, decide (r ≠ 0))

/-- SATFINITE or IEEE behaviour of an output format (R132). -/
def Fmt.isIeee (f : Fmt) (ieee : Bool) : Bool :=
  match f with
  | .e3m2 | .e2m3 | .e2m1 => false
  | .e4m3 | .e5m2 => ieee
  | _ => true

/-- Rounds an exact magnitude into a floating format, without the F19 container shift (R128 to R134). -/
def encFloat (f : Fmt) (c : RCtx) (u : Nat) (lsb : Option Int) (neg : Bool) (m : Nat) (e : Int) : Nat × Flags :=
  let (_, fb, bias) := f.shape
  if m = 0 then (f.signed neg 0, 0#5)
  else
    let q := max (e + Nat.log2 m - fb) (1 - bias - fb)
    let (k, inx) := roundMag c.rnd u lsb m e q
    let nx : Flags := if inx then fNX else 0#5
    let (mm, me) := f.maxFin
    if cmpMag k q mm me = .gt then
      if f.isIeee c.ieee then
        (f.signed (neg && decide (f ≠ .e4m3 ∨ c.rnd = .rz))
          (if c.rnd = .rz then f.maxCode else if f = .e4m3 then 0x7F else f.infCode), fOF ||| fNX)
      else (f.signed neg f.maxCode, fSAT ||| fNX)
    else if k < 2 ^ fb then
      if c.ftz then (f.signed neg 0, fUF ||| fNX)
      else (f.signed neg k, if inx then fUF ||| fNX else 0#5)
    else
      let (k, q) := if k = 2 ^ (fb + 1) then (2 ^ fb, q + 1) else (k, q)
      (f.signed neg ((q + fb + bias).toNat * 2 ^ fb + (k - 2 ^ fb)), nx)

/-- Rounds an exact value to an integer format and clamps it (R144). -/
def encInt (f : Fmt) (rnd : Rnd) (u : Nat) (lsb : Option Int) (neg : Bool) (m : Nat) (e : Int) : Nat × Flags :=
  let w := f.intBits
  let (k, inx) := roundMag rnd u lsb m e 0
  let hi := 2 ^ (w - 1)
  if neg then
    if k > hi then (hi, fSAT ||| fNX) else (ofInt w (-(k : Int)), if inx then fNX else 0#5)
  else
    if k ≥ hi then (hi - 1, fSAT ||| fNX) else (k, if inx then fNX else 0#5)

/-- 24-bit significands of the FP32 values nearest 2^(j/16), j = 1, 3, …, 15: the UL8 decision points of R122. -/
def ul8Points : List Nat := [8760003, 9552851, 10417458, 11360319, 12388516, 13509772, 14732511, 16065917]
/-- 24-bit significands of the FP32 values nearest 2^(j/8), j = 0 to 7: the UL8 code values as operands (R122). -/
def ul8Mants : List Nat := [8388608, 9147842, 9975792, 10878679, 11863283, 12937002, 14107901, 15384775]
/-- Decision point d_c of R122. -/
def ul8Point (c : Nat) : Nat × Int :=
  let n : Int := 2 * c - 257
  (ul8Points.getD ((n % 16).toNat / 2) 0, n / 16 - 23)
/-- The FP32 value nearest to UL8 code c, 1 ≤ c ≤ 254. -/
def ul8Value (c : Nat) : Nat × Int :=
  let n : Int := (c : Int) - 128
  (ul8Mants.getD (n % 8).toNat 0, n / 8 - 23)
/-- 2^((c-128)/8) ≤ m·2^e, exactly. -/
def ul8Le (c : Nat) (m : Nat) (e : Int) : Bool :=
  cmpMag 1 ((c : Int) - 128) (m ^ 8) (8 * e) ≠ .gt
/-- Conversion to UL8 (R122). -/
def encUl8 (c : RCtx) : Val → Nat × Flags
  | .nan => (255, fNV)
  | .inf true => (0, fNV)
  | .inf false => if c.ieee then (255, 0#5) else (254, fSAT)
  | .fin neg m e =>
    if m = 0 then (0, 0#5)
    else if neg then (0, fNV)
    else
      let n := ((rangeFrom 1 255).filter (fun i => cmpMag (ul8Point i).1 (ul8Point i).2 m e ≠ .gt)).length
      if n = 0 then (0, fUF ||| fNX)
      else if n = 255 then
        (if c.ieee && decide (c.rnd ≠ .rz) then 255 else 254, (if c.ieee then fOF else fSAT) ||| fNX)
      else
        let r := if c.rnd = .rz then ((rangeFrom 1 254).filter (fun i => ul8Le i m e)).length else n
        if r = 0 then (0, fUF ||| fNX)
        else (r, if cmpMag 1 ((r : Int) - 128) (m ^ 8) (8 * e) = .eq then 0#5 else fNX)

/-- Rounds to the F19 position with no flag, saturating a finite value (R116, R117). -/
def readF19 (c : Nat) : Val :=
  match decFloat .fp32 c with
  | .fin s m e =>
    let (k, fl) := encFloat .f19 .plain 0 none s m e
    if fl &&& fOF = fOF then decFloat .f19 (Fmt.signed .f19 s (Fmt.maxCode .f19)) else decFloat .f19 k
  | v => v
/-- An FP32 operand reduced to F19 by truncation (R117, code 0x0). -/
def truncF19 (c : Nat) : Val :=
  match decFloat .fp32 c with
  | .fin .. => decFloat .fp32 (c / 8192 * 8192)
  | v => v

/-- The value of a stored element as an engine reads it (R113, R116, R119 to R122). GR32 needs its block byte: see `gr32Val`. -/
def decode (f : Fmt) (c : Nat) : Val :=
  match f with
  | .f19 => readF19 c
  | .int8 | .int4 | .int32 | .gr32 => let i := sext f.width c; .fin (decide (i < 0)) i.natAbs 0
  | .e8m0 => if c = 255 then .nan else .fin false 1 ((c : Int) - 127)
  | .ul8 => if c = 0 then .fin false 0 0 else if c = 255 then .inf false else let (m, e) := ul8Value c; .fin false m e
  | _ => decFloat f c
/-- A GR32 element q against its block byte E: q × 2^(E − 146) (R123). -/
def gr32Val (q E : Nat) : Val :=
  if q = 0x80000000 ∨ E = 255 then .nan
  else let i := sext 32 q; .fin (decide (i < 0)) i.natAbs ((max E 1 : Nat) - 146)

/-- Exponent of a value's last place, for the d of R129 when the value itself is the source. -/
def Val.lsb : Val → Option Int
  | .fin _ _ e => some e
  | _ => none

/-- Converts an exact value to an output format, rounding once (R128 to R134, R144, R145). -/
def encode (f : Fmt) (c : RCtx) (u : Nat) (lsb : Option Int) (x : Val) : Nat × Flags :=
  match f with
  | .ul8 => encUl8 c x
  | .int8 | .int4 | .int32 => match x with
    | .nan => (0, fNV)
    | .inf neg => (if neg then 2 ^ (f.intBits - 1) else 2 ^ (f.intBits - 1) - 1, fNV)
    | .fin s m e => encInt f c.rnd u lsb s m e
  | .e8m0 | .gr32 => (0, 0#5)
  | _ =>
    let (k, fl) : Nat × Flags := match x with
      | .nan => (f.nanCode, if f.hasInf ∨ f = .e4m3 then 0#5 else fNV)
      | .inf neg =>
        if f = .e4m3 ∧ c.ieee then (0x7F, fNV)
        else if f.hasInf && f.isIeee c.ieee then (f.signed neg f.infCode, 0#5)
        else (f.signed neg f.maxCode, fSAT)
      | .fin s m e => encFloat f c u lsb s m e
    (if f = .f19 then k * 8192 else k, fl)

/-- The FP32 code of a value rounded RN (ledger arithmetic, R265; array accumulation, R162). -/
def toFp32 (x : Val) : Nat × Flags := encode .fp32 .plain 0 none x

/-! Exact operations (R141). Each answers the exact result and the NV flag of R135. -/

/-- Exact signed sum as significand at a common exponent. -/
def addFin (s₁ : Bool) (m₁ : Nat) (e₁ : Int) (s₂ : Bool) (m₂ : Nat) (e₂ : Int) : Val :=
  let lo := min e₁ e₂
  let a : Int := (m₁ <<< (e₁ - lo).toNat : Nat)
  let b : Int := (m₂ <<< (e₂ - lo).toNat : Nat)
  let s : Int := (if s₁ then -a else a) + (if s₂ then -b else b)
  if s = 0 then .fin (s₁ && s₂) 0 lo else .fin (decide (s < 0)) s.natAbs lo
/-- a + b (R135, R136). -/
def vadd : Val → Val → Val × Flags
  | .nan, _ | _, .nan => (.nan, 0#5)
  | .inf a, .inf b => if a = b then (.inf a, 0#5) else (.nan, fNV)
  | .inf a, _ => (.inf a, 0#5)
  | _, .inf b => (.inf b, 0#5)
  | .fin s m e, .fin s' m' e' => (addFin s m e s' m' e', 0#5)
def vneg : Val → Val
  | .nan => .nan
  | .inf s => .inf (!s)
  | .fin s m e => .fin (!s) m e
def vabs : Val → Val
  | .nan => .nan
  | .inf _ => .inf false
  | .fin _ m e => .fin false m e
/-- a × b (R135, R136). -/
def vmul : Val → Val → Val × Flags
  | .nan, _ | _, .nan => (.nan, 0#5)
  | .inf a, .inf b => (.inf (a != b), 0#5)
  | .inf a, .fin s m _ => if m = 0 then (.nan, fNV) else (.inf (a != s), 0#5)
  | .fin s m _, .inf a => if m = 0 then (.nan, fNV) else (.inf (a != s), 0#5)
  | .fin s m e, .fin s' m' e' => (.fin (s != s') (m * m') (e + e'), 0#5)
/-- a × b + c with one rounding to come; a NaN operand raises nothing (R115). -/
def vfma (a b c : Val) : Val × Flags :=
  if a = .nan ∨ b = .nan ∨ c = .nan then (.nan, 0#5)
  else let (p, f) := vmul a b; let (r, g) := vadd p c; (r, f ||| g)
/-- Order of two numbers; none where a NaN takes part (R138). -/
def vcmp : Val → Val → Option Ordering
  | .nan, _ | _, .nan => none
  | .inf a, .inf b => some (if a = b then .eq else if a then .lt else .gt)
  | .inf a, _ => some (if a then .lt else .gt)
  | _, .inf b => some (if b then .gt else .lt)
  | .fin s m e, .fin s' m' e' =>
    match addFin s m e (!s') m' e' with
    | .fin n k _ => some (if k = 0 then .eq else if n then .lt else .gt)
    | _ => none
def Val.isNegZero : Val → Bool
  | .fin true 0 _ => true
  | _ => false
/-- Maximum, a NaN operand ignored, +0 above −0 (R137). -/
def vmax (a b : Val) : Val :=
  match vcmp a b with
  | none => if a = .nan then b else a
  | some .lt => b
  | some .gt => a
  | some .eq => if a.isNegZero then b else a
/-- Minimum, a NaN operand ignored, −0 below +0 (R137). -/
def vmin (a b : Val) : Val :=
  match vcmp a b with
  | none => if a = .nan then b else a
  | some .lt => a
  | some .gt => b
  | some .eq => if a.isNegZero then a else b
/-- a ÷ b kept to 100 bits and a sticky bit, so that one later rounding is correct; special cases of R265. -/
def vdiv : Val → Val → Val × Flags
  | .nan, _ | _, .nan => (.nan, 0#5)
  | .inf _, .inf _ => (.nan, fNV)
  | .inf a, .fin s _ _ => (.inf (a != s), 0#5)
  | .fin s _ _, .inf a => (.fin (a != s) 0 0, 0#5)
  | .fin s m e, .fin s' m' e' =>
    if m' = 0 then (if m = 0 then (.nan, fNV) else (.inf (s != s'), fNV))
    else
      let k := 100 + Nat.log2 m' 
      let n := m <<< k
      (.fin (s != s') (2 * (n / m') + (if n % m' = 0 then 0 else 1)) (e - e' - k - 1), 0#5)
/-- 1 ÷ a (R135). -/
def vrecip (a : Val) : Val × Flags := vdiv (.fin false 1 0) a
/-- √a kept to 100 bits and a sticky bit (R265). -/
def vsqrt : Val → Val × Flags
  | .nan => (.nan, 0#5)
  | .inf s => if s then (.nan, fNV) else (.inf false, 0#5)
  | .fin s m e =>
    if m = 0 then (.fin s 0 e, 0#5)
    else if s then (.nan, fNV)
    else
      let n := m <<< (200 + (e % 2).toNat)
      let r := isqrt n
      (.fin false (2 * r + (if r * r = n then 0 else 1)) ((e - e % 2) / 2 - 101), 0#5)
/-- 1 ÷ √a: ±0 gives ±Inf with NV, a negative number gives NaN with NV (R135). -/
def vrsqrt : Val → Val × Flags
  | .nan => (.nan, 0#5)
  | .inf s => if s then (.nan, fNV) else (.fin false 0 0, 0#5)
  | .fin s m e =>
    if m = 0 then (.inf s, fNV)
    else if s then (.nan, fNV)
    else
      let m' := m <<< (e % 2).toNat
      let k := 120 + Nat.log2 m'
      let r := isqrt (2 ^ (2 * k) / m')
      (.fin false (2 * r + (if r * r * m' = 2 ^ (2 * k) then 0 else 1)) (-((e - e % 2) / 2) - k - 1), 0#5)

/-- ⌊ln 2 × 2^160⌋. -/
def ln2Fix : Nat := 1013035739299659071135698605846798551586536899366
/-- Taylor sum of e^r for 0 ≤ r < ln 2, in units of 2^-160; `t` is the term r^k ÷ k!. -/
def expSeries (r : Nat) : Nat → Nat → Nat → Nat
  | 0, _, _ => 0
  | n + 1, k, t => t + expSeries r n (k + 1) (t * r / 2 ^ 160 / (k + 1))
/-- e^a as the vector unit forms it before rounding: within 1 unit in the last place of FP32 (R141), the place inside
that bound left free but above zero, which e^a never is, so that one rounded to zero is tiny and inexact (R134); special values of R135. -/
def vexp : Val → Val
  | .nan => .nan
  | .inf s => if s then .fin false 0 0 else .inf false
  | .fin s m e =>
    if e > 8 ∧ m ≠ 0 then (if s then .fin false 1 (-400) else .fin false 1 400)
    else
      let x : Int := if e + 160 < 0 then ((m >>> (-(e + 160)).toNat : Nat) : Int) else ((m <<< (e + 160).toNat : Nat) : Int)
      if x > 300 * 2 ^ 160 then (if s then .fin false 1 (-400) else .fin false 1 400)
      else
        let x := if s then -x else x
        let n := x / (ln2Fix : Int)
        let g := expSeries (x % (ln2Fix : Int)).toNat 48 0 (2 ^ 160)
        let q := max (n - 23) (-149)
        let f : Int := ((g >>> (144 - n + q).toNat : Nat) : Int)
        let off := Config.expOffset s m e % (2 ^ 17 - 1)
        .fin false (max 1 (f - 2 ^ 16 + 1 + off)).toNat (q - 16)

/-! The stochastic rounding generator (R130). -/
def mix (v : Nat) : Nat :=
  let v := v ^^^ (v >>> 31)
  let v := (v * 0xD6E8FEB86659FD93) % 2 ^ 64
  let v := v ^^^ (v >>> 29)
  let v := (v * 0x9E3779B97F4A7C15) % 2 ^ 64
  v ^^^ (v >>> 32)
/-- The 64-bit generator output for one element. -/
def srGen (seed step tensorId index : Nat) : Nat :=
  mix (mix (mix (seed ^^^ step) ^^^ tensorId) ^^^ index)

/-- FP32 biased exponent field of a value as BEXP reads it: 0xFF for Inf and NaN, 0 for zero, a subnormal counting as 1 (R124). -/
def expField : Val → Nat
  | .nan | .inf _ => 255
  | .fin _ m e => if m = 0 then 0 else (max (e + Nat.log2 m + 127) 1).toNat
/-- BEXP of one block (R124). -/
def bexp (xs : List Val) : Nat := xs.foldl (fun a x => max a (expField x)) 0
/-- QGRID of one element against the block byte (R125). -/
def qgrid (E : Nat) (x : Val) : Nat × Flags :=
  match x with
  | .fin s m e =>
    if E = 255 then (0x80000000, 0#5)
    else
      let (k, inx) := roundMag .rn 0 none m e ((max E 1 : Nat) - 146)
      if k > 2 ^ 20 then (ofInt 32 (if s then -(2 ^ 20) else 2 ^ 20), fSAT ||| fNX)
      else (ofInt 32 (if s then -(k : Int) else k), if inx then fNX else 0#5)
  | _ => (0x80000000, 0#5)
/-- Largest exponent of an MX element format (R127). -/
def mxMax : Nat → Option Nat
  | 4 => some 8 | 5 => some 15 | 6 => some 4 | 7 => some 2 | 8 => some 2 | 9 => some 0 | _ => none
/-- MXSCALE of a block whose BEXP byte is E (R127). -/
def mxScale (m E : Nat) : Nat := if E = 255 then 255 else if E = 0 then 0 else min (E - m) 254
/-- x ÷ 2^(c − 127), and a further ÷ 2^-6 for MX INT8; scale 0xFF is NaN (R126, R127). -/
def mxQuot (f : Fmt) (c : Nat) (x : Val) : Val :=
  if c = 255 then .nan
  else match x with
    | .fin s m e => .fin s m (e - ((c : Int) - 127) + (if f = .int8 then 6 else 0))
    | v => v
/-- An MX element's value under its block scale (R126). -/
def mxVal (f : Fmt) (c : Nat) (x : Val) : Val :=
  if c = 255 then .nan
  else match x with
    | .fin s m e => .fin s m (e + ((c : Int) - 127) - (if f = .int8 then 6 else 0))
    | v => v

end Sys2Proof.Machine
end

