-- ==== Sys2Proof/Machine/Regs.lean ====
section
/-! DEFINITION. Every register of the index (R513) with its offset, width, reset domain and field table (R4, R7, R502, R508). -/
namespace Sys2Proof.Machine

/-- Field access codes of R4. -/
inductive Acc
  | ro | rw | rw1c | wo | roh | rws | lck
  deriving DecidableEq, Repr

/-- Reset domains of R7. -/
inductive Dom
  | cold | warm | part
  deriving DecidableEq, Repr

/-- Which space a register offset belongs to (the Offset column of R513). -/
inductive Space
  | mgmt | part | core | eng | ldg | port | tile | ctrl
  deriving DecidableEq, Repr

/-- One register of R513; indexed registers are one name with their instances numbered. The session and queue block
of a management path uses the PART names (R506). -/
inductive Reg
  | arrConvA | arrConvB | arrInScale | arrProofLog | arrProofStat | arrRows | arrStatus | cfgsCtrl | cfgsStatus
  | coreConflictCount | coreConflictLog | coreId | corePhase | corePhaseStall | corePoisonProbe | coreSpadEcc | coreSpadSize
  | dmaDescError | dmaTagStall | dmaTagStat | epdHost | epdKlCfg | epdLink | epdPortCfg | epdStat | evtClaim | evtCoal
  | evtCoalShadow | evtCommit | evtComplete | evtCtrl | evtEvent | evtRqHead | evtRqStat | evtRqTail | fabCcMark
  | fabCcParam | fabCongGen | fabQuota | fabStat | fabTimeout | fmtFlags | hlthCtrl | hlthGen | intDigest | intEpoch
  | intMirror | ldgBlockStat | ldgChService | ldgChState | ldgCkptStat | ldgGroupWait | ldgRecv | ldgRedLog | ldgRedStat
  | ldgRefuseLog | ldgSlice | ldgStreamStat | ldgUpdFlags | ldgUpdStat | modFpGen | modFpLen | modId | modReset
  | modState | modVersion | modWinBase | partAliasGen | partCongGen | partCqBase | partCqCfg | partCqHead | partDomain
  | partEff | partEnergy | partFaultPolicy | partFpGen | partFpLen | partId | partMirrorCfg | partOqBase | partOqCfg
  | partOqTail | partPlan | partPlanStat | partPower | partQStat | partRecovery | partRun | partSessCfg | partSessCount
  | partSessCtrl | partSessStat | partSrSeed | partState | partTokens | partTokensStep | partUpdate | pwrCap | pwrCapCommit
  | pwrCapEff | pwrCapShadow | pwrCfg | pwrEff | pwrEnergy | pwrInput | pwrMode | pwrOverhead | pwrState | pwrTokens
  | rtrCnStat | rtrLinkErr | rtrRate | sbGpio | sbLed | sbPinmux | sbStat | seqCount | seqFault | seqFetchStall
  | seqForecast | seqPc | seqRampStall | seqStatus | seqTensorId | seqUstep | seqUstepLimit | seqUstepTime | speCompress
  | speDropped | speMalformed | speProofLog | speProofStat | speQueueStall | speRuns | speStatus | speThreshold
  | tilePhases | tileStatus | vregDroop | vregPoint
  deriving DecidableEq, Repr

/-- The registers in index order. -/
def Reg.all : List Reg := [
  .arrConvA, .arrConvB, .arrInScale, .arrProofLog, .arrProofStat, .arrRows, .arrStatus, .cfgsCtrl, .cfgsStatus,
  .coreConflictCount, .coreConflictLog, .coreId, .corePhase, .corePhaseStall, .corePoisonProbe, .coreSpadEcc, .coreSpadSize,
  .dmaDescError, .dmaTagStall, .dmaTagStat, .epdHost, .epdKlCfg, .epdLink, .epdPortCfg, .epdStat, .evtClaim, .evtCoal,
  .evtCoalShadow, .evtCommit, .evtComplete, .evtCtrl, .evtEvent, .evtRqHead, .evtRqStat, .evtRqTail, .fabCcMark,
  .fabCcParam, .fabCongGen, .fabQuota, .fabStat, .fabTimeout, .fmtFlags, .hlthCtrl, .hlthGen, .intDigest, .intEpoch,
  .intMirror, .ldgBlockStat, .ldgChService, .ldgChState, .ldgCkptStat, .ldgGroupWait, .ldgRecv, .ldgRedLog, .ldgRedStat,
  .ldgRefuseLog, .ldgSlice, .ldgStreamStat, .ldgUpdFlags, .ldgUpdStat, .modFpGen, .modFpLen, .modId, .modReset,
  .modState, .modVersion, .modWinBase, .partAliasGen, .partCongGen, .partCqBase, .partCqCfg, .partCqHead, .partDomain,
  .partEff, .partEnergy, .partFaultPolicy, .partFpGen, .partFpLen, .partId, .partMirrorCfg, .partOqBase, .partOqCfg,
  .partOqTail, .partPlan, .partPlanStat, .partPower, .partQStat, .partRecovery, .partRun, .partSessCfg, .partSessCount,
  .partSessCtrl, .partSessStat, .partSrSeed, .partState, .partTokens, .partTokensStep, .partUpdate, .pwrCap, .pwrCapCommit,
  .pwrCapEff, .pwrCapShadow, .pwrCfg, .pwrEff, .pwrEnergy, .pwrInput, .pwrMode, .pwrOverhead, .pwrState, .pwrTokens,
  .rtrCnStat, .rtrLinkErr, .rtrRate, .sbGpio, .sbLed, .sbPinmux, .sbStat, .seqCount, .seqFault, .seqFetchStall,
  .seqForecast, .seqPc, .seqRampStall, .seqStatus, .seqTensorId, .seqUstep, .seqUstepLimit, .seqUstepTime, .speCompress,
  .speDropped, .speMalformed, .speProofLog, .speProofStat, .speQueueStall, .speRuns, .speStatus, .speThreshold,
  .tilePhases, .tileStatus, .vregDroop, .vregPoint]

/-- Position of a register in the index; each position times 1 plus 256 times the instance is its key. -/
def Reg.idx : Reg → Nat
  | .arrConvA => 0
  | .arrConvB => 1
  | .arrInScale => 2
  | .arrProofLog => 3
  | .arrProofStat => 4
  | .arrRows => 5
  | .arrStatus => 6
  | .cfgsCtrl => 7
  | .cfgsStatus => 8
  | .coreConflictCount => 9
  | .coreConflictLog => 10
  | .coreId => 11
  | .corePhase => 12
  | .corePhaseStall => 13
  | .corePoisonProbe => 14
  | .coreSpadEcc => 15
  | .coreSpadSize => 16
  | .dmaDescError => 17
  | .dmaTagStall => 18
  | .dmaTagStat => 19
  | .epdHost => 20
  | .epdKlCfg => 21
  | .epdLink => 22
  | .epdPortCfg => 23
  | .epdStat => 24
  | .evtClaim => 25
  | .evtCoal => 26
  | .evtCoalShadow => 27
  | .evtCommit => 28
  | .evtComplete => 29
  | .evtCtrl => 30
  | .evtEvent => 31
  | .evtRqHead => 32
  | .evtRqStat => 33
  | .evtRqTail => 34
  | .fabCcMark => 35
  | .fabCcParam => 36
  | .fabCongGen => 37
  | .fabQuota => 38
  | .fabStat => 39
  | .fabTimeout => 40
  | .fmtFlags => 41
  | .hlthCtrl => 42
  | .hlthGen => 43
  | .intDigest => 44
  | .intEpoch => 45
  | .intMirror => 46
  | .ldgBlockStat => 47
  | .ldgChService => 48
  | .ldgChState => 49
  | .ldgCkptStat => 50
  | .ldgGroupWait => 51
  | .ldgRecv => 52
  | .ldgRedLog => 53
  | .ldgRedStat => 54
  | .ldgRefuseLog => 55
  | .ldgSlice => 56
  | .ldgStreamStat => 57
  | .ldgUpdFlags => 58
  | .ldgUpdStat => 59
  | .modFpGen => 60
  | .modFpLen => 61
  | .modId => 62
  | .modReset => 63
  | .modState => 64
  | .modVersion => 65
  | .modWinBase => 66
  | .partAliasGen => 67
  | .partCongGen => 68
  | .partCqBase => 69
  | .partCqCfg => 70
  | .partCqHead => 71
  | .partDomain => 72
  | .partEff => 73
  | .partEnergy => 74
  | .partFaultPolicy => 75
  | .partFpGen => 76
  | .partFpLen => 77
  | .partId => 78
  | .partMirrorCfg => 79
  | .partOqBase => 80
  | .partOqCfg => 81
  | .partOqTail => 82
  | .partPlan => 83
  | .partPlanStat => 84
  | .partPower => 85
  | .partQStat => 86
  | .partRecovery => 87
  | .partRun => 88
  | .partSessCfg => 89
  | .partSessCount => 90
  | .partSessCtrl => 91
  | .partSessStat => 92
  | .partSrSeed => 93
  | .partState => 94
  | .partTokens => 95
  | .partTokensStep => 96
  | .partUpdate => 97
  | .pwrCap => 98
  | .pwrCapCommit => 99
  | .pwrCapEff => 100
  | .pwrCapShadow => 101
  | .pwrCfg => 102
  | .pwrEff => 103
  | .pwrEnergy => 104
  | .pwrInput => 105
  | .pwrMode => 106
  | .pwrOverhead => 107
  | .pwrState => 108
  | .pwrTokens => 109
  | .rtrCnStat => 110
  | .rtrLinkErr => 111
  | .rtrRate => 112
  | .sbGpio => 113
  | .sbLed => 114
  | .sbPinmux => 115
  | .sbStat => 116
  | .seqCount => 117
  | .seqFault => 118
  | .seqFetchStall => 119
  | .seqForecast => 120
  | .seqPc => 121
  | .seqRampStall => 122
  | .seqStatus => 123
  | .seqTensorId => 124
  | .seqUstep => 125
  | .seqUstepLimit => 126
  | .seqUstepTime => 127
  | .speCompress => 128
  | .speDropped => 129
  | .speMalformed => 130
  | .speProofLog => 131
  | .speProofStat => 132
  | .speQueueStall => 133
  | .speRuns => 134
  | .speStatus => 135
  | .speThreshold => 136
  | .tilePhases => 137
  | .tileStatus => 138
  | .vregDroop => 139
  | .vregPoint => 140

/-- One field: low bit, length, access code, reset value. -/
structure RegField where
  lo : Nat
  len : Nat
  acc : Acc
  reset : Nat
  deriving DecidableEq, Repr

/-- The field tables of the owning chapters. A field whose reset is the image's, the part's or per instance holds 0
here; `Reg.reset` or bring-up supplies it. -/
def Reg.fields : Reg → List RegField
  | .arrConvA => [⟨0, 6, .rw, 0⟩, ⟨6, 4, .rw, 0⟩, ⟨10, 3, .rw, 0⟩, ⟨13, 3, .rw, 0⟩, ⟨16, 3, .rw, 0⟩, ⟨19, 3, .rw, 0⟩, ⟨22, 3, .rw, 0⟩]
  | .arrConvB => [⟨0, 16, .rw, 0⟩, ⟨16, 16, .rw, 0⟩]
  | .arrInScale => [⟨0, 2, .rw, 0⟩, ⟨2, 18, .rw, 0⟩]
  | .arrProofLog => [⟨0, 32, .roh, 0⟩, ⟨32, 6, .roh, 0⟩, ⟨38, 2, .roh, 0⟩, ⟨40, 16, .roh, 0⟩, ⟨63, 1, .rw1c, 0⟩]
  | .arrProofStat => [⟨0, 16, .roh, 0⟩, ⟨16, 16, .roh, 0⟩, ⟨32, 32, .roh, 0⟩]
  | .arrRows => [⟨0, 64, .roh, 0⟩]
  | .arrStatus => [⟨0, 1, .roh, 0⟩, ⟨1, 1, .roh, 0⟩, ⟨2, 4, .roh, 0⟩, ⟨6, 2, .roh, 0⟩, ⟨8, 6, .roh, 0⟩, ⟨14, 6, .roh, 0⟩]
  | .cfgsCtrl => [⟨0, 3, .wo, 0⟩, ⟨3, 1, .wo, 0⟩, ⟨4, 12, .wo, 0⟩, ⟨16, 1, .wo, 0⟩]
  | .cfgsStatus => [⟨0, 1, .roh, 0⟩, ⟨1, 1, .rw1c, 0⟩, ⟨2, 4, .roh, 0⟩, ⟨6, 1, .roh, 0⟩, ⟨7, 1, .roh, 0⟩]
  | .coreConflictCount => [⟨0, 32, .roh, 0⟩]
  | .coreConflictLog => [⟨0, 5, .roh, 0⟩, ⟨8, 13, .roh, 0⟩, ⟨21, 3, .roh, 0⟩, ⟨24, 13, .roh, 0⟩, ⟨37, 3, .roh, 0⟩, ⟨40, 2, .roh, 0⟩, ⟨42, 16, .roh, 0⟩, ⟨63, 1, .rw1c, 0⟩]
  | .coreId => [⟨0, 16, .ro, 0⟩, ⟨16, 6, .ro, 0⟩, ⟨22, 6, .ro, 0⟩]
  | .corePhase => [⟨0, 2, .roh, 0⟩, ⟨2, 1, .rw1c, 0⟩]
  | .corePhaseStall => [⟨0, 64, .roh, 0⟩]
  | .corePoisonProbe => [⟨0, 1, .roh, 0⟩, ⟨6, 18, .rw, 0⟩, ⟨32, 32, .roh, 0⟩]
  | .coreSpadEcc => [⟨0, 16, .roh, 0⟩, ⟨16, 16, .roh, 0⟩]
  | .coreSpadSize => [⟨0, 32, .ro, 8388608⟩]
  | .dmaDescError => [⟨0, 4, .roh, 0⟩, ⟨4, 16, .roh, 0⟩, ⟨63, 1, .rw1c, 0⟩]
  | .dmaTagStall => [⟨0, 64, .roh, 0⟩]
  | .dmaTagStat => [⟨0, 9, .roh, 0⟩, ⟨9, 9, .roh, 0⟩]
  | .epdHost => [⟨0, 2, .lck, 0⟩, ⟨2, 2, .roh, 0⟩, ⟨4, 5, .roh, 0⟩, ⟨9, 1, .roh, 0⟩]
  | .epdKlCfg => [⟨0, 16, .lck, 0⟩, ⟨16, 16, .lck, 0⟩, ⟨32, 8, .lck, 25⟩, ⟨40, 4, .lck, 3⟩]
  | .epdLink => [⟨0, 8, .roh, 0⟩, ⟨8, 24, .roh, 0⟩, ⟨32, 16, .roh, 0⟩, ⟨48, 16, .roh, 0⟩]
  | .epdPortCfg => [⟨0, 2, .lck, 0⟩, ⟨2, 2, .lck, 1⟩, ⟨4, 1, .lck, 0⟩, ⟨5, 8, .lck, 0⟩, ⟨13, 1, .lck, 0⟩]
  | .epdStat => [⟨0, 16, .roh, 0⟩, ⟨16, 16, .roh, 0⟩, ⟨32, 12, .roh, 0⟩, ⟨44, 10, .roh, 0⟩, ⟨54, 10, .roh, 0⟩]
  | .evtClaim => [⟨0, 16, .roh, 65535⟩]
  | .evtCoal => [⟨0, 16, .roh, 0⟩, ⟨16, 16, .roh, 0⟩]
  | .evtCoalShadow => [⟨0, 16, .rw, 0⟩, ⟨16, 16, .rw, 0⟩]
  | .evtCommit => [⟨0, 4, .wo, 0⟩, ⟨4, 1, .wo, 0⟩, ⟨8, 1, .rw1c, 0⟩]
  | .evtComplete => [⟨0, 9, .wo, 0⟩]
  | .evtCtrl => [⟨0, 1, .rw, 0⟩, ⟨1, 1, .rw, 0⟩, ⟨2, 1, .ro, 0⟩]
  | .evtEvent => [⟨0, 16, .roh, 0⟩, ⟨16, 1, .rw, 0⟩, ⟨17, 4, .ro, 0⟩]
  | .evtRqHead => [⟨0, 13, .rw, 0⟩]
  | .evtRqStat => [⟨0, 16, .roh, 0⟩, ⟨16, 1, .rw1c, 0⟩]
  | .evtRqTail => [⟨0, 13, .roh, 0⟩]
  | .fabCcMark => [⟨0, 4, .rw, 5⟩]
  | .fabCcParam => [⟨0, 8, .rw, 192⟩, ⟨8, 7, .rw, 2⟩, ⟨16, 20, .rw, 1024⟩, ⟨36, 20, .rw, 256⟩]
  | .fabCongGen => [⟨1, 31, .roh, 0⟩, ⟨0, 1, .roh, 0⟩]
  | .fabQuota => [⟨0, 8, .lck, 0⟩, ⟨8, 8, .lck, 0⟩, ⟨16, 8, .lck, 0⟩, ⟨24, 8, .lck, 0⟩]
  | .fabStat => [⟨0, 32, .roh, 0⟩, ⟨32, 16, .roh, 0⟩, ⟨48, 16, .roh, 0⟩]
  | .fabTimeout => [⟨0, 16, .rw, 250⟩]
  | .fmtFlags => [⟨0, 1, .rw1c, 0⟩, ⟨1, 1, .rw1c, 0⟩, ⟨2, 1, .rw1c, 0⟩, ⟨3, 1, .rw1c, 0⟩, ⟨4, 1, .rw1c, 0⟩, ⟨8, 1, .rw1c, 0⟩, ⟨9, 1, .rw1c, 0⟩, ⟨10, 1, .rw1c, 0⟩]
  | .hlthCtrl => [⟨0, 16, .wo, 0⟩, ⟨16, 1, .wo, 0⟩]
  | .hlthGen => [⟨1, 31, .roh, 0⟩, ⟨0, 1, .roh, 0⟩]
  | .intDigest => [⟨0, 32, .roh, 0⟩]
  | .intEpoch => [⟨0, 9, .roh, 0⟩, ⟨9, 1, .roh, 0⟩, ⟨10, 1, .roh, 0⟩, ⟨16, 16, .roh, 0⟩]
  | .intMirror => [⟨0, 1, .roh, 0⟩, ⟨1, 1, .roh, 0⟩, ⟨2, 1, .roh, 0⟩]
  | .ldgBlockStat => [⟨0, 16, .roh, 0⟩, ⟨16, 16, .roh, 0⟩, ⟨32, 16, .roh, 0⟩]
  | .ldgChService => [⟨0, 32, .roh, 4294967295⟩]
  | .ldgChState => [⟨0, 32, .roh, 0⟩, ⟨32, 32, .roh, 0⟩]
  | .ldgCkptStat => [⟨0, 32, .roh, 0⟩, ⟨32, 16, .roh, 0⟩, ⟨48, 16, .roh, 0⟩]
  | .ldgGroupWait => [⟨0, 16, .rw, 20⟩]
  | .ldgRecv => [⟨0, 6, .lck, 0⟩, ⟨6, 7, .lck, 0⟩]
  | .ldgRedLog => [⟨0, 3, .roh, 0⟩, ⟨3, 8, .roh, 0⟩, ⟨11, 12, .roh, 0⟩, ⟨23, 19, .roh, 0⟩, ⟨63, 1, .rw1c, 0⟩]
  | .ldgRedStat => [⟨0, 32, .roh, 0⟩, ⟨32, 16, .roh, 0⟩, ⟨48, 16, .roh, 0⟩]
  | .ldgRefuseLog => [⟨0, 3, .roh, 0⟩, ⟨3, 8, .roh, 0⟩, ⟨11, 48, .roh, 0⟩, ⟨63, 1, .rw1c, 0⟩]
  | .ldgSlice => [⟨0, 16, .rw, 20⟩]
  | .ldgStreamStat => [⟨0, 32, .roh, 0⟩, ⟨32, 24, .roh, 0⟩, ⟨56, 8, .roh, 0⟩]
  | .ldgUpdFlags => [⟨0, 1, .rw1c, 0⟩, ⟨1, 1, .rw1c, 0⟩, ⟨2, 1, .rw1c, 0⟩, ⟨3, 1, .rw1c, 0⟩, ⟨4, 1, .rw1c, 0⟩]
  | .ldgUpdStat => [⟨0, 32, .roh, 0⟩, ⟨32, 16, .roh, 0⟩, ⟨48, 16, .roh, 0⟩]
  | .modFpGen => [⟨1, 31, .roh, 0⟩, ⟨0, 1, .roh, 1⟩]
  | .modFpLen => [⟨0, 32, .ro, 426816⟩]
  | .modId => [⟨0, 14, .ro, 0⟩, ⟨16, 4, .ro, 1⟩, ⟨20, 4, .ro, 0⟩, ⟨24, 8, .ro, 1⟩, ⟨32, 32, .ro, 0⟩]
  | .modReset => [⟨0, 2, .wo, 0⟩, ⟨8, 1, .rw1c, 0⟩]
  | .modState => [⟨0, 2, .roh, 0⟩, ⟨2, 4, .roh, 0⟩, ⟨6, 1, .roh, 0⟩, ⟨7, 1, .roh, 0⟩, ⟨8, 1, .roh, 0⟩, ⟨9, 1, .roh, 0⟩, ⟨10, 4, .roh, 0⟩, ⟨14, 4, .roh, 0⟩]
  | .modVersion => [⟨0, 4, .ro, 1⟩, ⟨4, 4, .ro, 1⟩, ⟨8, 4, .ro, 1⟩, ⟨12, 4, .ro, 1⟩, ⟨16, 4, .ro, 1⟩, ⟨24, 8, .ro, 2⟩, ⟨32, 8, .ro, 2⟩]
  | .modWinBase => [⟨0, 16, .rw, 0⟩]
  | .partAliasGen => [⟨0, 16, .roh, 0⟩, ⟨16, 1, .roh, 0⟩]
  | .partCongGen => [⟨1, 31, .roh, 0⟩, ⟨0, 1, .roh, 0⟩]
  | .partCqBase => [⟨12, 52, .rw, 0⟩]
  | .partCqCfg => [⟨0, 4, .rw, 6⟩, ⟨4, 1, .rw, 0⟩]
  | .partCqHead => [⟨0, 12, .rw, 0⟩]
  | .partDomain => [⟨0, 14, .ro, 0⟩, ⟨14, 14, .roh, 0⟩, ⟨31, 1, .rw1c, 0⟩]
  | .partEff => [⟨0, 32, .roh, 0⟩, ⟨32, 32, .roh, 0⟩]
  | .partEnergy => [⟨0, 64, .roh, 0⟩]
  | .partFaultPolicy => [⟨0, 30, .ro, 17192586⟩]
  | .partFpGen => [⟨1, 31, .roh, 0⟩, ⟨0, 1, .roh, 1⟩]
  | .partFpLen => [⟨0, 32, .ro, 426816⟩]
  | .partId => [⟨0, 8, .ro, 0⟩, ⟨8, 2, .ro, 0⟩, ⟨10, 6, .ro, 0⟩, ⟨16, 11, .ro, 0⟩]
  | .partMirrorCfg => [⟨0, 18, .ro, 16384⟩, ⟨18, 1, .ro, 1⟩]
  | .partOqBase => [⟨12, 52, .rw, 0⟩]
  | .partOqCfg => [⟨0, 4, .rw, 6⟩, ⟨4, 1, .rw, 0⟩]
  | .partOqTail => [⟨0, 12, .rw, 0⟩]
  | .partPlan => [⟨0, 1, .roh, 0⟩, ⟨1, 1, .rw, 0⟩, ⟨2, 1, .rw1c, 0⟩, ⟨3, 3, .roh, 0⟩, ⟨6, 8, .roh, 0⟩]
  | .partPlanStat => [⟨0, 32, .roh, 0⟩, ⟨32, 16, .roh, 0⟩, ⟨48, 16, .roh, 0⟩]
  | .partPower => [⟨0, 16, .ro, 0⟩, ⟨16, 15, .roh, 0⟩, ⟨31, 1, .roh, 0⟩]
  | .partQStat => [⟨0, 12, .roh, 0⟩, ⟨12, 12, .roh, 0⟩, ⟨24, 1, .roh, 1⟩, ⟨25, 1, .rw1c, 0⟩]
  | .partRecovery => [⟨0, 16, .roh, 0⟩, ⟨16, 12, .roh, 0⟩, ⟨28, 12, .roh, 0⟩, ⟨40, 8, .roh, 0⟩, ⟨48, 8, .roh, 0⟩, ⟨63, 1, .roh, 0⟩]
  | .partRun => [⟨0, 32, .roh, 0⟩, ⟨32, 16, .roh, 0⟩, ⟨48, 16, .roh, 0⟩]
  | .partSessCfg => [⟨0, 16, .ro, 3600⟩, ⟨16, 16, .ro, 100⟩]
  | .partSessCount => [⟨0, 32, .roh, 0⟩]
  | .partSessCtrl => [⟨0, 1, .wo, 0⟩]
  | .partSessStat => [⟨0, 3, .roh, 0⟩, ⟨3, 1, .roh, 0⟩, ⟨4, 4, .roh, 0⟩, ⟨8, 16, .roh, 0⟩]
  | .partSrSeed => [⟨0, 64, .ro, 0⟩]
  | .partState => [⟨0, 3, .roh, 0⟩, ⟨3, 1, .roh, 0⟩, ⟨4, 1, .roh, 0⟩, ⟨5, 1, .roh, 0⟩]
  | .partTokens => [⟨0, 64, .roh, 0⟩]
  | .partTokensStep => [⟨0, 32, .rw, 0⟩]
  | .partUpdate => [⟨0, 3, .roh, 0⟩, ⟨8, 12, .roh, 0⟩, ⟨20, 8, .roh, 0⟩, ⟨32, 32, .roh, 0⟩]
  | .pwrCap => [⟨0, 16, .roh, 0⟩, ⟨16, 16, .roh, 0⟩]
  | .pwrCapCommit => [⟨0, 1, .wo, 0⟩, ⟨8, 1, .rw1c, 0⟩]
  | .pwrCapEff => [⟨0, 16, .roh, 24000⟩, ⟨16, 3, .roh, 0⟩, ⟨19, 1, .roh, 0⟩, ⟨20, 1, .roh, 0⟩]
  | .pwrCapShadow => [⟨0, 16, .rw, 0⟩, ⟨16, 16, .rw, 0⟩]
  | .pwrCfg => [⟨0, 16, .rw, 100⟩]
  | .pwrEff => [⟨0, 32, .roh, 0⟩, ⟨32, 32, .roh, 0⟩]
  | .pwrEnergy => [⟨0, 64, .roh, 0⟩]
  | .pwrInput => [⟨0, 16, .roh, 0⟩, ⟨16, 16, .roh, 0⟩, ⟨32, 16, .roh, 0⟩]
  | .pwrMode => [⟨0, 2, .wo, 0⟩, ⟨2, 1, .wo, 0⟩, ⟨3, 1, .wo, 0⟩, ⟨8, 1, .rw1c, 0⟩]
  | .pwrOverhead => [⟨0, 64, .roh, 0⟩]
  | .pwrState => [⟨0, 2, .roh, 0⟩, ⟨2, 1, .roh, 0⟩, ⟨3, 1, .rw1c, 0⟩, ⟨4, 1, .roh, 0⟩]
  | .pwrTokens => [⟨0, 64, .roh, 0⟩]
  | .rtrCnStat => [⟨0, 16, .roh, 0⟩, ⟨16, 8, .roh, 0⟩]
  | .rtrLinkErr => [⟨0, 12, .roh, 0⟩, ⟨12, 12, .roh, 0⟩, ⟨24, 12, .roh, 0⟩, ⟨36, 12, .roh, 0⟩, ⟨48, 12, .roh, 0⟩]
  | .rtrRate => [⟨0, 7, .roh, 64⟩, ⟨8, 7, .roh, 64⟩, ⟨16, 7, .roh, 64⟩]
  | .sbGpio => [⟨0, 12, .rw, 0⟩, ⟨16, 12, .rw, 0⟩, ⟨32, 12, .roh, 0⟩]
  | .sbLed => [⟨0, 10, .rw, 0⟩, ⟨16, 1, .roh, 0⟩]
  | .sbPinmux => [⟨0, 24, .rw, 0⟩, ⟨24, 2, .rw, 0⟩]
  | .sbStat => [⟨0, 10, .roh, 1000⟩, ⟨10, 1, .roh, 0⟩, ⟨11, 1, .roh, 0⟩, ⟨12, 1, .roh, 0⟩, ⟨16, 16, .roh, 0⟩]
  | .seqCount => [⟨0, 32, .roh, 0⟩]
  | .seqFault => [⟨0, 4, .roh, 0⟩, ⟨4, 48, .roh, 0⟩, ⟨63, 1, .rw1c, 0⟩]
  | .seqFetchStall => [⟨0, 64, .roh, 0⟩]
  | .seqForecast => [⟨0, 7, .roh, 0⟩, ⟨8, 7, .roh, 0⟩]
  | .seqPc => [⟨0, 48, .roh, 0⟩]
  | .seqRampStall => [⟨0, 64, .roh, 0⟩]
  | .seqStatus => [⟨0, 2, .roh, 0⟩, ⟨2, 1, .roh, 0⟩]
  | .seqTensorId => [⟨0, 32, .rw, 0⟩]
  | .seqUstep => [⟨0, 32, .roh, 0⟩, ⟨32, 16, .roh, 0⟩]
  | .seqUstepLimit => [⟨0, 20, .rw, 600⟩]
  | .seqUstepTime => [⟨0, 20, .roh, 0⟩]
  | .speCompress => [⟨0, 24, .roh, 0⟩, ⟨24, 24, .roh, 0⟩, ⟨48, 16, .roh, 0⟩]
  | .speDropped => [⟨0, 32, .roh, 0⟩]
  | .speMalformed => [⟨0, 16, .roh, 0⟩, ⟨16, 16, .roh, 0⟩]
  | .speProofLog => [⟨0, 32, .roh, 0⟩, ⟨32, 6, .roh, 0⟩, ⟨38, 2, .roh, 0⟩, ⟨40, 16, .roh, 0⟩, ⟨63, 1, .rw1c, 0⟩]
  | .speProofStat => [⟨0, 16, .roh, 0⟩, ⟨16, 16, .roh, 0⟩, ⟨32, 32, .roh, 0⟩]
  | .speQueueStall => [⟨0, 64, .roh, 0⟩]
  | .speRuns => [⟨0, 32, .roh, 0⟩, ⟨32, 32, .roh, 0⟩]
  | .speStatus => [⟨0, 1, .roh, 0⟩, ⟨1, 2, .roh, 0⟩, ⟨3, 13, .roh, 0⟩]
  | .speThreshold => [⟨0, 16, .rw, 26214⟩]
  | .tilePhases => [⟨0, 16, .roh, 65535⟩, ⟨16, 4, .roh, 0⟩]
  | .tileStatus => [⟨0, 10, .roh, 0⟩, ⟨10, 10, .roh, 768⟩, ⟨20, 1, .roh, 0⟩, ⟨21, 1, .roh, 0⟩, ⟨22, 7, .roh, 64⟩, ⟨29, 1, .roh, 0⟩, ⟨30, 1, .roh, 0⟩, ⟨32, 8, .roh, 0⟩]
  | .vregDroop => [⟨0, 8, .roh, 0⟩, ⟨8, 8, .rw, 40⟩, ⟨32, 32, .roh, 0⟩]
  | .vregPoint => [⟨0, 3, .roh, 0⟩, ⟨3, 2, .roh, 2⟩, ⟨5, 10, .roh, 0⟩, ⟨15, 7, .roh, 64⟩, ⟨22, 7, .roh, 0⟩]

/-- Width in bits. -/
def Reg.width : Reg → Nat
  | .arrProofLog => 64
  | .arrProofStat => 64
  | .arrRows => 64
  | .coreConflictLog => 64
  | .corePhaseStall => 64
  | .corePoisonProbe => 64
  | .dmaDescError => 64
  | .dmaTagStall => 64
  | .epdKlCfg => 64
  | .epdLink => 64
  | .epdStat => 64
  | .fabCcParam => 64
  | .fabStat => 64
  | .ldgBlockStat => 64
  | .ldgChState => 64
  | .ldgCkptStat => 64
  | .ldgRedLog => 64
  | .ldgRedStat => 64
  | .ldgRefuseLog => 64
  | .ldgStreamStat => 64
  | .ldgUpdStat => 64
  | .modId => 64
  | .modVersion => 64
  | .partCqBase => 64
  | .partEff => 64
  | .partEnergy => 64
  | .partFaultPolicy => 64
  | .partOqBase => 64
  | .partPlanStat => 64
  | .partRecovery => 64
  | .partRun => 64
  | .partSrSeed => 64
  | .partTokens => 64
  | .partUpdate => 64
  | .pwrEff => 64
  | .pwrEnergy => 64
  | .pwrInput => 64
  | .pwrOverhead => 64
  | .pwrTokens => 64
  | .rtrLinkErr => 64
  | .sbGpio => 64
  | .sbStat => 64
  | .seqFault => 64
  | .seqFetchStall => 64
  | .seqPc => 64
  | .seqRampStall => 64
  | .seqUstep => 64
  | .speCompress => 64
  | .speProofLog => 64
  | .speProofStat => 64
  | .speQueueStall => 64
  | .speRuns => 64
  | .tileStatus => 64
  | .vregDroop => 64
  | _ => 32

/-- Reset domain (R7). Event controller registers are PART at a partition controller and WARM at the module controller (R416). -/
def Reg.dom : Reg → Dom
  | .cfgsCtrl => .cold
  | .cfgsStatus => .cold
  | .coreId => .cold
  | .coreSpadEcc => .warm
  | .coreSpadSize => .cold
  | .epdHost => .cold
  | .epdKlCfg => .cold
  | .epdLink => .warm
  | .epdPortCfg => .cold
  | .epdStat => .warm
  | .fabCcMark => .warm
  | .fabCcParam => .warm
  | .fabCongGen => .cold
  | .fabQuota => .cold
  | .fabStat => .warm
  | .fabTimeout => .warm
  | .hlthCtrl => .cold
  | .hlthGen => .cold
  | .ldgBlockStat => .warm
  | .ldgChService => .cold
  | .ldgChState => .cold
  | .ldgCkptStat => .warm
  | .ldgGroupWait => .warm
  | .ldgRecv => .cold
  | .ldgRedLog => .warm
  | .ldgRedStat => .warm
  | .ldgRefuseLog => .warm
  | .ldgSlice => .warm
  | .ldgStreamStat => .warm
  | .ldgUpdFlags => .warm
  | .ldgUpdStat => .warm
  | .modFpGen => .cold
  | .modFpLen => .cold
  | .modId => .cold
  | .modReset => .cold
  | .modState => .cold
  | .modVersion => .cold
  | .modWinBase => .cold
  | .partId => .cold
  | .partSessCfg => .cold
  | .partSessCount => .cold
  | .partSessCtrl => .cold
  | .partSessStat => .cold
  | .partState => .cold
  | .pwrCap => .warm
  | .pwrCapCommit => .warm
  | .pwrCapEff => .cold
  | .pwrCapShadow => .warm
  | .pwrCfg => .warm
  | .pwrEff => .cold
  | .pwrEnergy => .cold
  | .pwrInput => .cold
  | .pwrMode => .cold
  | .pwrOverhead => .cold
  | .pwrState => .cold
  | .pwrTokens => .cold
  | .rtrLinkErr => .warm
  | .sbGpio => .warm
  | .sbLed => .warm
  | .sbPinmux => .cold
  | .sbStat => .cold
  | .tilePhases => .cold
  | .tileStatus => .cold
  | .vregDroop => .warm
  | .vregPoint => .warm
  | _ => .part

/-- Space, offset, stride and number of instances within its space (R513). -/
def Reg.place : Reg → Space × Nat × Nat × Nat
  | .arrConvA => (.eng, 0x2010, 0, 1)
  | .arrConvB => (.eng, 0x2018, 0, 1)
  | .arrInScale => (.eng, 0x2008, 0, 1)
  | .arrProofLog => (.eng, 0x2028, 0, 1)
  | .arrProofStat => (.eng, 0x2020, 0, 1)
  | .arrRows => (.eng, 0x2030, 0, 1)
  | .arrStatus => (.eng, 0x2000, 0, 1)
  | .cfgsCtrl => (.mgmt, 0x700000, 0, 1)
  | .cfgsStatus => (.mgmt, 0x700008, 0, 1)
  | .coreConflictCount => (.core, 0x28, 0, 1)
  | .coreConflictLog => (.core, 0x20, 0, 1)
  | .coreId => (.core, 0x0, 0, 1)
  | .corePhase => (.core, 0x10, 0, 1)
  | .corePhaseStall => (.core, 0x18, 0, 1)
  | .corePoisonProbe => (.core, 0x38, 0, 1)
  | .coreSpadEcc => (.core, 0x30, 0, 1)
  | .coreSpadSize => (.core, 0x8, 0, 1)
  | .dmaDescError => (.core, 0x110, 0, 1)
  | .dmaTagStall => (.core, 0x108, 0, 1)
  | .dmaTagStat => (.core, 0x100, 0, 1)
  | .epdHost => (.port, 0x90, 0, 1)
  | .epdKlCfg => (.port, 0x80, 0, 1)
  | .epdLink => (.port, 0x40, 8, 4)
  | .epdPortCfg => (.port, 0x0, 8, 4)
  | .epdStat => (.port, 0x88, 0, 1)
  | .evtClaim => (.ctrl, 0x8, 0, 1)
  | .evtCoal => (.ctrl, 0x80, 4, 16)
  | .evtCoalShadow => (.ctrl, 0x40, 4, 16)
  | .evtCommit => (.ctrl, 0x20, 0, 1)
  | .evtComplete => (.ctrl, 0xC, 0, 1)
  | .evtCtrl => (.ctrl, 0x0, 0, 1)
  | .evtEvent => (.ctrl, 0x400, 4, 512)
  | .evtRqHead => (.ctrl, 0x10, 0, 1)
  | .evtRqStat => (.ctrl, 0x18, 0, 1)
  | .evtRqTail => (.ctrl, 0x14, 0, 1)
  | .fabCcMark => (.mgmt, 0x200008, 0, 1)
  | .fabCcParam => (.mgmt, 0x200000, 0, 1)
  | .fabCongGen => (.mgmt, 0x200020, 0, 1)
  | .fabQuota => (.mgmt, 0x200100, 4, 64)
  | .fabStat => (.mgmt, 0x200018, 0, 1)
  | .fabTimeout => (.mgmt, 0x200010, 0, 1)
  | .fmtFlags => (.eng, 0x1000, 0, 1)
  | .hlthCtrl => (.mgmt, 0x300008, 0, 1)
  | .hlthGen => (.mgmt, 0x300000, 0, 1)
  | .intDigest => (.eng, 0x6010, 0, 1)
  | .intEpoch => (.eng, 0x6000, 0, 1)
  | .intMirror => (.eng, 0x6008, 0, 1)
  | .ldgBlockStat => (.ldg, 0x30, 0, 1)
  | .ldgChService => (.ldg, 0x8, 0, 1)
  | .ldgChState => (.ldg, 0x10, 0, 1)
  | .ldgCkptStat => (.ldg, 0x40, 0, 1)
  | .ldgGroupWait => (.ldg, 0x20, 0, 1)
  | .ldgRecv => (.ldg, 0x48, 0, 1)
  | .ldgRedLog => (.ldg, 0x30008, 0, 1)
  | .ldgRedStat => (.ldg, 0x30000, 0, 1)
  | .ldgRefuseLog => (.ldg, 0x28, 0, 1)
  | .ldgSlice => (.ldg, 0x18, 0, 1)
  | .ldgStreamStat => (.ldg, 0x38, 0, 1)
  | .ldgUpdFlags => (.ldg, 0x30018, 0, 1)
  | .ldgUpdStat => (.ldg, 0x30010, 0, 1)
  | .modFpGen => (.mgmt, 0x100, 0, 1)
  | .modFpLen => (.mgmt, 0x104, 0, 1)
  | .modId => (.mgmt, 0x1000, 0, 1)
  | .modReset => (.mgmt, 0x200, 0, 1)
  | .modState => (.mgmt, 0x1008, 0, 1)
  | .modVersion => (.mgmt, 0x308, 0, 1)
  | .modWinBase => (.mgmt, 0x300, 0, 1)
  | .partAliasGen => (.part, 0x200, 0, 1)
  | .partCongGen => (.part, 0x500, 0, 1)
  | .partCqBase => (.part, 0x60, 0, 1)
  | .partCqCfg => (.part, 0x68, 0, 1)
  | .partCqHead => (.part, 0x6C, 0, 1)
  | .partDomain => (.part, 0x408, 0, 1)
  | .partEff => (.part, 0x1818, 0, 1)
  | .partEnergy => (.part, 0x1800, 0, 1)
  | .partFaultPolicy => (.part, 0x708, 0, 1)
  | .partFpGen => (.part, 0x100, 0, 1)
  | .partFpLen => (.part, 0x104, 0, 1)
  | .partId => (.part, 0x0, 0, 1)
  | .partMirrorCfg => (.part, 0x710, 0, 1)
  | .partOqBase => (.part, 0x50, 0, 1)
  | .partOqCfg => (.part, 0x58, 0, 1)
  | .partOqTail => (.part, 0x5C, 0, 1)
  | .partPlan => (.part, 0x600, 0, 1)
  | .partPlanStat => (.part, 0x608, 0, 1)
  | .partPower => (.part, 0x1820, 0, 1)
  | .partQStat => (.part, 0x70, 0, 1)
  | .partRecovery => (.part, 0x700, 0, 1)
  | .partRun => (.part, 0x78, 0, 1)
  | .partSessCfg => (.part, 0x1C, 0, 1)
  | .partSessCount => (.part, 0x18, 0, 1)
  | .partSessCtrl => (.part, 0x10, 0, 1)
  | .partSessStat => (.part, 0x14, 0, 1)
  | .partSrSeed => (.part, 0x300, 0, 1)
  | .partState => (.part, 0x8, 0, 1)
  | .partTokens => (.part, 0x1808, 0, 1)
  | .partTokensStep => (.part, 0x1810, 0, 1)
  | .partUpdate => (.part, 0x400, 0, 1)
  | .pwrCap => (.mgmt, 0x60000C, 0, 1)
  | .pwrCapCommit => (.mgmt, 0x600010, 0, 1)
  | .pwrCapEff => (.mgmt, 0x600014, 0, 1)
  | .pwrCapShadow => (.mgmt, 0x600008, 0, 1)
  | .pwrCfg => (.mgmt, 0x600040, 0, 1)
  | .pwrEff => (.mgmt, 0x600038, 0, 1)
  | .pwrEnergy => (.mgmt, 0x600020, 0, 1)
  | .pwrInput => (.mgmt, 0x600018, 0, 1)
  | .pwrMode => (.mgmt, 0x600004, 0, 1)
  | .pwrOverhead => (.mgmt, 0x600028, 0, 1)
  | .pwrState => (.mgmt, 0x600000, 0, 1)
  | .pwrTokens => (.mgmt, 0x600030, 0, 1)
  | .rtrCnStat => (.eng, 0x4010, 0, 1)
  | .rtrLinkErr => (.eng, 0x4008, 0, 1)
  | .rtrRate => (.eng, 0x4000, 0, 1)
  | .sbGpio => (.mgmt, 0x500008, 0, 1)
  | .sbLed => (.mgmt, 0x500010, 4, 4)
  | .sbPinmux => (.mgmt, 0x500000, 0, 1)
  | .sbStat => (.mgmt, 0x500020, 0, 1)
  | .seqCount => (.eng, 0x800, 4, 64)
  | .seqFault => (.eng, 0x20, 0, 1)
  | .seqFetchStall => (.eng, 0x38, 0, 1)
  | .seqForecast => (.eng, 0x28, 0, 1)
  | .seqPc => (.eng, 0x8, 0, 1)
  | .seqRampStall => (.eng, 0x30, 0, 1)
  | .seqStatus => (.eng, 0x0, 0, 1)
  | .seqTensorId => (.eng, 0x40, 0, 1)
  | .seqUstep => (.eng, 0x10, 0, 1)
  | .seqUstepLimit => (.eng, 0x18, 0, 1)
  | .seqUstepTime => (.eng, 0x1C, 0, 1)
  | .speCompress => (.eng, 0x3040, 0, 1)
  | .speDropped => (.eng, 0x3018, 0, 1)
  | .speMalformed => (.eng, 0x3020, 0, 1)
  | .speProofLog => (.eng, 0x3038, 0, 1)
  | .speProofStat => (.eng, 0x3030, 0, 1)
  | .speQueueStall => (.eng, 0x3028, 0, 1)
  | .speRuns => (.eng, 0x3010, 0, 1)
  | .speStatus => (.eng, 0x3008, 0, 1)
  | .speThreshold => (.eng, 0x3000, 0, 1)
  | .tilePhases => (.tile, 0x0, 0, 1)
  | .tileStatus => (.tile, 0x8, 0, 1)
  | .vregDroop => (.eng, 0x7008, 0, 1)
  | .vregPoint => (.eng, 0x7000, 0, 1)

/-- A named field of a register. -/
structure RF where
  reg : Reg
  lo : Nat
  len : Nat
  deriving DecidableEq, Repr

def F.arrConvA_c_m1 : RF := ⟨.arrConvA, 0, 6⟩
def F.arrConvA_kw_m1 : RF := ⟨.arrConvA, 6, 4⟩
def F.arrConvA_kh_m1 : RF := ⟨.arrConvA, 10, 3⟩
def F.arrConvA_sx_m1 : RF := ⟨.arrConvA, 13, 3⟩
def F.arrConvA_sy_m1 : RF := ⟨.arrConvA, 16, 3⟩
def F.arrConvA_dx_m1 : RF := ⟨.arrConvA, 19, 3⟩
def F.arrConvA_dy_m1 : RF := ⟨.arrConvA, 22, 3⟩
def F.arrConvB_in_w : RF := ⟨.arrConvB, 0, 16⟩
def F.arrConvB_out_w : RF := ⟨.arrConvB, 16, 16⟩
def F.arrInScale_mode : RF := ⟨.arrInScale, 0, 2⟩
def F.arrInScale_row : RF := ⟨.arrInScale, 2, 18⟩
def F.arrProofLog_row : RF := ⟨.arrProofLog, 0, 32⟩
def F.arrProofLog_col : RF := ⟨.arrProofLog, 32, 6⟩
def F.arrProofLog_kind : RF := ⟨.arrProofLog, 38, 2⟩
def F.arrProofLog_epoch : RF := ⟨.arrProofLog, 40, 16⟩
def F.arrProofLog_valid : RF := ⟨.arrProofLog, 63, 1⟩
def F.arrProofStat_col_fail : RF := ⟨.arrProofStat, 0, 16⟩
def F.arrProofStat_row_fail : RF := ⟨.arrProofStat, 16, 16⟩
def F.arrProofStat_unchecked : RF := ⟨.arrProofStat, 32, 32⟩
def F.arrRows_slots : RF := ⟨.arrRows, 0, 64⟩
def F.arrStatus_tile_valid : RF := ⟨.arrStatus, 0, 1⟩
def F.arrStatus_tile_poison : RF := ⟨.arrStatus, 1, 1⟩
def F.arrStatus_fmt : RF := ⟨.arrStatus, 2, 4⟩
def F.arrStatus_scale : RF := ⟨.arrStatus, 6, 2⟩
def F.arrStatus_k_m1 : RF := ⟨.arrStatus, 8, 6⟩
def F.arrStatus_n_m1 : RF := ⟨.arrStatus, 14, 6⟩
def F.cfgsCtrl_op : RF := ⟨.cfgsCtrl, 0, 3⟩
def F.cfgsCtrl_slot : RF := ⟨.cfgsCtrl, 3, 1⟩
def F.cfgsCtrl_offset : RF := ⟨.cfgsCtrl, 4, 12⟩
def F.cfgsCtrl_go : RF := ⟨.cfgsCtrl, 16, 1⟩
def F.cfgsStatus_busy : RF := ⟨.cfgsStatus, 0, 1⟩
def F.cfgsStatus_error : RF := ⟨.cfgsStatus, 1, 1⟩
def F.cfgsStatus_result : RF := ⟨.cfgsStatus, 2, 4⟩
def F.cfgsStatus_slot_a_valid : RF := ⟨.cfgsStatus, 6, 1⟩
def F.cfgsStatus_slot_b_valid : RF := ⟨.cfgsStatus, 7, 1⟩
def F.coreConflictCount_count : RF := ⟨.coreConflictCount, 0, 32⟩
def F.coreConflictLog_bank : RF := ⟨.coreConflictLog, 0, 5⟩
def F.coreConflictLog_row_a : RF := ⟨.coreConflictLog, 8, 13⟩
def F.coreConflictLog_req_a : RF := ⟨.coreConflictLog, 21, 3⟩
def F.coreConflictLog_row_b : RF := ⟨.coreConflictLog, 24, 13⟩
def F.coreConflictLog_req_b : RF := ⟨.coreConflictLog, 37, 3⟩
def F.coreConflictLog_kind : RF := ⟨.coreConflictLog, 40, 2⟩
def F.coreConflictLog_ustep : RF := ⟨.coreConflictLog, 42, 16⟩
def F.coreConflictLog_valid : RF := ⟨.coreConflictLog, 63, 1⟩
def F.coreId_index : RF := ⟨.coreId, 0, 16⟩
def F.coreId_x : RF := ⟨.coreId, 16, 6⟩
def F.coreId_y : RF := ⟨.coreId, 22, 6⟩
def F.corePhase_phase : RF := ⟨.corePhase, 0, 2⟩
def F.corePhase_win_refused : RF := ⟨.corePhase, 2, 1⟩
def F.corePhaseStall_cycles : RF := ⟨.corePhaseStall, 0, 64⟩
def F.corePoisonProbe_poisoned : RF := ⟨.corePoisonProbe, 0, 1⟩
def F.corePoisonProbe_address : RF := ⟨.corePoisonProbe, 6, 18⟩
def F.corePoisonProbe_rows : RF := ⟨.corePoisonProbe, 32, 32⟩
def F.coreSpadEcc_corrected : RF := ⟨.coreSpadEcc, 0, 16⟩
def F.coreSpadEcc_uncorrected : RF := ⟨.coreSpadEcc, 16, 16⟩
def F.coreSpadSize_bytes : RF := ⟨.coreSpadSize, 0, 32⟩
def F.dmaDescError_reason : RF := ⟨.dmaDescError, 0, 4⟩
def F.dmaDescError_seq : RF := ⟨.dmaDescError, 4, 16⟩
def F.dmaDescError_valid : RF := ⟨.dmaDescError, 63, 1⟩
def F.dmaTagStall_cycles : RF := ⟨.dmaTagStall, 0, 64⟩
def F.dmaTagStat_in_use : RF := ⟨.dmaTagStat, 0, 9⟩
def F.dmaTagStat_high_water : RF := ⟨.dmaTagStat, 9, 9⟩
def F.epdHost_mode : RF := ⟨.epdHost, 0, 2⟩
def F.epdHost_gen : RF := ⟨.epdHost, 2, 2⟩
def F.epdHost_width : RF := ⟨.epdHost, 4, 5⟩
def F.epdHost_up : RF := ⟨.epdHost, 9, 1⟩
def F.epdKlCfg_ethertype : RF := ⟨.epdKlCfg, 0, 16⟩
def F.epdKlCfg_udp_port : RF := ⟨.epdKlCfg, 16, 16⟩
def F.epdKlCfg_rto_us : RF := ⟨.epdKlCfg, 32, 8⟩
def F.epdKlCfg_retries : RF := ⟨.epdKlCfg, 40, 4⟩
def F.epdLink_up : RF := ⟨.epdLink, 0, 8⟩
def F.epdLink_fcs_drops : RF := ⟨.epdLink, 8, 24⟩
def F.epdLink_pause_drops : RF := ⟨.epdLink, 32, 16⟩
def F.epdLink_fec_uncorr : RF := ⟨.epdLink, 48, 16⟩
def F.epdPortCfg_mode : RF := ⟨.epdPortCfg, 0, 2⟩
def F.epdPortCfg_lanes : RF := ⟨.epdPortCfg, 2, 2⟩
def F.epdPortCfg_pfc_en : RF := ⟨.epdPortCfg, 4, 1⟩
def F.epdPortCfg_pfc_mask : RF := ⟨.epdPortCfg, 5, 8⟩
def F.epdPortCfg_udp : RF := ⟨.epdPortCfg, 13, 1⟩
def F.epdStat_exceptions : RF := ⟨.epdStat, 0, 16⟩
def F.epdStat_length : RF := ⟨.epdStat, 16, 16⟩
def F.epdStat_kl_check : RF := ⟨.epdStat, 32, 12⟩
def F.epdStat_version : RF := ⟨.epdStat, 44, 10⟩
def F.epdStat_isolation : RF := ⟨.epdStat, 54, 10⟩
def F.evtClaim_number : RF := ⟨.evtClaim, 0, 16⟩
def F.evtCoal_count : RF := ⟨.evtCoal, 0, 16⟩
def F.evtCoal_time_us : RF := ⟨.evtCoal, 16, 16⟩
def F.evtCoalShadow_count : RF := ⟨.evtCoalShadow, 0, 16⟩
def F.evtCoalShadow_time_us : RF := ⟨.evtCoalShadow, 16, 16⟩
def F.evtCommit_class : RF := ⟨.evtCommit, 0, 4⟩
def F.evtCommit_go : RF := ⟨.evtCommit, 4, 1⟩
def F.evtCommit_error : RF := ⟨.evtCommit, 8, 1⟩
def F.evtComplete_number : RF := ⟨.evtComplete, 0, 9⟩
def F.evtCtrl_enable : RF := ⟨.evtCtrl, 0, 1⟩
def F.evtCtrl_hold : RF := ⟨.evtCtrl, 1, 1⟩
def F.evtCtrl_line : RF := ⟨.evtCtrl, 2, 1⟩
def F.evtEvent_pending : RF := ⟨.evtEvent, 0, 16⟩
def F.evtEvent_enable : RF := ⟨.evtEvent, 16, 1⟩
def F.evtEvent_class : RF := ⟨.evtEvent, 17, 4⟩
def F.evtRqHead_index : RF := ⟨.evtRqHead, 0, 13⟩
def F.evtRqStat_dropped : RF := ⟨.evtRqStat, 0, 16⟩
def F.evtRqStat_head_error : RF := ⟨.evtRqStat, 16, 1⟩
def F.evtRqTail_index : RF := ⟨.evtRqTail, 0, 13⟩
def F.fabCcMark_threshold : RF := ⟨.fabCcMark, 0, 4⟩
def F.fabCcParam_md : RF := ⟨.fabCcParam, 0, 8⟩
def F.fabCcParam_ai : RF := ⟨.fabCcParam, 8, 7⟩
def F.fabCcParam_period : RF := ⟨.fabCcParam, 16, 20⟩
def F.fabCcParam_hold : RF := ⟨.fabCcParam, 36, 20⟩
def F.fabCongGen_count : RF := ⟨.fabCongGen, 1, 31⟩
def F.fabCongGen_busy : RF := ⟨.fabCongGen, 0, 1⟩
def F.fabQuota_tc0 : RF := ⟨.fabQuota, 0, 8⟩
def F.fabQuota_tc1 : RF := ⟨.fabQuota, 8, 8⟩
def F.fabQuota_tc2 : RF := ⟨.fabQuota, 16, 8⟩
def F.fabQuota_tc3 : RF := ⟨.fabQuota, 24, 8⟩
def F.fabStat_mcast_discards : RF := ⟨.fabStat, 0, 32⟩
def F.fabStat_isolation : RF := ⟨.fabStat, 32, 16⟩
def F.fabStat_lost : RF := ⟨.fabStat, 48, 16⟩
def F.fabTimeout_tag_us : RF := ⟨.fabTimeout, 0, 16⟩
def F.fmtFlags_nv : RF := ⟨.fmtFlags, 0, 1⟩
def F.fmtFlags_of : RF := ⟨.fmtFlags, 1, 1⟩
def F.fmtFlags_uf : RF := ⟨.fmtFlags, 2, 1⟩
def F.fmtFlags_nx : RF := ⟨.fmtFlags, 3, 1⟩
def F.fmtFlags_sat : RF := ⟨.fmtFlags, 4, 1⟩
def F.fmtFlags_by_array : RF := ⟨.fmtFlags, 8, 1⟩
def F.fmtFlags_by_sparse : RF := ⟨.fmtFlags, 9, 1⟩
def F.fmtFlags_by_vector : RF := ⟨.fmtFlags, 10, 1⟩
def F.hlthCtrl_unit : RF := ⟨.hlthCtrl, 0, 16⟩
def F.hlthCtrl_go : RF := ⟨.hlthCtrl, 16, 1⟩
def F.hlthGen_count : RF := ⟨.hlthGen, 1, 31⟩
def F.hlthGen_busy : RF := ⟨.hlthGen, 0, 1⟩
def F.intDigest_crc : RF := ⟨.intDigest, 0, 32⟩
def F.intEpoch_deps : RF := ⟨.intEpoch, 0, 9⟩
def F.intEpoch_dep_all : RF := ⟨.intEpoch, 9, 1⟩
def F.intEpoch_range : RF := ⟨.intEpoch, 10, 1⟩
def F.intEpoch_auto_closes : RF := ⟨.intEpoch, 16, 16⟩
def F.intMirror_committed_half : RF := ⟨.intMirror, 0, 1⟩
def F.intMirror_valid : RF := ⟨.intMirror, 1, 1⟩
def F.intMirror_pending : RF := ⟨.intMirror, 2, 1⟩
def F.ldgBlockStat_mismatches : RF := ⟨.ldgBlockStat, 0, 16⟩
def F.ldgBlockStat_poisoned : RF := ⟨.ldgBlockStat, 16, 16⟩
def F.ldgBlockStat_repaired : RF := ⟨.ldgBlockStat, 32, 16⟩
def F.ldgChService_in_service : RF := ⟨.ldgChService, 0, 32⟩
def F.ldgChState_slice : RF := ⟨.ldgChState, 0, 32⟩
def F.ldgChState_self_refresh : RF := ⟨.ldgChState, 32, 32⟩
def F.ldgCkptStat_blocks : RF := ⟨.ldgCkptStat, 0, 32⟩
def F.ldgCkptStat_write_waits : RF := ⟨.ldgCkptStat, 32, 16⟩
def F.ldgCkptStat_bad_blocks : RF := ⟨.ldgCkptStat, 48, 16⟩
def F.ldgGroupWait_limit : RF := ⟨.ldgGroupWait, 0, 16⟩
def F.ldgRecv_frame_first : RF := ⟨.ldgRecv, 0, 6⟩
def F.ldgRecv_frame_count : RF := ⟨.ldgRecv, 6, 7⟩
def F.ldgRedLog_reason : RF := ⟨.ldgRedLog, 0, 3⟩
def F.ldgRedLog_partition : RF := ⟨.ldgRedLog, 3, 8⟩
def F.ldgRedLog_stream : RF := ⟨.ldgRedLog, 11, 12⟩
def F.ldgRedLog_block : RF := ⟨.ldgRedLog, 23, 19⟩
def F.ldgRedLog_valid : RF := ⟨.ldgRedLog, 63, 1⟩
def F.ldgRedStat_closed : RF := ⟨.ldgRedStat, 0, 32⟩
def F.ldgRedStat_retractions : RF := ⟨.ldgRedStat, 32, 16⟩
def F.ldgRedStat_reopens : RF := ⟨.ldgRedStat, 48, 16⟩
def F.ldgRefuseLog_reason : RF := ⟨.ldgRefuseLog, 0, 3⟩
def F.ldgRefuseLog_partition : RF := ⟨.ldgRefuseLog, 3, 8⟩
def F.ldgRefuseLog_address : RF := ⟨.ldgRefuseLog, 11, 48⟩
def F.ldgRefuseLog_valid : RF := ⟨.ldgRefuseLog, 63, 1⟩
def F.ldgSlice_interval : RF := ⟨.ldgSlice, 0, 16⟩
def F.ldgStreamStat_reads : RF := ⟨.ldgStreamStat, 0, 32⟩
def F.ldgStreamStat_copies : RF := ⟨.ldgStreamStat, 32, 24⟩
def F.ldgStreamStat_drops : RF := ⟨.ldgStreamStat, 56, 8⟩
def F.ldgUpdFlags_nv : RF := ⟨.ldgUpdFlags, 0, 1⟩
def F.ldgUpdFlags_of : RF := ⟨.ldgUpdFlags, 1, 1⟩
def F.ldgUpdFlags_uf : RF := ⟨.ldgUpdFlags, 2, 1⟩
def F.ldgUpdFlags_nx : RF := ⟨.ldgUpdFlags, 3, 1⟩
def F.ldgUpdFlags_sat : RF := ⟨.ldgUpdFlags, 4, 1⟩
def F.ldgUpdStat_kelements : RF := ⟨.ldgUpdStat, 0, 32⟩
def F.ldgUpdStat_commits : RF := ⟨.ldgUpdStat, 32, 16⟩
def F.ldgUpdStat_skips : RF := ⟨.ldgUpdStat, 48, 16⟩
def F.modFpGen_count : RF := ⟨.modFpGen, 1, 31⟩
def F.modFpGen_busy : RF := ⟨.modFpGen, 0, 1⟩
def F.modFpLen_bytes : RF := ⟨.modFpLen, 0, 32⟩
def F.modId_module_id : RF := ⟨.modId, 0, 14⟩
def F.modId_generation : RF := ⟨.modId, 16, 4⟩
def F.modId_stepping : RF := ⟨.modId, 20, 4⟩
def F.modId_host_if : RF := ⟨.modId, 24, 8⟩
def F.modId_serial : RF := ⟨.modId, 32, 32⟩
def F.modReset_kind : RF := ⟨.modReset, 0, 2⟩
def F.modReset_error : RF := ⟨.modReset, 8, 1⟩
def F.modState_state : RF := ⟨.modState, 0, 2⟩
def F.modState_step : RF := ⟨.modState, 2, 4⟩
def F.modState_image : RF := ⟨.modState, 6, 1⟩
def F.modState_fallback : RF := ⟨.modState, 7, 1⟩
def F.modState_lock_closed : RF := ⟨.modState, 8, 1⟩
def F.modState_warm : RF := ⟨.modState, 9, 1⟩
def F.modState_reject_a : RF := ⟨.modState, 10, 4⟩
def F.modState_reject_b : RF := ⟨.modState, 14, 4⟩
def F.modVersion_capsule : RF := ⟨.modVersion, 0, 4⟩
def F.modVersion_image : RF := ⟨.modVersion, 4, 4⟩
def F.modVersion_floor_plan : RF := ⟨.modVersion, 8, 4⟩
def F.modVersion_stream_map : RF := ⟨.modVersion, 12, 4⟩
def F.modVersion_mgmt_dgram : RF := ⟨.modVersion, 16, 4⟩
def F.modVersion_kl_versions : RF := ⟨.modVersion, 24, 8⟩
def F.modVersion_host_if_versions : RF := ⟨.modVersion, 32, 8⟩
def F.modWinBase_base : RF := ⟨.modWinBase, 0, 16⟩
def F.partAliasGen_generation : RF := ⟨.partAliasGen, 0, 16⟩
def F.partAliasGen_busy : RF := ⟨.partAliasGen, 16, 1⟩
def F.partCongGen_count : RF := ⟨.partCongGen, 1, 31⟩
def F.partCongGen_busy : RF := ⟨.partCongGen, 0, 1⟩
def F.partCqBase_addr : RF := ⟨.partCqBase, 12, 52⟩
def F.partCqCfg_log2_entries : RF := ⟨.partCqCfg, 0, 4⟩
def F.partCqCfg_enable : RF := ⟨.partCqCfg, 4, 1⟩
def F.partCqHead_index : RF := ⟨.partCqHead, 0, 12⟩
def F.partDomain_members : RF := ⟨.partDomain, 0, 14⟩
def F.partDomain_lost_rank : RF := ⟨.partDomain, 14, 14⟩
def F.partDomain_lost : RF := ⟨.partDomain, 31, 1⟩
def F.partEff_window : RF := ⟨.partEff, 0, 32⟩
def F.partEff_total : RF := ⟨.partEff, 32, 32⟩
def F.partEnergy_value : RF := ⟨.partEnergy, 0, 64⟩
def F.partFaultPolicy_actions : RF := ⟨.partFaultPolicy, 0, 30⟩
def F.partFpGen_count : RF := ⟨.partFpGen, 1, 31⟩
def F.partFpGen_busy : RF := ⟨.partFpGen, 0, 1⟩
def F.partFpLen_bytes : RF := ⟨.partFpLen, 0, 32⟩
def F.partId_partition : RF := ⟨.partId, 0, 8⟩
def F.partId_host_port : RF := ⟨.partId, 8, 2⟩
def F.partId_vf : RF := ⟨.partId, 10, 6⟩
def F.partId_clusters : RF := ⟨.partId, 16, 11⟩
def F.partMirrorCfg_rows : RF := ⟨.partMirrorCfg, 0, 18⟩
def F.partMirrorCfg_enabled : RF := ⟨.partMirrorCfg, 18, 1⟩
def F.partOqBase_addr : RF := ⟨.partOqBase, 12, 52⟩
def F.partOqCfg_log2_entries : RF := ⟨.partOqCfg, 0, 4⟩
def F.partOqCfg_enable : RF := ⟨.partOqCfg, 4, 1⟩
def F.partOqTail_index : RF := ⟨.partOqTail, 0, 12⟩
def F.partPlan_active : RF := ⟨.partPlan, 0, 1⟩
def F.partPlan_force_uniform : RF := ⟨.partPlan, 1, 1⟩
def F.partPlan_refused : RF := ⟨.partPlan, 2, 1⟩
def F.partPlan_reason : RF := ⟨.partPlan, 3, 3⟩
def F.partPlan_count : RF := ⟨.partPlan, 6, 8⟩
def F.partPlanStat_normal_steps : RF := ⟨.partPlanStat, 0, 32⟩
def F.partPlanStat_uniform_steps : RF := ⟨.partPlanStat, 32, 16⟩
def F.partPlanStat_switches : RF := ⟨.partPlanStat, 48, 16⟩
def F.partPower_share_w : RF := ⟨.partPower, 0, 16⟩
def F.partPower_watts : RF := ⟨.partPower, 16, 15⟩
def F.partPower_cap_paused : RF := ⟨.partPower, 31, 1⟩
def F.partQStat_oq_head : RF := ⟨.partQStat, 0, 12⟩
def F.partQStat_cq_tail : RF := ⟨.partQStat, 12, 12⟩
def F.partQStat_phase : RF := ⟨.partQStat, 24, 1⟩
def F.partQStat_queue_error : RF := ⟨.partQStat, 25, 1⟩
def F.partRecovery_replays : RF := ⟨.partRecovery, 0, 16⟩
def F.partRecovery_step_replays : RF := ⟨.partRecovery, 16, 12⟩
def F.partRecovery_fences : RF := ⟨.partRecovery, 28, 12⟩
def F.partRecovery_standby_left : RF := ⟨.partRecovery, 40, 8⟩
def F.partRecovery_stamp : RF := ⟨.partRecovery, 48, 8⟩
def F.partRecovery_held : RF := ⟨.partRecovery, 63, 1⟩
def F.partRun_steps : RF := ⟨.partRun, 0, 32⟩
def F.partRun_feed_waits : RF := ⟨.partRun, 32, 16⟩
def F.partRun_runs : RF := ⟨.partRun, 48, 16⟩
def F.partSessCfg_idle_s : RF := ⟨.partSessCfg, 0, 16⟩
def F.partSessCfg_kdf_kiter : RF := ⟨.partSessCfg, 16, 16⟩
def F.partSessCount_count : RF := ⟨.partSessCount, 0, 32⟩
def F.partSessCtrl_challenge : RF := ⟨.partSessCtrl, 0, 1⟩
def F.partSessStat_failures : RF := ⟨.partSessStat, 0, 3⟩
def F.partSessStat_locked : RF := ⟨.partSessStat, 3, 1⟩
def F.partSessStat_lockouts : RF := ⟨.partSessStat, 4, 4⟩
def F.partSessStat_lock_left : RF := ⟨.partSessStat, 8, 16⟩
def F.partSrSeed_seed : RF := ⟨.partSrSeed, 0, 64⟩
def F.partState_state : RF := ⟨.partState, 0, 3⟩
def F.partState_pause_pending : RF := ⟨.partState, 3, 1⟩
def F.partState_restore_incomplete : RF := ⟨.partState, 4, 1⟩
def F.partState_zero_pending : RF := ⟨.partState, 5, 1⟩
def F.partTokens_value : RF := ⟨.partTokens, 0, 64⟩
def F.partTokensStep_tokens : RF := ⟨.partTokensStep, 0, 32⟩
def F.partUpdate_outcome : RF := ⟨.partUpdate, 0, 3⟩
def F.partUpdate_group : RF := ⟨.partUpdate, 8, 12⟩
def F.partUpdate_loss_scale : RF := ⟨.partUpdate, 20, 8⟩
def F.partUpdate_step : RF := ⟨.partUpdate, 32, 32⟩
def F.pwrCap_cap_w : RF := ⟨.pwrCap, 0, 16⟩
def F.pwrCap_ramp_w_ms : RF := ⟨.pwrCap, 16, 16⟩
def F.pwrCapCommit_go : RF := ⟨.pwrCapCommit, 0, 1⟩
def F.pwrCapCommit_error : RF := ⟨.pwrCapCommit, 8, 1⟩
def F.pwrCapEff_watts : RF := ⟨.pwrCapEff, 0, 16⟩
def F.pwrCapEff_source : RF := ⟨.pwrCapEff, 16, 3⟩
def F.pwrCapEff_ramping : RF := ⟨.pwrCapEff, 19, 1⟩
def F.pwrCapEff_limiting : RF := ⟨.pwrCapEff, 20, 1⟩
def F.pwrCapShadow_cap_w : RF := ⟨.pwrCapShadow, 0, 16⟩
def F.pwrCapShadow_ramp_w_ms : RF := ⟨.pwrCapShadow, 16, 16⟩
def F.pwrCfg_idle_hold_ms : RF := ⟨.pwrCfg, 0, 16⟩
def F.pwrEff_window : RF := ⟨.pwrEff, 0, 32⟩
def F.pwrEff_total : RF := ⟨.pwrEff, 32, 32⟩
def F.pwrEnergy_value : RF := ⟨.pwrEnergy, 0, 64⟩
def F.pwrInput_mv : RF := ⟨.pwrInput, 0, 16⟩
def F.pwrInput_deciamps : RF := ⟨.pwrInput, 16, 16⟩
def F.pwrInput_watts : RF := ⟨.pwrInput, 32, 16⟩
def F.pwrMode_request : RF := ⟨.pwrMode, 0, 2⟩
def F.pwrMode_steward_set : RF := ⟨.pwrMode, 2, 1⟩
def F.pwrMode_steward_clear : RF := ⟨.pwrMode, 3, 1⟩
def F.pwrMode_error : RF := ⟨.pwrMode, 8, 1⟩
def F.pwrOverhead_value : RF := ⟨.pwrOverhead, 0, 64⟩
def F.pwrState_state : RF := ⟨.pwrState, 0, 2⟩
def F.pwrState_steward_mode : RF := ⟨.pwrState, 2, 1⟩
def F.pwrState_leak : RF := ⟨.pwrState, 3, 1⟩
def F.pwrState_trip : RF := ⟨.pwrState, 4, 1⟩
def F.pwrTokens_value : RF := ⟨.pwrTokens, 0, 64⟩
def F.rtrCnStat_merged : RF := ⟨.rtrCnStat, 0, 16⟩
def F.rtrCnStat_dropped : RF := ⟨.rtrCnStat, 16, 8⟩
def F.rtrLinkErr_north : RF := ⟨.rtrLinkErr, 0, 12⟩
def F.rtrLinkErr_east : RF := ⟨.rtrLinkErr, 12, 12⟩
def F.rtrLinkErr_south : RF := ⟨.rtrLinkErr, 24, 12⟩
def F.rtrLinkErr_west : RF := ⟨.rtrLinkErr, 36, 12⟩
def F.rtrLinkErr_rim : RF := ⟨.rtrLinkErr, 48, 12⟩
def F.rtrRate_tc0 : RF := ⟨.rtrRate, 0, 7⟩
def F.rtrRate_tc1 : RF := ⟨.rtrRate, 8, 7⟩
def F.rtrRate_tc2 : RF := ⟨.rtrRate, 16, 7⟩
def F.sbGpio_out : RF := ⟨.sbGpio, 0, 12⟩
def F.sbGpio_oe : RF := ⟨.sbGpio, 16, 12⟩
def F.sbGpio_in : RF := ⟨.sbGpio, 32, 12⟩
def F.sbLed_duty : RF := ⟨.sbLed, 0, 10⟩
def F.sbLed_open : RF := ⟨.sbLed, 16, 1⟩
def F.sbPinmux_gpio : RF := ⟨.sbPinmux, 0, 24⟩
def F.sbPinmux_pwrcap : RF := ⟨.sbPinmux, 24, 2⟩
def F.sbStat_cap_duty : RF := ⟨.sbStat, 0, 10⟩
def F.sbStat_cap_low : RF := ⟨.sbStat, 10, 1⟩
def F.sbStat_leak : RF := ⟨.sbStat, 11, 1⟩
def F.sbStat_reset_in : RF := ⟨.sbStat, 12, 1⟩
def F.sbStat_flow_hz : RF := ⟨.sbStat, 16, 16⟩
def F.seqCount_value : RF := ⟨.seqCount, 0, 32⟩
def F.seqFault_reason : RF := ⟨.seqFault, 0, 4⟩
def F.seqFault_pc : RF := ⟨.seqFault, 4, 48⟩
def F.seqFault_valid : RF := ⟨.seqFault, 63, 1⟩
def F.seqFetchStall_cycles : RF := ⟨.seqFetchStall, 0, 64⟩
def F.seqForecast_matured : RF := ⟨.seqForecast, 0, 7⟩
def F.seqForecast_pending : RF := ⟨.seqForecast, 8, 7⟩
def F.seqPc_addr : RF := ⟨.seqPc, 0, 48⟩
def F.seqRampStall_cycles : RF := ⟨.seqRampStall, 0, 64⟩
def F.seqStatus_state : RF := ⟨.seqStatus, 0, 2⟩
def F.seqStatus_standby : RF := ⟨.seqStatus, 2, 1⟩
def F.seqTensorId_id : RF := ⟨.seqTensorId, 0, 32⟩
def F.seqUstep_number : RF := ⟨.seqUstep, 0, 32⟩
def F.seqUstep_epoch : RF := ⟨.seqUstep, 32, 16⟩
def F.seqUstepLimit_limit : RF := ⟨.seqUstepLimit, 0, 20⟩
def F.seqUstepTime_longest : RF := ⟨.seqUstepTime, 0, 20⟩
def F.speCompress_bitmap : RF := ⟨.speCompress, 0, 24⟩
def F.speCompress_index : RF := ⟨.speCompress, 24, 24⟩
def F.speCompress_errors : RF := ⟨.speCompress, 48, 16⟩
def F.speDropped_entries : RF := ⟨.speDropped, 0, 32⟩
def F.speMalformed_rows : RF := ⟨.speMalformed, 0, 16⟩
def F.speMalformed_headers : RF := ⟨.speMalformed, 16, 16⟩
def F.speProofLog_row : RF := ⟨.speProofLog, 0, 32⟩
def F.speProofLog_col : RF := ⟨.speProofLog, 32, 6⟩
def F.speProofLog_kind : RF := ⟨.speProofLog, 38, 2⟩
def F.speProofLog_epoch : RF := ⟨.speProofLog, 40, 16⟩
def F.speProofLog_valid : RF := ⟨.speProofLog, 63, 1⟩
def F.speProofStat_col_fail : RF := ⟨.speProofStat, 0, 16⟩
def F.speProofStat_row_fail : RF := ⟨.speProofStat, 16, 16⟩
def F.speProofStat_unchecked : RF := ⟨.speProofStat, 32, 32⟩
def F.speQueueStall_cycles : RF := ⟨.speQueueStall, 0, 64⟩
def F.speRuns_sparse : RF := ⟨.speRuns, 0, 32⟩
def F.speRuns_dense : RF := ⟨.speRuns, 32, 32⟩
def F.speStatus_sparse : RF := ⟨.speStatus, 0, 1⟩
def F.speStatus_layout : RF := ⟨.speStatus, 1, 2⟩
def F.speStatus_nnz : RF := ⟨.speStatus, 3, 13⟩
def F.speThreshold_density : RF := ⟨.speThreshold, 0, 16⟩
def F.tilePhases_in_service : RF := ⟨.tilePhases, 0, 16⟩
def F.tilePhases_shed : RF := ⟨.tilePhases, 16, 4⟩
def F.tileStatus_current : RF := ⟨.tileStatus, 0, 10⟩
def F.tileStatus_limit : RF := ⟨.tileStatus, 10, 10⟩
def F.tileStatus_distress : RF := ⟨.tileStatus, 20, 1⟩
def F.tileStatus_capped : RF := ⟨.tileStatus, 21, 1⟩
def F.tileStatus_die_ceiling : RF := ⟨.tileStatus, 22, 7⟩
def F.tileStatus_ref_secondary : RF := ⟨.tileStatus, 29, 1⟩
def F.tileStatus_holdover : RF := ⟨.tileStatus, 30, 1⟩
def F.tileStatus_temp_c : RF := ⟨.tileStatus, 32, 8⟩
def F.vregDroop_min_ps : RF := ⟨.vregDroop, 0, 8⟩
def F.vregDroop_target : RF := ⟨.vregDroop, 8, 8⟩
def F.vregDroop_stretches : RF := ⟨.vregDroop, 32, 32⟩
def F.vregPoint_divisor : RF := ⟨.vregPoint, 0, 3⟩
def F.vregPoint_state : RF := ⟨.vregPoint, 3, 2⟩
def F.vregPoint_mv : RF := ⟨.vregPoint, 5, 10⟩
def F.vregPoint_ceiling : RF := ⟨.vregPoint, 15, 7⟩
def F.vregPoint_activity : RF := ⟨.vregPoint, 22, 7⟩

end Sys2Proof.Machine
end

