-- ==== Sys2Proof/Machine/State.lean ====
section
/-! DEFINITION. The state of the module as plain data, its reset value, and the two ways a command can stop. -/
namespace Sys2Proof.Machine

/-- One open REPEAT: address of the body's first word, address after its last, executions left (R91). -/
structure Loop where
  start : Nat
  stop : Nat
  left : Nat
  deriving DecidableEq, Repr
/-- The boundary state of R95: next instruction, REPEAT stack, micro-step and epoch numbers, and the five
schedule-writable registers of R512. -/
structure Boundary where
  pc : Nat
  loops : List Loop
  number : Nat
  epoch : Nat
  tensorId : Nat
  inScale : Nat
  convA : Nat
  convB : Nat
  threshold : Nat
  deriving DecidableEq, Repr
/-- The loaded tile (R153, R157): weight codes as placed, row by row, its per-tensor scale code, its block scale bytes. -/
structure Tile where
  fmt : Fmt
  scale : Nat
  w : List Nat
  /-- Further weights of a position that an INDEX tile names more than once, by 64·k + n, in storage order (R149, R185, R193). -/
  more : List (Nat × Nat) := []
  sw : Nat
  blk : List Nat
  km1 : Nat
  nm1 : Nat
  poison : Bool
  deriving DecidableEq, Repr
/-- Descriptor kinds in flight: those of R58, GATHER and MIRROR. -/
inductive DKind
  | dramRead | dramWrite | corePush | reduceSend | dramCopy | gather | mirror
  deriving DecidableEq, Repr
/-- A descriptor in flight (R57, R63). `sent` counts bytes injected, or list entries for a GATHER; `open_` its packets that hold tags. -/
structure Desc where
  seq : Nat
  kind : DKind
  ctr : Option Nat
  remCtr : Nat
  compress : Bool
  bchk : Bool
  len : Nat
  loc : Nat
  remote : Nat
  addr2 : Nat
  /-- GATHER: the row indices and the row length in 64 B units. -/
  list : List (Option Nat)
  rowLen : Nat
  sent : Nat
  open_ : Nat
  /-- Scratchpad rows of which one fragment has landed, and by row + 2^18 those whose first fragment was poisoned (R52). -/
  parts : NSet
  /-- Bytes of the scratchpad range still to be written (inbound) or read (outbound), R54. -/
  active : Bool
  /-- DMA_ACCESS_FAULT already raised (R60). -/
  faulted : Bool
  /-- Rows of the compressed tile and their poison (R200); none for a plain descriptor. -/
  packed : Option (List Row × Bool)
  /-- A resend of R353 increments no local counter. -/
  again : Bool
  /-- Epoch open when the descriptor issued (R339). -/
  epoch : Nat
  /-- The outbound block whose check was computed last: block, check, and whether its entry disagreed (R53). -/
  blkChk : Option (Nat × BitVec 32 × Bool) := none
  deriving DecidableEq, Repr
/-- A DMA tag held by a packet (R64): byte offset of the packet in its descriptor's scratchpad range, and block-check retries. -/
structure TagUse where
  num : Nat
  desc : Nat
  off : Nat
  tries : Nat
  /-- Answers still awaited: two for a DRAM_COPY packet whose destination straddles a block, else one. -/
  acks : Nat
  pkt : Pkt
  deriving DecidableEq, Repr

/-- A 4 KiB scratchpad block that packets with the block-check flag are filling: bytes landed, whether its check failed a third time, and
whether a packet of it was poisoned (R53, R338). -/
structure Landing where
  bytes : Nat
  bad : Bool
  taint : Bool
  deriving DecidableEq, Repr
def Landing.init : Landing := ⟨0, false, false⟩

/-- What one physical core holds beside its registers and scratchpad. -/
structure CoreSt where
  /-- Core state of R36: 0 GOOD, 1 DERATED, 2 TESTING, 3 FENCED_FACTORY, 4 FENCED_FIELD. -/
  state : Nat
  /-- Derating steps of supply and divisor (R35). -/
  derateV : Nat
  derateD : Nat
  tile : Option Tile
  loops : List Loop
  bound : Boundary
  /-- The last instruction was a STEP barrier (R101). -/
  afterStep : Bool
  /-- Mark of the CHKPT_MARK executed in this micro-step (R90). -/
  mark : Option Nat
  /-- The barrier the core waits at: STEP or GROUP, tag, group. -/
  atBar : Option (Bool × Nat × Nat)
  /-- END has dispatched in this run (R101). -/
  ended : Bool
  /-- FORECAST levels not yet matured, oldest first (R88). -/
  forecasts : List Nat
  descs : List Desc
  tags : List TagUse
  /-- Generation of each tag (R292). -/
  gens : Tab Nat
  nextSeq : Nat
  /-- Failure of the open epoch: 0 proof, 1 range (R176, R336). -/
  epochFail : Option Nat
  /-- Closed epochs whose token is not yet sent, with their verdicts (R342). -/
  verdicts : List (Nat × Bool)
  /-- Epoch and node of every receiver of provisional data (R342). -/
  consumers : List (Nat × Nat)
  /-- Dependency table: producer and lowest epoch (R341). -/
  deps : List (Nat × Nat)
  /-- CORE_PUSH and REDUCE_SEND descriptors of this micro-step (R353). -/
  sentLog : List Desc
  /-- Pass 1 bytes sent in this micro-step, by stream × 2^19 + block (R249). -/
  kept : Tab Nat
  /-- Blocks this core has retracted, by the same key (R249, R258). -/
  retracted : NSet
  /-- The core's copy of the alias table (R104) and of the home table (R225). -/
  xlat : Tab Nat
  homes : Tab Nat
  /-- Rows received of each descriptor: source node, its sequence number, packets so far (R63). -/
  inbound : List (Nat × Nat × Nat)
  /-- Suppression mark of a replay: descriptors of the micro-step that send nothing (R357). -/
  suppress : Option Nat
  /-- Recovery stamp the core puts into packets (R356). -/
  stamp : Nat
  /-- Time of the last STEP release and whether USTEP_OVERRUN was raised since (R100). -/
  releasedAt : Nat
  overrun : Bool
  /-- MIRROR data was received in this micro-step (R352). -/
  mirrored : Bool
  /-- Payload bytes sent in the open epoch, for INT.DIGEST (R358), as a running CRC. -/
  digest : BitVec 32
  /-- Divisor commanded and awaited while a supply rises (R463). -/
  rising : Option Nat
  /-- Divisor before the thermal and distress steps, and the steps taken (R459, R467). -/
  govDiv : Nat
  thermSteps : Nat
  distSteps : Nat
  /-- The scratchpad was woken by a window access while in HOLD (R49). -/
  woken : Bool
  /-- Times of the last rate decrease by class (R293). -/
  cutAt : Tab Nat
  /-- Boundary state at the start of the step, for a step replay (R360). -/
  stepBound : Boundary
  /-- Provisional data received in this micro-step: producer, its epoch, this core's epoch then (R355). -/
  got : List (Nat × Nat × Nat)
  /-- Closed epochs of this micro-step with the next descriptor number at the close, and the number at its start (R357). -/
  epochEnd : List (Nat × Nat)
  boundSeq : Nat
  /-- Cap ceiling, and whether the distress ceiling of 32 is held (R455, R459, R475). -/
  capCeil : Nat
  distCeil : Bool
  /-- Array cycles are being stretched (R457). -/
  stretch : Bool
  /-- Replays of each input of the core's router in this 1 ms interval (R281, R294). -/
  replays : Tab Nat
  /-- Inbound block transfers under way, by scratchpad block (R53). -/
  landing : Tab Landing
  /-- The instruction whose dispatch waits, by its first word: later ones wait behind it (R74). -/
  held : Option Word
  /-- Passing tokens received in this micro-step: producer and epoch (R339, R342). -/
  proven : List (Nat × Nat)
  /-- The instruction buffer: the 4 KiB blocks of the program it holds, by partition block number, oldest first, 16 of them at most (R70). -/
  ibuf : List Nat
  /-- Pass 1 descriptors issued since the micro-step began or began again: stream, first block, blocks. Their raw rows hold good (R260). -/
  offered : List (Nat × Nat × Nat)
  deriving DecidableEq, Repr
/-- A core at reset: nothing loaded, nothing in flight. -/
def CoreSt.init : CoreSt where
  state := 0
  derateV := 0
  derateD := 0
  tile := none
  loops := []
  bound := ⟨0, [], 0, 0, 0, 0, 0, 0, 0x6666⟩
  afterStep := false
  mark := none
  atBar := none
  ended := false
  forecasts := []
  descs := []
  tags := []
  gens := []
  nextSeq := 0
  epochFail := none
  verdicts := []
  consumers := []
  deps := []
  sentLog := []
  kept := []
  retracted := []
  xlat := []
  homes := []
  inbound := []
  suppress := none
  stamp := 0
  releasedAt := 0
  overrun := false
  mirrored := false
  digest := 0
  rising := none
  govDiv := 0
  thermSteps := 0
  distSteps := 0
  woken := false
  cutAt := []
  stepBound := ⟨0, [], 0, 0, 0, 0, 0, 0, 0x6666⟩
  got := []
  epochEnd := []
  boundSeq := 0
  capCeil := 64
  distCeil := false
  stretch := false
  replays := []
  landing := []
  held := none
  proven := []
  ibuf := []
  offered := []

/-- What the barrier root has counted for one barrier: arrivals, tag, mark, and whether they differ (R96, R306). -/
structure Arrivals where
  count : Nat
  tag : Nat
  mark : Option Nat
  differ : Bool
  deriving DecidableEq, Repr

/-- A recovery under way (R354): the failed logical core (`noLogical` for a standby) and its physical core, the fault's event number and detail, the
stage reached, whether the core's fault repeated, the replay set with first tainted epochs, and what it became. -/
structure Recovery where
  logical : Nat
  phys : Nat
  ev : Nat
  detail : Nat
  /-- 0 held and isolated, 1 retried, 2 drained and switched, 3 replaying. -/
  stage : Nat
  epoch : Nat
  repeats : Bool
  replay : List (Nat × Nat)
  deriving DecidableEq, Repr
/-- Logical number of a fault at a core that holds none: above every logical core, below the remote cores of R344. -/
def noLogical : Nat := 65535
/-- The fault is at a core of this module. -/
def Recovery.isLocal (r : Recovery) : Bool := decide (r.logical < 65536)
/-- What the drain waits for of a fault: its retry, but for a range failure, whose cross-check needs the replacement's digest (R358). -/
def Recovery.ready (r : Recovery) (rangeFail : Nat) : Bool := decide (r.stage = 1) || (decide (r.stage = 0) && decide (r.ev = rangeFail))
/-- An order taken from a queue or a datagram and not yet complete: the path it came by, its tag, its 64 bytes, how far it is (0 waiting to be
ready, 1 ready to start, 2 started), and the cycles of its arbiter in which it was taken and in which it became ready (R380, R381). -/
structure OrderSt where
  path : Path
  tag : Nat
  words : Row
  stage : Nat
  taken : Nat
  since : Nat
  deriving DecidableEq, Repr
/-- A checkpoint copy of a partition (R236 to R238): its order, slot, mark, units listed, blocks awaited. -/
structure Copy where
  order : OrderSt
  slot : Nat
  mark : Nat
  /-- Blocks sent and not yet acknowledged by the target. -/
  unacked : NSet
  /-- The header has been sent, and is all that is awaited. -/
  header : Bool
  /-- The snapshot has been taken. -/
  taken : Bool
  deriving DecidableEq, Repr
/-- A restore under way (R240, R395): its order, blocks still to write, failing blocks so far. -/
structure Restore where
  order : OrderSt
  bad : Nat
  deriving DecidableEq, Repr

/-- What the stewards hold for one partition beside its registers. -/
structure PartSt where
  cap : Option Capsule
  /-- The partition's alias table, entry by entry (R102). -/
  aliasTab : Tab Nat
  /-- Steps this run was given by START, 0 for the capsule's own count (R388). -/
  stepLimit : Nat
  warmup : Nat
  recCount : Nat
  /-- An alias switch since the last step boundary (R328). -/
  switched : Bool
  /-- Generation counts at the last fit check (R327). -/
  fitSeen : Option (Nat × Nat × Bool)
  /-- PLAN_NORMAL_REFUSED has been raised for that check (R328). -/
  fitTold : Bool
  arrivals : Option Arrivals
  groupArr : List (Nat × Arrivals)
  /-- PAUSEs whose HOLD is on its way to the root, and those it has: the order, or none for a cap pause, and the hold time (R97, R389). -/
  pauseAsked : List (Option OrderSt × Nat)
  pausePend : List (Option OrderSt × Nat)
  /-- The partition is paused; the hold time left to run, 0 for none. -/
  paused : Option Nat
  /-- A hold of a STOP action (R346). -/
  stopHold : Bool
  /-- A STOP action has ended the open groups: their packets are acknowledged and add nothing (R346, R528). -/
  groupsEnded : Bool
  /-- Every release is withheld (R361). -/
  faultHold : Bool
  /-- CANCEL of kind 1 withholds the next release (R391). -/
  cancelled : Bool
  recov : Option Recovery
  /-- Faults that met the recovery: those that joined it before its drain, and cores whose cross-check still runs after the switch (R358,
  R362). -/
  faults : List Recovery
  /-- Logical numbers that a switch has moved and that are not yet restored (R354, R362). -/
  moved : List Nat
  /-- Tokens the root holds for this micro-step: core, epoch, pass (R343). -/
  tokens : List (Nat × Nat × Bool)
  /-- Provisional producers on other modules whose tokens are awaited (R344). -/
  foreign : List (Nat × Nat)
  /-- Live period and offset of each update group (R269, R329). -/
  periods : List (Nat × Nat × Nat)
  /-- Groups at whose commit barrier the release is withheld, with their verdict once formed (1 finite, 2 non-finite, 4 incomplete, 3
  lost) and row 0 of the record as the verdict read it (R270, R272 to R274). -/
  resolving : List (Nat × Nat × Nat)
  /-- Groups of which a PREPARED is held, with the member's module (R275). -/
  prepared : List (Nat × Nat)
  recMicro : Nat
  recStep : Nat
  /-- Logical numbers failed in this step (R361). -/
  failedStep : List Nat
  /-- Steps begun since START and the micro-step number at the step's start. -/
  stepNo : Nat
  stepStart : Nat
  copy : Option Copy
  /-- CHECKPOINTs that wait in turn, in the order taken (R394). -/
  copyQueue : List OrderSt
  restore : Option Restore
  /-- FEEDs completed: buffer and step (R392). -/
  fed : List (Nat × Nat)
  /-- Stream groups joined (R396), and those joined since OPEN (R373). -/
  joined : List Nat
  joinedEver : List Nat
  /-- A LOAD_CAPSULE that has been validated and is being loaded (R385). -/
  loading : Option (OrderSt × Capsule)
  /-- The CLOSE that a teardown completes (R397). -/
  closing : Option OrderSt
  /-- The micro-step since the last boundary carried this checkpoint mark (R90). -/
  markNow : Option Nat
  /-- Blocks lost to a lost member (R274). -/
  memberLost : Bool
  /-- A replay is running, for MICROSTEP_REPLAYED at its release (R359). -/
  replaying : Bool
  /-- Groups committed or skipped at the barrier now withheld (R273). -/
  resolved : List Nat
  /-- The release now withheld has been counted as a feed wait (R392). -/
  feedWait : Bool
  /-- START waits for the FEEDs of step 0 (R392). -/
  beginWait : Bool
  /-- The last release changed the plan, so cores take the new plan's body (R329). -/
  planMove : Bool
  /-- Governor moves chosen for the next release: core, faster or slower (R465). -/
  moves : List (Nat × Bool)
  /-- Cores that return as standbys, reported after the replayed micro-step's release (R359). -/
  returned : List Nat
  /-- Tokens a committed step credits, as of the last step boundary (R480). -/
  tokensLive : Nat
  /-- Last power drawn when a cap pause took effect (R475). -/
  pausedWatts : Nat
  /-- As `ModSt.past`, for the partition's own figures (R480). -/
  past : List (Nat × Nat × Nat)
  /-- Time the pause took effect (R389, R469). -/
  pausedAt : Nat
  /-- Logical core, reason and pc of the SEQ_FAULT last recovered in this micro-step (R346). -/
  seqFault : Option (Nat × Nat × Nat)
  /-- The pause ends once the module has left HOLD (R389, R471). -/
  resumeDue : Bool
  deriving DecidableEq, Repr
def PartSt.init : PartSt where
  cap := none
  aliasTab := []
  stepLimit := 0
  warmup := 0
  recCount := 0
  switched := false
  fitSeen := none
  fitTold := false
  arrivals := none
  groupArr := []
  pauseAsked := []
  pausePend := []
  paused := none
  stopHold := false
  groupsEnded := false
  faultHold := false
  cancelled := false
  recov := none
  faults := []
  moved := []
  tokens := []
  foreign := []
  periods := []
  resolving := []
  prepared := []
  recMicro := 0
  recStep := 0
  failedStep := []
  stepNo := 0
  stepStart := 0
  copy := none
  copyQueue := []
  restore := none
  fed := []
  joined := []
  joinedEver := []
  loading := none
  closing := none
  markNow := none
  memberLost := false
  replaying := false
  resolved := []
  feedWait := false
  beginWait := false
  planMove := false
  moves := []
  returned := []
  tokensLive := 0
  pausedWatts := 0
  past := []
  pausedAt := 0
  seqFault := none
  resumeDue := false

/-- One counted value contribution of a block: provenance, the part of it not yet proven, poison (R253, R258). -/
structure RedContrib where
  prov : List (Nat × Nat)
  unproven : List (Nat × Nat)
  poison : Bool
  deriving DecidableEq, Repr
/-- An open reduction block at its home; R253 gives the part of it that the sum area shows. -/
structure RedBlk where
  part : Nat
  stream : Nat
  block : Nat
  /-- Running maximum or agreed byte, contributions of exponents and whether any was poisoned. -/
  e : Nat
  exps : Nat
  expPoison : Bool
  /-- 32 element sums, none for the marker; empty before the first contribution. -/
  sums : List (Option Int)
  vals : List RedContrib
  /-- TREE: slot and its 32 codes (R257). -/
  slots : List (Nat × List Nat)
  /-- Pass 1 packets that wait for agreed bytes, pass 0 packets that wait for the close (R247, R254). -/
  waitE : List Pkt
  waitV : List Pkt
  reopen : Bool
  /-- The domain's agreed byte before the reopen now pending (R261). -/
  was : Option Nat
  /-- A TREE block that closes again after a retraction: its tensor is summed and sent again (R262). -/
  resum : Bool
  /-- Raw values received for the rebuild, by producer, with poison and provenance still unproven (R260). -/
  raws : List (Nat × List Nat × RedContrib)
  /-- Producers whose corrected values the rebuild already holds. -/
  rebuilt : List Nat
  /-- Producers that have retracted and not yet sent again. -/
  retracted : List Nat
  closed : Bool
  /-- Peers' maximum bytes and module sums by rank (R255), and the sums last sent to them (R261). -/
  peerMax : List (Nat × Nat)
  peerPoison : Bool
  peerSum : List (Nat × List (Option Int))
  sent : Option (List (Option Int))
  /-- Poison of the sums last sent, and the peers whose module sums came poisoned (R314). -/
  sentBad : Bool
  peerBad : List Nat
  /-- Closed as lost (R274). -/
  lost : Bool
  deriving DecidableEq, Repr
/-- A group or private stream read waiting at its home (R228, R230). -/
structure StreamWait where
  /-- Stream group, or none for a private stream. -/
  group : Option Nat
  offset : Nat
  layer : Nat
  reqs : List Pkt
  since : Nat
  deriving DecidableEq, Repr
/-- A whole-block read being delivered in packets: block, source, descriptor, bytes left, the block's bytes, its poison
and check (R217). -/
structure BlkRead where
  blk : Nat
  src : Nat
  seq : Nat
  left : Nat
  data : Nat
  poison : Bool
  crc : BitVec 32
  deriving DecidableEq, Repr
/-- A checkpoint copy at one site: partition, slot, GiB units still to copy (the first under way), next block in it, and the blocks already read ahead (R236, R237). -/
structure SiteCopy where
  part : Nat
  slot : Nat
  units : List Nat
  pos : Nat
  early : NSet
  deriving DecidableEq, Repr
/-- What one ledger die holds beside its registers and DRAM. -/
structure SiteSt where
  /-- Ledger engines in service, one bit each (R263, R337). -/
  engines : Nat
  blocks : List RedBlk
  waits : List StreamWait
  /-- Group and partition of the members active here, and of those joined and not yet active (R229). -/
  active : List (Nat × Nat)
  joining : List (Nat × Nat)
  /-- Elements updated by the site's engines since reset (R276). -/
  updated : Nat
  /-- Dirty units: (partition × 2^18 + GiB) × 2 + slot (R235). -/
  dirty : NSet
  /-- Whole-block reads and block-check writes of which packets are still to come (R216, R217). -/
  reads : List BlkRead
  wip : List Pkt
  copying : List SiteCopy
  /-- Copy-ahead buffer: partition, partition block number, its bytes, poison and check (R237). -/
  ahead : List (Nat × Nat × Nat × Bool × BitVec 32)
  /-- Blocks that have left the copy buffer on their way to the edge port die while a write waited for space (R210, R237; log 100). -/
  leaving : List (Nat × Nat × Nat × Bool × BitVec 32)
  /-- By channel, one more than the time of the last request since it left self-refresh in module HOLD (R221). -/
  reqAt : Tab Nat
  /-- Tokens kept until the STEP release: partition, core, epoch, pass (R258). -/
  tokens : List (Nat × Nat × Nat × Bool)
  /-- Next test-slice window and the start time of the last slice, by channel (R222). -/
  sliceAt : Tab Nat
  sliceTime : Tab Nat
  /-- Channels whose refresh interval is halved: a hot stack or a derated channel (R220, R350). -/
  refreshHalf : Nat
  /-- Blocks that hold provisional data: block key, partition, producer's logical core, epoch and stamp (R339). -/
  provs : List (Nat × Nat × Nat × Nat × Nat)
  deriving DecidableEq, Repr
def SiteSt.init : SiteSt where
  engines := 255
  blocks := []
  waits := []
  active := []
  joining := []
  updated := 0
  dirty := []
  reads := []
  wip := []
  copying := []
  ahead := []
  leaving := []
  reqAt := []
  tokens := []
  sliceAt := []
  sliceTime := []
  refreshHalf := 0
  provs := []

/-- Check, held and poison of a 4 KiB tensor block, and the bytes replaced since the last poisoned write, as a mask (R216 to R218).
An unlisted block is zero with its check held and no poison, as bring-up and teardown leave it (R372, R497). -/
structure BlkMeta where
  crc : BitVec 32
  held : Bool
  poison : Bool
  parts : Nat
  deriving DecidableEq, Repr
def BlkMeta.init : BlkMeta := ⟨0x98F94189, true, false, 0⟩

/-- A block of a buddy module's checkpoint (R239): its bytes, poison and check. -/
structure RecvBlk where
  data : Nat
  poison : Bool
  crc : BitVec 32
  deriving DecidableEq, Repr

/-- A completion entry (R378) without its phase and time. -/
structure Completion where
  tag : Nat
  code : Nat
  opcode : Nat
  part : Nat
  detail : Nat
  result : Nat
  deriving DecidableEq, Repr
/-- What one access path or virtual function holds beside its registers. -/
structure FnSt where
  /-- Role of the open session: 0 tenant, 1 admin by key, 2 admin by password (R384). -/
  session : Option Nat
  nonce : BitVec 256
  nonceValid : Bool
  /-- Order entries handed over by tail writes or datagrams and not yet taken by the arbiter (R374, R380). -/
  fetched : List Row
  /-- Orders taken and not complete, oldest first. -/
  orders : List OrderSt
  /-- Completions held while the ring is full or the link is down (R374, R435). -/
  held : List Completion
  /-- Latched upper half of a 64-bit register: its address and value (R510). -/
  latch : Option (Nat × Nat)
  /-- Source the management datagrams of the session come from (R439). -/
  peer : Option Nat
  /-- Time the lockout ends (R370). -/
  lockEnd : Nat
  /-- Source of each order that came in a datagram, by tag, newest first (R439). -/
  srcs : List (Nat × Nat)
  deriving DecidableEq, Repr
def FnSt.init : FnSt where
  session := none
  nonce := 0
  nonceValid := false
  fetched := []
  orders := []
  held := []
  latch := none
  peer := none
  lockEnd := 0
  srcs := []

/-- What a compute die's power tile and the thermal governor hold beside the TILE registers (R455 to R467). -/
structure DieSt where
  /-- What distress has taken off the die ceiling. -/
  distDrop : Nat
  thermCeil : Nat
  /-- Over its thermal limit, with the event raised for the episode. -/
  hot : Bool
  /-- Recovered: divisors and ceiling return at the next release. -/
  cooled : Bool
  /-- THERMAL_STEP has been raised in this episode. -/
  told : Bool
  /-- Sum of the matured and noted forecast levels of its cores, by core (R456). -/
  levels : Tab Nat
  deriving DecidableEq, Repr
def DieSt.init : DieSt := ⟨0, 64, false, false, false, []⟩

/-- One event controller beside its registers: undelivered occurrences, timer start times and due classes (R405), record
queue slots (R411). -/
structure EvcSt where
  u : Tab Nat
  timer : Tab (Option Nat)
  due : NSet
  records : Tab (Option EvRec)
  /-- Records already reported in event notices, as a queue index (R439). -/
  noticed : Nat
  deriving DecidableEq, Repr
def EvcSt.init : EvcSt := ⟨[], [], [], [], 0⟩

/-- What leaves the module other than packets and control messages. -/
inductive Out
  /-- One MSI-X message of a partition's virtual function, or one pulse on the steward line (R406). -/
  | msix (p : Nat)
  | stewardLine
  /-- A completion entry written to the path's ring, slot and phase (R374, R378). -/
  | completion (path : Nat) (slot phase : Nat) (c : Completion)
  /-- A Kifildo Link frame sent on a sub-port. -/
  | frame (sub : Nat) (f : KlFrame)
  /-- Data written to host memory by READ_OUT: path, host address, bytes, value (R393). -/
  | hostData (path addr len data : Nat)
  /-- A checkpoint block or header sent to a CXL device: host port, slot, header, block, bytes, poison and check (R238, R437). -/
  | cxlWrite (port addr slot : Nat) (header : Bool) (block data : Nat) (poison : Bool) (crc : BitVec 32)
  /-- A PFC frame: sub-port, priority, quanta (R421). -/
  | pfc (sub prio quanta : Nat)
  /-- The stewards' answer to a frame of an edge port die's exception queue (R429). -/
  | answer (edge : Nat) (f : RxFrame)
  /-- A management datagram: port, kind, sequence number, window offset, body (R438). -/
  | datagram (port kind seq off body : Nat)
  /-- The value a register or window read returns, by path, address and size (R505 to R511). -/
  | read (path addr size value : Nat)
  /-- An SMBus answer by command code (R440), the alert response, a JTAG scan (R441). -/
  | smbus (code value : Nat)
  | alertResponse
  | jtag (value : Nat)
  /-- Bytes of a scratchpad window read (R49). -/
  | spadData (core addr len value : Nat)
  deriving DecidableEq, Repr

/-- One channel of a connection (R426): next number to send, frames sent and unacknowledged with their retransmissions,
frames that wait for the window, next number to receive, frames that came early. -/
structure Chan where
  next : Nat
  unacked : List (KlFrame × Nat)
  backlog : List KlFrame
  expect : Nat
  early : List KlFrame
  deriving DecidableEq, Repr
def Chan.init : Chan := ⟨1, [], [], 1, []⟩
/-- A connection: a sub-port (8 × port + sub-port) and a peer module (R426, R427). -/
structure Conn where
  sub : Nat
  peer : Nat
  /-- 0 closed, 1 open, 2 refused. -/
  status : Nat
  gotHello : Bool
  gotAck : Bool
  ver : Nat
  chans : List Chan
  deriving DecidableEq, Repr
def Conn.init (sub peer : Nat) : Conn := ⟨sub, peer, 0, false, false, 1, [.init, .init, .init]⟩

/-- What an edge port die holds beside its registers: the stewards' exception queue, the 1 ms interval in which it last raised
PARSER_EXCEPTION plus 1, the quanta of each paused priority (sub-port × 8 + priority), and the priorities it has paused at its
peers (R421, R429). -/
structure EdgeSt where
  exceptions : List RxFrame
  raised : Nat
  paused : Tab Nat
  xoff : NSet
  deriving DecidableEq, Repr
def EdgeSt.init : EdgeSt := ⟨[], 0, [], []⟩
/-- What the stewards and S0 hold beside registers and units (R440 to R446, R470 to R475, R484, R492). -/
structure ModSt where
  /-- Input absent or out of range: the module is OFF (R470). -/
  off : Bool
  /-- MOD_PG, MOD_READY and THERM_TRIP_N driven low (R442). -/
  pg : Bool
  ready : Bool
  tripped : Bool
  /-- The module is on its way out of HOLD, and the STARTs and RESUMEs that wait for it (R471). -/
  exiting : Bool
  wakers : List OrderSt
  /-- Caps of the pin and of SMBus, 0 for none; target and source last announced (R474). -/
  pinCap : Nat
  smbusCap : Nat
  /-- Second, tokens and energy in mJ at each of the last 60 whole seconds, newest first (R480). -/
  past : List (Nat × Nat × Nat)
  capTarget : Nat
  capSource : Nat
  /-- CML bit of STATUS_WORD (R474). -/
  cml : Bool
  /-- Pins in their 2 µs break, SB_GPIO0 to 11 and 12 for PWRCAP_IN; whether the PWRCAP_IN window held one (R445). -/
  breaking : NSet
  spoiled : Bool
  /-- FLOW_TACH pulses counted since the given second of the time base (R444). -/
  flow : Nat
  flowAt : Nat
  /-- The console has taken the admin password (R441). -/
  console : Bool
  /-- JTAG instruction: 0 BYPASS, 1 IDCODE, 2 SAMPLE/PRELOAD, 3 EXTEST; boundary register (R441). -/
  jtag : Nat
  boundary : Nat
  /-- Configuration Store operation under way: op, slot, offset (R492); its buffer and the held chunk of each slot. -/
  op : Option (Nat × Nat × Nat)
  buf : Memory
  held : Memory
  heldFor : NSet
  /-- Health log: half in use, records in it, last log sequence number (R484). -/
  logHalf : Nat
  logPos : Nat
  logSeq : Nat
  /-- Arbitration cycles run, by arbiter (R380). -/
  cycles : Tab Nat
  deriving DecidableEq, Repr
def ModSt.init : ModSt where
  off := true
  pg := false
  ready := false
  tripped := false
  exiting := false
  wakers := []
  pinCap := 0
  smbusCap := 0
  past := []
  capTarget := 24000
  capSource := 0
  cml := false
  breaking := []
  spoiled := false
  flow := 0
  flowAt := 0
  console := false
  jtag := 1
  boundary := 0
  op := none
  buf := []
  held := []
  heldFor := []
  logHalf := 0
  logPos := 0
  logSeq := 0
  cycles := []

/-- A health record entry (R348), times in seconds, newest fault first; `due` is a change not yet written to the log in the Configuration Store
(R351). -/
structure Health where
  state : Nat
  cause : Nat
  count : Nat
  times : List Nat
  changed : Nat
  due : Bool
  /-- Time of the last write of the entry. -/
  wroteAt : Option Nat
  deriving DecidableEq, Repr
/-- An entry with no history. -/
def Health.init : Health := ⟨0, 0, 0, [], 0, false, none⟩

/-- Commands that stop raise one of these. No command of this model does: every row has an effect. -/
inductive Fault
  /-- An address outside the 40-bit internal space was used by the model itself. Raised by nothing; safe. -/
  | noSuchAddress
  deriving DecidableEq, Repr
/-- Commands the model turns away. -/
inductive Refusal
  /-- A row that has no meaning yet, by its mnemonic. Raised by `exec` alone; safe. -/
  | notModelled (mnemonic : String)
  deriving DecidableEq, Repr

/-- One leg of a carry-line route: the line and the cores it runs between (R297). -/
structure Leg where
  line : Nat
  frm : Nat
  to_ : Nat
  deriving DecidableEq, Repr
/-- A packet held at a tap: the core, outbound or return channel, the legs still to run, the first on the line it waits to enter (R298). -/
structure Tap where
  core : Nat
  ret : Bool
  legs : List Leg
  pkt : Pkt
  deriving DecidableEq, Repr
/-- What the fabric and the control net hold beside the packets and messages under way. -/
structure FabSt where
  /-- Carry lines out of service (R297, R495): row lines 4·y + 2·west + n, column lines 256 + 4·x + 2·north + n (R296). -/
  lineOut : NSet
  /-- Rim crossings out of service: 64 × side + side offset (R37, R495). -/
  rimOut : NSet
  taps : List Tap
  /-- Packets of ring dies and stewards whose check failed, kept at their source until it sends them again (R289). -/
  copies : List Pkt
  /-- Next sequence number of each source of control messages (R304). -/
  ctlSeq : Tab Nat
  deriving DecidableEq, Repr
def FabSt.init : FabSt := ⟨[], [], [], [], []⟩

/-- The whole module. -/
structure State where
  /-- Registers by key, an unlisted one at its reset value (R4, R7). -/
  regs : Tab Word
  cores : Tab CoreSt
  parts : Tab PartSt
  sites : Tab SiteSt
  /-- Functions: 0 to 63 the partitions' virtual functions, 64 to 67 the physical functions, 68 and 69 the management ports. -/
  fns : Tab FnSt
  evcs : Tab EvcSt
  dies : Tab DieSt
  edges : Tab EdgeSt
  mod : ModSt
  /-- Image slots of the Configuration Store, key slot × 2^28 + offset; an erased byte reads 0xFF (R483). -/
  flash : Tab Byte
  /-- Congestion map entries by core (R294), and report halves heard in the interval being written: 2 × router + half (R295). -/
  congMap : Tab Word
  congHeard : NSet
  /-- Scratchpads: key core × 2^24 + address (R42). -/
  spad : Memory
  /-- Poisoned rows: core × 2^18 + row address (R44). -/
  spadPoison : NSet
  /-- Block-check entries that are valid: core × 2048 + block (R53). -/
  spadChk : Tab (Option (BitVec 32))
  /-- DRAM: key (site × 32 + channel) × 2^31 + address (R209). -/
  dram : Memory
  /-- Metadata by (site × 32 + channel) × 2^19 + block. -/
  blk : Tab BlkMeta
  /-- Checkpoints received into the LDG.RECV frames: ((module × 64 + partition) × 2 + slot) × 2^41 + block, the header at 2^40 (R239). -/
  recv : Tab (Option RecvBlk)
  image : Option Image
  /-- Health record by unit number (R347); it survives every reset. -/
  health : Tab Health
  fab : FabSt
  /-- Packets, control messages and event records under way. -/
  net : List Pkt
  ctl : List Ctl
  evNet : List (Nat × EvRec)
  /-- Next sequence number of each source at each controller: source × 128 + controller (R413). -/
  evSeq : Tab Nat
  /-- Connections, and frames delivered in order and not yet acted on. -/
  conns : List Conn
  klRx : List KlFrame
  /-- When each peer was last heard: partition × 2^16 + module, time + 1 (R274). -/
  heard : Tab Nat
  out : List Out
  /-- Time base in ticks of 10 ns. -/
  now : Nat
  /-- Free values drawn so far (the model's own field; log 4). -/
  freeCtr : Nat
  /-- Commands waiting, first in, first out. -/
  pending : List Instr
  deriving DecidableEq, Repr

/-- The module with no power: every register at its reset value, everything else empty. -/
def State.reset : State where
  regs := []
  cores := []
  parts := []
  sites := []
  fns := []
  evcs := []
  dies := []
  edges := []
  mod := .init
  flash := []
  congMap := []
  congHeard := []
  spad := []
  spadPoison := []
  spadChk := []
  dram := []
  blk := []
  recv := []
  image := none
  health := []
  fab := .init
  net := []
  ctl := []
  evNet := []
  evSeq := []
  conns := []
  klRx := []
  heard := []
  out := []
  now := 0
  freeCtr := 0
  pending := []

end Sys2Proof.Machine
end

