-- ==== Sys2Proof/Machine/Packet.lean ====
section
/-! DEFINITION. Packets and control messages in their bytes: codes, classes and channels, flits, checks, and the merging of reduction
packets (R248, R250, R251, R282 to R285, R304, R305, R340). -/
namespace Sys2Proof

/-! ### Fabric packets (R282 to R285) -/

/-- Kind code of a packet (R283). A DRAM_COPY's request is kind 0. -/
def PktKind.code : PktKind → Nat
  | .readReq | .copyReq => 0
  | .writeData => 1
  | .readResp => 2
  | .ack => 3
  | .fenced => 4
  | .refused => 5
  | .resend => 6
  | .reduction => 7
  | .gatherReq => 8
  | .stream => 9
  | .mirror => 10
  | .push => 11
/-- Class and virtual channel of a packet as it is injected (R283, R285). `k.tc` of an answer is the class it answers: TC2 answers on its
own VC1, every other class on TC1 VC1, where R285 puts answers. A multicast's copies reach their cores on the column leg, VC1. -/
def Pkt.channel (k : Pkt) : Nat × Nat :=
  match k.kind with
  | .readReq | .copyReq | .gatherReq => (0, if k.src < 4096 then 0 else 1)
  | .writeData | .push | .mirror => (1, 0)
  | .readResp => (1, 1)
  | .ack | .fenced | .refused | .resend => (if k.tc = 2 then 2 else 1, 1)
  | .reduction => (2, if k.src < 4096 ∨ k.src = 0x1050 then 0 else 1)
  | .stream => if k.mcast then (3, 1) else (1, 1)
/-- Flits of a packet: header, trailer and payload in 128 B (R282). -/
def Pkt.flits (k : Pkt) : Nat := cdiv (64 + 64 * k.data.length) 128
/-- The reduction fields of R250 as one number, in the order and widths of its table (log 92). -/
def RedHdr.word (h : RedHdr) : Nat :=
  h.stream % 2 ^ 12 + (h.b0 % 2 ^ 19) <<< 12 + (h.pass % 2) <<< 31 + (h.kind % 4) <<< 32 + (h.prov.length % 8) <<< 34
    + (pack 32 ((h.prov.take 4).map (fun e => e.1 % 2 ^ 16 + (e.2 % 2 ^ 16) <<< 16))) <<< 37 + (pack 8 (h.ebytes.take 4)) <<< 165
/-- The class fields of a header, bytes 16 to 47 (R57, R250, R282, R287, R340). -/
def Pkt.classFields (k : Pkt) : Nat :=
  match k.red with
  | some h => h.word + (k.prod.2.2 % 256) <<< 248
  | none => k.addr % 2 ^ 64 + (k.addr2 % 2 ^ 128) <<< 64
      + (if k.kind = .writeData ∨ k.kind = .mirror ∨ k.kind = .push then
          (k.prod.1 % 2 ^ 16) <<< 128 + (k.prod.2.1 % 2 ^ 16) <<< 144 + (k.prod.2.2 % 256) <<< 248 else 0)
/-- Bytes 0 and 1 of the header. -/
def Pkt.flags (k : Pkt) : Nat :=
  k.tc % 4 + (k.vc % 2) <<< 2 + k.kind.code <<< 3 + k.prov.toNat <<< 7 + k.poison.toNat <<< 8 + k.bchk.toNat <<< 9 + k.ce.toNat <<< 10
    + k.ece.toNat <<< 11 + k.mcast.toNat <<< 12 + k.detour.toNat <<< 13
/-- The 48 B header as one little-endian number (R282). -/
def Pkt.header (k : Pkt) : Nat :=
  k.flags + (if k.mcast then 0 else k.dst % 2 ^ 16) <<< 16 + (k.src % 2 ^ 16) <<< 32 + (k.part % 256) <<< 48 + (min 8 k.data.length) <<< 56
    + (k.tag % 256) <<< 64 + (k.gen % 16) <<< 72 + (k.resend % 4) <<< 76 + (k.remCtr % 256) <<< 80 + (k.seq % 2 ^ 16) <<< 96
    + (k.total % 2 ^ 16) <<< 112 + k.classFields <<< 128
/-- Packet check: CRC-32C over header and payload with bits [13:10] of bytes 0 and 1 taken as zero (R282). -/
def Pkt.check (k : Pkt) : BitVec 32 :=
  crc32c (leBytes ({ k with ce := false, ece := false, mcast := false, detour := false } : Pkt).header 48 ++ rowsBytes k.data)
/-- A packet as its injecting router completes it: class, channel and packet check (R283, R284). -/
def Pkt.sealed (k : Pkt) : Pkt :=
  let k : Pkt := { k with tc := k.channel.1, vc := k.channel.2, detour := false }
  { k with chk := k.check }
/-- Answers a packet with its tag, generation and sequence number, and echoes a congestion mark (R283, R293). -/
def pktAnswer (k : Pkt) (kind : PktKind) (frm : Nat) : Pkt :=
  { k with kind := kind, src := frm, dst := k.src, data := [], poison := false, ce := false, ece := k.ce, bchk := false, prov := false
           mcast := false, merged := [] }
/-- A packet of read data, with the producer of what is provisional in it (R339, R340). -/
def Pkt.withProv (k : Pkt) (pr : Option (Nat × Nat × Nat)) : Pkt := { k with prov := pr.isSome, prod := pr.getD (0, 0, 0) }
/-- The answers a packet draws: its own, and one for each packet merged into it, which the stations it merged at send back (R247, R254,
R297; log 60). -/
def pktAnswers (k : Pkt) (kind : PktKind) (frm : Nat) : List Pkt :=
  pktAnswer k kind frm :: k.merged.map (fun e => { pktAnswer k kind frm with dst := e.1, tag := e.2.1, gen := e.2.2.1, seq := e.2.2.2 })
/-- Two packets that differ in transit bits alone. -/
def Pkt.same (a b : Pkt) : Bool := decide ({ a with ce := false, chk := 0 } = { b with ce := false, chk := 0 })
/-- Two packets whose headers are the same but for transit bits; a delivery whose header is nobody's came with its header damaged (R289). -/
def Pkt.sameHeader (a b : Pkt) : Bool := ({ a with data := [], poison := false } : Pkt).same { b with data := [], poison := false }
/-- Takes a delivered packet out of those under way: itself, by its header where its payload came damaged, or the packets merged into it where
they travel on as they were sent. -/
def dropPkt (k : Pkt) (l : List Pkt) : List Pkt :=
  match (l.find? (fun x => x.same k)).or (l.find? (fun x => x.sameHeader k)) with
  | some x => dropFirst x l
  | none => l.filter (fun x => !(x.kind = .reduction && k.kind = .reduction && !k.merged.isEmpty
      && ((k.src, k.tag, k.gen, k.seq) :: k.merged).contains (x.src, x.tag, x.gen, x.seq)))

/-! ### Merging (R248, R251, R300) -/

/-- A GR32 sum of two elements as a station forms it: 32-bit two's complement, a marker in either operand giving a marker (R123, R251). -/
def mergeElem (a b : Nat) : Nat := if a = 2 ^ 31 ∨ b = 2 ^ 31 then 2 ^ 31 else (a + b) % 2 ^ 32
/-- Payload of two merged packets: sums of 32-bit elements, or the bytewise maximum of exponents (R248, R251). -/
def mergeData (pass : Nat) (a b : List Row) : List Row :=
  let x := ofRows a
  let y := ofRows b
  if pass = 1 then toRows (pack 8 ((rangeFrom 0 (64 * a.length)).map (fun i => max (elem x 8 i) (elem y 8 i)))) a.length
  else toRows (pack 32 ((rangeFrom 0 (16 * a.length)).map (fun i => mergeElem (elem x 32 i) (elem y 32 i)))) a.length
/-- Two reduction packets that a station may merge, and what it then sends: pass 0 contributions with equal stream, first block, length
and ebytes, both provisional or both proven, at most 4 provenance entries together (R251); pass 1 packets with the same stream, first
block and length (R248), whose merged packet is provisional where either is. `grid` says the stream is a GRID stream: R251 adds GR32. -/
def mergePkts (grid : Bool) (a b : Pkt) : Option Pkt :=
  match a.red, b.red with
  | some h, some g =>
    if a.part = b.part ∧ h.stream = g.stream ∧ h.b0 = g.b0 ∧ h.pass = g.pass ∧ a.len = b.len ∧ a.data.length = b.data.length
        ∧ h.kind = 0 ∧ g.kind = 0 ∧ h.prov.length + g.prov.length ≤ 4 ∧ a.dst = b.dst ∧ a.resend = 0 ∧ b.resend = 0
        ∧ (h.pass = 1 ∨ (grid = true ∧ h.ebytes = g.ebytes ∧ a.prov = b.prov)) then
      some ({ a with red := some { h with prov := h.prov ++ g.prov }, data := mergeData h.pass a.data b.data, poison := a.poison || b.poison
                     prov := a.prov || b.prov, merged := a.merged ++ [(b.src, b.tag, b.gen, b.seq)] ++ b.merged } : Pkt).sealed
    else none
  | _, _ => none

/-! ### Control messages (R304, R305) -/

/-- Type code of a control message. -/
def CtlMsg.code : CtlMsg → Nat
  | .barArrive .. => 0
  | .barRelease .. => 1
  | .proofToken .. => 2
  | .retractToken .. => 3
  | .aliasUpdate .. => 4
  | .forecastNote .. => 5
  | .supplyDistress => 6
  | .hold .. => 7
  | .groupDrop .. => 8
  | .resendRaw .. => 9
  | .congReport .. => 11
  | .stewardOrder .. => 12
/-- Addressing mode a message to a node is sent with: toward the barrier root, a partition broadcast, a logical core for the tokens that a
core sends to cores, or the node (R304, R306, R342). -/
def CtlMsg.modeTo (dst : Nat) : CtlMsg → Nat
  | .barArrive .. | .hold .. => 3
  | .barRelease .. => 2
  | .proofToken .. | .retractToken .. => if dst < 4096 then 1 else 0
  | _ => 0
/-- Payload of a message, in the fields R305 gives; a payload it names without a layout holds its numbers in order (log 92). -/
def CtlMsg.payload : CtlMsg → Nat
  | .barArrive tag merged differ isStep group mark =>
    tag % 2 ^ 16 + (merged % 2 ^ 16) <<< 16 + differ.toNat <<< 32 + (!isStep).toNat <<< 33 + (group % 256) <<< 34
      + mark.isSome.toNat <<< 42 + (mark.getD 0 % 2 ^ 16) <<< 43
  | .barRelease tag isStep group => tag % 2 ^ 16 + (!isStep).toNat <<< 16 + (group % 256) <<< 17
  | .proofToken core epoch pass | .retractToken core epoch pass => core % 2 ^ 16 + (epoch % 2 ^ 16) <<< 16 + pass.toNat <<< 32
  | .aliasUpdate entry new gen => entry % 2 ^ 12 + (new % 2 ^ 16) <<< 12 + (gen % 2 ^ 16) <<< 28
  | .forecastNote level => level % 128
  | .supplyDistress => 0
  | .hold kind => kind
  | .groupDrop group part => group % 64 + (part % 256) <<< 6
  | .resendRaw stream block => stream % 2 ^ 12 + (block % 2 ^ 19) <<< 12
  | .congReport _ _ counts => pack 12 counts
  | .stewardOrder part slot => part % 256 + slot <<< 8
/-- A control message in its 16 bytes (R304). -/
def Ctl.word (m : Ctl) : BitVec 128 :=
  BitVec.ofNat 128 (m.msg.code + m.high.toNat <<< 4 + (m.mode % 4) <<< 5 + (m.part % 256) <<< 8
    + (if 2 ≤ m.mode then 0 else m.dst % 2 ^ 16) <<< 16 + (m.src % 2 ^ 16) <<< 32 + (m.seq % 2 ^ 16) <<< 48 + m.msg.payload <<< 64)

/-! ### Frame headers (R424) -/

/-- The 32 B header of a frame with a payload of `len` bytes; bytes 18 to 31 are zero but for what the type puts there (log 24). -/
def KlFrame.header (f : KlFrame) (len : Nat) : BitVec 256 :=
  BitVec.ofNat 256 (f.ver % 8 + (f.body.type % 32) <<< 3 + f.prov.toNat <<< 8 + f.poison.toNat <<< 9 + f.retx.toNat <<< 10
    + (f.dst % 2 ^ 14) <<< 16 + (f.src % 2 ^ 14) <<< 32 + (f.part % 256) <<< 48 + (f.body.chan % 4) <<< 56 + (f.seq % 2 ^ 32) <<< 64
    + (f.cum % 2 ^ 32) <<< 96 + (len % 2 ^ 16) <<< 128)
/-- The frame that a header announces, with what its type's fields and payload say. A reserved type says nothing. -/
def KlFrame.ofHeader (h : BitVec 256) (b : KlBody) : KlFrame :=
  let at_ (lo n : Nat) : Nat := bits h lo n
  { ver := at_ 0 3, prov := bit h 8, poison := bit h 9, retx := bit h 10, dst := at_ 16 14, src := at_ 32 14, part := at_ 48 8, seq := at_ 64 32
    cum := at_ 96 32, body := if 11 ≤ at_ 3 5 then .reserved (at_ 3 5) else b }
/-- Payload length that a received frame's header states. -/
def RxFrame.klLen (r : RxFrame) : Nat := bits r.head 128 16
/-- The Kifildo Link frame received. -/
def RxFrame.frame (r : RxFrame) : KlFrame := KlFrame.ofHeader r.head r.body
/-- The trailer is the CRC-32C over header and payload. -/
def RxFrame.klOk (r : RxFrame) : Bool := decide (crc32c (leBytes r.head.toNat 32 ++ r.payload.take r.klLen) = r.trailer)
/-- The MAC drops the frame: bad FCS, oversize, a runt, or a codeword that the FEC cannot correct (R418). -/
def RxFrame.macDrops (r : RxFrame) : Bool := r.macBad || decide (r.fecBad ≠ 0) || decide (r.len < 64) || decide (9216 < r.len)

end Sys2Proof
end

