-- ==== Sys2Proof/Machine/Geometry.lean ====
section
/-! DEFINITION. Ring positions, attach cores, routes over the mesh and the carry lines, hop and seam counts, and latency classes (R21 to
R30, R37, R284, R286, R296, R297). -/
namespace Sys2Proof.Machine

/-- Side offsets of the attach run of each ring position (R23). -/
def runFirst (p : Nat) : Nat := [0, 5, 10, 16, 21, 26, 32, 38, 43, 48, 54, 59].getD p 0
def runLast (p : Nat) : Nat := [4, 9, 15, 20, 25, 31, 37, 42, 47, 53, 58, 63].getD p 0
/-- Side and position of a ring table entry: M00 to M39, then E0 to E7 (R22, R38). -/
def ringSide (t : Nat) : Nat := if t < 40 then t / 10 else (t - 40) / 2
def ringPos (t : Nat) : Nat :=
  if t < 40 then (if t % 10 < 5 then t % 10 else t % 10 + 2) else 5 + (t - 40) % 2
/-- Outermost core of a side offset, as x and y (R24). -/
def sideCore (side o : Nat) : Nat × Nat :=
  match side with
  | 0 => (o, 0)
  | 1 => (63, o)
  | 2 => (63 - o, 63)
  | _ => (0, 63 - o)
/-- |a − b|. -/
def apart (a b : Nat) : Nat := (a - b) + (b - a)
/-- Ring table entry attached at a side offset (R22, R23). -/
def ringAt (side o : Nat) : Nat :=
  ((rangeFrom 0 48).find? (fun t => decide (ringSide t = side) && decide (runFirst (ringPos t) ≤ o) && decide (o ≤ runLast (ringPos t)))).getD 0
/-- Attach core of a ring die for a core: fewest hops, ties to the lower side offset (R27). Rim crossings out of service take no part,
where any of the run is left in service (R37; log 93). -/
def State.attachCore (s : State) (c t : Nat) : Nat × Nat :=
  let side := ringSide t
  let first := runFirst (ringPos t)
  let run := rangeFrom first (runLast (ringPos t) + 1 - first)
  let up := run.filter (fun o => !s.fab.rimOut.contains (64 * side + o))
  let hop (o : Nat) : Nat := let a := sideCore side o; apart (c % 64) a.1 + apart (c / 64) a.2
  match (if up.isEmpty then run else up) with
  | o :: l => sideCore side (l.foldl (fun b o => if hop o < hop b then o else b) o)
  | [] => sideCore side first
/-- Die of a core (R25). -/
def dieOf (c : Nat) : Nat := 8 * (c / 512) + c % 64 / 8
/-- The 64 cores of a die. -/
def dieCores (d : Nat) : List Nat :=
  (rangeFrom 0 64).map (fun k => 64 * (8 * (d / 8) + k / 8) + 8 * (d % 8) + k % 8)
/-- Node numbers of ledger dies and of the stewards, S0 first (R284). -/
def siteNode (m : Nat) : Nat := 0x1000 + m
def stewardNode : Nat := 0x1050
/-- Corner core of a steward die: S0 north-west, S1 north-east, S2 south-east, S3 south-west (R22, R24). -/
def stewardCore (n : Nat) : Nat := [0, 63, 4095, 4032].getD n 0

/-! ### Mesh routes (R286) -/

/-- Seam channel between two adjacent cores of different dies (R347). -/
def seamChan (a b : Nat) : Option Nat :=
  let x := a % 64
  let y := a / 64
  if y = b / 64 then
    (if x / 8 = b % 64 / 8 then none else some (8 * (7 * (y / 8) + min x (b % 64) / 8) + y % 8))
  else if y / 8 = b / 64 / 8 then none
  else some (8 * (56 + 8 * (min y (b / 64) / 8) + x / 8) + x % 8)
/-- A seam channel is out of service (R350). -/
def State.seamOut (s : State) (n : Nat) : Bool := decide ((Tab.get (fun _ => Health.init) s.health (0x2000 + n)).state = 3)
/-- The core beside another along a seam that a detour crosses at: the lower-numbered where the seam has one, else the higher (R286). -/
def besideSeam (a b : Nat) : Nat :=
  if a / 64 = b / 64 then (if a / 64 % 8 = 0 then a + 64 else a - 64) else if a % 8 = 0 then a + 1 else a - 1
/-- Cores entered on the way from a core to an adjacent one. A seam channel out of service is passed by the detour of R286, one core along
the seam, across and back. Where that neighbour's channel is out of service too the spec gives no other way, and the model takes the same
two hops. DESIGN CHOICE (log 93). -/
def State.hopTo (s : State) (a b : Nat) : List Nat :=
  match seamChan a b with
  | some n => if s.seamOut n then [besideSeam a b, besideSeam b a, b] else [b]
  | none => [b]
/-- Numbers passed from `a` to `b`, `a` left out. -/
def between (a b : Nat) : List Nat := if a ≤ b then rangeFrom (a + 1) (b - a) else (rangeFrom b (a - b)).reverse
/-- Cores entered from one core to another, all of X first and then all of Y (R286). -/
def meshPath (a b : Nat) : List Nat :=
  (between (a % 64) (b % 64)).map (fun x => 64 * (a / 64) + x) ++ (between (a / 64) (b / 64)).map (fun y => 64 * y + b % 64)
/-- The route between two cores, with its detours. -/
def State.hops (s : State) (a b : Nat) : List Nat :=
  ((meshPath a b).foldl (fun (r : Nat × List Nat) n => (n, r.2 ++ s.hopTo r.1 n)) (a, [])).2
/-- Core that a packet of a node enters the mesh at, or leaves it at, on its way from or to a core: a ring die's attach core nearest the
other end, a steward's corner core; a power tile's messages go through its die's core (0,0) (R24, R27, R286, R301). -/
def State.nodeCore (s : State) (n c : Nat) : Nat :=
  let at_ (t : Nat) : Nat := let a := s.attachCore c t; 64 * a.2 + a.1
  if n < 4096 then n else if n < 0x1040 then at_ (n - 0x1000) else if n < 0x1050 then at_ (40 + (n - 0x1040))
  else if n < 0x1100 then stewardCore (n - 0x1050) else 512 * ((n - 0x1100) / 8) + 8 * ((n - 0x1100) % 8)
/-- Cores a unicast packet enters: between two ring dies the injecting core is that nearest the other's run, from its own run's first. -/
def State.pktRoute (s : State) (k : Pkt) : List Nat :=
  let b := s.nodeCore k.dst (s.nodeCore k.src 0)
  let a := s.nodeCore k.src b
  let b := s.nodeCore k.dst a
  a :: s.hops a b
/-- Core nodes that a control message passes, X then Y (R301). -/
def State.ctlRoute (s : State) (src dst : Nat) : List Nat :=
  let b := s.nodeCore dst (s.nodeCore src 0)
  let a := s.nodeCore src b
  a :: meshPath a b
/-- Hops, seams and class of a core's distance to a ring die by the route in use, a detour adding two hops (R27, R28, R30, R37, R286). -/
def State.distance (s : State) (c t : Nat) : Nat × Nat × Nat :=
  let a := s.attachCore c t
  let h := (s.hops c (64 * a.2 + a.1)).length + 1
  let n := apart (c % 64 / 8) (a.1 / 8) + apart (c / 512) (a.2 / 8)
  let d := 16 * h + 14 * n + 8
  (h, n, if d ≤ 64 then 0 else if d ≤ 256 then 1 else if d ≤ 512 then 2 else if d ≤ 768 then 3 else if d ≤ 1024 then 4 else 5)
/-- Latency class of a core to a ring die. -/
def State.ringClass (s : State) (c t : Nat) : Nat := (s.distance c t).2.2

/-! ### Carry lines (R296, R297) -/

/-- Number of a row's line and of a column's line (R296). -/
def rowLine (y : Nat) (west : Bool) (n : Nat) : Nat := 4 * y + 2 * west.toNat + n % 2
def colLine (x : Nat) (north : Bool) (n : Nat) : Nat := 256 + 4 * x + 2 * north.toNat + n % 2
/-- Ring table entry of the die a line ends at, attached at its side offset (R24, R296). -/
def lineEnd (l : Nat) : Nat :=
  let i := l % 256 / 4
  let back : Bool := decide (l / 2 % 2 = 1)
  if l < 256 then (if back then ringAt 3 (63 - i) else ringAt 1 i) else if back then ringAt 0 i else ringAt 2 (63 - i)
/-- The legs of a reduction packet from a core to its home by the line of its stream: row then column for a home north or south, column then
row for one east or west; a leg of no length toward the turn is left out (R297, R299). -/
def State.carryLegs (s : State) (c t stream : Nat) : List Leg :=
  let a := s.attachCore c t
  let x := c % 64
  let y := c / 64
  let e := 64 * a.2 + a.1
  if ringSide t % 2 = 0 then
    (if x = a.1 then [] else [⟨rowLine y (decide (a.1 < x)) stream, c, 64 * y + a.1⟩])
      ++ [⟨colLine a.1 (decide (ringSide t = 0)) stream, 64 * y + a.1, e⟩]
  else
    (if y = a.2 then [] else [⟨colLine x (decide (a.2 < y)) stream, c, 64 * a.2 + x⟩])
      ++ [⟨rowLine a.2 (decide (ringSide t = 3)) stream, 64 * a.2 + x, e⟩]
/-- Where a TC2 packet first waits: at the tap of its first leg, a core's packet on the outbound channel and a home's answer on the return
channel of the reverse route, where every line of the route is in service; else it takes the mesh. Module sums do too (R297, R298). -/
def State.tapOf (s : State) (k : Pkt) : List Tap :=
  match k.red with
  | some h =>
    if k.tc ≠ 2 ∨ h.kind = 3 then []
    else
      let home (n : Nat) : Bool := decide (0x1000 ≤ n) && decide (n < 0x1028)
      if k.src < 4096 ∧ home k.dst then
        let l := s.carryLegs k.src (k.dst - 0x1000) h.stream
        if l.any (fun g => s.fab.lineOut.contains g.line) then [] else [⟨k.src, false, l, k⟩]
      else if home k.src ∧ k.dst < 4096 then
        let l := (s.carryLegs k.dst (k.src - 0x1000) h.stream).reverse.map (fun g => { g with frm := g.to_, to_ := g.frm })
        if l.any (fun g => s.fab.lineOut.contains g.line) then [] else [⟨(l.head?.map (·.frm)).getD k.dst, true, l, k⟩]
      else []
  | none => []

end Sys2Proof.Machine
end

