-- ==== Sys2Proof/Machine/Ops.lean ====
section
/-! DEFINITION. Named operations over registers, cores, scratchpads, events and the fault policy. -/
namespace Sys2Proof.Machine

/-! ### Registers -/

/-- Reset value of a register instance: its field table, and the values that the tables give per instance (R25, R43, R415). -/
def Reg.resetWord (r : Reg) (i : Nat) : Word :=
  let base := BitVec.ofNat 64 (r.fields.foldl (fun a f => a + f.reset <<< f.lo) 0)
  match r with
  | .coreId => BitVec.ofNat 64 (i + (i % 64) <<< 16 + (i / 64) <<< 22)
  | .evtCoal | .evtCoalShadow => if i % 16 = 0 then BitVec.ofNat 64 (32 + 20 <<< 16) else 0
  | .evtCtrl => if i = 64 then 4 else 0
  | .evtEvent => match Ev.ofNum (decide (i / 512 < 64)) (i % 512) with
    | some e => BitVec.ofNat 64 (1 <<< 16 + e.cls <<< 17)
    | none => 0
  | .modId => BitVec.ofNat 64 (Config.stepping.toNat <<< 20 + (Config.serial.toNat % 2 ^ 32) <<< 32) + base
  | _ => base
/-- Key of a register instance in the register table. -/
def Reg.key (r : Reg) (i : Nat) : Nat := r.idx + 256 * i
/-- Reset value by key. -/
def regDefault (k : Nat) : Word :=
  match Reg.all[k % 256]? with
  | some r => r.resetWord (k / 256)
  | none => 0

namespace State
variable (s : State)
/-- Value of a register instance. -/
def reg (r : Reg) (i : Nat) : Word := Tab.get regDefault s.regs (r.key i)
/-- Stores a register instance. -/
def setReg (r : Reg) (i : Nat) (v : Word) : State := { s with regs := Tab.put regDefault (r.key i) v s.regs }
/-- Value of a field of a register instance. -/
def getF (f : RF) (i : Nat) : Nat := bits (s.reg f.reg i) f.lo f.len
/-- Hardware update of a field. -/
def setF (f : RF) (i v : Nat) : State := s.setReg f.reg i (setBits (s.reg f.reg i) f.lo f.len v)
/-- A tally grows and saturates (R68). -/
def bumpF (f : RF) (i n : Nat) : State := s.setF f i (satAdd f.len (s.getF f i) n)
/-- Sets a one-bit field. -/
def setB (f : RF) (i : Nat) (b : Bool) : State := s.setF f i (if b then 1 else 0)
def flagF (f : RF) (i : Nat) : Bool := s.getF f i = 1
/-- A log register takes a value only while its valid bit is clear (R68, R107, R177). -/
def logF (valid : RF) (i v : Nat) : State :=
  if s.flagF valid i then s else s.setReg valid.reg i (BitVec.ofNat 64 (v + 2 ^ valid.lo))

/-! ### Units -/
def core (c : Nat) : CoreSt := Tab.get (fun _ => CoreSt.init) s.cores c
def setCore (c : Nat) (v : CoreSt) : State := { s with cores := Tab.put (fun _ => CoreSt.init) c v s.cores }
def modCore (c : Nat) (f : CoreSt → CoreSt) : State := s.setCore c (f (s.core c))
def part (p : Nat) : PartSt := Tab.get (fun _ => PartSt.init) s.parts p
def setPart (p : Nat) (v : PartSt) : State := { s with parts := Tab.put (fun _ => PartSt.init) p v s.parts }
def modPart (p : Nat) (f : PartSt → PartSt) : State := s.setPart p (f (s.part p))
def site (m : Nat) : SiteSt := Tab.get (fun _ => SiteSt.init) s.sites m
def setSite (m : Nat) (v : SiteSt) : State := { s with sites := Tab.put (fun _ => SiteSt.init) m v s.sites }
def modSite (m : Nat) (f : SiteSt → SiteSt) : State := s.setSite m (f (s.site m))
def fn (k : Nat) : FnSt := Tab.get (fun _ => FnSt.init) s.fns k
def setFn (k : Nat) (v : FnSt) : State := { s with fns := Tab.put (fun _ => FnSt.init) k v s.fns }
def modFn (k : Nat) (f : FnSt → FnSt) : State := s.setFn k (f (s.fn k))
def evc (k : Nat) : EvcSt := Tab.get (fun _ => EvcSt.init) s.evcs k
def setEvc (k : Nat) (v : EvcSt) : State := { s with evcs := Tab.put (fun _ => EvcSt.init) k v s.evcs }
def modEvc (k : Nat) (f : EvcSt → EvcSt) : State := s.setEvc k (f (s.evc k))
def die (k : Nat) : DieSt := Tab.get (fun _ => DieSt.init) s.dies k
def setDie (k : Nat) (v : DieSt) : State := { s with dies := Tab.put (fun _ => DieSt.init) k v s.dies }
def modDie (k : Nat) (f : DieSt → DieSt) : State := s.setDie k (f (s.die k))
def edge (k : Nat) : EdgeSt := Tab.get (fun _ => EdgeSt.init) s.edges k
def setEdge (k : Nat) (v : EdgeSt) : State := { s with edges := Tab.put (fun _ => EdgeSt.init) k v s.edges }
def modEdge (k : Nat) (f : EdgeSt → EdgeSt) : State := s.setEdge k (f (s.edge k))
def modMod (f : ModSt → ModSt) : State := { s with mod := f s.mod }
/-- Drives one output of the module. -/
def emit (o : Out) : State := { s with out := s.out ++ [o] }
def modFab (f : FabSt → FabSt) : State := { s with fab := f s.fab }
/-- Puts a packet into the fabric: its router completes the header, and reduction packets go to their tap (R284, R297). -/
def inject (p : Pkt) : State :=
  { s with net := s.net ++ [p.sealed], fab := { s.fab with taps := s.fab.taps ++ s.tapOf p.sealed } }
/-- A packet leaves the fabric where it is consumed, and any tap. -/
def consume (k : Pkt) : State :=
  { s with net := dropPkt k s.net, fab := { s.fab with taps := s.fab.taps.filter (fun t => (dropPkt k s.net).contains t.pkt) } }
/-- A delivery as its endpoint sees it. A router marks a packet that leaves more than FAB.CC_MARK.threshold flits behind it in a 10-flit
buffer (R277, R293): a mark that the buffer leaves no room for was not set. -/
def seen (k : Pkt) : Pkt := { k with ce := k.ce && decide (s.getF F.fabCcMark_threshold 0 + k.flits < 10) }
/-- Puts a message onto the control net (R304): priority as its type's, the source's next sequence number. -/
def send (m : CtlMsg) (p dst src : Nat) : State :=
  let q := Tab.get (fun _ => 0) s.fab.ctlSeq src
  { s with ctl := s.ctl ++ [⟨m, m.isHigh, p, dst, src, m.modeTo dst, q⟩]
           fab := { s.fab with ctlSeq := Tab.put (fun _ => 0) src ((q + 1) % 65536) s.fab.ctlSeq } }
/-- A control message arrives: one whose priority bit disagrees with its type is discarded and counted at the node that
injected it (R304). -/
def takeCtl (m : Ctl) (f : State → State) : State :=
  let s := { s with ctl := dropFirst m s.ctl }
  if m.high = m.msg.isHigh then f s
  else if m.src < 4096 then s.bumpF F.rtrCnStat_dropped m.src 1
  else if m.dst < 4096 then s.bumpF F.rtrCnStat_dropped m.dst 1
  else s
/-- Partition that owns a core's cluster; none for a core of no partition (R364). -/
def ownerOf (c : Nat) : Option Nat :=
  match s.image with
  | some im => (im.parts.find? (fun d => d.clusters.contains (32 * (c / 128) + c % 64 / 2))).map (·.num)
  | none => none
/-- Cores of a partition. -/
def coresOf (p : Nat) : List Nat :=
  match s.image with
  | some im => match im.parts.find? (fun d => d.num = p) with
    | some d => d.clusters.flatMap (fun k => let c := 128 * (k / 32) + 2 * (k % 32); [c, c + 1, c + 64, c + 65])
    | none => []
  | none => []
/-- Applies an update to each element of a list of units. -/
def forAll {α : Type} (l : List α) (f : State → α → State) : State := l.foldl f s
end State

/-! ### Alias table (R102 to R104) -/
/-- Core index of an entry. -/
def entryCore (e : Nat) : Nat := 64 * (e / 64 % 64) + e % 64
/-- Kind of an entry: 0 unused, 1 active, 2 standby. -/
def entryKind (e : Nat) : Nat := e / 4096 % 4
/-- The physical core of a logical number by the partition's table, if the entry is active. -/
def State.physOf (s : State) (p n : Nat) : Option Nat :=
  let e := Tab.get (fun _ => 0) (s.part p).aliasTab n
  if n < 4096 ∧ entryKind e = 1 then some (entryCore e) else none
/-- Active logical core numbers of a partition. -/
def State.activeOf (s : State) (p : Nat) : List Nat :=
  ((s.part p).aliasTab.filter (fun kv => decide (entryKind kv.2 = 1))).map (·.1)
/-- Logical number of a physical core. -/
def State.logicalOf (s : State) (p c : Nat) : Option Nat :=
  ((s.part p).aliasTab.find? (fun kv => decide (entryKind kv.2 = 1) && decide (entryCore kv.2 = c))).map (·.1)

/-! ### Events (R399 to R414) -/
/-- Sends one record to one controller with the source's next sequence number there (R413). -/
def State.record (s : State) (e : Ev) (src ctrl part detail : Nat) : State :=
  let k := src * 128 + ctrl
  let q := Tab.get (fun _ => 0) s.evSeq k
  { s with
    evSeq := Tab.put (fun _ => 0) k ((q + 1) % 65536) s.evSeq
    evNet := s.evNet ++ [(ctrl, ⟨e.num, src, q, part, s.now, detail % 2 ^ 128⟩)] }
/-- Raises an event at its controllers (R400): P at the partition's or, where none is concerned, at the module's; M at the module's. -/
def State.raise (s : State) (e : Ev) (src : Nat) (p : Option Nat) (detail : Nat) : State :=
  let pn := p.getD 255
  let s := match p with
    | some k => if e.atPart then s.record e src k pn detail else s
    | none => s
  if e.atModule || (e.atPart && p.isNone) then s.record e src 64 pn detail else s

/-! ### The floor-plan record (R32) -/
/-- A completed rebuild of one partition's view (R32). -/
def State.rebuildView (s : State) (p : Nat) : State :=
  let s := (s.setF F.partFpGen_busy p 0).setF F.partFpGen_count p (s.getF F.partFpGen_count p + 1)
  s.record .floorplanUpdated stewardNode p p 0
/-- A rebuild of the full record rebuilds every partition view, and raises FLOORPLAN_UPDATED at each controller. The first one is
that at the end of bring-up; safe mode has none (R32, R491). -/
def State.rebuild (s : State) : State :=
  if s.getF F.modState_state 0 = 0 ∨ s.getF F.modState_state 0 = 2 then s else
  let s := (s.setF F.modFpGen_busy 0 0).setF F.modFpGen_count 0 (s.getF F.modFpGen_count 0 + 1)
  (s.record .floorplanUpdated stewardNode 64 255 0).forAll (rangeFrom 0 64) State.rebuildView

/-! ### The fault policy (R345, R346) -/
/-- Sequencer state field values of R108. -/
def stStopped : Nat := 0
def stRunning : Nat := 1
def stWaiting : Nat := 2
def stHeld : Nat := 3
/-- STOP: a hold at the root, FAULT_STOPPED from RUNNING, PARTITION_STOPPED. `ends` says that the fault's class ends the open groups, which they
do as the hold reaches the root (R346; log 81). -/
def State.stopPart (s : State) (p : Nat) (ends : Bool) : State :=
  let s := (s.modPart p (fun q => { q with stopHold := true })).send (.hold (if ends then 3 else 2)) p 0 stewardNode
  if s.getF F.partState_state p = 3 then
    (s.setF F.partState_state p 5).raise .partitionStopped stewardNode (some p) 0
  else s
/-- Faults of a list whose core is still in TESTING: its retry or cross-check is to come, and the switch is behind it (R358). -/
def State.untested (s : State) (l : List Recovery) : List Recovery :=
  (l.filter (fun r => r.isLocal && decide ((s.core r.phys).state = 2))).map (fun r => { r with stage := 2 })
/-- What is left of a recovery that is over: the cross-checks that still run (R358). -/
def State.openFaults (s : State) (p : Nat) : List Recovery := s.untested ((s.part p).recov.toList ++ (s.part p).faults)
/-- A fault starts a recovery, or joins the one under way while that has not drained. After the drain it starts a new one, whose set keeps the
old one's members. Where it strikes the standby that a logical core is being moved to, that core has not failed twice (R354, R360, R362;
log 104). -/
def State.newFault (s : State) (p : Nat) (r : Recovery) : State :=
  let rest : List Recovery := match (s.part p).recov with
    | some old => s.untested [old]
    | none => []
  s.modPart p fun q =>
    let q := { q with recMicro := q.recMicro + 1, recStep := q.recStep + 1 }
    match q.recov with
    | none => { q with recov := some r }
    | some old =>
      if old.stage < 2 then { q with faults := q.faults ++ [r] }
      else { q with recov := some { r with replay := old.replay }, faults := q.faults ++ rest,
                    failedStep := if q.moved.contains r.logical then q.failedStep.filter (fun n => n ≠ r.logical) else q.failedStep }
/-- HOLD goes out, and every core of the partition stops dispatch (R354 step 1). -/
def State.holdPart (s : State) (p : Nat) : State :=
  let s := s.send (.hold 1) p 0 stewardNode
  s.forAll (s.coresOf p) (fun s k => if s.getF F.seqStatus_state k = stRunning then s.setF F.seqStatus_state k stHeld else s)
/-- RECOVER: HOLD goes out, every core stops dispatch, the faulting core is isolated in TESTING for its retry, and the floor plan is built anew
for that (R354 steps 1, 2, R359). A core that holds no logical number is isolated alone. A core under test or fenced starts nothing
(log 104). -/
def State.recover (s : State) (p c : Nat) (e : Ev) (detail : Nat) : State :=
  if 2 ≤ (s.core c).state then s
  else
    let epoch := s.getF F.seqUstep_epoch c
    let s := match s.logicalOf p c with
      | some n => (s.newFault p ⟨n, c, e.num, detail, 0, epoch, false, []⟩).holdPart p
      | none => s.modPart p (fun q => { q with faults := q.faults ++ [(⟨noLogical, c, e.num, detail, 2, epoch, false, []⟩ : Recovery)] })
    (s.modCore c (fun q => { q with state := 2 })).rebuild
/-- What the partition's policy does about a fault event met at a core (R346). Under CONTINUE of class 1 the failed epoch passes. -/
def State.policy (s : State) (p c : Nat) (e : Ev) (detail : Nat) : State :=
  match e.faultClass with
  | none => s
  | some k =>
    match bits (s.reg .partFaultPolicy p) (2 * k) 2 with
    | 1 => s.stopPart p (decide (k ≤ 1 ∨ k = 3 ∨ k = 4))
    | 2 =>
      let now := ((s.logicalOf p c).getD 0, detail % 16, detail / 16 % 2 ^ 48)
      if e = .seqFault ∧ (s.part p).seqFault = some now then s.stopPart p (decide (k ≤ 1 ∨ k = 3 ∨ k = 4))
      else
        let s := if e = .seqFault ∧ detail % 16 ≤ 7 then s.modPart p (fun q => { q with seqFault := some now }) else s
        s.recover p c e detail
    | _ => if k = 1 then s.modCore c (fun q => { q with epochFail := if q.epochFail = some 1 then none else q.epochFail }) else s
/-- Raises a fault event of a core at its partition and applies the policy. -/
def State.fault (s : State) (c : Nat) (e : Ev) (detail : Nat) : State :=
  let o := s.ownerOf c
  let s := s.raise e c o detail
  match o with
  | some p => s.policy p c e detail
  | none => s

/-! ### Partition address translation (R212) -/
/-- Where a partition address lands: extent, site, channel, byte address in the channel. -/
structure Place where
  ext : Extent
  site : Nat
  chan : Nat
  addr : Nat
/-- Declared extents of a partition; the table every ledger die and core holds (R211, R214). -/
def State.extents (s : State) (p : Nat) : List Extent :=
  match s.image with
  | some im => ((im.parts.find? (fun d => d.num = p)).map (·.extents.map (fun e => if e.shared then e else { e with owner := p }))).getD []
  | none => []
/-- The translation of R212. -/
def translate (es : List Extent) (a : Nat) : Option Place :=
  let u := a / 2 ^ 30
  (es.find? (fun e => e.valid && decide (e.pbase ≤ u) && decide (u < e.pbase + e.len))).map fun e =>
    let o := a - e.pbase * 2 ^ 30
    let b := o / 4096
    let lb := b / e.siteCount
    { ext := e, site := (e.siteFirst + b % e.siteCount) % 40, chan := lb % 32
      addr := e.frame * 2 ^ 25 + (lb / 32) * 4096 + o % 4096 }
def State.place (s : State) (p a : Nat) : Option Place := translate (s.extents p) a
/-- Key of a DRAM byte, and number of its block (R209). -/
def Place.key (x : Place) : Nat := (x.site * 32 + x.chan) * 2 ^ 31 + x.addr
def Place.blk (x : Place) : Nat := x.key / 4096
/-- Partition of a site's streams: the plan in force (R329). -/
def State.plan (s : State) (p : Nat) : Option Plan :=
  match (s.part p).cap with
  | some cp => if s.getF F.partPlan_active p = 1 then some cp.uniform else some (cp.normal.getD cp.uniform)
  | none => none
/-- A stream entry from its 64 B (R242). -/
def Stream.of (r : Row) : Stream where
  blocks := bits r 0 20
  tree := bit r 20
  tfmt := bits r 21 1
  domain := bit r 22
  rawFmt := bits r 23 4
  homeFirst := bits r 32 6
  homeCount := bits r 38 6
  n := bits r 48 11
  group := bits r 64 12
  contrib := bits r 80 16
  tensorId := bits r 96 32
  sumArea := bits r 128 48
  weights := bits r 192 48
  mom1 := bits r 256 48
  mom2 := bits r 320 48
  colFac := bits r 384 48
  rows := bits r 448 32
/-- The reserved bits of a stream entry (R242). -/
def streamReserved (r : Row) : Nat :=
  bits r 27 5 + bits r 44 4 + bits r 59 5 + bits r 76 4 + bits r 176 16 + bits r 240 16 + bits r 304 16 + bits r 368 16 + bits r 432 16
    + bits r 480 32
/-- A contributor entry from its 8 B, and its reserved bits (R243). -/
def Contributor.of (w : Word) : Contributor := ⟨bits w 0 16, bits w 16 18, bits w 34 18⟩
def contribReserved (w : Word) : Nat := bits w 52 12
/-- Stream entries of a plan, decoded. -/
def planStreams (pl : Plan) : List Stream := pl.streams.map Stream.of
/-- A declared stream of the plan in force (R242). -/
def State.stream (s : State) (p n : Nat) : Option Stream := (s.plan p).bind (fun pl => (pl.streams[n]?).map Stream.of)
/-- Contributors of a stream (R243). -/
def State.contribs (s : State) (p : Nat) (st : Stream) : List Contributor :=
  match s.plan p with
  | some pl => ((pl.contribs.drop st.contrib).take st.n).map Contributor.of
  | none => []
/-- Home site of a block (R244). -/
def streamHome (st : Stream) (b : Nat) : Nat := (st.homeFirst + (b / 64) % st.homeCount) % 40

/-! ### Scratchpad (R42 to R53) -/
/-- Rows of one scratchpad. -/
def spadRows : Nat := 131072
def spadKey (c a : Nat) : Nat := c * 2 ^ 24 + a
namespace State
variable (s : State)
/-- A row of a core's scratchpad by row address. -/
def row (c r : Nat) : Row := Memory.readRow s.spad (spadKey c (r * 64))
def rowPoison (c r : Nat) : Bool := s.spadPoison.contains (c * 2 ^ 18 + r)
/-- Writes one whole row and its poison bit; the block-check entry of its 4 KiB loses its valid bit (R45, R51 to R53). -/
def putRow (c r : Nat) (d : Row) (poison : Bool) : State :=
  { s with
    spad := Memory.writeRow s.spad (spadKey c (r * 64)) d
    spadPoison := if poison then NSet.add (c * 2 ^ 18 + r) s.spadPoison else NSet.del (c * 2 ^ 18 + r) s.spadPoison
    spadChk := Tab.put (fun _ => none) (c * 2048 + r / 64) none s.spadChk }
/-- Rows `r … r+n-1` as one number, the first least significant. -/
def rows (c r n : Nat) : Nat := ofRows ((rangeFrom r n).map (s.row c))
def rowsPoison (c r n : Nat) : Bool := (rangeFrom r n).any (s.rowPoison c)
/-- Bytes `[a, a+n)` of a scratchpad as a number. -/
def span (c a n : Nat) : Nat := (s.rows c (a / 64) (cdiv (a % 64 + n) 64) >>> (8 * (a % 64))) % 2 ^ (8 * n)
/-- Poison of a row after bytes `[a, a+n)` of it and others were written: a row wholly written takes the write's own; of a row written
in part, the second of its fragments replaces the row whole and takes the poison of both, and the first keeps the row's earlier poison
(R52). `seen` holds the rows whose first fragment landed, by row + 2^18 where it was poisoned. -/
def partPoison (c a n : Nat) (poison : Bool) (seen : NSet) (r : Nat) : Bool :=
  if a ≤ 64 * r ∧ 64 * r + 64 ≤ a + n then poison
  else if seen.contains (r + 2 ^ 18) then true
  else if seen.contains r then poison
  else poison || s.rowPoison c r
/-- Rewrites the rows of bytes `[a, a+n)` with `v` in place (R45, R52). -/
def putSpan (c a n v : Nat) (poison : Bool) (seen : NSet) : State :=
  let r := a / 64
  let k := cdiv (a % 64 + n) 64
  let old := s.rows c r k
  let new := old - ((old >>> (8 * (a % 64))) % 2 ^ (8 * n)) <<< (8 * (a % 64)) + (v % 2 ^ (8 * n)) <<< (8 * (a % 64))
  (toRows new k).zipIdx.foldl (fun t x => t.putRow c (r + x.2) x.1 (s.partPoison c a n poison seen (r + x.2))) s
/-- Poisons the rows of a range that exist, leaving their data (R44, R59). It is no write of the rows, and the block-check entry stands.
DESIGN CHOICE (log 94). -/
def poisonRows (c r n : Nat) : State :=
  { s with spadPoison := ((rangeFrom r n).filter (· < spadRows)).foldl (fun t k => NSet.add (c * 2 ^ 18 + k) t) s.spadPoison }
end State
/-- Writes consecutive rows. -/
def State.putRows (s : State) (c r : Nat) : List Row → Bool → State
  | [], _ => s
  | d :: t, poison => (s.putRow c r d poison).putRows c (r + 1) t poison

/-- CORE.CONFLICT_LOG value of one colliding pair, `a` the requester logged first (R68). -/
def conflictWord (s : State) (c : Nat) (a b : Access) : Nat :=
  let kind := if a.write ≠ b.write then 0 else if a.write then 2 else 1
  a.row % 32 + (a.row / 32) <<< 8 + a.req.val <<< 21 + (b.row / 32) <<< 24 + b.req.val <<< 37 + kind <<< 40
    + (s.getF F.seqUstep_number c % 65536) <<< 42
/-- The pair as logged: the reader first in a read/write collision (R68). -/
def conflictPair (a b : Access) : Access × Access := if a.write ∧ ¬ b.write then (b, a) else (a, b)
/-- One array cycle's requesters at one bank, highest priority first: each but the first is one SPAD_CONFLICT (R47, R524). -/
def State.clash (s : State) (c : Nat) : List Access → State
  | a :: b :: t =>
    let pr := conflictPair a b
    let w := conflictWord s c pr.1 pr.2
    let s := (s.bumpF F.coreConflictCount_count c 1).logF F.coreConflictLog_valid c w
    (s.fault c .spadConflict (w + 2 ^ 63)).clash c (b :: t)
  | _ => s
/-- Order of service: those an earlier cycle deferred first, then by the priority of R46, equal codes by row (R524). -/
def accessSort (l : List Access) : List Access :=
  let key (a : Access) : Nat := (if a.late then 0 else 2 ^ 20) + a.req.val * 2 ^ 17 + a.row.val
  sortBy (fun a b => decide (key a ≤ key b)) l
/-- One array cycle's requesters at a bank collide where one of them is new to the cycle (R524). -/
def newClash (l : List Access) : Bool := l.any (fun a => !a.late)
/-- Rows found bad by this step's reads: poison, tally and SPAD_UE for each that was not poisoned (R44). -/
def State.spadUe (s : State) (c : Nat) : List (Fin 131072) → State
  | [] => s
  | r :: t =>
    (if s.rowPoison c r then s
     else
      let s := s.poisonRows c r 1
      (s.bumpF F.coreSpadEcc_uncorrected c 1).fault c .spadUe r.val).spadUe c t
/-- What a command's scratchpad accesses met: errors found on read, and collisions. What a collision does to data follows from the order of
the commands: the command that reads a row before a write of the same cycle is the earlier one, and of two writes the one served last is the
later one (R44, R46, R524; log 83). -/
def State.observeRows (s : State) (c : Nat) (o : Obs) : State :=
  let s := (s.bumpF F.coreSpadEcc_corrected c o.corrected).spadUe c o.bad
  (o.clashes.filter newClash).foldl (fun s l => s.clash c (accessSort l)) s
/-- Activity of a 200 ns window: the weights of the engines busy in each array cycle, over its cycles, rounded up (R454). -/
def activityOf (l : List (Bool × Bool × Bool)) : Nat :=
  cdiv ((l.map (fun b => (if b.1 then 44 else 0) + (if b.2.1 then 12 else 0) + (if b.2.2 then 8 else 0))).sum) l.length
/-- Shows the activity of a window that ended (R454). -/
def State.showWindow (s : State) (c : Nat) (l : List (Bool × Bool × Bool)) : State :=
  if l.isEmpty then s else s.setF F.vregPoint_activity c (activityOf l)
/-- Everything an observation says apart from the result: cycles held, the last window's activity, and its accesses. Cycles spent waiting for a
fetched word count at dispatch (R55, R89, R70). -/
def State.observe (s : State) (c : Nat) (o : Obs) : State :=
  let s := s.bumpF F.corePhaseStall_cycles c o.phaseStall
  ((s.bumpF F.seqRampStall_cycles c o.rampStall).showWindow c o.window).observeRows c o

end Sys2Proof.Machine
end

