-- ==== Sys2Proof/Machine/Points.lean ====
section
/-! DEFINITION. Operating points, activity ceilings, and what they do at a STEP release (R99, R350, R450 to R468). -/
namespace Sys2Proof.Machine

/-- Divisors by code: 4, 5, 6, 8, 12 (R450). -/
def divisorOf (i : Nat) : Nat := [4, 5, 6, 8, 12].getD i 12
def divisorCode (d : Nat) : Nat := if d ≤ 4 then 0 else if d ≤ 5 then 1 else if d ≤ 6 then 2 else if d ≤ 8 then 3 else 4
/-- Core power states of VREG.POINT. -/
def vRun : Nat := 0
def vIdle : Nat := 1
def vHold : Nat := 2
def vOff : Nat := 3
/-- Clock floor of a partition's capsule as a code (R98). -/
def State.floorCode (s : State) (p : Nat) : Nat := (((s.part p).cap.map (fun c => divisorCode c.clockFloor)).getD 3)

/-! ### Activity ceilings (R455, R459 to R461, R467, R475) -/

/-- Die ceiling of R460 and R461: 38 once three phases are shed, 64 before, less what distress took. -/
def State.dieCeil (s : State) (d : Nat) : Nat :=
  let base := if s.flagF F.tileStatus_capped d then 38 else 64
  max (min 16 base) (base - (s.die d).distDrop)
/-- A core's activity ceiling, the lowest in force. -/
def State.ceilOf (s : State) (c : Nat) : Nat :=
  let q := s.core c
  min (min (s.dieCeil (dieOf c)) (s.die (dieOf c)).thermCeil) (min q.capCeil (if q.distCeil then 32 else 64))
/-- Shows a core's ceiling. -/
def State.showCeil (s : State) (c : Nat) : State := s.setF F.vregPoint_ceiling c (s.ceilOf c)
/-- Shows the ceilings of a die. -/
def State.showDie (s : State) (d : Nat) : State :=
  (s.setF F.tileStatus_die_ceiling d (s.dieCeil d)).forAll (dieCores d) State.showCeil

/-! ### Points (R462 to R464) -/

/-- Nominal voltage in mV of a die's row for a divisor; 550 where the tables give none. -/
def State.vTable (s : State) (d i : Nat) : Nat :=
  ((s.image.bind (fun im => im.rows.find? (fun r => decide (r.1 = d) && decide (r.2.1 = divisorOf i)))).map (·.2.2)).getD 550
/-- Commanded voltage: the row's plus 25 mV a derating step, clamped (R463). -/
def State.vCommand (s : State) (c i : Nat) : Nat := min 950 (max 550 (s.vTable (dieOf c) i + 25 * (s.core c).derateV))
/-- The four adjacent cores. -/
def neighbours (c : Nat) : List Nat :=
  (if 64 ≤ c then [c - 64] else []) ++ (if c % 64 < 63 then [c + 1] else []) ++ (if c < 4032 then [c + 64] else [])
    ++ (if 0 < c % 64 then [c - 1] else [])
/-- Raises the lower of two adjacent supplies until they differ by at most 300 mV; a core in OFF is exempt (R464). -/
def State.levelMv (s : State) (c : Nat) : State :=
  (neighbours c).foldl (fun s k =>
    if s.getF F.vregPoint_state k = vOff ∨ s.getF F.vregPoint_state c = vOff then s
    else
      let a := s.getF F.vregPoint_mv c
      let b := s.getF F.vregPoint_mv k
      if b + 300 < a then s.setF F.vregPoint_mv k (a - 300) else if a + 300 < b then s.setF F.vregPoint_mv c (b - 300) else s) s
/-- Commands a divisor: a slower one at once with its voltage, a faster one once its voltage is reached (R463). -/
def State.setPoint (s : State) (c i : Nat) : State :=
  if i < s.getF F.vregPoint_divisor c then s.modCore c (fun q => { q with rising := some i })
  else
    let s := s.modCore c (fun q => { q with rising := none })
    ((s.setF F.vregPoint_divisor c i).setF F.vregPoint_mv c (s.vCommand c i)).levelMv c
/-- Divisor code of a core: its governed point, the floor or faster, under its derating, slower by thermal steps down to the floor and by
distress steps (R99, R459, R467). -/
def State.pointOf (s : State) (p c : Nat) : Nat :=
  let q := s.core c
  let base := max (min q.govDiv (s.floorCode p)) q.derateD
  min 4 (min (max (s.floorCode p) base) (base + q.thermSteps) + q.distSteps)
/-- Puts a core at its point. -/
def State.applyPoint (s : State) (p c : Nat) : State := s.setPoint c (s.pointOf p c)

/-! ### At a release (R350, R459, R460, R465 to R467, R475) -/

/-- One governed move of one divisor step, taken only where R99, R462, the cap and R466 allow it. -/
def State.govern (s : State) (p : Nat) (m : Nat × Bool) : State :=
  let q := s.core m.1
  let fl := s.floorCode p
  let limited := s.flagF F.pwrCapEff_limiting 0
  if s.flagF F.tileStatus_distress (dieOf m.1) then s
  else if m.2 then
    (if q.derateD < q.govDiv ∧ ¬ limited then s.modCore m.1 (fun q => { q with govDiv := q.govDiv - 1 }) else s)
  else if q.govDiv < fl then s.modCore m.1 (fun q => { q with govDiv := q.govDiv + 1 }) else s
/-- Points and ceilings at a STEP release of a partition: distress and thermal steps return where their cause has ended, derating
takes effect, the governor's moves follow, and under the cap points move toward the floor. -/
def State.pointsAtRelease (s : State) (p : Nat) (moves : List (Nat × Bool)) : State :=
  let cs := (s.activeOf p).filterMap (s.physOf p)
  let s := s.forAll cs fun s c =>
    let d := dieOf c
    let s := if s.flagF F.tileStatus_distress d then s
      else s.modCore c (fun q => { q with distSteps := 0, distCeil := false })
    let s := if (s.die d).cooled then s.modCore c (fun q => { q with thermSteps := 0 }) else s
    if s.flagF F.pwrCapEff_limiting 0 ∧ (s.core c).govDiv < s.floorCode p then
      s.modCore c (fun q => { q with govDiv := q.govDiv + 1 }) else s
  let s := (moves.filter (fun m => cs.contains m.1)).foldl (fun s m => s.govern p m) s
  let ds := cs.foldl (fun a c => NSet.add (dieOf c) a) []
  let s := s.forAll ds fun s d =>
    let s := if s.flagF F.tileStatus_distress d then s else s.modDie d (fun q => { q with distDrop := 0 })
    let s := if (s.die d).cooled then s.modDie d (fun q => { q with thermCeil := 64 }) else s
    s.showDie d
  s.forAll cs (fun s c => s.applyPoint p c)
/-- Moves a core between power states (R468, R469). A core in OFF stays there until bring-up. -/
def State.setPower (s : State) (c n : Nat) : State :=
  if s.getF F.vregPoint_state c = vOff then s else s.setF F.vregPoint_state c n

end Sys2Proof.Machine
end

