-- ==== Sys2Proof/Machine/Health.lean ====
section
/-! DEFINITION. The health record: faults counted against units, their states and what the states do (R32, R347 to R351). -/
namespace Sys2Proof.Machine

/-- Seconds on the stewards' real-time clock: the time base counted in seconds (log 12). -/
def State.seconds (s : State) : Nat := s.now / 100000000
/-- Unit numbers of R347. -/
def unitCore (c : Nat) : Nat := c
def unitSeam (n : Nat) : Nat := 0x2000 + n
def unitChan (site ch : Nat) : Nat := 0x4000 + 32 * site + ch
def unitLink (n : Nat) : Nat := 0x6000 + n
def unitPhase (die ph : Nat) : Nat := 0x8000 + 16 * die + ph
def unitPort (n : Nat) : Nat := 0xA000 + n
/-- Units of a kind; other numbers are reserved. -/
def unitOk (u : Nat) : Bool := decide (u % 0x2000 < ([4096, 896, 1280, 36, 1024, 36].getD (u / 0x2000) 0))
def State.healthOf (s : State) (u : Nat) : Health := Tab.get (fun _ => Health.init) s.health u
def State.unitState (s : State) (u : Nat) : Nat := (s.healthOf u).state
/-- Whether a port serves: neither its link nor its logic is retired (R350). -/
def State.portServes (s : State) (k : Nat) : Bool := decide (s.unitState (unitLink k) ≠ 3) && decide (s.unitState (unitPort k) ≠ 3)
def State.setHealth (s : State) (u : Nat) (h : Health) : State := { s with health := Tab.put (fun _ => Health.init) u h s.health }

/-- A core's state and derating steps as its entry gives them (R35, R36, R350). A core in TESTING, or fenced, keeps its state: one fenced in
the field comes back through the next bring-up alone. The voltage step acts at once unless the core's partition runs. -/
def State.applyCore (s : State) (c n : Nat) : State :=
  let s := s.modCore c (fun q =>
    { q with state := if 2 ≤ q.state then q.state else if n = 0 then 0 else if n = 3 then 4 else 1
             derateV := if n = 1 ∨ n = 2 then 1 else 0
             derateD := if n = 2 then 1 else 0 })
  match s.ownerOf c with
  | some p => if s.getF F.partState_state p = 3 then s else s.setF F.vregPoint_mv c (s.vCommand c (s.getF F.vregPoint_divisor c))
  | none => s.setF F.vregPoint_mv c (s.vCommand c (s.getF F.vregPoint_divisor c))
/-- I_lim of a die in units of 0.25 A: 12 A a phase in service, 9 A at DERATED_1, 6 A at DERATED_2 (R453). -/
def State.showLimit (s : State) (d : Nat) : State :=
  let on := (rangeFrom 0 16).filter (fun k => (s.getF F.tilePhases_in_service d).testBit k)
  s.setF F.tileStatus_limit d ((on.map (fun k => [48, 36, 24, 0].getD (s.unitState (unitPhase d k)) 0)).sum)
/-- A phase is shed: out of service, PHASE_SHED, and with the third one the die's ceiling of 38 (R458, R461). -/
def State.shedPhase (s : State) (d k : Nat) : State :=
  let w := s.getF F.tilePhases_in_service d
  if !w.testBit k then s
  else
    let n := min 15 (s.getF F.tilePhases_shed d + 1)
    let s := ((s.setF F.tilePhases_in_service d (w - 2 ^ k)).setF F.tilePhases_shed d n).raise .phaseShed (0x1100 + d) none 0
    if n = 3 then ((s.setB F.tileStatus_capped d true).raise .dieActivityCapped (0x1100 + d) none 0).showDie d else s
/-- What a change of state does to its unit (R350). The states of seams, links and ports act through `unitState`. -/
def State.applyUnit (s : State) (u n : Nat) : State :=
  match u / 0x2000 with
  | 0 => s.applyCore u n
  | 2 =>
    let m := u % 0x2000 / 32
    let c := u % 0x2000 % 32
    let w := s.getF F.ldgChService_in_service m
    if n = 3 then (s.setF F.ldgChService_in_service m (w &&& (0xFFFFFFFF - 2 ^ c))).raise .channelRetired stewardNode none 0 else s
  | 3 | 5 =>
    let k := u % 0x2000
    if n ≠ 3 then s
    else if k < 32 then s.setF F.epdLink_up k 0
    else s.setF F.epdHost_up (k - 32) 0
  | 4 =>
    let d := u % 0x2000 / 16
    (if n = 3 then s.shedPhase d (u % 16) else s).showLimit d
  | _ => s
/-- A unit's state changes: the entry, the effect, the event, the record image and the floor plan (R350, R351, R359). -/
def State.setUnit (s : State) (u n : Nat) (h : Health) : State :=
  let s := s.setHealth u { h with state := n, changed := s.seconds, due := true }
  let s := s.setF F.hlthGen_count 0 (s.getF F.hlthGen_count 0 + 1)
  let s := s.applyUnit u n
  let s := if h.state < n then s.raise (if n = 3 then .unitRetired else .unitDerated) stewardNode none 0 else s
  s.rebuild
/-- One fault counted against a unit (R349). -/
def State.charge (s : State) (u cause : Nat) (repeats : Bool) : State :=
  let h := s.healthOf u
  let t := s.seconds
  let third := match h.times[1]? with
    | some x => decide (t ≤ x + 86400)
    | none => false
  let h' := { h with cause := cause, count := min (h.count + 1) 0xFFFFFFFF, times := (t :: h.times).take 4, due := true }
  let n := if repeats then 3 else if h.state = 0 then third.toNat else min 3 (h.state + 1)
  if n = h.state then (s.setHealth u h').setF F.hlthGen_count 0 (s.getF F.hlthGen_count 0 + 1) else s.setUnit u n h'

end Sys2Proof.Machine
end

