-- ==== Sys2Proof/Machine/Flags.lean ====
section
/-! DEFINITION. The sticky arithmetic flags of FMT.FLAGS and LDG.UPD_FLAGS (R139, R140, R150, R268). -/
namespace Sys2Proof.Machine

/-- The engines that set flags, by the bit FMT.FLAGS keeps for each (R150). -/
inductive Engine
  | array | sparse | vector
  deriving DecidableEq, Repr
/-- Bit of FMT.FLAGS an engine sets beside a flag. -/
def Engine.bit : Engine → Nat
  | .array => 8 | .sparse => 9 | .vector => 10
/-- ORs flags into FMT.FLAGS; an engine that set none leaves the register alone. -/
def State.orFlags (s : State) (c : Nat) (e : Engine) (f : Flags) : State :=
  if f = 0#5 then s
  else s.setReg .fmtFlags c (s.reg .fmtFlags c ||| BitVec.ofNat 64 (f.toNat + 2 ^ e.bit))
/-- ORs flags into a ledger die's LDG.UPD_FLAGS (R268). -/
def State.orUpdFlags (s : State) (m : Nat) (f : Flags) : State :=
  s.setReg .ldgUpdFlags m (s.reg .ldgUpdFlags m ||| BitVec.ofNat 64 f.toNat)
/-- All the flags of a list of results. -/
def anyFlags (l : List (Nat × Flags)) : Flags := l.foldl (fun a x => a ||| x.2) 0#5

end Sys2Proof.Machine
end

