-- ==== Sys2Proof/Machine/Operands.lean ====
section
/-! DEFINITION. Operand forms: instruction fields, 64-element operands in scratchpad rows, and the ranges and formats a
field accepts (R72, R84, R111, R112). -/
namespace Sys2Proof.Machine

/-- Sync bit of word 0 (R72). -/
def syncBit (w : Word) : Bool := bit w 57
/-- Bit 56 of word 0, reserved in every instruction (R72). -/
def badBit56 (w : Word) : Bool := bit w 56
/-- Opcode of word 0 (R72). -/
def opcode (w : Word) : Nat := bits w 58 6
/-- Opcodes, VEC operations and BARRIER kinds that the spec leaves reserved (R73, R84, R93). -/
def reservedOp (w : Word) : Bool :=
  !([0, 1, 2, 3, 4, 5, 6, 7, 0x10, 0x11, 0x12, 0x20, 0x30, 0x38, 0x39, 0x3A].contains (opcode w)) ||
  (decide (opcode w = 0x20) && decide (18 < bits w 50 6)) || (decide (opcode w = 3) && decide (1 < bits w 54 2))
/-- Whether `n` rows from `r` lie in the scratchpad. -/
def rowsOk (r n : Nat) : Bool := n = 0 || decide (r + n ≤ spadRows)

/-- The 64 element codes of vector `v` of an operand at row `r` (R111). -/
def State.vecCodes (s : State) (c r : Nat) (f : Fmt) (v : Nat) : List Nat :=
  let d := s.rows c (r + v * f.pitch) f.pitch
  (rangeFrom 0 64).map (elem d f.width)
/-- Poison of vector `v` of an operand. -/
def State.vecPoison (s : State) (c r : Nat) (f : Fmt) (v : Nat) : Bool := s.rowsPoison c (r + v * f.pitch) f.pitch
/-- Writes 64 element codes as vector `v` of an operand. -/
def State.putVec (s : State) (c r : Nat) (f : Fmt) (v : Nat) (codes : List Nat) (poison : Bool) : State :=
  s.putRows c (r + v * f.pitch) (toRows (pack f.width codes) f.pitch) poison
/-- Byte `i` of the packed bytes at row `r` (R124). -/
def State.byteAt (s : State) (c r i : Nat) : Nat := elem (s.row c (r + i / 64)).toNat 8 (i % 64)
/-- Little-endian 32-bit word `i` of the words at row `r`. -/
def State.wordAt (s : State) (c r i : Nat) : Nat := elem (s.row c (r + i / 16)).toNat 32 (i % 16)
/-- Cuts a list into pieces of `k`, the last padded by the reader. -/
def chunks {α : Type} (k : Nat) : Nat → List α → List (List α)
  | 0, _ => []
  | n + 1, l => if l.isEmpty then [] else l.take k :: chunks k n (l.drop k)

/-- Formats the vector unit accepts as input of an ordinary operation (R112). -/
def vecFmt (code : Nat) : Option Fmt := if code ≤ 11 ∨ code = 14 then Fmt.ofCode code else none
/-- Formats an engine output field accepts (R161, R194). -/
def outFmt (code : Nat) : Option Fmt := if code ≤ 11 then Fmt.ofCode code else none

end Sys2Proof.Machine
end

