-- ==== Sys2Proof/WellFormed.lean ====
section
/-! DEFINITION. Which commands are well formed: the words of an instruction row carry that row's opcode and form, a delivery
row carries a packet or message of its own kind, and the lists a command carries have the lengths the spec gives them. -/
namespace Sys2Proof
open Machine

/-- Word 0 carries an opcode (R72, R73). -/
def isOp (w : Word) (op : Nat) : Bool := decide (opcode w = op)
/-- Word 0 of a VEC with an operation code (R84). -/
def isVec (w : Word) (op : Nat) : Bool := isOp w 0x20 && decide (bits w 50 6 = op)
/-- Words 0 and 1 of a DMA descriptor of a kind (R58). -/
def isDma (w0 w1 : Word) (kind : Nat) : Bool := isOp w0 0x38 && decide (bits w1 0 4 = kind)
/-- A packet of one of some kinds, with the payload a packet may carry and a resend count of two bits (R282, R289). -/
def Pkt.is (k : Pkt) (l : List PktKind) : Bool := l.contains k.kind && decide (k.data.length ≤ 8) && decide (k.resend ≤ 2)
/-- A reduction packet of a pass and a kind (R250). -/
def Pkt.isRed (k : Pkt) (pass kind : Nat) : Bool :=
  k.is [.reduction] && (match k.red with | some h => decide (h.pass = pass) && decide (h.kind = kind) | none => false)
/-- A control message whose priority is that of its type, for a partition number or none (R304, R305). -/
def Ctl.wf (m : Ctl) : Bool := (m.high == m.msg.isHigh) && decide (m.part ≤ 255)
/-- A block of 4 KiB. -/
def RestoreBlk.wf (b : RestoreBlk) : Bool := decide (b.data < 1 <<< 32768)
/-- The units, carry lines and rim crossings a bring-up names exist (R296, R347, R495, R497). -/
def BringUp.wf (b : BringUp) : Bool :=
  b.failOnce.all unitOk && b.failTwice.all unitOk && b.badLines.all (· < 512) && b.badRims.all (· < 256)
    && b.repaired.all (fun e => decide (e.1 < 40))

/-- A second rim link and a link from a steward die stand at the corner cores alone (R24, R277). -/
def linkOk (c : CoreIx) (k : Fin 7) : Bool := decide (k.val < 5) || [0, 63, 4032, 4095].contains c.val
/-- Well-formedness of a command. -/
def Instr.wf (i : Instr) : Bool :=
  match i with
  | .powerOn b => b.wf
  | .inputLoss => true
  | .modRstNAssert _ b => b.wf
  | .warmRestart _ b => b.wf
  | .fullReload _ b => b.wf
  | .nop _ w _ => isOp w 0
  | .endProgram _ w _ => isOp w 1
  | .waitCount _ w _ => isOp w 2
  | .barrierGroup _ w _ => isOp w 3 && decide (bits w 54 2 = 0)
  | .barrierStep _ w _ => isOp w 3 && decide (bits w 54 2 = 1)
  | .forecast _ w _ => isOp w 4
  | .forecastMatures _ => true
  | .chkptMark _ w _ => isOp w 5
  | .repeatBody _ w _ => isOp w 6
  | .setr _ w _ => isOp w 7
  | .loadTile _ w _ => isOp w 16
  | .stream _ w0 _ _ => isOp w0 17
  | .proof _ w _ => isOp w 18
  | .proofTokenSend _ _ => true
  | .vecAdd _ w0 _ _ => isVec w0 0
  | .vecSub _ w0 _ _ => isVec w0 1
  | .vecMul _ w0 _ _ => isVec w0 2
  | .vecFma _ w0 _ _ => isVec w0 3
  | .vecMax _ w0 _ _ => isVec w0 4
  | .vecMin _ w0 _ _ => isVec w0 5
  | .vecCmpEq _ w0 _ _ => isVec w0 6
  | .vecCmpLt _ w0 _ _ => isVec w0 7
  | .vecCmpLe _ w0 _ _ => isVec w0 8
  | .vecCvt _ w0 _ _ => isVec w0 9
  | .vecExp _ w0 _ _ => isVec w0 10
  | .vecRecip _ w0 _ _ => isVec w0 11
  | .vecRsqrt _ w0 _ _ => isVec w0 12
  | .vecRsum _ w0 _ _ => isVec w0 13
  | .vecRmax _ w0 _ _ => isVec w0 14
  | .vecRange _ w0 _ _ => isVec w0 15
  | .vecBexp _ w0 _ _ => isVec w0 16
  | .vecQgrid _ w0 _ _ => isVec w0 17
  | .vecMxscale _ w0 _ _ => isVec w0 18
  | .sparseTile _ w0 _ _ => isOp w0 48
  | .dramRead _ w0 w1 _ _ _ _ => isDma w0 w1 0
  | .dramWrite _ w0 w1 _ _ _ _ => isDma w0 w1 1
  | .corePush _ w0 w1 _ _ _ _ => isDma w0 w1 2
  | .reduceSendExponents _ w0 w1 _ w3 _ _ => isDma w0 w1 3 && bit w3 31
  | .reduceSendValues _ w0 w1 _ w3 _ _ => isDma w0 w1 3 && !bit w3 31
  | .dramCopy _ w0 w1 _ _ _ _ => isDma w0 w1 4
  | .gather _ w0 _ _ _ => isOp w0 57
  | .mirror _ w _ => isOp w 58
  | .packetIssue _ _ _ => true
  | .readRequest _ k _ _ => k.is [.readReq, .copyReq]
  | .writeData _ k _ => k.is [.writeData]
  | .gatherRequest _ k _ => k.is [.gatherReq]
  | .streamReceive _ k _ _ _ => k.is [.readReq]
  | .groupPacketRead _ _ _ _ => true
  | .groupWaitExpiry _ _ _ => true
  | .readResponse _ k _ fails _ => k.is [.readResp] && decide (fails ≤ 3)
  | .acknowledgement _ a => a.pkt.is [.ack]
  | .fencedAcknowledgement _ a => a.pkt.is [.fenced]
  | .refusedAcknowledgement _ a => a.pkt.is [.refused]
  | .resendRequest _ a => a.pkt.is [.resend]
  | .corePushData _ k _ fails _ => k.is [.push] && decide (fails ≤ 3)
  | .mirrorData _ k _ _ => k.is [.mirror]
  | .streamDelivery _ k _ fails _ => k.is [.stream] && decide (fails ≤ 3)
  | .exponentContribution _ k _ => k.isRed 1 0
  | .agreedBytes _ k _ _ => k.is [.reduction]
  | .contribution _ k _ => k.isRed 0 0
  | .retraction _ k _ => k.isRed 0 1
  | .rawResend _ k _ => k.isRed 0 2
  | .treeContribution _ k _ => k.isRed 0 0
  | .tagTimeout _ _ => true
  | .flitReplay c k => linkOk c k
  | .linkDegraded c k => linkOk c k
  | .rateRecovery _ _ => true
  | .congestionInterval _ _ _ => true
  | .congReport m => m.wf && (match m.msg with | .congReport .. => true | _ => false)
  | .barArrive _ msgs _ _ => msgs.all (fun m => m.wf && (match m.msg with | .barArrive .. => true | _ => false))
  | .groupResolved _ _ _ => true
  | .barRelease _ m => m.wf && (match m.msg with | .barRelease .. => true | _ => false)
  | .checkpointSnapshot _ => true
  | .proofToken m => m.wf && (match m.msg with | .proofToken .. => true | _ => false)
  | .retractToken m => m.wf && (match m.msg with | .retractToken .. => true | _ => false)
  | .aliasUpdate _ m => m.wf && (match m.msg with | .aliasUpdate .. => true | _ => false)
  | .forecastNote _ m => m.wf && (match m.msg with | .forecastNote .. => true | _ => false)
  | .supplyDistress _ m => m.wf && (match m.msg with | .supplyDistress => true | _ => false)
  | .hold _ m => m.wf && (match m.msg with | .hold .. => true | _ => false)
  | .groupDrop _ c => c.wf && (match c.msg with | .groupDrop .. => true | _ => false)
  | .resendRaw _ ask => ask.msg.wf && (match ask.msg.msg with | .resendRaw .. => true | _ => false)
  | .stewardOrder _ c _ _ => c.wf && (match c.msg with | .stewardOrder .. => true | _ => false)
  | .eventRecord _ _ => true
  | .coalesceTimerExpiry _ _ => true
  | .evtCompleteWrite _ _ => true
  | .evtCommitWrite _ _ => true
  | .evtRqHeadWrite _ _ => true
  | .evtCtrlWrite _ _ => true
  | .evtEventEnableWrite _ _ _ => true
  | .challenge _ => true
  | .nonceExpiry _ => true
  | .lockoutEnd _ => true
  | .sessionTimeout _ => true
  | .oqTailWrite _ _ entries => decide (entries.length ≤ 4096)
  | .cqHeadWrite _ _ => true
  | .queueCfgWrite _ _ _ => true
  | .arbitrationCycle _ => true
  | .openSession _ _ => true
  | .closeSession _ _ => true
  | .teardownDone _ => true
  | .sharedExtentZeroing _ => true
  | .loadCapsule _ _ _ _ _ => true
  | .start _ _ => true
  | .pause _ _ => true
  | .pauseExpired _ => true
  | .resume _ _ => true
  | .cancelKind0 _ _ => true
  | .cancelKind1 _ _ => true
  | .feed _ _ => true
  | .feedTransfer _ _ _ => true
  | .readOut _ _ => true
  | .checkpoint _ _ => true
  | .restore _ _ _ => true
  | .joinGroup _ _ => true
  | .leaveGroup _ _ => true
  | .ustepOverrun _ => true
  | .epochAutoClose _ => true
  | .coreHang _ => true
  | .faultRetryDone _ _ _ _ => true
  | .recoveryDrainDone _ => true
  | .mirrorRestoreDone _ => true
  | .healthDecay unit => Machine.unitOk unit.toNat
  | .healthRecordWrite => true
  | .healthCleared _ _ => true
  | .testSlice _ _ _ _ _ => true
  | .refresh _ _ _ => true
  | .selfRefreshEntry _ _ => true
  | .heartbeatSend _ => true
  | .reduceMemberLost _ _ => true
  | .hello _ f => match f.body with | .hello .. => true | _ => false
  | .helloAck _ f => match f.body with | .helloAck .. => true | _ => false
  | .helloRetry _ _ => true
  | .ack _ f _ => match f.body with | .ack => true | _ => false
  | .heartbeat f => match f.body with | .heartbeat => true | _ => false
  | .expMax f => match f.body with | .expMax .. => true | _ => false
  | .moduleSum f => match f.body with | .moduleSum .. => true | _ => false
  | .prepared f => match f.body with | .prepared .. => true | _ => false
  | .activation _ f => match f.body with | .activation .. => true | _ => false
  | .token f => match f.body with | .token .. => true | _ => false
  | .ckptData _ f => match f.body with | .ckptData .. => true | _ => false
  | .ckptAck f => match f.body with | .ckptAck .. => true | _ => false
  | .klRetransmitTimeout _ _ _ _ => true
  | .frameReceive _ r _ => decide (r.body.type = bits r.head 3 5) && decide (r.body.chan = bits r.head 56 2)
  | .exceptionService _ => true
  | .pfcFrame _ _ => true
  | .pfcPauseExpiry _ _ => true
  | .linkUp _ _ => true
  | .linkDown _ _ => true
  | .flrVf _ => true
  | .flrPf _ => true
  | .hotReset _ => true
  | .vfEnableClear _ => true
  | .hostLinkLost _ => true
  | .hostLinkRetrain _ _ _ => true
  | .stewardModeEntered => true
  | .mgmtOrder _ _ _ _ _ => true
  | .mgmtRegisterRead _ _ _ _ _ _ _ => true
  | .mgmtRegisterWrite _ _ _ _ _ _ _ => true
  | .mgmtChallenge _ _ _ _ _ => true
  | .poutMax _ _ => true
  | .statusWord _ => true
  | .readVin _ => true
  | .readIin _ => true
  | .readTemperature1 _ _ => true
  | .readPout _ => true
  | .alertResponse => true
  | .uartCommand _ => true
  | .bypass => true
  | .idcode => true
  | .samplePreload _ _ => true
  | .extest _ _ => true
  | .pwrcapWindow _ => true
  | .pwrcapLevelChange _ => true
  | .leakDetected _ => true
  | .leakHoldEntry => true
  | .pinmuxSwitch _ _ => true
  | .pinmuxSwitchEnd _ => true
  | .ledTestPulse _ _ => true
  | .refLossPrimary _ => true
  | .refLossBoth _ => true
  | .phaseShed _ _ => true
  | .supplyDistressOnset _ => true
  | .distressPersists _ => true
  | .distressEnd _ => true
  | .droopStretch _ _ => true
  | .droopRecovery _ _ => true
  | .thermalSample _ _ => true
  | .thermalStep _ => true
  | .thermalRecovery _ => true
  | .thermTrip _ => true
  | .capCheck m _ => m.parts.all (fun e => decide ((m.parts.filter (fun f => decide (f.1 = e.1))).length = 1))
      && m.currents.all (fun e => decide ((m.currents.filter (fun f => decide (f.1 = e.1))).length = 1))
  | .capPause => true
  | .capResume _ => true
  | .capRampStep => true
  | .pwrCapCommit _ _ => true
  | .moduleActiveRequest _ => true
  | .moduleHoldRequest _ => true
  | .standbyRequest _ => true
  | .stewardSet _ => true
  | .stewardModeLeft _ => true
  | .idleHoldEntry => true
  | .corePauseHold _ => true
  | .scratchpadWindowAccess _ _ _ _ _ _ => true
  | .scratchpadRetentionReturn _ => true
  | .apertureAccess _ _ _ _ => true
  | .latchedRead _ _ _ => true
  | .erase _ _ => true
  | .program _ _ _ => true
  | .commit _ _ => true
  | .sealKey _ => true
  | .cfgsOperationDone _ _ => true
  | .registerWrite _ _ _ _ => true
  | .programFetchResponse _ failures _ => decide (failures ≤ 3)
  | .leakDetDeassert => true
  | .refReturn _ _ => true
  | .perstAssert _ => true
  | .cxlMemCompletion _ _ _ read => (read.map RestoreBlk.wf).getD true
  | .capsuleLoadDone _ => true
  | .restoreDone _ blocks => blocks.all RestoreBlk.wf
  | .moduleHoldExitDone => true
  | .voltageReached _ => true
  | .flowTachPulse => true
  | .phaseFault _ _ => true

end Sys2Proof
end

