-- ==== Sys2Proof/Decode.lean ====
section
/-! DEFINITION. The table gives no row any bits: commands have no words of their own, so none is read from one. The words an
instruction row carries stay words, and the sequencer and the engines take their fields apart (Machine/Operands.lean). -/
namespace Sys2Proof

/-- No word spells a command: no row of spec/opcode_table.json gives bits. -/
def decodeTableWord (_nbits _w : Nat) : Option Instr := none

end Sys2Proof
end

