-- ==== Sys2Proof/Machine/Carry.lean ====
section
/-! DEFINITION. What a tick of the time base does: time passes, and every carry line moves one packet on, merging it with those it passes
(R33, R248, R251, R296 to R300). -/
namespace Sys2Proof.Machine

/-- Place of a core along a line (R296). -/
def lineCoord (l c : Nat) : Nat := if l < 256 then c % 64 else c / 64
/-- Whether the contributions of a reduction packet are GR32 values, which stations add (R251); TREE values travel apart (R257). -/
def State.gridPkt (s : State) (k : Pkt) : Bool :=
  match k.red with
  | some h => (s.stream k.part h.stream).any (fun st => !st.tree)
  | none => false
/-- Taps that hold a packet waiting to enter the line of leg `g` and that a packet on this leg passes, nearest first; on its last leg it also
passes the tap it crosses the rim at (R298, R300). -/
def tapsPassed (g : Leg) (last : Bool) (l : List Tap) : List Tap :=
  let a := lineCoord g.line g.frm
  let b := lineCoord g.line g.to_
  let on := (between a b).filter (fun x => last || decide (x ≠ b))
  on.flatMap (fun x => l.filter (fun w => !w.ret && decide (lineCoord g.line w.core = x) && decide (w.legs.head?.map (·.line) = some g.line)))
/-- One tap's packet meets a packet that passes it: where the two may merge the tap sends one packet in place of both (R300). -/
def State.meetTap (x : Pkt × State) (w : Tap) : Pkt × State :=
  match mergePkts (x.2.gridPkt x.1) w.pkt x.1 with
  | some m => (m, { x.2 with
      net := dropFirst x.1 (dropFirst w.pkt x.2.net) ++ [m], fab := { x.2.fab with taps := dropFirst w x.2.fab.taps } })
  | none => x
/-- A tap's packet enters its line and runs its leg, to the tap of its next leg or to its destination (R297, R298). -/
def State.enterLine (s : State) (t : Tap) : State :=
  let s := s.modFab (fun f => { f with taps := dropFirst t f.taps })
  match t.legs with
  | [] => s
  | g :: rest =>
    let r := if t.ret then (t.pkt, s) else (tapsPassed g rest.isEmpty s.fab.taps).foldl State.meetTap (t.pkt, s)
    if rest.isEmpty then r.2 else r.2.modFab (fun f => { f with taps := f.taps ++ [⟨g.to_, t.ret, rest, r.1⟩] })
/-- Each channel of each line takes the packet that has waited longest for it (R298; log 60). -/
def State.lineTick (s : State) : State :=
  let first := s.fab.taps.foldl (fun (l : List Tap) t =>
    if l.any (fun u => decide (u.ret = t.ret) && decide (u.legs.head?.map (·.line) = t.legs.head?.map (·.line))) then l else l ++ [t]) []
  s.forAll first State.enterLine
/-- The block with nothing commanded: 10 ns of the time base pass (R33), and the carry lines move. DESIGN CHOICE (log 33). -/
def State.tick (s : State) : State := { s.lineTick with now := s.now + 1 }

end Sys2Proof.Machine
end

