-- ==== Sys2Proof/Machine/Queue.lean ====
section
/-! DEFINITION. Order entries, completion rings, and the completion of an order (R374, R375, R378, R433, R435). -/
namespace Sys2Proof.Machine

/-- Function number of a path: virtual functions 0 to 63, physical functions 64 to 67, management ports 68 and 69. -/
def pathIx : Path → Nat
  | .vf p => p
  | .pf h => 64 + h
  | .mgmt m => 68 + m
/-- Byte and little-endian field of an order entry (R375). -/
def ordByte (w : Row) (k : Nat) : Nat := elem w.toNat 8 k
def ordNat (w : Row) (k n : Nat) : Nat := (w.toNat >>> (8 * k)) % 2 ^ (8 * n)
namespace OrderSt
def opcode (o : OrderSt) : Nat := ordByte o.words 0
def target (o : OrderSt) : Nat := ordByte o.words 4
/-- Partition an order acts on; 255 for the module. -/
def part (o : OrderSt) : Nat := match o.path with
  | .vf p => p.val
  | _ => o.target
def isMgmt (o : OrderSt) : Bool := match o.path with
  | .vf _ => false
  | _ => true
end OrderSt
/-- Order opcodes of R376. -/
def opOpen : Nat := 1
def opClose : Nat := 2
def opLoad : Nat := 3
def opStart : Nat := 4
def opPause : Nat := 5
def opResume : Nat := 6
def opCancel : Nat := 7
def opFeed : Nat := 8
def opReadOut : Nat := 9
def opCheckpoint : Nat := 10
def opRestore : Nat := 11
def opJoin : Nat := 12
def opLeave : Nat := 13
/-- Completion codes of R378. -/
def ccOk : Nat := 0
def ccSuperseded : Nat := 1
def ccCancelled : Nat := 2
def ccAuth : Nat := 3
def ccState : Nat := 4
def ccFormat : Nat := 5
def ccFaulted : Nat := 6
/-- Partition states of R382. -/
def psEmpty : Nat := 0
def psOpened : Nat := 1
def psLoaded : Nat := 2
def psRunning : Nat := 3
def psPaused : Nat := 4
def psStopped : Nat := 5
def psHeld : Nat := 6
def psZero : Nat := 7
/-- State of a partition. -/
def State.pState (s : State) (p : Nat) : Nat := s.getF F.partState_state p
def State.setPState (s : State) (p n : Nat) : State := s.setF F.partState_state p n

/-- Host port of a function; none for a management port. -/
def State.hostPortOf (s : State) (k : Nat) : Option Nat :=
  if k < 64 then (s.image.bind (fun im => im.parts.find? (fun d => d.num = k))).map (·.hostPort)
  else if k < 68 then some (k - 64) else none
/-- Whether a function's completions can reach its ring: the link is up, the ring in use and a slot free (R374, R435). -/
def State.canPost (s : State) (k : Nat) : Bool :=
  match s.hostPortOf k with
  | none => decide (68 ≤ k)
  | some h =>
    let size := 2 ^ s.getF F.partCqCfg_log2_entries k
    s.flagF F.epdHost_up h && s.flagF F.partCqCfg_enable k
      && decide ((s.getF F.partQStat_cq_tail k + 1) % size ≠ s.getF F.partCqHead_index k)
/-- Writes a completion at the tail of its ring and raises ORDERS_COMPLETED, or holds it; a management port's goes out in a
datagram (R374, R400, R435, R439). -/
def State.post (s : State) (k : Nat) (c : Completion) : State :=
  if !s.canPost k then s.modFn k (fun q => { q with held := q.held ++ [c] })
  else
    let t := s.getF F.partQStat_cq_tail k
    let ph := s.getF F.partQStat_phase k
    let s := s.emit (.completion k t ph c)
    let s := if 68 ≤ k then s
      else
        let n := (t + 1) % 2 ^ s.getF F.partCqCfg_log2_entries k
        let s := s.setF F.partQStat_cq_tail k n
        if n = 0 then s.setF F.partQStat_phase k (1 - ph) else s
    s.raise .ordersCompleted stewardNode (if k < 64 then some k else none) 0
/-- Writes the completions held for a function, as many as there is room for. -/
def State.flushHeld (s : State) (k : Nat) : State :=
  let l := (s.fn k).held
  l.foldl (fun s c => s.post k c) (s.modFn k (fun q => { q with held := [] }))
/-- An order that is no longer outstanding. -/
def State.dropOrder (s : State) (o : OrderSt) : State :=
  s.modFn (pathIx o.path) (fun q => { q with orders := q.orders.filter (fun x => x.tag ≠ o.tag) })
/-- Completes an order (R378). -/
def State.finish (s : State) (o : OrderSt) (code detail result : Nat) : State :=
  (s.dropOrder o).post (pathIx o.path) ⟨o.tag, code, o.opcode, o.part, detail % 65536, result⟩
/-- REJECTED_STATE with the state's code as detail (R378). -/
def State.rejectState (s : State) (o : OrderSt) : State :=
  s.finish o ccState (if o.part < 64 then s.pState o.part else 0) 0
/-- Marks how far an order is. -/
def State.stageOrder (s : State) (o : OrderSt) (n : Nat) : State :=
  s.modFn (pathIx o.path) (fun q => { q with orders := q.orders.map (fun x => if x.tag = o.tag then { x with stage := n } else x) })
/-- Functions that may hold orders for a partition: its own and the management plane's. -/
def fnsFor (p : Nat) : List Nat := p :: rangeFrom 64 6
/-- Outstanding orders that act on a partition. -/
def State.ordersOn (s : State) (p : Nat) : List OrderSt :=
  (fnsFor p).flatMap (fun k => (s.fn k).orders.filter (fun o => decide (o.part = p)))
/-- Started orders of an opcode on a partition, oldest first within a function. -/
def State.running (s : State) (p op : Nat) : List OrderSt :=
  (s.ordersOn p).filter (fun o => decide (o.opcode = op) && decide (o.stage = 2))
/-- An order by path and tag. -/
def State.order (s : State) (path : Path) (tag : Nat) : Option OrderSt := (s.fn (pathIx path)).orders.find? (fun o => o.tag = tag)

end Sys2Proof.Machine
end

