-- ==== Sys2Proof/Machine/Sequencer.lean ====
section
/-! DEFINITION. The core sequencer: dispatch, instruction faults, epochs, and the control instructions but END (R69 to R109). -/
namespace Sys2Proof.Machine
open Host

/-- Leaves every REPEAT body that ends at `pc`, or returns to the top of one with executions left (R91). R91 has a body end on an
instruction boundary and R107 gives no reason for one that does not: no fault is raised, and such a body, whose end no instruction ends at,
stays open. DESIGN CHOICE (log 95). -/
def closeLoops (pc : Nat) : List Loop → Nat × List Loop
  | [] => (pc, [])
  | l :: t =>
    if pc = l.stop then (if 1 < l.left then (l.start, { l with left := l.left - 1 } :: t) else closeLoops pc t)
    else (pc, l :: t)
/-- Sets SEQ.PC and the REPEAT stack after a step that ends at `pc`. -/
def State.goto (s : State) (c pc : Nat) (ls : List Loop) (step : Bool) : State :=
  let r := closeLoops pc ls
  (s.modCore c (fun q => { q with loops := r.2, afterStep := step })).setF F.seqPc_addr c r.1
/-- The instruction of `n` words at SEQ.PC is done with; the next one follows it. -/
def State.advance (s : State) (c n : Nat) : State :=
  s.goto c (s.getF F.seqPc_addr c + 8 * n) (s.core c).loops false
/-- An instruction fault stops the sequencer before the instruction acts (R107). -/
def State.instrFault (s : State) (c reason : Nat) : State :=
  let w := reason + s.getF F.seqPc_addr c <<< 4
  let s := (s.logF F.seqFault_valid c w).setF F.seqStatus_state c stStopped
  s.fault c .seqFault (w + 2 ^ 63)
/-- Increments a completion counter (R78, R79). -/
def State.count (s : State) (c n : Nat) : State := if n < 64 then s.bumpF F.seqCount_value (c * 64 + n) 1 else s
/-- Increments a counter an instruction names, where it names one. -/
def State.countOpt (s : State) (c : Nat) : Option Nat → State
  | some n => s.count c n
  | none => s
/-- Every earlier instruction of the core has completed: the one step an instruction takes leaves only descriptors open (R74, R76). -/
def State.drained (s : State) (c : Nat) : Bool := (s.core c).descs.isEmpty
/-- Some transfer of the core is scratchpad-active (R54). -/
def State.spadActive (s : State) (c : Nat) : Bool := (s.core c).descs.any (·.active)
/-- CORE.PHASE.phase from the transfers now active (R56). -/
def State.showPhase (s : State) (c : Nat) : State := s.setF F.corePhase_phase c (if s.spadActive c then 1 else 0)

/-- The instruction whose first word is `w` waits at dispatch, and every later one behind it (R74). -/
def State.hold (s : State) (c : Nat) (w : Word) : State := s.modCore c (fun q => { q with held := some w })
/-- No instruction of the core waits at dispatch. -/
def State.unhold (s : State) (c : Nat) : State := if (s.core c).held.isNone then s else s.modCore c (fun q => { q with held := none })
/-- Cycles that dispatch waited for an instruction's words, none where the instruction buffer holds them (R70). -/
def State.fetchWait (s : State) (c : Nat) (o : Obs) : State :=
  if (s.core c).ibuf.contains (s.getF F.seqPc_addr c / 4096) then s else s.bumpF F.seqFetchStall_cycles c o.fetchStall
/-- The state an instruction dispatches in: its wait for words counted, none waiting. -/
def State.taken (s : State) (c : Nat) (o : Obs) : State := (s.fetchWait c o).unhold c
/-- What lets an instruction dispatch (R74): the core runs, no earlier instruction waits, a set sync bit or `drain` finds every earlier
instruction complete, and an engine instruction finds no transfer scratchpad-active (R55). A held instruction changes only the stall
tallies and is what the core waits at; its command comes again. A set bit 56 or a reserved opcode is reason 1 for every instruction
(R107). -/
def State.dispatch (s : State) (c : Nat) (w : Word) (o : Obs) (engine drain : Bool) (k : State → State) : State :=
  if s.getF F.seqStatus_state c ≠ stRunning then s
  else if (s.core c).held.any (fun h => decide (h ≠ w)) then s
  else if (syncBit w || drain) && !s.drained c then (s.fetchWait c o).hold c w
  else if engine && s.spadActive c then ((s.fetchWait c o).bumpF F.corePhaseStall_cycles c o.phaseStall).hold c w
  else if badBit56 w || reservedOp w then (s.taken c o).instrFault c 1
  else k (s.taken c o)

/-- Closes the open proof epoch: its verdict is known, and the 16-bit epoch number advances, wrapping at its end (R83; log 96). INT.DIGEST
starts again (R358). -/
def State.closeEpoch (s : State) (c : Nat) : State :=
  let e := s.getF F.seqUstep_epoch c
  let s := s.modCore c (fun q =>
    { q with verdicts := q.verdicts ++ [(e, q.epochFail.isNone)], epochFail := none, digest := 0
             epochEnd := q.epochEnd ++ [(e, q.nextSeq)] })
  (s.setF F.seqUstep_epoch c ((e + 1) % 65536)).setF F.intDigest_crc c 0

/-- NOP completes at dispatch (R73, R76). -/
def execNop (c : CoreIx) (w : Word) (o : Obs) (s : State) : Outcome State Fault Refusal :=
  .next (s.dispatch c w o false false fun s => if bits w 0 56 ≠ 0 then s.instrFault c 1 else s.advance c 1)

/-- WAIT_COUNT completes once the counter reaches the target; until then nothing later dispatches (R74, R82). With a target of zero it
completes at dispatch and increments the counter it names by one (R77). -/
def execWaitCount (c : CoreIx) (w : Word) (o : Obs) (s : State) : Outcome State Fault Refusal :=
  .next (s.dispatch c w o false false fun s =>
    if bits w 0 16 ≠ 0 then s.instrFault c 1
    else if 64 ≤ bits w 48 8 then s.instrFault c 2
    else if bits w 16 32 = 0 then (s.count c (bits w 48 8)).advance c 1
    else if bits w 16 32 ≤ s.getF F.seqCount_value (c * 64 + bits w 48 8) then s.advance c 1
    else s.hold c w)

/-- Sends a barrier arrival toward the root and waits for the release (R93, R94, R306). -/
def State.arrive (s : State) (c : Nat) (isStep : Bool) (tag group : Nat) : State :=
  let s := (s.setF F.seqStatus_state c stWaiting).modCore c (fun q => { q with atBar := some (isStep, tag, group) })
  let mark := if isStep then (s.core c).mark else none
  s.send (.barArrive tag 1 false isStep group mark) ((s.ownerOf c).getD 255) stewardNode c

/-- A GROUP barrier closes no micro-step and resets no counter (R93). -/
def execBarrierGroup (c : CoreIx) (w : Word) (o : Obs) (s : State) : Outcome State Fault Refusal :=
  .next (s.dispatch c w o false false fun s =>
    if bits w 0 46 ≠ 0 then s.instrFault c 1 else s.arrive c false 0 (bits w 46 8))

/-- A micro-step longer than SEQ.USTEP_LIMIT is reported once (R100). -/
def State.overrunCheck (s : State) (c : Nat) : State :=
  if (s.core c).overrun ∨ s.now - (s.core c).releasedAt ≤ 100 * s.getF F.seqUstepLimit_limit c then s
  else (s.modCore c (fun q => { q with overrun := true })).fault c .ustepOverrun 0

/-- A STEP barrier drains the core, closes its epoch, measures the micro-step and arrives (R94, R100). Reasons 1 and 7 of R107. -/
def execBarrierStep (c : CoreIx) (w : Word) (o : Obs) (s : State) : Outcome State Fault Refusal :=
  .next (s.dispatch c w o false true fun s =>
    if bits w 0 30 ≠ 0 then s.instrFault c 1
    else if bits w 46 8 ≠ 0 then s.instrFault c 7
    else if !(s.core c).tags.isEmpty then s.hold c w
    else
      let s := (s.overrunCheck c).closeEpoch c
      let us := (s.now - (s.core c).releasedAt) / 100
      let s := s.setF F.seqUstepTime_longest c (max (s.getF F.seqUstepTime_longest c) (min us (2 ^ 20 - 1)))
      s.arrive c true (bits w 30 16) 0)

/-- FORECAST announces a level, which matures later; the core's power tile is told (R88, R456). -/
def execForecast (c : CoreIx) (w : Word) (o : Obs) (s : State) : Outcome State Fault Refusal :=
  .next (s.dispatch c w o false false fun s =>
    let l := bits w 48 7
    if bits w 0 48 ≠ 0 ∨ bits w 55 1 ≠ 0 ∨ 64 < l then s.instrFault c 1
    else
      let s := (s.setF F.seqForecast_pending c l).modCore c (fun q => { q with forecasts := q.forecasts ++ [l] })
      let s := s.send (.forecastNote l) ((s.ownerOf c).getD 255) (0x1100 + 8 * (c.val / 512) + c.val % 64 / 8) c
      s.advance c 1)

/-- The oldest announced level comes into force (R88). With none left, no level is pending. DEDUCED (log 10). -/
def execForecastMatures (c : CoreIx) (s : State) : Outcome State Fault Refusal :=
  .next (match (s.core c).forecasts with
  | [] => s
  | l :: t =>
    let s := (s.modCore c (fun q => { q with forecasts := t })).setF F.seqForecast_matured c l
    if t.isEmpty then s.setF F.seqForecast_pending c 0 else s)

/-- CHKPT_MARK puts its mark on the closing boundary of the micro-step (R90). -/
def execChkptMark (c : CoreIx) (w : Word) (o : Obs) (s : State) : Outcome State Fault Refusal :=
  .next (s.dispatch c w o false false fun s =>
    if bits w 0 40 ≠ 0 then s.instrFault c 1
    else (s.modCore c (fun q => { q with mark := some (bits w 40 16) })).advance c 1)

/-- Count of a REPEAT; START's step count replaces that of a program's first instruction (R324, R388). -/
def State.repeatCount (s : State) (c : Nat) (w : Word) : Nat :=
  let p := (s.ownerOf c).getD 255
  let n := (s.part p).stepLimit
  let first : Bool := match s.plan p with
    | some pl => pl.programs.any (fun g => decide (some g.core = s.logicalOf p c) && decide (g.addr = s.getF F.seqPc_addr c))
    | none => false
  if n ≠ 0 ∧ first then n else bits w 40 16
/-- REPEAT opens a body, or skips it where the count is zero (R91). Reason 4 of R107: nesting, an empty body, a body past its encloser. -/
def execRepeat (c : CoreIx) (w : Word) (o : Obs) (s : State) : Outcome State Fault Refusal :=
  .next (s.dispatch c w o false false fun s =>
    let n := s.repeatCount c w
    let body := bits w 24 16
    let start := s.getF F.seqPc_addr c + 8
    let stop := start + 8 * body
    let ls := (s.core c).loops
    if bits w 0 24 ≠ 0 then s.instrFault c 1
    else if body = 0 ∨ 4 ≤ ls.length ∨ ls.head?.any (fun l => decide (l.stop < stop)) = true then s.instrFault c 4
    else if n = 0 then s.goto c stop ls false
    else s.goto c start (⟨start, stop, n⟩ :: ls) false)

/-- The schedule-writable register at an engine-block offset (R92, R512). -/
def schedReg : Nat → Option Reg
  | 0x40 => some .seqTensorId
  | 0x2008 => some .arrInScale
  | 0x2010 => some .arrConvA
  | 0x2018 => some .arrConvB
  | 0x3000 => some .speThreshold
  | _ => none
/-- Mask of a register's assigned bits; reserved bits ignore what is written (R9). -/
def Reg.mask (r : Reg) : Nat := r.fields.foldl (fun a f => a + (2 ^ f.len - 1) * 2 ^ f.lo) 0

/-- SETR writes a schedule-writable register once every earlier instruction has completed (R92). Reason 5 of R107 for any other. -/
def execSetr (c : CoreIx) (w : Word) (o : Obs) (s : State) : Outcome State Fault Refusal :=
  .next (s.dispatch c w o false true fun s =>
    if bits w 32 11 ≠ 0 then s.instrFault c 1
    else match schedReg (8 * bits w 43 13) with
      | none => s.instrFault c 5
      | some r => (s.setReg r c (BitVec.ofNat 64 (bits w 0 32 &&& r.mask))).advance c 1)

/-- PROOF closes the epoch with its verdict and counts (R83). Without cnt_en the counter field is reserved. -/
def execProof (c : CoreIx) (w : Word) (o : Obs) (s : State) : Outcome State Fault Refusal :=
  .next (s.dispatch c w o false false fun s =>
    let k := bits w 48 8
    if bits w 0 47 ≠ 0 ∨ (¬ bit w 47 ∧ k ≠ 0) then s.instrFault c 1
    else if bit w 47 ∧ 64 ≤ k then s.instrFault c 2
    else
      let s := s.closeEpoch c
      (if bit w 47 then s.count c k else s).advance c 1)

/-- PROOF_TOKEN leaves once the verdict is known and every provisional packet of the epoch but reductions has freed its
tag; it goes to the barrier root and to each receiver of that epoch's provisional data, a logical core through the core's copy of the alias
table (R104, R342, R343). -/
def execProofTokenSend (c : CoreIx) (epoch : BitVec 16) (s : State) : Outcome State Fault Refusal :=
  .next (
    let q := s.core c
    let e := epoch.toNat
    match q.verdicts.find? (fun v => v.1 = e) with
    | none => s
    | some (_, pass) =>
      if q.tags.any (fun t => t.pkt.prov && decide (t.pkt.prod.2.1 = e) && decide (t.pkt.kind ≠ .reduction)) then s
      else
        let p := (s.ownerOf c).getD 255
        let n := (s.logicalOf p c).getD 0
        let s := s.modCore c (fun q => { q with verdicts := q.verdicts.filter (fun v => v.1 ≠ e)
                                                consumers := q.consumers.filter (fun v => v.1 ≠ e) })
        let node (d : Nat) : Option Nat :=
          if 4096 ≤ d then some d
          else let x := Tab.get (fun _ => 0) q.xlat d
            if entryKind x = 1 then some (entryCore x) else none
        (stewardNode :: (q.consumers.filter (fun v => v.1 = e)).filterMap (fun v => node v.2)).foldl
          (fun s d => s.send (.proofToken n e pass) p d c) s)

/-- An epoch open for 40 µs is closed as PROOF would, and no counter moves (R335). -/
def execEpochAutoClose (c : CoreIx) (s : State) : Outcome State Fault Refusal :=
  .next ((s.closeEpoch c).bumpF F.intEpoch_auto_closes c 1)
/-- The core finds its micro-step beyond SEQ.USTEP_LIMIT before its arrival (R100). -/
def execUstepOverrun (c : CoreIx) (s : State) : Outcome State Fault Refusal := .next (s.overrunCheck c)
/-- The watchdog found no sequencer progress for 20 µs (R334). -/
def execCoreHang (c : CoreIx) (s : State) : Outcome State Fault Refusal := .next (s.fault c .coreHang 0)
/-- A fetched 4 KiB program block reaches the instruction buffer: the next in program order, ahead of SEQ.PC (R70). A failed check is fetched
again up to twice; a third failure is reason 8 (R71). -/
def execProgramFetchResponse (c : CoreIx) (failures : Nat) (cycles : Nat) (s : State) : Outcome State Fault Refusal :=
  .next (
    let s := s.bumpF F.seqFetchStall_cycles c cycles
    if 3 ≤ failures then s.instrFault c 8
    else
      let l := (s.core c).ibuf
      let b := match l.getLast? with
        | some b => b + 1
        | none => s.getF F.seqPc_addr c / 4096
      s.modCore c (fun q => { q with ibuf := (l ++ [b]).drop (l.length + 1 - 16) }))

end Sys2Proof.Machine
end

