-- ==== Sys2Proof/Machine/Vector.lean ====
section
/-! DEFINITION. The vector unit: the 19 VEC operations (R84, R112, R124 to R127, R137, R138, R141, R336, R525). Vectors are
taken in ascending order, each read before its result is written. DEDUCED (log 11). -/
namespace Sys2Proof.Machine
open Host

/-- The fields of a VEC (R84). The op field is the command's own. -/
structure VecF where
  ifc : Nat
  ofc : Nat
  rnd : Rnd
  rndOk : Bool
  sat : Bool
  ftz : Bool
  a : Nat
  b : Nat
  dst : Nat
  cc : Nat
  n : Nat
  scl : Nat
  resv : Nat
/-- Reads the fields of both words. -/
def VecF.of (w0 w1 : Word) : VecF :=
  { ifc := bits w0 46 4, ofc := bits w0 42 4, rnd := (Rnd.ofCode (bits w0 40 2)).getD .rn
    rndOk := decide (bits w0 40 2 ≠ 3), sat := bit w0 39, ftz := bit w0 38, a := bits w0 20 18, b := bits w0 2 18
    dst := bits w1 0 18, cc := bits w1 18 18, n := bits w1 36 16, scl := bits w1 52 2
    resv := bits w0 0 2 + bits w1 54 10 }
def VecF.ctx (f : VecF) : RCtx := ⟨f.rnd, f.sat, f.ftz⟩
/-- Generator output for lane `i` of vector `v` (R130). -/
def State.srOut (s : State) (c v i : Nat) : Nat :=
  srGen (s.reg .partSrSeed ((s.ownerOf c).getD 64)).toNat (s.getF F.seqUstep_number c) (s.getF F.seqTensorId_id c) (64 * v + i)

/-- One element's result: its exact value or operand value with NV, and the source's last place for R129. -/
abbrev LaneFn := Val → Val → Val → (Val × Flags) × Option Int
/-- Vectors `v …` of an element-wise operation with up to three operands of one format. The conversion of its result to ofmt sets what flags it
does, for MAX and MIN too: R137 says that the operation sets none, R139 that any rounding that changed a value sets NX. DEDUCED (log 97). -/
def State.vecLanes (s : State) (c : Nat) (f : VecF) (fi fo : Fmt) (nops : Nat) (g : LaneFn) : Nat → Nat → Flags → State
  | 0, _, fl => s.orFlags c .vector fl
  | n + 1, v, fl =>
    let a := s.vecCodes c f.a fi v
    let b := if 2 ≤ nops then s.vecCodes c f.b fi v else a
    let d := if 3 ≤ nops then s.vecCodes c f.cc fi v else a
    let res := (rangeFrom 0 64).map fun i =>
      let r := g (decode fi (a.getD i 0)) (decode fi (b.getD i 0)) (decode fi (d.getD i 0))
      let e := encode fo f.ctx (s.srOut c v i) r.2 r.1.1
      (e.1, e.2 ||| r.1.2)
    let po := s.vecPoison c f.a fi v || (decide (2 ≤ nops) && s.vecPoison c f.b fi v)
      || (decide (3 ≤ nops) && s.vecPoison c f.cc fi v)
    (s.putVec c f.dst fo v (res.map (·.1)) po).vecLanes c f fi fo nops g n (v + 1) (fl ||| anyFlags res)

/-- Encoding and range checks of an ordinary VEC, then its effect; zero vectors complete at once (R77, R107). -/
def State.vecRun (s : State) (c : Nat) (w0 w1 : Word) (o : Obs) (nops outRows : Nat)
    (go : State → VecF → Fmt → Fmt → State) : State :=
  s.dispatch c w0 o true false fun s =>
    let f := VecF.of w0 w1
    match vecFmt f.ifc, vecFmt f.ofc with
    | some fi, some fo =>
      if f.resv ≠ 0 ∨ ¬ f.rndOk ∨ f.scl ≠ 0 then s.instrFault c 1
      else if ¬ (rowsOk f.a (f.n * fi.pitch) && (decide (nops < 2) || rowsOk f.b (f.n * fi.pitch))
          && (decide (nops < 3) || rowsOk f.cc (f.n * fi.pitch))
          && rowsOk f.dst (if outRows = 0 then f.n * fo.pitch else cdiv f.n 64 * fo.pitch)) then s.instrFault c 3
      else if f.n = 0 then s.advance c 2
      else (go (s.observe c o) f fi fo).advance c 2
    | _, _ => s.instrFault c 1
/-- An element-wise operation. -/
def State.vecElem (s : State) (c : Nat) (w0 w1 : Word) (o : Obs) (nops : Nat) (g : LaneFn) : State :=
  s.vecRun c w0 w1 o nops 0 fun s f fi fo => s.vecLanes c f fi fo nops g f.n 0 0#5
/-- The result of a comparison: 1 or 0 (R138). -/
def truth (b : Bool) : (Val × Flags) × Option Int := ((.fin false (if b then 1 else 0) 0, 0#5), none)

def execVecAdd (c : CoreIx) (w0 w1 : Word) (o : Obs) (s : State) : Outcome State Fault Refusal :=
  .next (s.vecElem c w0 w1 o 2 fun a b _ => (vadd a b, none))
def execVecSub (c : CoreIx) (w0 w1 : Word) (o : Obs) (s : State) : Outcome State Fault Refusal :=
  .next (s.vecElem c w0 w1 o 2 fun a b _ => (vadd a (vneg b), none))
def execVecMul (c : CoreIx) (w0 w1 : Word) (o : Obs) (s : State) : Outcome State Fault Refusal :=
  .next (s.vecElem c w0 w1 o 2 fun a b _ => (vmul a b, none))
def execVecFma (c : CoreIx) (w0 w1 : Word) (o : Obs) (s : State) : Outcome State Fault Refusal :=
  .next (s.vecElem c w0 w1 o 3 fun a b d => (vfma a b d, none))
def execVecMax (c : CoreIx) (w0 w1 : Word) (o : Obs) (s : State) : Outcome State Fault Refusal :=
  .next (s.vecElem c w0 w1 o 2 fun a b _ => ((vmax a b, 0#5), none))
def execVecMin (c : CoreIx) (w0 w1 : Word) (o : Obs) (s : State) : Outcome State Fault Refusal :=
  .next (s.vecElem c w0 w1 o 2 fun a b _ => ((vmin a b, 0#5), none))
def execVecCmpEq (c : CoreIx) (w0 w1 : Word) (o : Obs) (s : State) : Outcome State Fault Refusal :=
  .next (s.vecElem c w0 w1 o 2 fun a b _ => truth (vcmp a b = some .eq))
def execVecCmpLt (c : CoreIx) (w0 w1 : Word) (o : Obs) (s : State) : Outcome State Fault Refusal :=
  .next (s.vecElem c w0 w1 o 2 fun a b _ => truth (vcmp a b = some .lt))
def execVecCmpLe (c : CoreIx) (w0 w1 : Word) (o : Obs) (s : State) : Outcome State Fault Refusal :=
  .next (s.vecElem c w0 w1 o 2 fun a b _ => truth (vcmp a b = some .lt || vcmp a b = some .eq))
def execVecExp (c : CoreIx) (w0 w1 : Word) (o : Obs) (s : State) : Outcome State Fault Refusal :=
  .next (s.vecElem c w0 w1 o 1 fun a _ _ => ((vexp a, 0#5), none))
def execVecRecip (c : CoreIx) (w0 w1 : Word) (o : Obs) (s : State) : Outcome State Fault Refusal :=
  .next (s.vecElem c w0 w1 o 1 fun a _ _ => (vrecip a, none))
def execVecRsqrt (c : CoreIx) (w0 w1 : Word) (o : Obs) (s : State) : Outcome State Fault Refusal :=
  .next (s.vecElem c w0 w1 o 1 fun a _ _ => (vrsqrt a, none))

/-- One result per vector, 64 results an operand of ofmt, the last padded with zero to its whole pitch (R525). Every vector is read before any
result is written, since a row of results takes those of many vectors. DESIGN CHOICE (logs 11, 97). -/
def State.vecPacked (s : State) (c : Nat) (f : VecF) (fi fo : Fmt) (g : List Val → Val × Flags) : State :=
  let res := (rangeFrom 0 f.n).map fun v =>
    let r := g ((s.vecCodes c f.a fi v).map (decode fi))
    let e := encode fo f.ctx (s.srOut c v 0) none r.1
    ((e.1, e.2 ||| r.2), s.vecPoison c f.a fi v)
  let s := (chunks 64 f.n res).zipIdx.foldl
    (fun s p => s.putVec c f.dst fo p.2 (p.1.map (·.1.1)) (p.1.any (·.2))) s
  s.orFlags c .vector (anyFlags (res.map (·.1)))
/-- Exact sum of values from a first one, with NV where infinities of both signs meet; a NaN among them gives NaN and no flag, in any order
(R115, R135). -/
def sumFrom (a : Val) (l : List Val) : Val × Flags :=
  if (a :: l).contains .nan then (.nan, 0#5)
  else l.foldl (fun a x => let r := vadd a.1 x; (r.1, a.2 ||| r.2)) (a, 0#5)
/-- RSUM: the 64 lanes summed exactly, one rounding (R141). -/
def execVecRsum (c : CoreIx) (w0 w1 : Word) (o : Obs) (s : State) : Outcome State Fault Refusal :=
  .next (s.vecRun c w0 w1 o 1 1 fun s f fi fo => s.vecPacked c f fi fo fun xs =>
    sumFrom (xs.headD .nan) xs.tail)
/-- RMAX: the maximum of the 64 lanes (R137). -/
def execVecRmax (c : CoreIx) (w0 w1 : Word) (o : Obs) (s : State) : Outcome State Fault Refusal :=
  .next (s.vecRun c w0 w1 o 1 1 fun s f fi fo => s.vecPacked c f fi fo fun xs => (xs.tail.foldl vmax (xs.headD .nan), 0#5))

/-- Value of element `i` of vector `v` of a CVT source: GR32 is read against its block byte at b_row (R123). -/
def State.cvtIn (s : State) (c : Nat) (f : VecF) (fi : Fmt) (v i code : Nat) : Val :=
  if fi = .gr32 then gr32Val code (s.byteAt c f.b (2 * v + i / 32)) else decode fi code
/-- Vectors of a CVT, plain (scl 0) or divided by MX scales (scl 1, R127). -/
def State.vecCvt (s : State) (c : Nat) (f : VecF) (fi fo : Fmt) : Nat → Nat → Flags → State
  | 0, _, fl => s.orFlags c .vector fl
  | n + 1, v, fl =>
    let codes := s.vecCodes c f.a fi v
    let usesB := decide (fi = .gr32) || decide (f.scl = 1)
    let res := (rangeFrom 0 64).map fun i =>
      let x := s.cvtIn c f fi v i (codes.getD i 0)
      if f.scl = 1 then
        let q := mxQuot fo (s.byteAt c f.b (2 * v + i / 32)) x
        encode fo f.ctx (s.srOut c v i) q.lsb q
      else encode fo f.ctx (s.srOut c v i) x.lsb x
    let po := s.vecPoison c f.a fi v || (usesB && s.rowPoison c (f.b + 2 * v / 64))
    (s.putVec c f.dst fo v (res.map (·.1)) po).vecCvt c f fi fo n (v + 1) (fl ||| anyFlags res)
/-- CVT (R112, R127). -/
def execVecCvt (c : CoreIx) (w0 w1 : Word) (o : Obs) (s : State) : Outcome State Fault Refusal :=
  .next (s.dispatch c w0 o true false fun s =>
    let f := VecF.of w0 w1
    let fi := if f.scl = 0 then Fmt.ofCode f.ifc else if f.ifc ≤ 3 then Fmt.ofCode f.ifc else none
    let fo := if f.scl = 0 then vecFmt f.ofc else if 4 ≤ f.ofc ∧ f.ofc ≤ 9 then Fmt.ofCode f.ofc else none
    match fi, fo with
    | some fi, some fo =>
      if f.resv ≠ 0 ∨ ¬ f.rndOk ∨ 2 ≤ f.scl then s.instrFault c 1
      else if ¬ (rowsOk f.a (f.n * fi.pitch) && rowsOk f.dst (f.n * fo.pitch)
          && ((decide (fi ≠ .gr32) && decide (f.scl = 0)) || rowsOk f.b (cdiv (2 * f.n) 64))) then s.instrFault c 3
      else if f.n = 0 then s.advance c 2
      else ((s.observe c o).vecCvt c f fi fo f.n 0 0#5).advance c 2
    | _, _ => s.instrFault c 1)

/-- Checks of the block operations, whose input is one of formats 0x0 to 0x3 and whose ofmt is fixed (R112). -/
def State.vecBlock (s : State) (c : Nat) (w0 w1 : Word) (o : Obs) (ofc bRows outRows : Nat → Nat)
    (go : State → VecF → Fmt → State) : State :=
  s.dispatch c w0 o true false fun s =>
    let f := VecF.of w0 w1
    match (if f.ifc ≤ 3 then Fmt.ofCode f.ifc else none) with
    | some fi =>
      if f.resv ≠ 0 ∨ ¬ f.rndOk ∨ f.scl ≠ 0 ∨ f.ofc ≠ ofc 0 then s.instrFault c 1
      else if ¬ (rowsOk f.a (f.n * fi.pitch) && rowsOk f.b (bRows f.n) && rowsOk f.dst (outRows f.n)) then s.instrFault c 3
      else if f.n = 0 then s.advance c 2
      else (go (s.observe c o) f fi).advance c 2
    | none => s.instrFault c 1
/-- The values of block `b` (0 or 1) of vector `v`. -/
def State.blockVals (s : State) (c : Nat) (f : VecF) (fi : Fmt) (v b : Nat) : List Val :=
  (((s.vecCodes c f.a fi v).drop (32 * b)).take 32).map (decode fi)
/-- Writes one byte per block from dst, two a vector, the last row padded with zero (R124). -/
def State.putBytes (s : State) (c : Nat) (f : VecF) (fi : Fmt) (extra : Bool) (bs : List Nat) : State :=
  (chunks 64 (2 * f.n) bs).zipIdx.foldl (fun s p =>
    let po := extra || ((rangeFrom (32 * p.2) 32).filter (· < f.n)).any (s.vecPoison c f.a fi)
    s.putRow c (f.dst + p.2) (BitVec.ofNat 512 (pack 8 p.1)) po) s
/-- BEXP writes each block's largest exponent byte (R124). -/
def execVecBexp (c : CoreIx) (w0 w1 : Word) (o : Obs) (s : State) : Outcome State Fault Refusal :=
  .next (s.vecBlock c w0 w1 o (fun _ => 12) (fun _ => 0) (fun n => cdiv (2 * n) 64) fun s f fi =>
    s.putBytes c f fi false ((rangeFrom 0 (2 * f.n)).map fun j => bexp (s.blockVals c f fi (j / 2) (j % 2))))
/-- MXSCALE writes each block's MX scale; an element format that b_row does not name gives 0xFF and NV (R127). -/
def execVecMxscale (c : CoreIx) (w0 w1 : Word) (o : Obs) (s : State) : Outcome State Fault Refusal :=
  .next (s.vecBlock c w0 w1 o (fun _ => 12) (fun _ => 1) (fun n => cdiv (2 * n) 64) fun s f fi =>
    let m := mxMax (bits (s.row c f.b) 0 4)
    let bs := (rangeFrom 0 (2 * f.n)).map fun j =>
      match m with
      | some m => mxScale m (bexp (s.blockVals c f fi (j / 2) (j % 2)))
      | none => 255
    let s := s.putBytes c f fi (s.rowPoison c f.b) bs
    if m.isNone then s.orFlags c .vector fNV else s)
/-- Vectors of a QGRID against the block bytes at b_row (R125). -/
def State.vecQgrid (s : State) (c : Nat) (f : VecF) (fi : Fmt) : Nat → Nat → Flags → State
  | 0, _, fl => s.orFlags c .vector fl
  | n + 1, v, fl =>
    let codes := s.vecCodes c f.a fi v
    let res := (rangeFrom 0 64).map fun i => qgrid (s.byteAt c f.b (2 * v + i / 32)) (decode fi (codes.getD i 0))
    let po := s.vecPoison c f.a fi v || s.rowPoison c (f.b + 2 * v / 64)
    (s.putVec c f.dst .gr32 v (res.map (·.1)) po).vecQgrid c f fi n (v + 1) (fl ||| anyFlags res)
/-- QGRID (R125). -/
def execVecQgrid (c : CoreIx) (w0 w1 : Word) (o : Obs) (s : State) : Outcome State Fault Refusal :=
  .next (s.vecBlock c w0 w1 o (fun _ => 13) (fun n => cdiv (2 * n) 64) (fun n => 4 * n) fun s f fi =>
    s.vecQgrid c f fi f.n 0 0#5)

/-- a ≤ b, false where a NaN takes part (R138). -/
def vle (a b : Val) : Bool := vcmp a b = some .lt || vcmp a b = some .eq
/-- Whether one vector fails the checks of a bounds row (R336). -/
def rangeFails (bnd : Row) (xs : List Val) : Bool :=
  let fp (i : Nat) : Val := decode .fp32 (elem bnd.toNat 32 i)
  let on (i : Nat) : Bool := bit bnd (64 + i)
  let fin := on 0 && xs.any (fun x => match x with | .fin .. => false | _ => true)
  let bnds := on 1 && xs.any (fun x => !(vle (fp 0) x && vle x (fp 1)))
  let sum := xs.foldl (fun a x => (vadd a (vabs x)).1) (.fin false 0 0)
  let mean : Val := match sum with
    | .fin s m e => .fin s m (e - 6)
    | v => v
  let mu := decode .fp32 (toFp32 mean).1
  let stat := on 2 && !(vle (fp 3) mu && vle mu (fp 4))
  fin || bnds || stat
/-- RANGE fails the open epoch on any failing vector and writes nothing (R336). -/
def execVecRange (c : CoreIx) (w0 w1 : Word) (o : Obs) (s : State) : Outcome State Fault Refusal :=
  .next (s.dispatch c w0 o true false fun s =>
    let f := VecF.of w0 w1
    match vecFmt f.ifc, vecFmt f.ofc with
    | some fi, some _ =>
      if f.resv ≠ 0 ∨ ¬ f.rndOk ∨ f.scl ≠ 0 then s.instrFault c 1
      else if ¬ (rowsOk f.a (f.n * fi.pitch) && rowsOk f.b 1) then s.instrFault c 3
      else if f.n = 0 then s.advance c 2
      else
        let s := s.observe c o
        let bnd := s.row c f.b
        let bad := (rangeFrom 0 f.n).any fun v => rangeFails bnd ((s.vecCodes c f.a fi v).map (decode fi))
        let s := if bad then
            let s := s.modCore c (fun q => { q with epochFail := if q.epochFail = some 0 then some 0 else some 1 })
            (s.setB F.intEpoch_range c true).fault c .rangeFail 0
          else s
        s.advance c 2
    | _, _ => s.instrFault c 1)

end Sys2Proof.Machine
end

