-- ==== Sys2Proof/Machine/Array.lean ====
section
/-! DEFINITION. The bead array: LOAD_TILE and STREAM, accumulation, sliding windows and proof checks (06_bead_array). -/
namespace Sys2Proof.Machine
open Host

/-- Accumulation classes of R154. -/
inductive Cls
  | fp32 | exact | int | mx
  deriving DecidableEq, Repr

/-- Formats of the exact class (R154). -/
def Fmt.narrow : Fmt → Bool
  | .e4m3 | .e5m2 | .e3m2 | .e2m3 | .e2m1 => true
  | _ => false
/-- Class of a weight and input pair with the weight scale field and the input scale mode; none is a reserved encoding (R154). -/
def pairClass (w x : Fmt) (scale inMode : Nat) : Option Cls :=
  let mxOk (f : Fmt) := f.narrow || decide (f = .int8)
  if scale = 2 ∨ inMode = 1 then
    (if decide (scale ≠ 1) && mxOk w && mxOk x && decide ((w = .int8) ↔ (x = .int8)) then some .mx else none)
  else if w.narrow && x.narrow then (if scale ≤ 1 then some .exact else none)
  else if scale ≠ 0 then none
  else if w.isFloat && x.isFloat then some .fp32
  else if (decide (w = .int8) || decide (w = .int4)) && (decide (x = .int8) || decide (x = .int4)) then some .int
  else none
/-- Slots per array cycle of a pair, times two (R155). -/
def rate2 (w x : Fmt) : Nat :=
  let r (f : Fmt) := if f.width = 32 then 1 else if f.width = 16 then 2 else if f.width = 4 then 8 else 4
  min (r w) (r x)

/-- An operand as the array multiplies it: code 0x0 truncated, code 0x1 rounded to F19 (R117). -/
def arrVal (f : Fmt) (c : Nat) : Val :=
  match f with
  | .fp32 => truncF19 c
  | f => decode f c
/-- Scratchpad rows of a weight tile of `k` tile rows (R156). -/
def tileRows (f : Fmt) (k : Nat) : Nat := cdiv (k * 8 * f.width) 64

/-- LOAD_TILE: the tile as placed (R157 to R159). -/
def State.readTile (s : State) (c src : Nat) (f : Fmt) (scale sc km1 nm1 : Nat) : Tile :=
  let k := km1 + 1
  let data := s.rows c src (tileRows f k)
  let scRows := if scale = 0 then 0 else if scale = 1 then 1 else if 31 < km1 then 2 else 1
  { fmt := f, scale := scale
    w := (rangeFrom 0 (64 * k)).map fun i => if nm1 < i % 64 then 0 else elem data f.width i
    sw := if scale = 1 then bits (s.row c sc) 0 32 else 0x3F800000
    blk := if scale = 2 then (rangeFrom 0 (64 * scRows)).map (fun i => s.byteAt c sc i) else []
    km1 := km1, nm1 := nm1
    poison := s.rowsPoison c src (tileRows f k) || s.rowsPoison c sc scRows }
/-- Puts a tile into the array and shows it (R153, R159). -/
def State.putTile (s : State) (c : Nat) (t : Tile) (code : Nat) : State :=
  let s := s.modCore c (fun q => { q with tile := some t })
  s.setReg .arrStatus c (BitVec.ofNat 64
    (1 + (if t.poison then 2 else 0) + code <<< 2 + t.scale <<< 6 + t.km1 <<< 8 + t.nm1 <<< 14))
/-- The array holds no tile (R153). -/
def State.dropTile (s : State) (c : Nat) : State :=
  (s.modCore c (fun q => { q with tile := none })).setB F.arrStatus_tile_valid c false

/-- LOAD_TILE (R157 to R160). -/
def execLoadTile (c : CoreIx) (w : Word) (o : Obs) (s : State) : Outcome State Fault Refusal :=
  .next (s.dispatch c w o true false fun s =>
    let src := bits w 38 18; let code := bits w 34 4; let scale := bits w 32 2; let sc := bits w 14 18
    let km1 := bits w 8 6; let nm1 := bits w 2 6
    match (if code ≤ 10 then Fmt.ofCode code else none) with
    | none => s.instrFault c 1
    | some f =>
      let scaleOk := scale = 0 ∨ (scale = 1 ∧ f.narrow = true) ∨ (scale = 2 ∧ (f.narrow = true ∨ f = .int8))
      if bits w 0 2 ≠ 0 ∨ ¬ scaleOk ∨ (scale = 0 ∧ sc ≠ 0) then s.instrFault c 1
      else if ¬ (rowsOk src (tileRows f (km1 + 1))
          && rowsOk sc (if scale = 0 then 0 else if scale = 2 ∧ 31 < km1 then 2 else 1)) then s.instrFault c 3
      else
        let s := (s.dropTile c).observe c o
        (s.putTile c (s.readTile c src f scale sc km1 nm1) code).advance c 1)

/-! ### Sums -/

/-- Exponent of the unit a fault is counted in, and of the class's accumulator (R162). -/
def Cls.unit : Cls → Int
  | .exact => -48
  | .int => 0
  | _ => -149
/-- A two's complement accumulator holds no negative zero (R162). -/
def posZero : Val → Val
  | .fin _ 0 e => .fin false 0 e
  | v => v
/-- Exact sum of values with NV (R135). -/
def sumVals (l : List Val) : Val × Flags := sumFrom (.fin false 0 0) l
/-- FP32 accumulation in ascending order, one rounding an addition (R148). -/
def accumFp32 (start : Val) (ps : List (Val × Flags)) : Val × Flags :=
  ps.foldl (fun a p =>
    let r := vadd a.1 p.1
    let e := toFp32 r.1
    (decFloat .fp32 e.1, a.2 ||| p.2 ||| r.2 ||| e.2)) (start, 0#5)
/-- An exactly accumulated list of products. -/
def accumExact (ps : List (Val × Flags)) : Val × Flags :=
  let r := sumVals (ps.map (·.1))
  (posZero r.1, ps.foldl (fun a p => a ||| p.2) r.2)
/-- A value scaled by 2^k. -/
def vscale (k : Int) : Val → Val
  | .fin s m e => .fin s m (e + k)
  | v => v

/-- What a STREAM knows of its pair: class, formats, the tile's values column by column and the scales. -/
structure StreamCtx where
  cls : Cls
  tile : Tile
  wf : Fmt
  xf : Fmt
  /-- Weight values, row k then column n. -/
  wv : List Val
  /-- Further weights of a position that a dense run's tile named more than once. -/
  more : List (Nat × Val) := []
/-- The weights W[k][n]: one, or those of a position named more than once (R185). -/
def StreamCtx.ws (x : StreamCtx) (k n : Nat) : List Val :=
  x.wv.getD (64 * k + n) (.fin false 0 0) :: (x.more.filter (fun e => e.1 = 64 * k + n)).map (·.2)
/-- Products of one column for inputs of rows `k …`, ascending k, with the NV each sets. -/
def StreamCtx.products (x : StreamCtx) (n k : Nat) (xs : List Val) : List (Val × Flags) :=
  xs.zipIdx.flatMap fun p => (x.ws (k + p.2) n).map (vmul p.1)
/-- Weight scale byte of column n and block b; an unscaled side takes 0x7F (R154). -/
def StreamCtx.cw (x : StreamCtx) (b n : Nat) : Nat := if x.tile.scale = 2 then x.tile.blk.getD (64 * b + n) 0x7F else 0x7F
/-- 2^(c − 127) of a scale byte as an exponent; 0xFF has none. -/
def scaleExp (c : Nat) : Option Int := if c = 255 then none else some ((c : Int) - 127)
/-- A value under a block scale, with 2^-6 for MX INT8 (R126, R171). -/
def scaled (f : Fmt) (c : Nat) (v : Val) : Val :=
  match scaleExp c with
  | none => .nan
  | some k => vscale (if f = .int8 then k - 6 else k) v

/-- Accumulator of column n for one output's inputs `xs`, its input scale bytes and its starting value (R148, R162). A block of scale 0xFF is
NaN in every element, so its sum is NaN with no flag (R115, R126, R142). -/
def StreamCtx.column (x : StreamCtx) (xs : List Val) (cx : Nat × Nat) (start : Val) (n : Nat) : Val × Flags :=
  match x.cls with
  | .fp32 => accumFp32 start (x.products n 0 xs)
  | .exact | .int => accumExact (x.products n 0 xs)
  | .mx =>
    let one (b : Nat) : Val × Flags :=
      let r := accumExact (x.products n (32 * b) ((xs.drop (32 * b)).take 32))
      let c := if b = 0 then cx.1 else cx.2
      match scaleExp (x.cw b n), scaleExp c with
      | some u, some v => (vscale (u + v - (if x.wf = .int8 then 12 else 0)) r.1, r.2)
      | _, _ => (.nan, 0#5)
    accumFp32 start (if xs.length ≤ 32 then [one 0] else [one 0, one 1])

/-- A fault's error added to an accumulator: units of the class, or of the FP32 code (R334). -/
def addFault (cls : Cls) (d : Int) (v : Val) : Val :=
  if d = 0 then v
  else match cls with
    | .exact | .int => (vadd v (.fin (decide (d < 0)) d.natAbs cls.unit)).1
    | _ => decFloat .fp32 ((((toFp32 v).1 : Int) + d) % 2 ^ 32).toNat

/-! ### Proof checks (R171 to R177) -/

def Val.isFin : Val → Bool
  | .fin .. => true
  | _ => false
/-- Signed significand and exponent of a finite value. -/
def Val.pair : Val → Int × Int
  | .fin s m e => ((if s then -(m : Int) else m), e)
  | _ => (0, 0)
/-- a·2^e as a value. -/
def ofPair (p : Int × Int) : Val := .fin (decide (p.1 < 0)) p.1.natAbs p.2
/-- Products whose sum binary64 forms exactly in every order and grouping: the magnitudes together have at most 53 bits above the lowest. -/
def sumsExactly (l : List Val) : Bool :=
  let nz := (l.map Val.pair).filter (fun p => decide (p.1 ≠ 0))
  match nz with
  | [] => true
  | p :: _ =>
    let lo := nz.foldl (fun a q => min a q.2) p.2
    nz.all (fun q => decide (q.2 - lo < 64)) && decide ((nz.map (fun q => q.1.natAbs <<< (q.2 - lo).toNat)).sum < 2 ^ 53)
/-- A sum of products as the proof path forms it: exact in the exact and integer classes, binary64 otherwise; where an order of binary64's
additions could show in the result, which the spec leaves open, that result is a free value (R171, log 5). -/
def proofDot (cls : Cls) (l : List (Val × Val)) : Val :=
  let ps := l.map fun p => (vmul p.1 p.2).1
  match cls with
  | .exact | .int => posZero (sumVals ps).1
  | _ => if sumsExactly ps then posZero (sumVals ps).1 else ofPair (Config.dot64 (l.map fun p => (p.1.pair, p.2.pair)))
/-- A proof sum with an Inf or a NaN among its terms is none (R175). -/
def proofSum (cls : Cls) (l : List Val) : Val :=
  if l.all Val.isFin then proofDot cls (l.map fun v => (v, .fin false 1 0)) else .nan
def vone : Val := .fin false 1 0
/-- Result of one check: passed, failed, or not performed (R175). -/
inductive Verdict
  | pass | fail | unchecked
  deriving DecidableEq, Repr
/-- One check of an output side against a proof side; `m` is 64 or the segment length, `k` the K of R174, and `mags` the absolute terms whose
sum is its S. -/
def check (cls : Cls) (k m : Nat) (outs : List Val) (terms mags : List (Val × Val)) (err : Int) : Verdict :=
  if !(outs.all Val.isFin && terms.all (fun p => p.1.isFin && p.2.isFin)) then .unchecked
  else
    let o := proofDot cls (outs.map fun v => (v, vone))
    let q := (vadd (proofDot cls terms) (.fin (decide (err < 0)) err.natAbs cls.unit)).1
    let d := vabs (vadd o (vneg q)).1
    match cls with
    | .exact | .int => if vcmp d (.fin false 0 0) = some .eq then .pass else .fail
    | _ =>
      if vle d (vscale (-23) (vmul (.fin false (k + m) 0) (proofDot cls mags)).1) then .pass else .fail

/-- One output row as the checks see it: its inputs with scales applied, accumulators before rounding and before
clamping, and partials. -/
structure OutRow where
  xs : List Val
  ys : List Val
  ps : List Val
  deriving DecidableEq
/-- Tallies and the first failing segment of a run: column failures, row failures, unchecked, log word. -/
structure ProofSum where
  col : Nat
  row : Nat
  unchecked : Nat
  log : Option Nat
  deriving DecidableEq
/-- The weights of bead (k, n) as the proof lanes multiply them, scaled under MX (R171). -/
def StreamCtx.pws (x : StreamCtx) (k n : Nat) : List Val :=
  if x.cls = .mx then (x.ws k n).map (scaled x.wf (x.cw (k / 32) n)) else x.ws k n
/-- p[k] and a[k]: the signed and the absolute row sum of the weights for bead row k; neither where a weight is Inf or NaN (R171, R175). -/
def StreamCtx.rowSum (x : StreamCtx) (k : Nat) : Val := proofSum x.cls ((rangeFrom 0 64).flatMap (x.pws k))
def StreamCtx.rowAbs (x : StreamCtx) (k : Nat) : Val := proofSum x.cls (((rangeFrom 0 64).flatMap (x.pws k)).map vabs)

/-- The checks of one proof segment whose first output row is `t0` (R172 to R177): each row against p, each column against the segment's X,
and the segment total; the tolerances are formed from a, |X| and the partials' magnitudes. -/
def StreamCtx.segment (x : StreamCtx) (o : Obs) (seg t0 : Nat) (withPart : Bool) (rows : List OutRow) (a : ProofSum)
    (epoch : Nat) : ProofSum :=
  let ks := rangeFrom 0 (x.tile.km1 + 1)
  let kk := x.tile.km1 + 1 + (if withPart then 1 else 0)
  let p := ks.map x.rowSum
  let pAbs := ks.map x.rowAbs
  let parts := withPart && decide (x.cls ≠ .exact)
  let ones (l : List Val) : List (Val × Val) := if parts then l.map (fun v => (v, vone)) else []
  let mags (l : List Val) : List (Val × Val) := ones (l.map vabs)
  let colV := rows.zipIdx.map fun r =>
    let err := ((o.colFaults.find? (fun f => f.1 = t0 + r.2)).map (·.2)).getD 0
    check x.cls kk 64 r.1.ys (r.1.xs.zip p ++ ones r.1.ps) ((r.1.xs.map vabs).zip pAbs ++ mags r.1.ps) err
  let bigX := ks.map fun k => proofSum x.cls (rows.map fun r => r.xs.getD k .nan)
  let bigA := ks.map fun k => proofSum x.cls (rows.map fun r => vabs (r.xs.getD k .nan))
  let rowErr (n : Nat) : Int := ((o.rowFaults.find? (fun f => f.1 = seg ∧ f.2.1 = n)).map (·.2.2)).getD 0
  let with_ (xs : List Val) (n : Nat) (f : Val → Val) : List (Val × Val) :=
    xs.zipIdx.flatMap (fun b => (x.pws b.2 n).map (fun w => (b.1, f w)))
  let rowV := (rangeFrom 0 64).map fun n =>
    let q := rows.map (fun r => r.ps.getD n .nan)
    check x.cls kk rows.length (rows.map (fun r => r.ys.getD n .nan)) (with_ bigX n id ++ ones q) (with_ bigA n vabs ++ mags q) (rowErr n)
  let q := rows.flatMap (·.ps)
  let tot := check x.cls kk rows.length (rows.flatMap (·.ys)) (bigX.zip p ++ ones q) (bigA.zip pAbs ++ mags q) (rowErr 64)
  let badT := (colV.zipIdx.filter (fun v => v.1 = .fail)).map (·.2)
  let badN := (rowV.zipIdx.filter (fun v => v.1 = .fail)).map (·.2)
  let skipped := ((tot :: colV ++ rowV).filter (· = .unchecked)).length
  let word : Option Nat := match badT, badN with
    | t :: _, n :: _ => some (t0 + t + n <<< 32 + 3 <<< 38)
    | t :: _, [] => some (t0 + t + 1 <<< 38)
    | [], n :: _ => some (t0 + n <<< 32 + 2 <<< 38)
    | [], [] => if tot = .fail then some (t0 + 1 <<< 38) else none
  { col := a.col + badT.length
    row := a.row + badN.length + (if tot = .fail then 1 else 0)
    unchecked := a.unchecked + skipped
    log := match a.log with
      | some w => some w
      | none => word.map (fun w => w % 2 ^ 40 + epoch <<< 40) }
/-- The checks of a whole run in segments of `len` rows. -/
def StreamCtx.checks (x : StreamCtx) (o : Obs) (len : Nat) (withPart : Bool) (epoch : Nat) (rows : List OutRow) : ProofSum :=
  (chunks len rows.length rows).zipIdx.foldl (fun a r => x.segment o r.2 (r.2 * len) withPart r.1 a epoch) ⟨0, 0, 0, none⟩
/-- What failing checks do: tallies, the log, the epoch and PROOF_MISMATCH once (R176, R197). -/
def State.proofResult (s : State) (c : Nat) (r : ProofSum) (col row unch valid : RF) : State :=
  let s := ((s.bumpF col c r.col).bumpF row c r.row).bumpF unch c r.unchecked
  match r.log with
  | none => s
  | some w =>
    let s := (s.logF valid c w).modCore c (fun q => { q with epochFail := some 0 })
    s.fault c .proofMismatch (w + 2 ^ 63)

/-! ### STREAM -/

/-- A write of an output row not yet seen by an input read: array cycle in halves, row address, rows, poison (R166). -/
structure OutWrite where
  at_ : Nat
  row : Nat
  data : List Row
  poison : Bool
/-- A row as a read in slot `slot` sees it: the newest output written before that cycle, else what stood there (R166, R178). -/
def State.viewRow (s : State) (c : Nat) (ws : List OutWrite) (slot r2 r : Nat) : Row × Bool :=
  match ws.find? (fun w => decide (w.row ≤ r) && decide (r < w.row + w.data.length) && decide (w.at_ + 71 < 2 * slot / r2)) with
  | some w => (w.data.getD (r - w.row) 0, w.poison)
  | none => (s.row c r, s.rowPoison c r)
/-- The fields of a STREAM, or of the STREAM a dense run stands for (R161, R193). -/
structure StreamF where
  src : Nat
  dst : Nat
  xf : Fmt
  fo : Fmt
  ctx : RCtx
  conv : Bool
  out : Nat
  count : Nat
  seg : Nat
/-- Window geometry of ARR.CONV_A and ARR.CONV_B; a plain STREAM has one tap and one position an output (R168). -/
structure Conv where
  ch : Nat
  kw : Nat
  kh : Nat
  sx : Nat
  sy : Nat
  dx : Nat
  dy : Nat
  inW : Nat
  outW : Nat
def State.convOf (s : State) (c : Nat) : Conv :=
  { ch := s.getF F.arrConvA_c_m1 c + 1, kw := s.getF F.arrConvA_kw_m1 c + 1, kh := s.getF F.arrConvA_kh_m1 c + 1
    sx := s.getF F.arrConvA_sx_m1 c + 1, sy := s.getF F.arrConvA_sy_m1 c + 1
    dx := s.getF F.arrConvA_dx_m1 c + 1, dy := s.getF F.arrConvA_dy_m1 c + 1
    inW := s.getF F.arrConvB_in_w c, outW := s.getF F.arrConvB_out_w c }
/-- Slots of one output image row (R170). -/
def Conv.span (g : Conv) (outs : Nat) : Nat := (outs - 1) * g.sx + (g.kw - 1) * g.dx + 1
/-- The conditions of R169. -/
def Conv.ok (g : Conv) (km1 inMode : Nat) : Bool :=
  decide (g.ch * g.kw * g.kh = km1 + 1) && decide ((g.kw - 1) * g.dx + 1 ≤ 64) && decide (1 ≤ g.inW) && decide (1 ≤ g.outW)
    && decide (g.span g.outW ≤ g.inW) && decide (inMode = 0)
/-- Input position of output p, kernel row a and tap b (R168). -/
def Conv.pos (g : Conv) (p a b : Nat) : Nat := (p / g.outW * g.sy + a * g.dy) * g.inW + p % g.outW * g.sx + b * g.dx
/-- Slot in which position j of output image row y streams: the slots of the image rows before, and the proof slots (R170). -/
def Conv.slotAt (g : Conv) (seg y j : Nat) : Nat :=
  let fill := (g.kw - 1) * g.dx
  let done := y * g.outW + (if fill < j then min g.outW ((j - fill - 1) / g.sx + 1) else 0)
  y * g.span g.outW + j + done / seg
/-- Slot in which tap b of output p is read. -/
def Conv.slot (g : Conv) (seg p b : Nat) : Nat := g.slotAt seg (p / g.outW) (p % g.outW * g.sx + b * g.dx)
/-- Highest input position of `n` outputs. -/
def Conv.last (g : Conv) (n : Nat) : Nat :=
  max (g.pos (n - 1) (g.kh - 1) (g.kw - 1)) (if g.outW < n then g.pos ((n - 1) / g.outW * g.outW - 1) (g.kh - 1) (g.kw - 1) else 0)
/-- Slots streamed in all, proof rows included (R170, R178). -/
def StreamF.slots (f : StreamF) (g : Conv) : Nat :=
  cdiv f.count f.seg + (if f.conv then
    (f.count / g.outW) * g.span g.outW + (if f.count % g.outW = 0 then 0 else g.span (f.count % g.outW))
  else f.count)

/-- Scratchpad rows a STREAM reads as input and writes as output, with the array cycle of each (R167, R170, R178). The cycles of partial and
scale rows are not stated, and those reads take part in no collision here (log 98). -/
def StreamF.inReads (f : StreamF) (g : Conv) (r2 : Nat) : List (Nat × Access) :=
  let at_ (slot pos : Nat) : List (Nat × Access) :=
    (rangeFrom (f.src + pos * f.xf.pitch) f.xf.pitch).map (fun r => (1 + 2 * slot / r2, ⟨0, Fin.ofNat _ r, false, false⟩))
  if f.conv then
    (rangeFrom 0 (cdiv f.count g.outW)).flatMap fun y =>
      (rangeFrom 0 (g.span (min g.outW (f.count - y * g.outW)))).flatMap fun j =>
        (rangeFrom 0 g.kh).flatMap fun a => at_ (g.slotAt f.seg y j) ((y * g.sy + a * g.dy) * g.inW + j)
  else (rangeFrom 0 f.count).flatMap fun t => at_ (t + t / f.seg) t
def StreamF.outWrites (f : StreamF) (g : Conv) (r2 : Nat) : List (Nat × Access) :=
  (rangeFrom 0 f.count).flatMap fun t =>
    let slot := if f.conv then g.slot f.seg t (g.kw - 1) else t + t / f.seg
    (rangeFrom (f.dst + t * f.fo.pitch) f.fo.pitch).map (fun r => (72 + 2 * slot / r2, ⟨0, Fin.ofNat _ r, true, false⟩))
/-- The array's own collisions: accesses of one bank in one array cycle, in the order of the cycles (R167). -/
def StreamF.clashes (f : StreamF) (g : Conv) (r2 : Nat) : List (List Access) :=
  let l := f.inReads g r2 ++ f.outWrites g r2
  let key (e : Nat × Access) : Nat := 32 * e.1 + e.2.row.val % 32
  let ks := sortBy (fun a b => decide (a ≤ b)) (l.foldl (fun (t : NSet) e => NSet.add (key e) t) [])
  (ks.map (fun k => (l.filter (fun e => key e = k)).map (·.2))).filter (fun m => decide (1 < m.length))
/-- What a STREAM meets: the collisions of its own accesses, and those observed with other requesters (R46, R167). -/
def StreamF.meets (f : StreamF) (g : Conv) (r2 : Nat) (o : Obs) : Obs :=
  let seen := o.clashes.filter (fun l => l.any (fun a => decide (a.req ≠ 0)))
  let own := (f.clashes g r2).filter (fun l => !(seen.any (fun m => l.all m.contains)))
  { o with clashes := own ++ seen }

/-- Input codes of output t and their poison, as their slots see the scratchpad. -/
def State.streamIn (s : State) (c : Nat) (f : StreamF) (g : Conv) (ws : List OutWrite) (r2 km1 t : Nat) : List Nat × Bool :=
  let pit := f.xf.pitch
  let rd (slot pos : Nat) : Nat × Bool :=
    let rs := (rangeFrom (f.src + pos * pit) pit).map (s.viewRow c ws slot r2)
    (ofRows (rs.map (·.1)), rs.any (·.2))
  if f.conv then
    let taps := (rangeFrom 0 g.kh).flatMap fun a => (rangeFrom 0 g.kw).map fun b => rd (g.slot f.seg t b) (g.pos t a b)
    (taps.flatMap (fun d => (rangeFrom 0 g.ch).map (elem d.1 f.xf.width)), taps.any (·.2))
  else
    let d := rd (t + t / f.seg) t
    ((rangeFrom 0 (km1 + 1)).map (elem d.1 f.xf.width), d.2)

/-- One column of one output row: what is written and the flags (R161 to R163). `acc` is the accumulator, `part` the partial's code. In the
integer class a floating ofmt takes the 40-bit sum as R162 says, not the INT32 value and SAT of R148. DEDUCED (log 97). -/
def StreamCtx.store (x : StreamCtx) (f : StreamF) (u n : Nat) (acc : Val) (part : Nat) : Nat × Flags :=
  let pv := if x.cls = .int then decode .int32 part else decFloat .fp32 part
  if x.tile.nm1 < n then
    (match f.out with
     | 0 => (0, 0#5)
     | 1 => (part, 0#5)
     | _ => encode f.fo f.ctx u pv.lsb pv)
  else
    let sw := decFloat .fp32 x.tile.sw
    match x.cls with
    | .fp32 | .mx => if f.out = 1 then ((toFp32 acc).1, 0#5) else encode f.fo f.ctx u acc.lsb acc
    | .exact =>
      let r := if x.tile.scale = 1 then vmul acc sw else (acc, 0#5)
      let v := if f.out = 0 then r else let q := vadd r.1 pv; (q.1, r.2 ||| q.2)
      let lsb := if x.tile.scale = 1 ∨ f.out ≠ 0 then none else some (-48 : Int)
      let e := if f.out = 1 then toFp32 v.1 else encode f.fo f.ctx u lsb v.1
      (e.1, e.2 ||| v.2)
    | .int =>
      let v := if f.out = 0 then acc else (vadd acc pv).1
      if f.out = 1 then encode .int32 .plain 0 none v else encode f.fo f.ctx u (some 0) v

/-- Input scale bytes of input row t (R158, ARR.IN_SCALE): block 0 and block 1. -/
def State.inScales (s : State) (c : Nat) (t : Nat) : (Nat × Nat) × Bool :=
  if s.getF F.arrInScale_mode c = 1 then
    let r := s.getF F.arrInScale_row c
    ((s.byteAt c r (2 * t), s.byteAt c r (2 * t + 1)), s.rowPoison c (r + 2 * t / 64))
  else ((0x7F, 0x7F), false)

/-- Output rows t … of a run: pending writes newest first, rows for the checks, flags. A column above n_m1 has no weights: its accumulator
stays at its start, and the checks count it with the other columns (R162, R172). -/
def State.streamRows (s : State) (c : Nat) (x : StreamCtx) (f : StreamF) (g : Conv) (o : Obs) (useIn : Bool) :
    Nat → Nat → List OutWrite → List OutRow → Flags → List OutWrite × List OutRow × Flags
  | 0, _, ws, rs, fl => (ws, rs, fl)
  | n + 1, t, ws, rs, fl =>
    let r2 := rate2 x.wf x.xf
    let inp := s.streamIn c f g ws r2 x.tile.km1 t
    let xs := inp.1.map (arrVal x.xf)
    let sc := if useIn then s.inScales c t else ((0x7F, 0x7F), false)
    let pFmt := if x.cls = .int then Fmt.int32 else Fmt.fp32
    let parts := if f.out = 0 then List.replicate 64 0 else s.vecCodes c f.dst .fp32 t
    let pPo := f.out ≠ 0 && s.vecPoison c f.dst pFmt t
    let cols := (rangeFrom 0 64).map fun k =>
      let start := if f.out = 0 then (.fin false 0 0 : Val) else decFloat .fp32 (parts.getD k 0)
      if x.tile.nm1 < k then (if x.cls = .fp32 ∨ x.cls = .mx then start else .fin false 0 0, 0#5)
      else
        let r := x.column xs sc.1 start k
        let d := ((o.faults.find? (fun e => e.1 = t ∧ e.2.1 = k)).map (·.2.2)).getD 0
        (addFault x.cls d r.1, r.2)
    let outs := (rangeFrom 0 64).map fun k =>
      x.store f (s.srOut c t k) k (cols.getD k (.nan, 0#5)).1 (parts.getD k 0)
    let po := inp.2 || sc.2 || pPo || x.tile.poison
    let slot := if f.conv then g.slot f.seg t (g.kw - 1) else t + t / f.seg
    let w : OutWrite := ⟨2 * slot / r2, f.dst + t * f.fo.pitch, toRows (pack f.fo.width (outs.map (·.1))) f.fo.pitch, po⟩
    let pin := xs.zipIdx.map fun v =>
      if x.cls = .mx then scaled x.xf (if v.2 < 32 then sc.1.1 else sc.1.2) v.1 else v.1
    let pvals := parts.map fun v => if x.cls = .int then decode .int32 v else decFloat .fp32 v
    let ys := (cols.zip pvals).map fun v =>
      if x.cls = .int ∧ f.out ≠ 0 then (vadd v.1.1 v.2).1 else v.1.1
    s.streamRows c x f g o useIn n (t + 1) (w :: ws) (rs ++ [⟨pin, ys, pvals⟩])
      (fl ||| anyFlags outs ||| cols.foldl (fun a v => a ||| v.2) 0#5)

/-- A run of the array over a tile (R161 to R178): outputs, flags, tallies, checks. -/
def State.arrayRun (s : State) (c : Nat) (t : Tile) (cls : Cls) (f : StreamF) (g : Conv) (o : Obs) : State :=
  let x : StreamCtx := ⟨cls, t, t.fmt, f.xf, t.w.map (arrVal t.fmt), t.more.map (fun e => (e.1, arrVal t.fmt e.2))⟩
  let r := s.streamRows c x f g o (decide (s.getF F.arrInScale_mode c = 1)) f.count 0 [] [] 0#5
  let epoch := s.getF F.seqUstep_epoch c
  let s := r.1.reverse.foldl (fun s w => s.putRows c w.row w.data w.poison) s
  let s := (s.orFlags c .array r.2.2).bumpF F.arrRows_slots c (f.slots g)
  s.proofResult c (x.checks o f.seg (decide (f.out ≠ 0)) epoch r.2.1) F.arrProofStat_col_fail F.arrProofStat_row_fail
    F.arrProofStat_unchecked F.arrProofLog_valid
/-- Writes `n` output rows as poisoned zeros, leaving out rows beyond the scratchpad (R165, R190). -/
def State.zeroRows (s : State) (c dst pitch n : Nat) : State :=
  let k := min (n * pitch) (spadRows - dst)
  s.putRows c dst (List.replicate k 0) true

/-- STREAM (R161 to R178). With no tile, reason 1 is judged by what does not depend on one. -/
def execStream (c : CoreIx) (w0 w1 : Word) (o : Obs) (s : State) : Outcome State Fault Refusal :=
  .next (s.dispatch c w0 o true false fun s =>
    let src := bits w0 38 18; let dst := bits w0 20 18; let ifc := bits w0 16 4; let ofc := bits w0 12 4
    let out := bits w0 5 2; let n := bits w1 0 32; let conv := bit w0 7
    let g := s.convOf c
    match (if ifc ≤ 10 then Fmt.ofCode ifc else none), outFmt ofc, Rnd.ofCode (bits w0 10 2) with
    | some xf, some fo, some rnd =>
      let f : StreamF := ⟨src, dst, xf, fo, ⟨rnd, bit w0 9, bit w0 8⟩, conv, out, n, bits w1 32 8 + 1⟩
      let inMode := s.getF F.arrInScale_mode c
      let scRows := if inMode = 1 then cdiv (2 * n) 64 else 0
      if bits w0 0 5 ≠ 0 ∨ bits w1 40 24 ≠ 0 ∨ out = 3 ∨ 2 ≤ inMode then s.instrFault c 1
      else
        let inRows := if n = 0 then 0 else if conv then (g.last n + 1) * xf.pitch else n * xf.pitch
        let rangesOk := rowsOk src inRows && rowsOk dst (n * fo.pitch) && rowsOk dst (if out = 0 then 0 else 4 * n)
          && rowsOk (s.getF F.arrInScale_row c) scRows
        match (s.core c).tile with
        | none =>
          if (out = 1 ∧ ofc ≠ 0 ∧ ofc ≠ 11) ∨ (conv = true ∧ g.ok (g.ch * g.kw * g.kh - 1) inMode = false) then s.instrFault c 1
          else if ¬ rangesOk then s.instrFault c 3
          else if n = 0 then s.advance c 2
          else (((s.observe c o).zeroRows c dst fo.pitch n).fault c .arrayNoTile 0).advance c 2
        | some t =>
          match pairClass t.fmt xf t.scale inMode with
          | none => s.instrFault c 1
          | some cls =>
            if (out = 1 ∧ ofc ≠ (if cls = .int then 11 else 0)) ∨ (conv = true ∧ g.ok t.km1 inMode = false) then s.instrFault c 1
            else if ¬ rangesOk then s.instrFault c 3
            else if n = 0 then s.advance c 2
            else ((s.observe c (f.meets g (rate2 t.fmt xf) o)).arrayRun c t cls f g o).advance c 2
    | _, _, _ => s.instrFault c 1)

end Sys2Proof.Machine
end

