-- ==== Sys2Proof/Machine/Sparse.lean ====
section
/-! DEFINITION. The sparse engine: compressed tiles, SPARSE_TILE, SELECT, and compression on store (07_sparse_engine). -/
namespace Sys2Proof.Machine
open Host

/-- A BITMAP or INDEX header (R183), with what R184 to R186 derive. -/
structure Header where
  layout : Nat
  wfc : Nat
  ifc : Nat
  km1 : Nat
  scale : Nat
  nm1 : Nat
  nnz : Nat
  sw : Nat
  metaRows : Nat
  valRows : Nat
  scRows : Nat
  resv : Nat
  magic : Nat
/-- Reads a header row. -/
def Header.of (r : Row) : Header :=
  { magic := bits r 0 16, layout := bits r 16 2, wfc := bits r 24 4, ifc := bits r 28 4, km1 := bits r 32 6
    scale := bits r 38 2, nm1 := bits r 40 6, nnz := bits r 48 13, sw := bits r 64 32
    metaRows := bits r 96 16, valRows := bits r 112 16, scRows := bits r 128 16
    resv := bits r 18 6 + bits r 46 2 + bits r 61 3 + bits r 144 368 + (if bits r 38 2 = 1 then 0 else bits r 64 32) }
/-- The three row counts of a tile (R184 to R186). -/
def rowCounts (layout km1 nnz w scale : Nat) : Nat × Nat × Nat :=
  (if layout = 0 then 8 else cdiv (2 * (km1 + 2) + nnz) 64, cdiv (nnz * w) 512,
   if scale = 2 then (if km1 < 32 then 1 else 2) else 0)
/-- The class of a header's own pair, if its fields are permitted (R190). -/
def Header.cls (h : Header) : Option (Fmt × Fmt × Cls) :=
  match (if h.wfc ≤ 10 then Fmt.ofCode h.wfc else none), (if h.ifc ≤ 10 then Fmt.ofCode h.ifc else none) with
  | some w, some x => (if h.scale = 3 then none else pairClass w x h.scale 0).map (fun c => (w, x, c))
  | _, _ => none
/-- The part of R190 that the header row itself decides. -/
def Header.valid (h : Header) : Option (Fmt × Fmt × Cls) :=
  match h.cls with
  | none => none
  | some (w, x, c) =>
    if h.magic = 0x5354 ∧ h.layout ≤ 1 ∧ h.resv = 0 ∧ h.nnz ≤ 4096
      ∧ (h.metaRows, h.valRows, h.scRows) = rowCounts h.layout h.km1 h.nnz w.width h.scale
    then some (w, x, c) else none
/-- Rows of a compressed tile (R182). -/
def Header.rc (h : Header) : Nat := 1 + h.metaRows + h.valRows + h.scRows

/-- The kept entries of a tile, in storage order, with the dropped entries and malformed rows (R184 to R188).
`md` and `vals` are the metadata and value rows as numbers. -/
def keptEntries (h : Header) (w md vals : Nat) : List (Nat × Nat × Nat) × Nat × Nat :=
  if h.layout = 0 then
    let set := ((rangeFrom 0 4096).filter (fun i => md.testBit i)).zipIdx
    let keep := set.filter (fun p => decide (p.2 < h.nnz) && decide (p.1 / 64 ≤ h.km1) && decide (p.1 % 64 ≤ h.nm1))
    (keep.map (fun p => (p.1 / 64, p.1 % 64, elem vals w p.2)), set.length - keep.length, 0)
  else
    let rp (k : Nat) := elem md 16 k
    let col (e : Nat) := elem (md >>> (16 * (h.km1 + 2))) 8 e
    let bad := (rangeFrom 0 (h.km1 + 1)).filter (fun k => decide (rp (k + 1) < rp k) || decide (h.nnz < rp (k + 1)))
    let ents := (rangeFrom 0 (h.km1 + 1)).flatMap fun k =>
      if bad.contains k then [] else (rangeFrom (rp k) (rp (k + 1) - rp k)).map (fun e => (k, col e, elem vals w e))
    let keep := ents.filter (fun p => decide (p.2.1 ≤ h.nm1))
    (keep, ents.length - keep.length, bad.length)

/-- The dense tile a dense run loads (R193). A position named twice holds both weights, which are multiplied and added in storage order as in a
sparse run (R149, R185). -/
def expandTile (h : Header) (f : Fmt) (ents : List (Nat × Nat × Nat)) (blk : List Nat) (poison : Bool) : Tile :=
  let place (w : List (Option Nat) × List (Nat × Nat)) (e : Nat × Nat × Nat) : List (Option Nat) × List (Nat × Nat) :=
    let i := 64 * e.1 + e.2.1
    if (w.1.getD i none).isSome then (w.1, w.2 ++ [(i, e.2.2)]) else (listSet w.1 i (some e.2.2), w.2)
  let r := ents.foldl place (List.replicate (64 * (h.km1 + 1)) none, [])
  { fmt := f, scale := h.scale
    w := r.1.map (·.getD 0), more := r.2
    sw := if h.scale = 1 then h.sw else 0x3F800000
    blk := blk, km1 := h.km1, nm1 := h.nm1, poison := poison }

/-- Accumulator of one column of a sparse run: products of the kept entries only, ascending k (R149, R162). -/
def StreamCtx.sparseColumn (x : StreamCtx) (xs : List Val) (ents : List (Nat × Val)) (n : Nat) : Val × Flags :=
  let ps (l : List (Nat × Val)) := l.map fun e => vmul (xs.getD e.1 .nan) e.2
  match x.cls with
  | .fp32 => accumFp32 (.fin false 0 0) (ps ents)
  | .exact | .int => accumExact (ps ents)
  | .mx =>
    let one (b : Nat) : Val × Flags :=
      let r := accumExact (ps (ents.filter (fun e => e.1 / 32 = b)))
      match scaleExp (x.cw b n) with
      | some u => (vscale (u - (if x.wf = .int8 then 12 else 0)) r.1, r.2)
      | none => (.nan, 0#5)
    accumFp32 (.fin false 0 0) (if xs.length ≤ 32 then [one 0] else [one 0, one 1])

/-- Output rows of a sparse run, a block of 16 read before it is written (R194 to R196). -/
def State.sparseBlocks (s : State) (c : Nat) (x : StreamCtx) (f : StreamF) (cols : List (List (Nat × Val))) (o : Obs) :
    Nat → Nat → List OutRow → Flags → State × List OutRow × Flags
  | 0, _, rs, fl => (s, rs, fl)
  | nb + 1, t0, rs, fl =>
    let ts := (rangeFrom t0 16).filter (· < f.count)
    let outs := ts.map fun t =>
      let xs := ((s.vecCodes c f.src f.xf t).take (x.tile.km1 + 1)).map (arrVal x.xf)
      let ys := cols.zipIdx.map fun e =>
        let r := x.sparseColumn xs e.1 e.2
        let d := ((o.faults.find? (fun g => g.1 = t ∧ g.2.1 = e.2)).map (·.2.2)).getD 0
        (addFault x.cls d r.1, r.2)
      let st := ys.zipIdx.map fun y => x.store f (s.srOut c t y.2) y.2 y.1.1 0
      let pin := if x.cls = .mx then xs.map (scaled x.xf 0x7F) else xs
      ((t, st, s.vecPoison c f.src f.xf t || x.tile.poison), (⟨pin, ys.map (·.1), ys.map (fun _ => .fin false 0 0)⟩ : OutRow),
        anyFlags st ||| ys.foldl (fun a y => a ||| y.2) 0#5)
    let s := outs.foldl (fun s p => s.putVec c f.dst f.fo p.1.1 (p.1.2.1.map (·.1)) p.1.2.2) s
    s.sparseBlocks c x f cols o nb (t0 + 16) (rs ++ outs.map (·.2.1)) (outs.foldl (fun a p => a ||| p.2.2) fl)

/-- Cycles of one block in which the distributor stops: it places up to 128 entries a cycle, in storage order, in 32-entry queues by lane, and
then each lane takes up to 8 from its own (R180, R181). A lane takes entries in the cycle that places them, as the block times of R198's
example have it. `l` is the lanes of the entries still to place, `q` the entries in each queue. -/
def queueStalls : Nat → List Nat → List Nat → Nat
  | 0, _, _ => 0
  | n + 1, l, q =>
    let put (a : List Nat × Nat × Bool) (i : Nat) : List Nat × Nat × Bool :=
      if a.2.2 || decide (32 ≤ a.1.getD i 0) then (a.1, a.2.1, true) else (listSet a.1 i (a.1.getD i 0 + 1), a.2.1 + 1, false)
    let r := (l.take 128).foldl put (q, 0, false)
    if l.isEmpty then 0 else r.2.2.toNat + queueStalls n (l.drop r.2.1) (r.1.map (· - 8))
/-- Data blocks of a sparse run and its proof blocks, one after every 16th data block and after the last (R198). -/
def sparseBlockCount (count : Nat) : Nat := cdiv count 16 + cdiv (cdiv count 16) 16
/-- A sparse run (R194 to R197). -/
def State.sparseRun (s : State) (c : Nat) (h : Header) (wf xf : Fmt) (cls : Cls) (ents : List (Nat × Nat × Nat))
    (blk : List Nat) (poison : Bool) (f : StreamF) (o : Obs) : State :=
  let vals := ents.map fun e => (e.1, e.2.1, arrVal wf e.2.2)
  let cols := (rangeFrom 0 64).map fun n => (vals.filter (fun e => e.2.1 = n)).map (fun e => (e.1, e.2.2))
  let t : Tile := ⟨wf, h.scale, [], [], if h.scale = 1 then h.sw else 0x3F800000, blk, h.km1, h.nm1, poison⟩
  let x : StreamCtx := ⟨cls, t, wf, xf, [], vals.map (fun e => (64 * e.1 + e.2.1, e.2.2))⟩
  let epoch := s.getF F.seqUstep_epoch c
  let r := s.sparseBlocks c x f cols o (cdiv f.count 16) 0 [] 0#5
  let stalls := queueStalls (ents.length + 1) (ents.map (fun e => e.2.1 / 4)) (List.replicate 16 0)
  let s := (r.1.orFlags c .sparse r.2.2).bumpF F.speQueueStall_cycles c (stalls * sparseBlockCount f.count)
  s.proofResult c (x.checks o 256 false epoch r.2.1) F.speProofStat_col_fail F.speProofStat_row_fail
    F.speProofStat_unchecked F.speProofLog_valid

/-- Ranking order of a SELECT run: higher score first, NaN below every number, ties to the lower index (R204). -/
def ranksBefore (a b : Nat × Val) : Bool :=
  match vcmp a.2 b.2 with
  | some .gt => true
  | some .lt => false
  | some .eq => decide (a.1 ≤ b.1)
  | none => if a.2 = .nan then decide (b.2 = .nan) && decide (a.1 ≤ b.1) else true
/-- A SELECT run (R203 to R205). -/
def State.selectRun (s : State) (c : Nat) (r : Row) (f : Fmt) (src dst n : Nat) (o : Obs) : State :=
  let k := bits r 32 32
  let base := bits r 64 32
  let scores := (rangeFrom 0 n).flatMap fun t => (s.vecCodes c src f t).map (decode f)
  let po := (rangeFrom 0 n).any (s.vecPoison c src f)
  let top := ((sortBy ranksBefore (scores.zipIdx.map (fun p => (p.2, p.1)))).take k).map (·.1)
  let idx := (sortBy (fun a b => decide (a ≤ b)) top).map (fun j => (base + j) % 2 ^ 32)
  let s := s.putRows c dst (toRows (pack 32 idx) (cdiv (4 * k) 64)) po
  if o.selectDiffers then
    s.proofResult c ⟨1, 0, 0, some (s.getF F.seqUstep_epoch c <<< 40)⟩ F.speProofStat_col_fail F.speProofStat_row_fail
      F.speProofStat_unchecked F.speProofLog_valid
  else s

/-- What an invalid header does (R190). -/
def State.badHeader (s : State) (c dst pitch n : Nat) : State :=
  ((s.zeroRows c dst pitch n).bumpF F.speMalformed_headers c 1).fault c .sparseHeaderError 0
/-- SPE.STATUS and SPE.RUNS of a decided run (R208). -/
def State.speRun (s : State) (c : Nat) (sparse : Bool) (layout nnz : Nat) : State :=
  let s := s.setReg .speStatus c (BitVec.ofNat 64 ((if sparse then 1 else 0) + layout <<< 1 + nnz <<< 3))
  if sparse then s.bumpF F.speRuns_sparse c 1 else s.bumpF F.speRuns_dense c 1

/-- SPARSE_TILE (R180 to R198, R203 to R205). -/
def execSparseTile (c : CoreIx) (w0 w1 : Word) (o : Obs) (s : State) : Outcome State Fault Refusal :=
  .next (s.dispatch c w0 o true false fun s =>
    let tile := bits w0 38 18; let src := bits w0 20 18; let dst := bits w0 2 18
    let n := bits w1 0 32; let mode := bits w1 38 2
    match outFmt (bits w1 32 4), Rnd.ofCode (bits w1 36 2) with
    | some fo, some rnd =>
      if bits w0 0 2 ≠ 0 ∨ bits w1 42 22 ≠ 0 ∨ mode = 3 then s.instrFault c 1
      else if ¬ rowsOk tile 1 then s.instrFault c 3
      else if n = 0 then s.advance c 2
      else
        let hr := s.row c tile
        let hp := s.rowPoison c tile
        let h := Header.of hr
        if h.magic = 0x5354 ∧ h.layout = 2 then
          let s := s.observe c o
          let k := bits hr 32 32
          match (if h.wfc ≤ 3 then Fmt.ofCode h.wfc else none) with
          | some f =>
            if hp = false ∧ bits hr 18 6 = 0 ∧ bits hr 28 4 = 0 ∧ bits hr 96 416 = 0 ∧ 1 ≤ k ∧ k ≤ 65536 ∧ k ≤ 64 * n
              ∧ rowsOk src (n * f.pitch) = true ∧ rowsOk dst (cdiv (4 * k) 64) = true
            then ((s.selectRun c hr f src dst n o).speRun c true 2 0).advance c 2
            else (s.badHeader c dst fo.pitch n).advance c 2
          | none => (s.badHeader c dst fo.pitch n).advance c 2
        else
          match h.valid with
          | none => ((s.observe c o).badHeader c dst fo.pitch n).advance c 2
          | some (wf, xf, cls) =>
            if hp = true ∨ ¬ (rowsOk tile h.rc && rowsOk src (n * xf.pitch) && rowsOk dst (n * fo.pitch)) then
              ((s.observe c o).badHeader c dst fo.pitch n).advance c 2
            else
              let sparse := decide (mode = 1)
                || (decide (mode = 0) && decide (h.nnz * 65536 < s.getF F.speThreshold_density c * ((h.km1 + 1) * (h.nm1 + 1))))
              let f : StreamF := ⟨src, dst, xf, fo, ⟨rnd, bit w1 40, bit w1 41⟩, false, 0, n, 256⟩
              let dcls := if sparse then some cls else
                if 2 ≤ s.getF F.arrInScale_mode c then none else pairClass wf xf h.scale (s.getF F.arrInScale_mode c)
              match dcls with
              | none => s.instrFault c 1
              | some cls =>
                let s := s.observe c (if sparse then o else f.meets (s.convOf c) (rate2 wf xf) o)
                let md := s.rows c (tile + 1) h.metaRows
                let vals := s.rows c (tile + 1 + h.metaRows) h.valRows
                let scr := tile + 1 + h.metaRows + h.valRows
                let blk := (rangeFrom 0 (64 * h.scRows)).map (fun i => s.byteAt c scr i)
                let po := s.rowsPoison c tile h.rc
                let ke := keptEntries h wf.width md vals
                let s := (s.bumpF F.speDropped_entries c ke.2.1).bumpF F.speMalformed_rows c ke.2.2
                let s := s.speRun c sparse h.layout h.nnz
                let s := if sparse then s.sparseRun c h wf xf cls ke.1 blk po f o
                  else
                    let t := expandTile h wf ke.1 blk po
                    ((s.putTile c t h.wfc).arrayRun c t cls f (s.convOf c) o).dropTile c
                let s := if ke.2.1 + ke.2.2 = 0 then s else s.fault c .sparseMetaError 0
                s.advance c 2
    | _, _ => s.instrFault c 1)

/-! ### Compression on store (R199 to R202) -/

/-- Compresses the source rows of a DRAM_WRITE: none where the template or the length is invalid (R202). -/
def compress (src : List Row) (len : Nat) : Option (List Row) :=
  let t := src.headD 0
  let h := Header.of t
  match h.cls with
  | none => none
  | some (wf, _, _) =>
    let k := h.km1 + 1
    let sc := (rowCounts 0 h.km1 0 wf.width h.scale).2.2
    if h.magic ≠ 0x5354 ∨ 1 < h.layout ∨ h.resv ≠ 0 ∨ h.nnz ≠ 0 ∨ h.metaRows ≠ 0 ∨ h.valRows ≠ 0 ∨ h.scRows ≠ 0
      ∨ len ≠ 64 * (1 + tileRows wf k + sc) then none
    else
      let dense := ofRows ((src.drop 1).take (tileRows wf k))
      let isZero (c : Nat) : Bool := match decode wf c with
        | .fin _ m _ => decide (m = 0)
        | _ => false
      let ents := ((rangeFrom 0 (64 * k)).filter (· % 64 ≤ h.nm1)).filterMap fun i =>
        let c := elem dense wf.width i
        if isZero c then none else some (i, c)
      let nnz := ents.length
      let layout := if (rowCounts 1 h.km1 nnz wf.width h.scale).1 < 8 then 1 else 0
      let rc := rowCounts layout h.km1 nnz wf.width h.scale
      let hdr := setBits (setBits (setBits (setBits (setBits t 16 2 layout) 48 13 nnz) 96 16 rc.1) 112 16 rc.2.1) 128 16 rc.2.2
      let md := if layout = 0 then ents.foldl (fun a e => a + 2 ^ e.1) 0
        else pack 16 ((rangeFrom 0 (k + 1)).map (fun r => (ents.filter (fun e => e.1 < 64 * r)).length))
          + pack 8 (ents.map (·.1 % 64)) <<< (16 * (k + 1))
      some (hdr :: toRows md rc.1 ++ toRows (pack wf.width (ents.map (·.2))) rc.2.1
        ++ ((src.drop (1 + tileRows wf k)).take rc.2.2))

end Sys2Proof.Machine
end

