-- ==== Sys2Proof/Machine/Dma.lean ====
section
/-! DEFINITION. The DMA engine of a core: descriptors, tags, packets out and packets in (R57 to R64, R86, R87, R103 to R106,
R288 to R293, R338 to R341, R353, R357, R527). -/
namespace Sys2Proof.Machine
open Host

/-! ### Issue -/

/-- The descriptor fields of R57, from words 1 to 4 of a DMA instruction. -/
structure DescF where
  w : BitVec 256
def DescF.of (w1 w2 w3 w4 : Word) : DescF := ⟨w4 ++ w3 ++ w2 ++ w1⟩
namespace DescF
variable (d : DescF)
def kind : Nat := bits d.w 0 4
def ctr : Nat := bits d.w 8 8
def rem : Nat := bits d.w 16 8
def compress : Bool := bit d.w 24
def bchk : Bool := bit d.w 25
def len : Nat := bits d.w 32 25
def loc : Nat := bits d.w 64 24
def remote : Nat := bits d.w 128 48
def addr2 : Nat := bits d.w 192 48
end DescF
/-- Scratchpad size in bytes (R42). -/
def spadBytes : Nat := 0x800000

/-- The kind is reserved, a reserved field is non-zero, or a flag or field stands where its kind has none (R57, R201). -/
def DescF.badField (d : DescF) (k : DKind) : Bool :=
  decide (5 ≤ bits d.w 0 4) || decide (bits d.w 4 4 + bits d.w 26 6 + bits d.w 57 7 + bits d.w 88 40 + bits d.w 176 16 + bits d.w 240 16 ≠ 0)
    || (decide (k ≠ .dramCopy) && decide (d.addr2 ≠ 0)) || (decide (k = .dramCopy) && decide (d.loc ≠ 0))
    || (decide (k ≠ .corePush) && decide (d.rem ≠ 0)) || (decide (k ≠ .dramWrite) && d.compress) || (d.compress && d.bchk)
    || (decide (k = .corePush) && decide (bits d.w 168 8 ≠ 0)) || (decide (k = .reduceSend) && decide (bits d.w 160 16 ≠ 0))
/-- Reason a descriptor is rejected for at issue, the lowest that applies (R59); none accepts it. -/
def State.descReason (s : State) (p : Nat) (d : DescF) (k : DKind) : Option Nat :=
  let push := decide (k = .corePush)
  let copy := decide (k = .dramCopy)
  let rAddr := d.remote / 65536 % 2 ^ 24
  let r1 := decide (0x1000000 < d.len)
  let r2 := decide (d.len % 64 ≠ 0) || (!copy && decide (d.loc % 64 ≠ 0)) || (push && decide (rAddr % 64 ≠ 0))
  let r3 := (!copy && decide (spadBytes < d.loc + d.len)) || (push && decide (spadBytes < rAddr + d.len))
  let r5 := decide (64 ≤ d.ctr) || (push && decide (64 ≤ d.rem))
  let r6 := push && (s.physOf p (d.remote % 65536)).isNone
  let r7 := d.bchk && (decide (d.len % 4096 ≠ 0) || (!copy && decide (d.loc % 4096 ≠ 0)) || (push && decide (rAddr % 4096 ≠ 0))
    || ((copy || decide (k = .dramRead) || decide (k = .dramWrite)) && decide (d.remote % 4096 ≠ 0))
    || (copy && decide (d.addr2 % 4096 ≠ 0)))
  if r1 then some 1 else if r2 then some 2 else if r3 then some 3 else if d.badField k then some 4
  else if r5 then some 5 else if r6 then some 6 else if r7 then some 7 else none
/-- Inbound kinds (R54). -/
def DKind.inbound : DKind → Bool
  | .dramRead | .gather => true
  | _ => false
/-- A rejected descriptor (R59): poisoned inbound rows, the log, the event, the local counter. -/
def State.rejectDesc (s : State) (c : Nat) (k : DKind) (reason ctr loc len : Nat) : State :=
  let seq := (s.core c).nextSeq
  let s := s.modCore c (fun q => { q with nextSeq := (q.nextSeq + 1) % 65536 })
  let s := if k.inbound then s.poisonRows c (loc / 64) (cdiv (loc % 64 + len) 64) else s
  let w := reason + (seq % 65536) <<< 4
  let s := (s.logF F.dmaDescError_valid c w).fault c .dmaDescError (w + 2 ^ 63)
  s.count c ctr

/-- Tag registers after a change of the tags held (R68). -/
def State.showTags (s : State) (c : Nat) : State :=
  let n := (s.core c).tags.length
  (s.setF F.dmaTagStat_in_use c n).setF F.dmaTagStat_high_water c (max n (s.getF F.dmaTagStat_high_water c))
/-- Applies an update to the descriptor of a sequence number. -/
def State.modDesc (s : State) (c seq : Nat) (f : Desc → Desc) : State :=
  s.modCore c (fun q => { q with descs := q.descs.map (fun d => if d.seq = seq then f d else d) })
/-- Whether a descriptor has reached its release point: everything sent, no tag open (R63). -/
def Desc.isDone (d : Desc) : Bool := decide (d.len ≤ d.sent) && decide (d.open_ = 0)
/-- Completes the descriptors that are done: each local counter increments once, a resend's not (R63, R353). -/
def State.settle (s : State) (c : Nat) : State :=
  let fin := (s.core c).descs.filter (·.isDone)
  let s := s.modCore c (fun q => { q with
    descs := (q.descs.filter (fun d => !d.isDone)).map (fun d =>
      { d with active := d.active && (d.kind.inbound || decide (d.sent < d.len)) }) })
  (fin.foldl (fun s d => if d.again then s else s.countOpt c d.ctr) s).showPhase c |>.showTags c

/-- Puts an accepted descriptor in flight, or completes it at issue where a suppression mark covers it (R357). -/
def State.issue (s : State) (c : Nat) (d : Desc) : State :=
  let q := s.core c
  let d := { d with seq := q.nextSeq, epoch := s.getF F.seqUstep_epoch c }
  let w := BitVec.ofNat 64 d.remote
  let s := s.modCore c (fun q => { q with
    nextSeq := (q.nextSeq + 1) % 65536
    offered := if d.kind = .reduceSend ∧ bit w 31 then q.offered ++ [(d.remote % 4096, bits w 12 19, d.len)] else q.offered })
  if (match q.suppress with | some m => decide ((d.seq + 65536 - q.boundSeq) % 65536 < m) | none => false) || decide (d.len = 0) then s.countOpt c d.ctr
  else
    let s := if d.kind = .corePush ∨ d.kind = .reduceSend then s.modCore c (fun q => { q with sentLog := q.sentLog ++ [d] }) else s
    (s.modCore c (fun q => { q with descs := q.descs ++ [d] })).showPhase c
/-- A plain descriptor of R57. -/
def DescF.desc (d : DescF) (k : DKind) : Desc :=
  { seq := 0, kind := k, ctr := some d.ctr, remCtr := d.rem, compress := d.compress, bchk := d.bchk, len := d.len
    loc := d.loc, remote := d.remote, addr2 := d.addr2, list := [], rowLen := 0, sent := 0, open_ := 0
    parts := [], active := decide (k ≠ .dramCopy), faulted := false, packed := none, again := false, epoch := 0 }
/-- COMPRESS_ON_STORE: the source is read whole; an invalid template, a poisoned one among them, or length writes nothing (R190, R199 to
R202). -/
def State.issueCompressed (s : State) (c : Nat) (d : Desc) : State :=
  let n := d.len / 64
  let src := (rangeFrom (d.loc / 64) n).map (s.row c)
  match (if s.rowPoison c (d.loc / 64) then none else compress src d.len) with
  | none =>
    let s := s.modCore c (fun q => { q with nextSeq := (q.nextSeq + 1) % 65536 })
    ((s.bumpF F.speCompress_errors c 1).countOpt c d.ctr).fault c .dmaCompressError 0
  | some rows =>
    let s := if (Header.of (rows.headD 0)).layout = 0 then s.bumpF F.speCompress_bitmap c 1 else s.bumpF F.speCompress_index c 1
    s.issue c { d with packed := some (rows, s.rowsPoison c (d.loc / 64) n), len := 64 * rows.length, active := false }
/-- A DMA instruction of a given kind (R57 to R63). Reserved bits of word 0 are reason 4 of R59. -/
def State.dma (s : State) (c : Nat) (w0 w1 w2 w3 w4 : Word) (o : Obs) (k : DKind) : State :=
  s.dispatch c w0 o false false fun s =>
    let d := DescF.of w1 w2 w3 w4
    let s := (s.observe c o).advance c 5
    let p := (s.ownerOf c).getD 255
    let reason := match s.descReason p d k with
      | some r => if bits w0 0 56 ≠ 0 then some (min r 4) else some r
      | none => if bits w0 0 56 ≠ 0 then some 4 else none
    match reason with
    | some r => s.rejectDesc c k r d.ctr d.loc d.len
    | none => if d.compress ∧ d.len ≠ 0 then s.issueCompressed c (d.desc k) else s.issue c (d.desc k)

def execDramRead (c : CoreIx) (w0 w1 w2 w3 w4 : Word) (o : Obs) (s : State) : Outcome State Fault Refusal :=
  .next (s.dma c w0 w1 w2 w3 w4 o .dramRead)
def execDramWrite (c : CoreIx) (w0 w1 w2 w3 w4 : Word) (o : Obs) (s : State) : Outcome State Fault Refusal :=
  .next (s.dma c w0 w1 w2 w3 w4 o .dramWrite)
def execCorePush (c : CoreIx) (w0 w1 w2 w3 w4 : Word) (o : Obs) (s : State) : Outcome State Fault Refusal :=
  .next (s.dma c w0 w1 w2 w3 w4 o .corePush)
/-- A pass 1 REDUCE_SEND; the pass bit of its remote field is the row's own (R244, R246). -/
def execReduceSendExponents (c : CoreIx) (w0 w1 w2 w3 w4 : Word) (o : Obs) (s : State) : Outcome State Fault Refusal :=
  .next (s.dma c w0 w1 w2 (setBits w3 31 1 1) w4 o .reduceSend)
/-- A pass 0 REDUCE_SEND (R244, R249). -/
def execReduceSendValues (c : CoreIx) (w0 w1 w2 w3 w4 : Word) (o : Obs) (s : State) : Outcome State Fault Refusal :=
  .next (s.dma c w0 w1 w2 (setBits w3 31 1 0) w4 o .reduceSend)
def execDramCopy (c : CoreIx) (w0 w1 w2 w3 w4 : Word) (o : Obs) (s : State) : Outcome State Fault Refusal :=
  .next (s.dma c w0 w1 w2 w3 w4 o .dramCopy)

/-- GATHER (R86, R207): indices of poisoned list rows are not fetched, and their rows are zero and poisoned. -/
def execGather (c : CoreIx) (w0 w1 w2 : Word) (o : Obs) (s : State) : Outcome State Fault Refusal :=
  .next (s.dispatch c w0 o false false fun s =>
    let list := bits w0 38 18; let dst := bits w0 20 18; let ctr := bits w0 12 8
    let n := bits w1 0 17; let rl := bits w1 32 16; let base := bits w2 0 48
    let s := (s.observe c o).advance c 3
    let r3 := !(rowsOk list (cdiv n 16) && rowsOk dst (n * rl))
    let r4 := decide (bits w0 0 12 + bits w1 17 15 + bits w1 48 16 + bits w2 48 16 ≠ 0)
    let reason := if 65536 < n ∨ rl = 0 then some 1 else if r3 then some 3 else if r4 then some 4 else if 64 ≤ ctr then some 5 else none
    match reason with
    | some r => s.rejectDesc c .gather r ctr (64 * dst) (64 * n * rl)
    | none =>
      if n = 0 then s.count c ctr
      else
        let idx := (rangeFrom 0 n).map fun i => if s.rowPoison c (list + i / 16) then none else some (s.wordAt c list i)
        let s := idx.zipIdx.foldl (fun s e => if e.1.isNone then s.putRows c (dst + e.2 * rl) (List.replicate rl 0) true else s) s
        s.issue c { seq := 0, kind := .gather, ctr := some ctr, remCtr := 0, compress := false, bchk := false, len := 64 * n * rl
                    loc := 64 * dst, remote := base, addr2 := 0, list := idx, rowLen := rl, sent := 0, open_ := 0, parts := [], active := true
                    faulted := false, packed := none, again := false, epoch := 0 })

/-- The buddy of a core's logical number, where mirror retention is on (R87, R352). -/
def State.buddyOf (s : State) (p c : Nat) : Option Nat :=
  if s.getF F.partMirrorCfg_enabled p = 0 then none
  else match s.logicalOf p c, (s.part p).cap with
    | some n, some cp => (cp.buddies.find? (fun b => b.1 = n ∨ b.2 = n)).map (fun b => if b.1 = n then b.2 else b.1)
    | _, _ => none
/-- MIRROR (R87): with retention off or no buddy it completes at dispatch. -/
def execMirror (c : CoreIx) (w : Word) (o : Obs) (s : State) : Outcome State Fault Refusal :=
  .next (s.dispatch c w o false false fun s =>
    let src := bits w 38 18; let n := bits w 20 18; let ctr := bits w 12 8
    let s := (s.observe c o).advance c 1
    let p := (s.ownerOf c).getD 255
    let reason := if ¬ rowsOk src n then some 3 else if bits w 0 12 ≠ 0 then some 4 else if 64 ≤ ctr then some 5 else none
    match reason with
    | some r => s.rejectDesc c .mirror r ctr (64 * src) (64 * n)
    | none =>
      match s.buddyOf p c with
      | none => s.count c ctr
      | some b =>
        if n = 0 then s.count c ctr
        else
          let start := match s.logicalOf p c, (s.part p).cap with
            | some k, some cp => ((cp.persist.find? (fun e => e.1 = k)).map (·.2.1)).getD 0
            | _, _ => 0
          s.issue c { seq := 0, kind := .mirror, ctr := some ctr, remCtr := ctr, compress := false, bchk := false, len := 64 * n
                      loc := 64 * src, remote := 64 * (src - start), addr2 := b, list := [], rowLen := 0, sent := 0, open_ := 0, parts := []
                      active := true, faulted := false, packed := none, again := false, epoch := 0 })

/-! ### Packets out (R62, R64, R103, R244, R249, R527) -/

/-- Where the next packet of a descriptor lies: scratchpad offset, remote address, bytes, and gather indices (R62, R86, R234). -/
structure Slice where
  off : Nat
  addr : Nat
  len : Nat
  idx : List Nat
/-- Bytes left before the next multiple of `m`. -/
def upTo (m a left : Nat) : Nat := min (m - a % m) left
/-- A GATHER whose rows each lie inside one block is served by gather requests (R234). -/
def Desc.short (d : Desc) : Bool := decide (d.rowLen = 1 ∨ d.rowLen = 2 ∨ d.rowLen = 4) && decide (d.remote % (d.rowLen * 64) = 0)
/-- Leading list entries that lie on one site, for one request of at most 64 (R234). A row on another site ends a request. DESIGN CHOICE
(log 85). -/
def sameSite (es : List Extent) (base rl : Nat) : Nat → Option Nat → List (Option Nat) → List Nat
  | n + 1, at_, some i :: t =>
    match translate es (base + i * rl * 64) with
    | some x => if at_.isNone || decide (at_ = some x.site) then i :: sameSite es base rl n (some x.site) t else []
    | none => []
  | _, _, _ => []
/-- The next packet to form, and the bytes of list entries skipped before it. A pass 0 packet holds blocks of one group of four (R244),
which are 64 B each in a BF16 TREE stream (R257; log 85). -/
def State.nextSlice (s : State) (p : Nat) (d : Desc) : Option Slice :=
  if d.len ≤ d.sent then none
  else match d.kind with
  | .gather =>
    let rb := d.rowLen * 64
    match d.list[d.sent / rb]? with
    | some (some i) =>
      let within := d.sent % rb
      let a := d.remote + i * rb + within
      if d.short then
        let l := sameSite (s.extents p) d.remote d.rowLen 64 none (d.list.drop (d.sent / rb))
        some ⟨d.sent, a, max 1 l.length * rb, if l.isEmpty then [i] else l⟩
      else some ⟨d.sent, a, upTo 512 a (rb - within), []⟩
    | _ => some ⟨d.sent, 0, rb - d.sent % rb, []⟩
  | .reduceSend =>
    let b0 := bits (BitVec.ofNat 64 d.remote) 12 19
    if bit (BitVec.ofNat 64 d.remote) 31 then some ⟨d.sent, b0 + d.sent, upTo 64 (b0 + d.sent) (d.len - d.sent), []⟩
    else
      let half := match s.stream p (d.remote % 4096) with
        | some st => st.tree && decide (st.tfmt = 0)
        | none => false
      if half then
        let i := d.sent / 64
        some ⟨d.sent, (b0 + i) * 128, min (d.len - d.sent) (64 * (4 - (b0 + i) % 4)), []⟩
      else some ⟨d.sent, b0 * 128 + d.sent, upTo 512 (b0 * 128 + d.sent) (d.len - d.sent), []⟩
  | .corePush => let a := d.remote / 65536 + d.sent; some ⟨d.sent, a, upTo 512 a (d.len - d.sent), []⟩
  | _ => let a := d.remote + d.sent; some ⟨d.sent, a, upTo 512 a (d.len - d.sent), []⟩
/-- Number of packets of a plain descriptor whose remote address is `a` (R282). -/
def packetCount (a len : Nat) : Nat := cdiv (a % 512 + len) 512

/-- Rows of bytes `[a, a+n)` that are written only in part. -/
def edgeRows (a n : Nat) : NSet :=
  (if a % 64 ≠ 0 then [a / 64] else []).foldl (fun t r => NSet.add r t) (if (a + n) % 64 ≠ 0 then [(a + n) / 64] else [])
/-- A descriptor's rows of which one fragment has landed, after bytes `[a, a+n)` land too (R52). -/
def Desc.landed (d : Desc) (a n : Nat) (poison : Bool) : Desc :=
  { d with parts := (edgeRows a n).foldl (fun p r =>
      if p.contains r || p.contains (r + 2 ^ 18) then p else NSet.add (if poison then r + 2 ^ 18 else r) p) d.parts }
/-- Poisons or zeroes an inbound slice that could not be delivered (R60). -/
def State.failSlice (s : State) (c : Nat) (d : Desc) (off len : Nat) : State :=
  if d.kind.inbound then
    (s.putSpan c (d.loc + off) len 0 true d.parts).modDesc c d.seq (fun d => d.landed (d.loc + off) len true)
  else s
/-- A descriptor's access fault, once: DMA_ACCESS_FAULT, or PACKET_LOST in its place (R60, R292). -/
def State.descFault (s : State) (c seq : Nat) (e : Ev) (detail : Nat) : State :=
  match (s.core c).descs.find? (fun d => d.seq = seq) with
  | some d => if d.faulted then s else (s.modDesc c seq (fun d => { d with faulted := true })).fault c e detail
  | none => s
/-- DMA_ACCESS_FAULT once a descriptor (R60). -/
def State.accessFault (s : State) (c seq detail : Nat) : State := s.descFault c seq .dmaAccessFault detail
/-- Log word of a refused DRAM packet and of a refused reduction packet, valid bit set (R214, R245, R527). -/
def refuseWord (reason p a : Nat) : Nat := reason + p <<< 3 + (a % 2 ^ 48) <<< 11 + 2 ^ 63
def redWord (reason p stream b : Nat) : Nat := reason + p <<< 3 + stream <<< 11 + b <<< 23 + 2 ^ 63

/-- A fabric-visible address belongs to the stream aperture (R224). -/
def inAperture (a : Nat) : Bool := a / 2 ^ 44 % 16 = 15
/-- Home site of a stream receive by the core's home table; none for an undeclared stream (R225). -/
def State.homeOf (s : State) (c a : Nat) : Option Nat :=
  let e := Tab.get (fun _ => 0) (s.core c).homes (a / 2 ^ 36 % 256)
  let cnt := e / 64 % 64
  if cnt = 0 then none else some ((e % 64 + (a % 2 ^ 36 / 4096) % cnt) % 40)

/-- Destination node of a slice, or the refusal its source gives with the detail of the record (R103, R527). -/
def State.routeOf (s : State) (p c : Nat) (d : Desc) (x : Slice) : Nat ⊕ Nat :=
  let dram (a : Nat) : Nat ⊕ Nat := match s.place p a with
    | some t => .inl (siteNode t.site)
    | none => .inr (refuseWord 1 p a)
  match d.kind with
  | .dramRead => if inAperture x.addr then
      (match s.homeOf c x.addr with | some m => .inl (siteNode m) | none => .inr (refuseWord 5 p x.addr))
    else dram x.addr
  | .gather | .dramWrite => dram x.addr
  | .dramCopy => (match [d.addr2 + x.off, d.addr2 + x.off + x.len - 1].find? (fun a => (s.place p a).isNone) with
      | none => dram x.addr
      | some a => .inr (refuseWord 1 p a))
  | .corePush | .mirror =>
    let n := if d.kind = .mirror then d.addr2 else d.remote % 65536
    let e := Tab.get (fun _ => 0) (s.core c).xlat n
    if entryKind e = 1 then .inl (entryCore e) else .inr (refuseWord 0 p n)
  | .reduceSend =>
    let n := d.remote % 4096
    (match s.stream p n with
     | some st => .inl (siteNode (streamHome st (if bit (BitVec.ofNat 64 d.remote) 31 then x.addr else x.addr / 128)))
     | none => .inr (redWord 1 p n (bits (BitVec.ofNat 64 d.remote) 12 19)))

/-- Reduction header of a slice: provenance, kind 0, the ebytes that the DMA engine fills in (R244, R249, R250). -/
def State.redHdr (s : State) (p c : Nat) (d : Desc) (x : Slice) : RedHdr :=
  let w := BitVec.ofNat 64 d.remote
  let stream := d.remote % 4096
  let pass1 := bit w 31
  let b0 := if pass1 then x.addr else x.addr / 128
  let n := (s.logicalOf p c).getD 0
  let ret := match s.stream p stream with
    | some st => if st.tree then none else ((s.contribs p st).find? (fun e => e.core = n)).map (·.retRow)
    | none => none
  let eb := if pass1 then [] else match ret with
    | some r => (rangeFrom b0 (x.len / 128)).map fun b =>
      let a := s.byteAt c r b
      let k := stream * 2 ^ 19 + b
      if (s.core c).retracted.contains k then max a (Tab.get (fun _ => 0) (s.core c).kept k) else a
    | none => []
  ⟨stream, b0, if pass1 then 1 else 0, 0, [(n, d.epoch)], eb⟩

/-- Free tag numbers, lowest first, and the lowest. -/
def freeTags (l : List TagUse) : List Nat := (rangeFrom 0 256).filter (fun n => l.all (fun t => decide (t.num ≠ n)))
def freeTag (l : List TagUse) : Option Nat := (freeTags l).head?
/-- Whether an epoch's passing token is still to be sent, or the core has used provisional data of which no passing token has come, so that
its packets travel provisional. A packet may derive from any data the core received in this micro-step. DEDUCED (R339; log 99). -/
def State.provisional (s : State) (c e : Nat) : Bool :=
  decide (s.getF F.seqUstep_epoch c = e) || (s.core c).verdicts.any (fun v => decide (v.1 = e))
    || (s.core c).got.any (fun g => !(s.core c).proven.contains (g.1, g.2.1))

/-- Source rows of an outbound slice: data and poison (R52). -/
def State.sliceData (s : State) (c : Nat) (d : Desc) (x : Slice) : List Row × Bool :=
  match d.packed with
  | some (rows, po) => ((rows.drop (x.off / 64)).take (x.len / 64), po)
  | none => match d.kind with
    | .dramWrite | .corePush | .mirror | .reduceSend =>
      let a := d.loc + x.off
      (toRows (s.span c a x.len) (cdiv x.len 64), s.rowsPoison c (a / 64) (cdiv (a % 64 + x.len) 64))
    | .gather => if x.idx.isEmpty then ([], false) else (toRows (pack 32 x.idx) (cdiv x.idx.length 16), false)
    | _ => ([], false)
/-- Block check of an outbound slice of a descriptor with the flag: block, the CRC-32C of its 4 KiB, and whether the entry disagrees; formed
before the block's first packet leaves, and the same for every packet of the block (R53). -/
def State.outCheck (s : State) (c : Nat) (d : Desc) (x : Slice) : Nat × BitVec 32 × Bool :=
  let b := (d.loc + x.off) / 4096
  let crc := crc32c (rowsBytes ((rangeFrom (b * 64) 64).map (s.row c)))
  let new := (b, crc, match Tab.get (fun _ => none) s.spadChk (c * 2048 + b) with | some v => decide (v ≠ crc) | none => false)
  match d.blkChk with
  | some k => if k.1 = b then k else new
  | none => new

/-- Answers a packet draws: a DRAM_COPY packet whose destination straddles a block is written in two parts. -/
def copyAcks (k : Pkt) : Nat := if k.kind = .copyReq ∧ k.addr2 / 4096 ≠ (k.addr2 + k.len - 1) / 4096 then 2 else 1
/-- A descriptor whose packets carry a block check formed from the scratchpad (R53). -/
def Desc.checked (d : Desc) : Bool :=
  d.bchk && (decide (d.kind = .dramWrite) || decide (d.kind = .corePush) || decide (d.kind = .reduceSend))
/-- Forms the packet of a slice (R282, R340). A gather request carries the tags of the further responses it draws (R234). -/
def State.formPkt (s : State) (p c : Nat) (d : Desc) (x : Slice) (dst tag : Nat) (more : List Nat) : Pkt :=
  let q := s.core c
  let dt := s.sliceData c d x
  let ck := if d.checked then s.outCheck c d x else (0, 0, false)
  let gen (n : Nat) : Nat := Tab.get (fun _ => 0) q.gens n
  let kind : PktKind := match d.kind with
    | .dramRead => .readReq
    | .dramCopy => .copyReq
    | .gather => if x.idx.isEmpty then .readReq else .gatherReq
    | .dramWrite => .writeData
    | .corePush => .push
    | .mirror => .mirror
    | .reduceSend => .reduction
  ({ kind := kind, src := c, dst := dst, part := p, tag := tag, gen := gen tag, resend := 0, tries := 0
     remCtr := d.remCtr, seq := d.seq, total := packetCount (if d.kind = .corePush then d.remote / 65536 else d.remote) d.len
     prov := decide (dt.1 ≠ []) && decide (kind ≠ .gatherReq) && s.provisional c d.epoch
     poison := dt.2 || ck.2.2, bchk := d.bchk, ce := false, ece := false, addr := if kind = .gatherReq then d.remote else x.addr
     addr2 := if d.kind = .dramCopy then d.addr2 + x.off else x.idx.length
     len := if kind = .gatherReq then d.rowLen else x.len
     prod := ((s.logicalOf p c).getD 0, d.epoch, q.stamp)
     red := if d.kind = .reduceSend then some (s.redHdr p c d x) else none
     data := dt.1, crc := ck.2.1, merged := more.map (fun n => (c, n, gen n, d.seq)) } : Pkt).sealed

/-- Name under which a core keeps a receiver of its provisional data: a logical core by its copy of the alias table, or a node (R104,
R342). -/
def State.receiver (s : State) (c node : Nat) : Nat :=
  if node < 4096 then
    (((s.core c).xlat.find? (fun e => decide (entryKind e.2 = 1) && decide (entryCore e.2 = node))).map (·.1)).getD node
  else node
/-- A provisional packet's receiver is to have its epoch's token (R342). A packet that is provisional by its inputs alone leaves its epoch's
token to be sent to its receiver too. -/
def State.noteReceiver (s : State) (c : Nat) (k : Pkt) : State :=
  let e := k.prod.2.1
  let to_ := (e, s.receiver c k.dst)
  let open_ := decide (s.getF F.seqUstep_epoch c = e)
  s.modCore c (fun q => { q with
    consumers := if k.prov && !q.consumers.contains to_ then q.consumers ++ [to_] else q.consumers
    verdicts := if k.prov && !open_ && q.verdicts.all (fun v => decide (v.1 ≠ e)) then q.verdicts ++ [(e, true)] else q.verdicts })
/-- After a packet leaves: provenance notes for the token, the digest and the kept pass 1 bytes (R249, R342, R358). -/
def State.noteSent (s : State) (c : Nat) (k : Pkt) : State :=
  let payload := decide (k.kind ≠ .gatherReq)
  let crc := if payload then crcMore (s.core c).digest (rowsBytes k.data) else (s.core c).digest
  let kept := match k.red with
    | some h => if h.pass = 1 then
        (rangeFrom 0 k.len).foldl (fun t i => Tab.put (fun _ => 0) (h.stream * 2 ^ 19 + h.b0 + i)
          (elem (ofRows k.data) 8 i) t) (s.core c).kept
      else (s.core c).kept
    | none => (s.core c).kept
  ((s.noteReceiver c k).modCore c (fun q => { q with digest := crc, kept := kept })).setF F.intDigest_crc c crc.toNat

/-- Tags that the packets of a slice hold: one, or one for each 512 B response a gather request draws (R64, R234). -/
def Slice.tags (x : Slice) (d : Desc) : Nat := if x.idx.isEmpty then 1 else cdiv (x.idx.length * d.rowLen) 8
/-- The tags of a sent slice: the packet's own, and for each further response of a gather request one with its own rows. -/
def tagUses (d : Desc) (x : Slice) (k : Pkt) (more : List Nat) : List TagUse :=
  ⟨k.tag, d.seq, x.off, 0, copyAcks k, k⟩ :: more.zipIdx.map (fun e =>
    let per := 8 / d.rowLen
    let own := (x.idx.drop (per * (e.2 + 1))).take per
    ⟨e.1, d.seq, x.off + 512 * (e.2 + 1), 0, 1,
      { k with tag := e.1, gen := ((k.merged[e.2]?).map (·.2.2.1)).getD 0, merged := [], addr2 := own.length, data := toRows (pack 32 own) 1 }⟩)

/-- PACKET_ISSUE: the next packet of a descriptor takes a free tag, a gather request one for each response, and is injected, or is refused
at its source; with no tag free it waits, and its cycles count (R62, R64, R103, R234, R527). Reading its source rows meets what `how` says
(R44, R46). A block check mismatch is raised once for its block (R53). -/
def execPacketIssue (c : CoreIx) (seq : BitVec 16) (how : Issue) (s : State) : Outcome State Fault Refusal :=
  .next (
    let s := s.bumpF F.dmaTagStall_cycles c how.cycles
    let p := (s.ownerOf c).getD 255
    match (s.core c).descs.find? (fun d => d.seq = seq.toNat) with
    | none => s
    | some d =>
      match s.nextSlice p d with
      | none => s
      | some x =>
        let skip := decide (d.kind = .gather) && (match d.list[d.sent / (d.rowLen * 64)]? with | some (some _) => false | _ => true)
        if skip then (s.modDesc c d.seq (fun d => { d with sent := d.sent + x.len })).settle c
        else match s.routeOf p c d x with
        | .inr detail =>
          let rest := d.kind = .corePush ∨ d.kind = .mirror
          let s := s.failSlice c d x.off x.len
          let s := (s.accessFault c d.seq detail).modDesc c d.seq (fun d => { d with sent := if rest then d.len else d.sent + x.len })
          s.settle c
        | .inl dst =>
          match (freeTags (s.core c).tags).take (x.tags d) with
          | [] => s
          | tag :: more =>
            if more.length + 1 < x.tags d then s
            else
              let s := s.observeRows c how.obs
              let k := s.formPkt p c d x dst tag more
              let ck := if d.checked then some (s.outCheck c d x) else none
              let s := if ck ≠ d.blkChk ∧ ck.any (·.2.2) = true then s.fault c .blockCheckMismatch 0 else s
              let s := s.modCore c (fun q => { q with tags := q.tags ++ tagUses d x k more })
              let s := s.modDesc c d.seq (fun d => { d with sent := d.sent + x.len, open_ := d.open_ + 1 + more.length, blkChk := ck })
              ((s.inject k).noteSent c k).settle c)

/-! ### Answers (R60, R63, R106, R289, R292, R293) -/

/-- The tag an answer names, if its generation is the one held; a late answer is discarded (R292). -/
def State.tagOf (s : State) (c : Nat) (k : Pkt) : Option TagUse :=
  (s.core c).tags.find? (fun t => decide (t.num = k.tag) && decide (t.pkt.gen = k.gen))
/-- Frees a tag and lets its descriptor complete when it was the last (R63). -/
def State.freeTag (s : State) (c : Nat) (t : TagUse) : State :=
  let s := s.modCore c (fun q => { q with tags := q.tags.filter (fun u => u.num ≠ t.num) })
  (s.modDesc c t.desc (fun d => { d with open_ := d.open_ - 1 })).settle c
/-- The limiter field of a class (R293): TC0, TC1, TC2. -/
def rateField (cls : Nat) : RF := if cls = 0 then F.rtrRate_tc0 else if cls = 1 then F.rtrRate_tc1 else F.rtrRate_tc2
/-- One multiplicative decrease, at most one per FAB.CC_PARAM.hold fabric cycles of 0.625 ns (R293). -/
def State.backOff (s : State) (c cls : Nat) : State :=
  let last := Tab.get (fun _ => 0) (s.core c).cutAt cls
  if last ≠ 0 ∧ (s.now + 1 - last) * 16 < s.getF F.fabCcParam_hold 0 then s
  else
    let s := s.modCore c (fun q => { q with cutAt := Tab.put (fun _ => 0) cls (s.now + 1) q.cutAt })
    s.setF (rateField cls) c (max 1 (s.getF (rateField cls) c * s.getF F.fabCcParam_md 0 / 256))
/-- An answer that carries the echo of a congestion mark lowers the rate of the class its packet was injected in (R293). -/
def State.slowed (s : State) (c : Nat) (k : Pkt) (t : TagUse) : State := if k.ece then s.backOff c t.pkt.channel.1 else s
/-- A descriptor by sequence number. -/
def State.descOf (s : State) (c seq : Nat) : Option Desc := (s.core c).descs.find? (fun d => d.seq = seq)
/-- A core's packet that its source keeps a tag for until it is answered. -/
def tagged (k : Pkt) : Bool :=
  decide (k.src < 4096) && (match k.kind with
    | .readResp | .ack | .fenced | .refused | .resend | .stream => false
    | _ => decide (k.gen < 16))
/-- The packet under way that a delivery stands for, by its header. -/
def State.inFlight (s : State) (k : Pkt) : Option Pkt := s.net.find? (fun x => x.sameHeader k)
/-- A packet that fails its check while a resend is left: it is discarded and answered RESEND, and its source sends it again, from its tag or,
where it keeps none, from its own copy (R289). -/
def State.askResend (s : State) (k : Pkt) (frm : Nat) : State :=
  let s := s.inject (pktAnswer k .resend frm)
  if tagged k then s else s.modFab (fun f => { f with copies := f.copies ++ [k] })
/-- What an endpoint does about a delivery's packet check (R289): asks for a resend; at the second one discards a packet whose header is
damaged, none of those under way, and takes any other with poison; goes on with a good one. `go` is told whether to poison. -/
def State.checked (s : State) (n : Nat) (k : Pkt) (ok : Bool) (go : State → Pkt → Bool → State) : State :=
  let k := s.seen k
  let t := s.consume k
  if ok then go t k false
  else if k.resend < 2 then t.askResend ((s.inFlight k).getD k) n
  else if (s.inFlight k).isSome then go t k true else t
/-- What an endpoint core does about a packet not its own: discarded, answered REFUSED, counted, reported (R288). -/
def State.isolate (s : State) (c : Nat) (k : Pkt) : State :=
  ((s.bumpF F.fabStat_isolation 0 1).raise .fabricIsolationFault c none (k.part + k.src <<< 8)).inject (pktAnswer k .refused c)
/-- The common front of the answers that come to a core: a fenced or isolated endpoint discards them, and since an answer draws no packet it
answers none (R106, R285, R291, R354); the packet check; isolation; the tag, without which an answer is late (R292). -/
def State.answer (s : State) (c : Nat) (k : Pkt) (ok : Bool) (go : State → Pkt → Bool → TagUse → State) : State :=
  if 2 ≤ (s.core c).state then s.consume k
  else s.checked c k ok fun s k bad =>
    if some k.part ≠ s.ownerOf c then s.isolate c k
    else match s.tagOf c k with
      | none => s
      | some t => go s k bad t

/-- One answer to a tag: the last one frees it, or one that answers the whole packet. -/
def State.answered (s : State) (c : Nat) (t : TagUse) (k : Pkt) : State :=
  if t.acks ≤ 1 ∨ k.len = t.pkt.len then s.freeTag c t
  else s.modCore c (fun q => { q with tags := q.tags.map (fun u => if u.num = t.num then { u with acks := u.acks - 1 } else u) })

/-- ACKNOWLEDGEMENT (R63, R293). A write answered with a check failure is sent again from its source (R338). -/
def execAcknowledgement (c : CoreIx) (a : Answer) (s : State) : Outcome State Fault Refusal :=
  .next (s.answer c a.pkt a.ok fun s k _ t =>
    let s := s.slowed c k t
    if k.poison ∧ t.tries < 2 then
      let pk := { t.pkt with tries := t.tries + 1 }
      (s.modCore c (fun q => { q with tags := q.tags.map (fun u => if u.num = t.num then { u with tries := u.tries + 1, pkt := pk } else u) })).inject pk
    else s.answered c t k)
/-- FENCED: the tag is freed and the descriptor completes with no event (R106). -/
def execFencedAcknowledgement (c : CoreIx) (a : Answer) (s : State) : Outcome State Fault Refusal :=
  .next (s.answer c a.pkt a.ok fun s k _ t => (s.slowed c k t).answered c t k)
/-- Bytes of the scratchpad range a tag's packet stands for. -/
def TagUse.bytes (t : TagUse) (d : Desc) : Nat :=
  if t.pkt.kind = .gatherReq then min 512 (t.pkt.addr2 * d.rowLen * 64) else t.pkt.len
/-- REFUSED: inbound rows are zero and poisoned, the tag is freed, DMA_ACCESS_FAULT once a descriptor (R60). -/
def execRefusedAcknowledgement (c : CoreIx) (a : Answer) (s : State) : Outcome State Fault Refusal :=
  .next (s.answer c a.pkt a.ok fun s k _ t =>
    let s := s.slowed c k t
    let s := match s.descOf c t.desc with
      | some d => s.failSlice c d t.off (t.bytes d)
      | none => s
    (s.accessFault c t.desc (refuseWord 0 t.pkt.part t.pkt.addr)).answered c t k)
/-- What a RESEND asks for: the tag's packet, or the part of a DRAM_COPY packet whose write data one of two answers names (R62). -/
def resendPkt (t : TagUse) (k : Pkt) : Pkt :=
  if t.pkt.kind = .copyReq ∧ k.len ≠ t.pkt.len then
    { t.pkt with addr := t.pkt.addr + (k.addr - t.pkt.addr2), addr2 := k.addr, len := k.len, resend := min 2 (t.pkt.resend + 1) }
  else { t.pkt with resend := min 2 (t.pkt.resend + 1) }
/-- RESEND at any node: the packet it names again with its resend count raised, from the node's own copy, or from a core's tag, which it keeps
(R289). -/
def execResendRequest (n : NodeIx) (a : Answer) (s : State) : Outcome State Fault Refusal :=
  .next (
    let k := a.pkt
    match s.fab.copies.find? (fun x => x.src = n.val ∧ x.dst = k.src ∧ x.tag = k.tag ∧ x.gen = k.gen ∧ x.seq = k.seq) with
    | some x => s.checked n k a.ok fun s _ _ =>
      (s.modFab (fun f => { f with copies := dropFirst x f.copies })).inject { x with resend := min 2 (x.resend + 1) }
    | none =>
      if n.val < 4096 then s.answer n k a.ok fun s k _ t =>
        let s := s.slowed n k t
        (s.modCore n (fun q => { q with tags := q.tags.map (fun u =>
          if u.num = t.num then { u with pkt := { u.pkt with resend := min 2 (u.pkt.resend + 1) } } else u) })).inject (resendPkt t k)
      else s.checked n k a.ok fun s _ _ => s)
/-- A tag held past FAB.TIMEOUT: released, its generation advanced, PACKET_LOST in place of DMA_ACCESS_FAULT, once a descriptor (R292). -/
def execTagTimeout (c : CoreIx) (tag : TagExpiry) (s : State) : Outcome State Fault Refusal :=
  .next (
    match (s.core c).tags.find? (fun t => t.num = tag.num.toNat) with
    | none => s
    | some t =>
      let s := if tag.lost then s.consume t.pkt else s
      let s := match s.descOf c t.desc with
        | some d => s.failSlice c d t.off (t.bytes d)
        | none => s
      let s := s.modCore c (fun q => { q with gens := Tab.put (fun _ => 0) t.num ((t.pkt.gen + 1) % 16) q.gens })
      let s := (s.bumpF F.fabStat_lost 0 1).descFault c t.desc .packetLost t.desc
      s.freeTag c t)
/-- After a recovery period with no decrease the rate rises by ai, up to 64 (R293). -/
def execRateRecovery (c : CoreIx) (cls : Fin 3) (s : State) : Outcome State Fault Refusal :=
  .next (s.setF (rateField cls) c (min 64 (s.getF (rateField cls) c + s.getF F.fabCcParam_ai 0)))

/-! ### Data in (R44 to R53, R63, R288, R289, R338, R341) -/

/-- The dependency table takes the producer of provisional data (R341). -/
def State.depend (s : State) (c : Nat) (k : Pkt) : State :=
  if !k.prov then s
  else
    let e := k.prod.2.1
    let s := s.modCore c (fun q => { q with got := q.got ++ [(k.prod.1, e, s.getF F.seqUstep_epoch c)] })
    let q := s.core c
    match q.deps.find? (fun d => d.1 = k.prod.1) with
    | some _ => s.modCore c (fun q => { q with deps := q.deps.map (fun d => if d.1 = k.prod.1 then (d.1, min d.2 e) else d) })
    | none =>
      if 256 ≤ q.deps.length then s.setB F.intEpoch_dep_all c true
      else (s.modCore c (fun q => { q with deps := q.deps ++ [(k.prod.1, e)] })).setF F.intEpoch_deps c (q.deps.length + 1)
/-- Counts a packet of a block transfer in: `bad` says the block's check failed a third time. Then the block's rows are poisoned, and the event
and the fault charged to `unit` come once for the block; else the entry takes the check once the block is whole and unpoisoned (R53, R338). -/
def State.landBlock (s : State) (c b unit : Nat) (k : Pkt) (poison bad : Bool) : State :=
  let l := Tab.get (fun _ => Landing.init) (s.core c).landing b
  let m : Landing := ⟨l.bytes + k.len, l.bad || bad, l.taint || poison⟩
  let s := if bad && !l.bad then ((s.poisonRows c (64 * b) 64).fault c .blockCheckMismatch 0).charge unit 15 false else s
  let whole := decide (4096 ≤ m.bytes)
  let s := s.modCore c (fun q => { q with landing := Tab.put (fun _ => Landing.init) b (if whole then Landing.init else m) q.landing })
  if whole && !m.bad && !m.taint then { s with spadChk := Tab.put (fun _ => none) (c * 2048 + b) (some k.crc) s.spadChk } else s
/-- Writes a packet's bytes at a scratchpad address, poisoned where its block's check has failed for good (R53, R338). `fails` counts failed
checks of its block, a third of them against `unit`. -/
def State.land (s : State) (c a : Nat) (k : Pkt) (poison : Bool) (fails unit : Nat) (seen : NSet) : State :=
  let bad := decide (3 ≤ fails) && k.bchk
  let was := k.bchk && (Tab.get (fun _ => Landing.init) (s.core c).landing (a / 4096)).bad
  let s := s.putSpan c a k.len (ofRows k.data) (poison || bad || was) seen
  if k.bchk then s.landBlock c (a / 4096) unit k poison bad else s
/-- Unit number of the memory channel a packet's address lies in (R338, R347). -/
def State.chanOf (s : State) (k : Pkt) : Nat :=
  match s.place k.part k.addr with
  | some x => unitChan x.site x.chan
  | none => unitChan (k.src % 64) 0
/-- Data of a tag's packet lands in its descriptor's range. -/
def State.landTag (s : State) (c : Nat) (d : Desc) (t : TagUse) (k : Pkt) (poison : Bool) (fails : Nat) : State :=
  let a := d.loc + t.off
  (s.land c a k poison fails (s.chanOf k) d.parts).modDesc c d.seq (fun d => d.landed a k.len poison)
/-- Read data that carries a congestion mark, or echoes one, lowers the rate of requests (R293). -/
def State.slowReads (s : State) (c : Nat) (k : Pkt) : State := if k.ce ∨ k.ece then s.backOff c 0 else s
/-- Data lands for a tag, which it frees, and its producer is noted (R63, R341). -/
def State.landFor (s : State) (c : Nat) (k : Pkt) (bad : Bool) (fails : Nat) (t : TagUse) : State :=
  match s.descOf c t.desc with
  | some d => ((s.landTag c d t k (k.poison || bad) fails).depend c k).freeTag c t
  | none => s.freeTag c t
/-- READ_RESPONSE (R58, R63). `ok` says the packet check held (R289); `fails` counts failed block checks (R338). -/
def execReadResponse (c : CoreIx) (k : Pkt) (ok : Bool) (fails : Nat) (o : Obs) (s : State) : Outcome State Fault Refusal :=
  .next (s.answer c k ok fun s k bad t => ((s.observe c o).slowReads c k).landFor c k bad fails t)
/-- Original packets with an older stamp than a replay-set core's are discarded and acknowledged (R356). -/
def State.stale (s : State) (c : Nat) (k : Pkt) : Bool :=
  (s.core c).suppress.isSome && decide (k.prod.2.2 < (s.core c).stamp)
/-- The common front of CORE_PUSH and MIRROR data: an endpoint that is fenced or isolated in TESTING (R106, R291, R354), packet check,
isolation, stale stamp. -/
def State.original (s : State) (c : Nat) (k : Pkt) (ok : Bool) (take : State → Pkt → Bool → State) : State :=
  if 2 ≤ (s.core c).state then (s.consume k).inject (pktAnswer (s.seen k) .fenced c)
  else s.checked c k ok fun s k bad =>
    if some k.part ≠ s.ownerOf c then s.isolate c k
    else if s.stale c k then s.inject (pktAnswer k .ack c)
    else (take s k bad).inject (pktAnswer k .ack c)
/-- Counts a packet of a descriptor in; its last one increments the remote counter (R63). -/
def State.countIn (s : State) (c : Nat) (k : Pkt) : State :=
  let n := (((s.core c).inbound.find? (fun e => e.1 = k.src ∧ e.2.1 = k.seq)).map (·.2.2)).getD 0 + 1
  let rest := (s.core c).inbound.filter (fun e => ¬ (e.1 = k.src ∧ e.2.1 = k.seq))
  if k.total ≤ n then (s.modCore c (fun q => { q with inbound := rest })).count c k.remCtr
  else s.modCore c (fun q => { q with inbound := (k.src, k.seq, n) :: rest })
/-- CORE_PUSH_DATA (R63, R288). `fails` counts failed block checks; a third counts against the core that sent it (R53, R338; log 87). -/
def execCorePushData (c : CoreIx) (k : Pkt) (ok : Bool) (fails : Nat) (o : Obs) (s : State) : Outcome State Fault Refusal :=
  .next (s.original c k ok fun s k bad =>
    (((s.observe c o).land c k.addr k (k.poison || bad) fails (unitCore k.src) []).depend c k).countIn c k)
/-- First row of a half of the mirror area (R352). -/
def State.mirrorRow (s : State) (p half : Nat) : Nat :=
  let n := s.getF F.partMirrorCfg_rows p
  spadRows - n + half * (n / 2)
/-- MIRROR_DATA lands in the pending half (R352). -/
def execMirrorData (c : CoreIx) (k : Pkt) (ok : Bool) (o : Obs) (s : State) : Outcome State Fault Refusal :=
  .next (s.original c k ok fun s k bad =>
    let half := 1 - s.getF F.intMirror_committed_half c
    let s := (s.observe c o).land c (64 * s.mirrorRow k.part half + k.addr) k (k.poison || bad) 0 0 []
    ((s.setB F.intMirror_pending c true).modCore c (fun q => { q with mirrored := true })).countIn c k)
/-- Whether a core may take a delivery: its own partition's, or a stream group's in which its partition is an active member at the home that
sent it (R229, R288). -/
def State.mayTake (s : State) (c : Nat) (k : Pkt) : Bool :=
  let n := k.addr / 2 ^ 36 % 256
  decide (some k.part = s.ownerOf c)
    || (decide (192 ≤ n) && (s.site (k.src - 0x1000)).active.any (fun e => decide (e.1 = n - 192) && decide (some e.2 = s.ownerOf c)))
/-- The tags a stream delivery answers: to one core, the tag it carries; a multicast, every pending stream receive of its address (R228, R230,
R287). -/
def State.wants (s : State) (c : Nat) (k : Pkt) : List TagUse :=
  (s.core c).tags.filter (fun t => decide (t.pkt.kind = .readReq) && decide (t.pkt.addr = k.addr) && inAperture k.addr
    && (k.mcast || (decide (t.num = k.tag) && decide (t.pkt.gen = k.gen))))
/-- STREAM_DELIVERY: a core without a pending receive discards a multicast and counts it (R287, R288). -/
def execStreamDelivery (c : CoreIx) (k : Pkt) (ok : Bool) (fails : Nat) (o : Obs) (s : State) : Outcome State Fault Refusal :=
  .next (
    let out := decide (2 ≤ (s.core c).state)
    if k.mcast && (out || (s.wants c k).isEmpty) then (s.consume k).bumpF F.fabStat_mcast_discards 0 1
    else if out then s.consume k
    else s.checked c k ok fun s k bad =>
      if !s.mayTake c k then s.isolate c k
      else if (s.wants c k).isEmpty then s
      else (s.wants c k).foldl (fun s t => s.landFor c k bad fails t) ((s.observe c o).slowReads c k))
/-- Writes single bytes of a packet's rows into scratchpad rows, each row rewritten whole (R45, R247). -/
def State.putByteRun (s : State) (c byte : Nat) (bs : List Nat) (poison : Bool) : State :=
  bs.zipIdx.foldl (fun s b =>
    let a := byte + b.2
    s.putRow c (a / 64) (setBits (s.row c (a / 64)) (8 * (a % 64)) 8 b.1) (poison || s.rowPoison c (a / 64))) s
/-- AGREED_BYTES land at the return row and complete the pass 1 packet (R247). -/
def execAgreedBytes (c : CoreIx) (k : Pkt) (ok : Bool) (o : Obs) (s : State) : Outcome State Fault Refusal :=
  .next (s.answer c k ok fun s k bad t =>
    let bs := (rangeFrom 0 k.len).map (elem (ofRows k.data) 8)
    (((s.observe c o).putByteRun c k.addr bs (k.poison || bad)).slowed c k t).freeTag c t)

end Sys2Proof.Machine
end

