-- ==== Sys2Proof/Machine/Ledger.lean ====
section
/-! DEFINITION. Ledger dies: refusals, tensor blocks and their checks, the channel service, gathers, streams and stream
groups, refresh, self-refresh and test slices (R209 to R237). A request is served in the one step in which it arrives
(R215, R219; log 13). -/
namespace Sys2Proof.Machine
open Host

/-! ### Blocks (R216 to R218, R235, R237) -/

/-- Bytes of a tensor block. -/
def blockBytes : Nat := 4096
/-- The mask of all bytes of a block. -/
def allBytes : Nat := 1 <<< blockBytes - 1
/-- Site and channel of a block number. -/
def blkSite (b : Nat) : Nat := b / 2 ^ 24
def blkChan (b : Nat) : Nat := b / 2 ^ 19 % 32
namespace State
variable (s : State)
def blkMeta (b : Nat) : BlkMeta := Tab.get (fun _ => BlkMeta.init) s.blk b
def setMeta (b : Nat) (v : BlkMeta) : State := { s with blk := Tab.put (fun _ => BlkMeta.init) b v s.blk }
/-- A block's bytes as a number, and its CRC-32C. -/
def blkData (b : Nat) : Nat := Memory.readNat s.dram (b * blockBytes) blockBytes
def blkCrc (b : Nat) : BitVec 32 := crc32c (Memory.readBytes s.dram (b * blockBytes) blockBytes)
/-- Whether a channel is in service. -/
def chanOk (site ch : Nat) : Bool := (s.getF F.ldgChService_in_service site).testBit ch
/-- An event of a ledger die for a partition, with the partition's policy (R345: classes 10 and 14 act on the partition). -/
def ledgerFault (site : Nat) (p : Nat) (e : Ev) (detail : Nat) : State :=
  (s.raise e (siteNode site) (some p) detail).policy p 0 e detail
/-- An access wakes a channel in self-refresh, and its time counts toward the 1 ms after which the channel may go back in HOLD (R221). -/
def wakeChannel (m ch : Nat) : State :=
  let asleep := (s.getF F.ldgChState_self_refresh m).testBit ch
  let last := Tab.get (fun _ => 0) (s.site m).reqAt ch
  let at_ := if s.getF F.pwrState_state 0 = 1 ∧ (asleep = true ∨ last ≠ 0) then s.now + 1 else 0
  (s.modSite m (fun q => { q with reqAt := Tab.put (fun _ => 0) ch at_ q.reqAt })).setF F.ldgChState_self_refresh m
    (s.getF F.ldgChState_self_refresh m &&& (0xFFFFFFFF - 2 ^ ch))
/-- A whole-block read: a held block is verified, a block not held takes its check (R217). `misreads` counts the reads of this
attempt that came back wrong although the stored block is good; a read that no command says this of meets none. -/
def verify (b owner misreads : Nat) : State :=
  let s := s.wakeChannel (blkSite b) (blkChan b)
  let m := s.blkMeta b
  let crc := s.blkCrc b
  if !m.held then s.setMeta b { m with crc := crc, held := true }
  else
    let n := if crc ≠ m.crc then 3 else min misreads 3
    let site := blkSite b
    let s := s.bumpF F.ldgBlockStat_mismatches site n
    if n < 3 then s
    else
      let s := (s.setMeta b { m with poison := true, parts := 0 }).bumpF F.ldgBlockStat_poisoned site 1
      (s.ledgerFault site owner .dramBlockPoisoned 0).charge (unitChan site (blkChan b)) 15 false
/-- Both dirty bits of the block's GiB are set (R235). -/
def markDirty (site p a : Nat) : State :=
  let u := (p * 2 ^ 18 + a / 2 ^ 30) * 2
  s.modSite site (fun q => { q with dirty := NSet.add u (NSet.add (u + 1) q.dirty) })
/-- A listed block that a copy has not yet taken (R237). -/
def listed (site p a : Nat) : Bool :=
  let i := a / 4096 % 2 ^ 18
  (s.site site).copying.any fun k => decide (k.part = p) && k.units.contains (a / 2 ^ 30) && !k.early.contains (a / 4096)
    && (decide (k.units.head? ≠ some (a / 2 ^ 30)) || decide (k.pos ≤ i))
/-- Whether a write to the block must wait for copy buffer space: 16 MiB hold 4,096 blocks (R237). -/
def copyFull (site p a : Nat) : Bool := s.listed site p a && decide (4096 ≤ (s.site site).ahead.length)
/-- The write, whoever makes it, waits for buffer space and counts: its wait ends as the oldest block in the buffer leaves for the edge port
die (R210, R237; log 100). -/
def awaitBuffer (site p a : Nat) : State :=
  if s.copyFull site p a then
    (s.modSite site (fun q => { q with leaving := q.leaving ++ q.ahead.take 1, ahead := q.ahead.drop 1 })).bumpF F.ldgCkptStat_write_waits site 1
  else s
/-- The block is read whole, verified, into the copy buffer before the write (R217, R237). -/
def copyAhead (p a : Nat) (x : Place) : State :=
  if s.listed x.site p a then
    let s := (s.awaitBuffer x.site p a).verify x.blk x.ext.owner 0
    let m := s.blkMeta x.blk
    s.modSite x.site (fun q => { q with
      ahead := q.ahead ++ [(p, a / 4096, s.blkData x.blk, m.poison, m.crc)]
      copying := q.copying.map (fun k => if k.part = p then { k with early := NSet.add (a / 4096) k.early } else k) })
  else s
/-- Bytes stored at a DRAM key. -/
def storeDram (k n v : Nat) : State := { s with dram := Memory.writeNat s.dram k n v }
/-- A write of `n` bytes inside one block that clears held (R216, R218). -/
def putDram (p a n v : Nat) (poison : Bool) : State :=
  match s.place p a with
  | none => s
  | some x =>
    let s := (s.wakeChannel x.site x.chan).copyAhead p a x
    let m := s.blkMeta x.blk
    let parts := if poison then 0 else if m.poison then m.parts ||| ((2 ^ n - 1) <<< (a % 4096)) else 0
    let clean := decide (parts = allBytes)
    let s := s.storeDram x.key n v
    (s.setMeta x.blk { m with held := false, poison := poison || (m.poison && !clean), parts := if clean then 0 else parts }).markDirty
      x.site x.ext.owner a
/-- A whole block formed with its check (R216). -/
def putBlock (p a v : Nat) (poison : Bool) (crc : BitVec 32) : State :=
  match s.place p a with
  | none => s
  | some x =>
    let s := (s.wakeChannel x.site x.chan).copyAhead p a x
    let s := s.storeDram x.key blockBytes v
    (s.setMeta x.blk ⟨crc, true, poison, 0⟩).markDirty x.site x.ext.owner a
/-- Bytes of partition DRAM and their poison; an unmapped byte reads as zero. -/
def partByte (p a : Nat) : Nat × Bool :=
  match s.place p a with
  | some x => ((Memory.read s.dram x.key).toNat, (s.blkMeta x.blk).poison)
  | none => (0, false)
def partRead (p a n : Nat) : Nat := pack 8 ((rangeFrom a n).map (fun i => (s.partByte p i).1))
/-- The block numbers that bytes `[a, a+n)` of a partition touch, with their owner, in order; none where some lies in no extent. -/
def blocksOf (p a n : Nat) : Option (List (Nat × Nat)) :=
  (rangeFrom (a / 4096) (cdiv (a % 4096 + n) 4096)).mapM (fun b => (s.place p (b * 4096)).map (fun x => (x.blk, x.ext.owner)))
/-- A whole-block read of every block that a range touches. -/
def verifyAll (l : List (Nat × Nat)) (misreads : Nat) : State := l.foldl (fun s b => s.verify b.1 b.2 misreads) s
/-- A packet's provisional data in a block leaves the block's readers provisional (R339; log 99). -/
def noteProv (x : Place) (k : Pkt) : State :=
  let e := (x.blk, k.part, k.prod)
  if k.prov && !(s.site x.site).provs.contains e then s.modSite x.site (fun q => { q with provs := q.provs ++ [e] }) else s
/-- Producer of provisional data that a read of blocks returns to a partition, the first noted (R339, R340; log 99). -/
def provOf (p : Nat) (bl : List Nat) : Option (Nat × Nat × Nat) :=
  (bl.findSome? (fun b => (s.site (blkSite b)).provs.find? (fun e => decide (e.1 = b) && decide (e.2.1 = p)))).map (·.2.2)
end State

/-! ### Refusal (R214, R245 reason 4) -/

/-- Whether a stream group has an active member at any home (R233). -/
def State.groupActive (s : State) (g : Nat) : Bool := s.sites.any (fun e => e.2.active.any (fun x => decide (x.1 = g)))
/-- The lowest reason of R214 for an access at a site; none accepts it. -/
def State.refusal (s : State) (site p a : Nat) (write : Bool) : Option Nat :=
  match s.place p a with
  | none => some 1
  | some x =>
    if write && (x.ext.readOnly || (x.ext.shared && decide (x.ext.owner ≠ p))) then some 2
    else if write && x.ext.shared && s.groupActive x.ext.group then some 3
    else if !s.chanOk x.site x.chan then some 4
    else if x.site ≠ site then some 6
    else none
/-- Bytes of a stream's sums and of its whole sum area (R253, R257). -/
def sumBytes (st : Stream) : Nat :=
  if st.tree then st.n * st.blocks * 32 * (if st.tfmt = 0 then 2 else 4) else st.blocks * (if st.domain then 256 else 128)
def areaBytes (st : Stream) : Nat := sumBytes st + st.blocks * 16
/-- Stream and block of the sum area that holds an address. -/
def State.sumAreaAt (s : State) (p a n : Nat) : Option (Nat × Nat) :=
  match s.plan p with
  | none => none
  | some pl =>
    ((planStreams pl).zipIdx.find? (fun e => decide (e.1.sumArea < a + n) && decide (a < e.1.sumArea + areaBytes e.1))).map fun e =>
      let o := a - e.1.sumArea
      let b := if o < sumBytes e.1 then
          (if e.1.tree then o / (if e.1.tfmt = 0 then 64 else 128) % e.1.blocks else o / (if e.1.domain then 256 else 128))
        else (o - sumBytes e.1) / 16
      (e.2, b)
/-- Injects packets in order. -/
def State.injectAll (s : State) (l : List Pkt) : State := l.foldl State.inject s
/-- A refused packet: the first one logged, and the answer, one for each tag it holds (R60, R214, R234). -/
def State.refuse (s : State) (site : Nat) (k : Pkt) (a reason : Nat) : State :=
  (s.logF F.ldgRefuseLog_valid site (refuseWord reason k.part a - 2 ^ 63)).injectAll (pktAnswers k .refused (siteNode site))
/-- A packet leaves the fabric at a ledger die, which checks it (R289). -/
def State.takeAt (s : State) (site : Nat) (k : Pkt) (ok : Bool) (f : State → Pkt → State) : State :=
  s.checked (siteNode site) k ok fun s k bad => f s { k with poison := k.poison || bad }

/-! ### Channel service -/

/-- The bytes of a read packet, its poison and check, with the whole-block read that a block check asks for (R217). -/
def State.fetch (s : State) (k : Pkt) (x : Place) (misreads : Nat) : State × Nat × Bool × BitVec 32 :=
  if !k.bchk then (s, Memory.readNat s.dram x.key k.len, (s.blkMeta x.blk).poison, 0)
  else
    let mine (r : BlkRead) : Bool := decide (r.blk = x.blk) && decide (r.src = k.src) && decide (r.seq = k.seq)
    let t := match (s.site x.site).reads.find? mine with
      | some r => (s, r)
      | none =>
        let s := s.verify x.blk x.ext.owner misreads
        let m := s.blkMeta x.blk
        (s, ⟨x.blk, k.src, k.seq, blockBytes, s.blkData x.blk, m.poison, m.crc⟩)
    let r := t.2
    let rest := (t.1.site x.site).reads.filter (fun r => !mine r)
    let s := t.1.modSite x.site (fun q => { q with
      reads := if r.left ≤ k.len then rest else rest ++ [{ r with left := r.left - k.len }] })
    (s, (r.data >>> (8 * (k.addr % 4096))) % 2 ^ (8 * k.len), r.poison, r.crc)
/-- The write-data packets of a DRAM_COPY: one, or two where the destination straddles a block. -/
def copyPieces (k : Pkt) (v : Nat) (poison : Bool) (crc : BitVec 32) (pr : Option (Nat × Nat × Nat)) : List Pkt :=
  let n1 := min k.len (4096 - k.addr2 % 4096)
  let piece (a n v : Nat) : Pkt :=
    ({ k with kind := .writeData, addr := a, addr2 := 0, len := n, data := toRows v (cdiv n 64), poison := poison, crc := crc } : Pkt).withProv pr
  piece k.addr2 n1 (v % 2 ^ (8 * n1)) :: (if n1 < k.len then [piece (k.addr2 + n1) (k.len - n1) (v >>> (8 * n1))] else [])
/-- READ_REQUEST: a read or copy request is checked, and its data leaves (R58, R212, R214, R217, R218). -/
def execReadRequest (m : SiteIx) (k : Pkt) (ok : Bool) (misreads : Nat) (s : State) : Outcome State Fault Refusal :=
  .next (s.takeAt m k ok fun s k =>
    match s.refusal m k.part k.addr false, s.place k.part k.addr with
    | none, some x =>
      let r := (s.wakeChannel x.site x.chan).fetch k x misreads
      let poison := r.2.2.1 || k.poison
      let pr := s.provOf k.part [x.blk]
      if k.kind = .copyReq then
        (copyPieces k r.2.1 poison r.2.2.2 pr).foldl (fun s w =>
          match s.place w.part w.addr with
          | some y => s.inject { w with dst := siteNode y.site }
          | none => s.refuse m k w.addr 1) r.1
      else r.1.inject (({ pktAnswer k .readResp (siteNode m) with
        data := toRows r.2.1 (cdiv k.len 64), poison := poison, bchk := k.bchk, crc := r.2.2.2 } : Pkt).withProv pr)
    | r, _ => s.refuse m k k.addr (r.getD 1))

/-- The eight packets of a block that carries a check, once all have come (R216). -/
def State.closeBlock (s : State) (m : Nat) (l : List Pkt) (k : Pkt) (x : Place) : State :=
  let v := l.foldl (fun a w => a + (ofRows w.data % 2 ^ (8 * w.len)) <<< (8 * (w.addr % 4096))) 0
  let crc := crc32c (leBytes v blockBytes)
  let a := k.addr - k.addr % 4096
  let poison := l.any (·.poison)
  let ack (s : State) (bad : Bool) : State :=
    l.foldl (fun s w => s.inject { pktAnswer w .ack (siteNode m) with poison := bad }) s
  if crc = k.crc then ack (l.foldl (fun s w => s.noteProv x w) (s.putBlock k.part a v poison crc)) false
  else if k.tries < 2 then ack s true
  else
    let s := (s.putDram k.part a blockBytes v true).ledgerFault m x.ext.owner .dramBlockPoisoned 0
    ack (if k.src < 4096 then s.charge (unitCore k.src) 15 false else s) true
/-- WRITE_DATA (R214, R216, R218, R235, R237, R245 reason 4). -/
def execWriteData (m : SiteIx) (k : Pkt) (ok : Bool) (s : State) : Outcome State Fault Refusal :=
  .next (s.takeAt m k ok fun s k =>
    match s.refusal m k.part k.addr true, s.place k.part k.addr with
    | none, some x =>
      match s.sumAreaAt k.part k.addr k.len with
      | some (st, b) =>
        (s.logF F.ldgRedLog_valid m (redWord 4 k.part st b - 2 ^ 63)).inject (pktAnswer k .refused (siteNode m))
      | none =>
        if !k.bchk then
          ((s.putDram k.part k.addr k.len (ofRows k.data) k.poison).noteProv x k).inject (pktAnswer k .ack (siteNode m))
        else
          let mine (w : Pkt) : Bool := decide (w.src = k.src) && decide (w.seq = k.seq) && decide (w.part = k.part)
            && decide (w.addr / 4096 = k.addr / 4096)
          let l := (s.site m).wip.filter mine ++ [k]
          let s := s.modSite m (fun q => { q with wip := q.wip.filter (fun w => !mine w) })
          if (l.map (·.len)).sum < blockBytes then s.modSite m (fun q => { q with wip := q.wip ++ l })
          else s.closeBlock m l k x
    | r, _ => s.refuse m k k.addr (r.getD 1))

/-- Rows that fit one 512 B response of a gather request (R234). -/
def rowsPerResponse (rowLen : Nat) : Nat := max 1 (8 / rowLen)
/-- GATHER_REQUEST: rows that lie whole on this site, packed in list order into one 512 B response for each tag the request holds (R234). -/
def execGatherRequest (m : SiteIx) (k : Pkt) (ok : Bool) (s : State) : Outcome State Fault Refusal :=
  .next (s.takeAt m k ok fun s k =>
    let addrs := (rangeFrom 0 k.addr2).map (fun i => k.addr + elem (ofRows k.data) 32 i * k.len * 64)
    let bad := addrs.filterMap (fun a => (s.refusal m k.part a false).map (fun r => (r, a)))
    match bad with
    | (r, a) :: _ => s.refuse m k ((bad.find? (fun e => bad.all (fun f => decide (e.1 ≤ f.1)))).getD (r, a)).2
        (bad.foldl (fun x e => min x e.1) r)
    | [] =>
      let places := addrs.filterMap (s.place k.part)
      let n := k.len * 64
      let s := places.foldl (fun s x => s.wakeChannel x.site x.chan) s
      (pktAnswers k .readResp (siteNode m)).zipIdx.foldl (fun s e =>
        let rows := (places.drop (rowsPerResponse k.len * e.2)).take (rowsPerResponse k.len)
        let v := (rows.zipIdx).foldl (fun a r => a + (Memory.readNat s.dram r.1.key n) <<< (8 * n * r.2)) 0
        s.inject (({ e.1 with
          len := n * rows.length, data := toRows v (k.len * rows.length)
          poison := k.poison || rows.any (fun x => (s.blkMeta x.blk).poison) } : Pkt).withProv (s.provOf k.part (rows.map Place.blk)))) s)

/-! ### Weight streams (R224 to R232) -/

/-- One layer of a stream map (R226). -/
structure Layer where
  w : BitVec 256
namespace Layer
variable (l : Layer)
def src : Nat := bits l.w 0 48
def srcRows : Nat := bits l.w 64 32
def outRows : Nat := bits l.w 96 32
def conv : Nat := bits l.w 128 2
def srcFmt : Nat := bits l.w 136 4
def outFmt : Nat := bits l.w 140 4
def slot : Nat := bits l.w 144 16
def tile : Nat := bits l.w 160 16
/-- Every field of the entry is permitted (R226, R227). -/
def ok : Bool :=
  decide (bits l.w 48 16 + bits l.w 130 6 + bits l.w 176 80 = 0) && decide (l.src % 4096 = 0)
    && (match l.conv with
      | 0 => decide (l.srcRows = l.outRows)
      | 1 => decide (0 < l.slot) && decide (0 < l.tile)
      | 2 => match (if l.srcFmt ≤ 5 then Fmt.ofCode l.srcFmt else none), (if l.outFmt ≤ 5 then Fmt.ofCode l.outFmt else none) with
        | some f, some g => decide (l.outRows * f.width = l.srcRows * g.width)
        | _, _ => false
      | _ => false)
end Layer
/-- The layer that holds a delivered offset, with its number and start; none in a gap or beyond the end. -/
def findLayer (read : Nat → Layer) (off : Nat) : Nat → Nat → Nat → Option (Nat × Nat × Layer)
  | 0, _, _ => none
  | n + 1, i, start =>
    let l := read i
    let stop := start + 64 * l.outRows
    if off < stop then some (i, start, l)
    else
      let next := cdiv stop 4096 * 4096
      if off < next then none else findLayer read off n (i + 1) next
/-- Whose addresses a stream's map and sources are in, and where the map lies: the partition's own for a private stream, the
owner's for a group (R224, R226; log 14). -/
def State.streamMap (s : State) (p n : Nat) : Option (Nat × Nat) :=
  if n < 192 then ((s.plan p).bind (fun pl => pl.maps.find? (fun e => e.1 = n))).map (fun e => (p, e.2))
  else
    match s.image.bind (fun im => im.groups.find? (fun g => g.num = n - 192)) with
    | none => none
    | some g =>
      if ¬ (s.part p).joined.contains g.num ∨ ¬ g.members.contains p then none
      else ((s.extents g.owner).find? (fun e => e.valid && e.shared && decide (e.group = g.num))).map (fun e => (g.owner, e.pbase * 2 ^ 30 + g.mapOff))
/-- What a stream packet delivers: source partition, layer number, its entry, and the offset in the layer. -/
structure StreamPkt where
  part : Nat
  num : Nat
  layer : Layer
  off : Nat
/-- Source bytes that a delivered range needs: first byte and length (R227). -/
def StreamPkt.source (x : StreamPkt) (n : Nat) : Nat × Nat :=
  match x.layer.conv with
  | 1 =>
    let t0 := x.off / 64 / x.layer.tile
    let t1 := (x.off + n - 1) / 64 / x.layer.tile
    (t0 * x.layer.slot * 64, (t1 + 1 - t0) * x.layer.slot * 64)
  | 2 =>
    let ws := ((Fmt.ofCode x.layer.srcFmt).map Fmt.width).getD 8
    let wd := ((Fmt.ofCode x.layer.outFmt).map Fmt.width).getD 8
    (x.off * ws / wd, n * ws / wd)
  | _ => (x.off, n)
/-- Judges a stream receive at a home by the lowest reason that applies: a source block in a channel out of service, then the map and the
offset, then the home (R214 reasons 4 to 6, R226). A layer whose source lies in no extent is an invalid entry. -/
def State.judgeStream (s : State) (m : Nat) (k : Pkt) : Nat ⊕ StreamPkt :=
  match s.streamMap k.part (k.addr / 2 ^ 36 % 256) with
  | none => .inl 5
  | some (p, base) =>
    let h := BitVec.ofNat 512 (s.partRead p base 64)
    let cnt := bits h 32 32
    let home := bits h 64 16
    let hc := home / 64 % 64
    if bits h 0 16 ≠ 0x534D ∨ bits h 16 16 ≠ 1 ∨ cnt = 0 ∨ 65536 < cnt ∨ bits h 80 432 ≠ 0 ∨ hc = 0 ∨ 40 < hc ∨ home / 4096 ≠ 0 then .inl 5
    else
      let off := k.addr % 2 ^ 36
      match findLayer (fun i => ⟨BitVec.ofNat 256 (s.partRead p (base + 64 + 32 * i) 32)⟩) off cnt 0 0 with
      | none => .inl 5
      | some (i, start, l) =>
        if ¬ l.ok ∨ start + 64 * l.outRows < off + k.len then .inl 5
        else
          let x : StreamPkt := ⟨p, i, l, off - start⟩
          let src := x.source k.len
          match s.blocksOf p (l.src + src.1) src.2 with
          | none => .inl 5
          | some bl =>
            if bl.any (fun b => !s.chanOk (blkSite b.1) (blkChan b.1)) then .inl 4
            else if (home % 64 + off / 4096 % hc) % 40 ≠ m then .inl 6
            else .inr x
/-- The rows one compressed slot expands to, and whether its header fails; a poisoned header row does (R156, R190, R227). A position that an
INDEX tile names twice takes one element, a free value of the two (log 8). -/
def expandSlot (slot outRows : Nat) (d : Nat) (poison : Bool) : Nat × Bool :=
  let h := Header.of (BitVec.ofNat 512 d)
  match (if poison then none else h.valid) with
  | none => (0, true)
  | some (wf, _, _) =>
    if slot < h.rc then (0, true)
    else
      let md := (d >>> 512) % 2 ^ (512 * h.metaRows)
      let vals := (d >>> (512 * (1 + h.metaRows))) % 2 ^ (512 * h.valRows)
      let t := expandTile h wf (keptEntries h wf.width md vals).1 [] false
      let w := t.more.foldl (fun l e => listSet l e.1 (Config.dupWeight (l.getD e.1 0) e.2 % 2 ^ wf.width)) t.w
      (pack wf.width w % 2 ^ (512 * outRows), false)
/-- Delivered bytes of a packet from its source bytes, and poison of its own (R227). `bad` says which source bytes are poisoned. -/
def StreamPkt.deliver (x : StreamPkt) (n d : Nat) (bad : Nat → Bool) : Nat × Bool :=
  match x.layer.conv with
  | 1 =>
    let tb := 64 * x.layer.tile
    let first := x.off / tb
    let cnt := (x.off + n - 1) / tb + 1 - first
    let outs := (rangeFrom 0 cnt).map (fun i => expandSlot x.layer.slot x.layer.tile (d >>> (512 * x.layer.slot * i)) (bad (64 * x.layer.slot * i)))
    let v := outs.zipIdx.foldl (fun a e => a + e.1.1 <<< (8 * tb * e.2)) 0
    ((v >>> (8 * (x.off - first * tb))) % 2 ^ (8 * n), outs.any (·.2))
  | 2 =>
    match Fmt.ofCode x.layer.srcFmt, Fmt.ofCode x.layer.outFmt with
    | some f, some g =>
      (pack g.width ((rangeFrom 0 (8 * n / g.width)).map (fun i =>
        (encode g ⟨.rn, false, false⟩ 0 none (decode f (elem d f.width i))).1)), false)
    | _, _ => (d, false)
  | _ => (d, false)

/-- Members that are active at a home (R229). -/
def State.activeAt (s : State) (m g : Nat) : List Nat := ((s.site m).active.filter (fun e => e.1 = g)).map (·.2)
/-- Column and row masks that cover a set of cores with the fewest others, and the cores they name (R287). -/
def mcastMasks (l : List Nat) : Nat :=
  (l.foldl (fun a c => a ||| 2 ^ (c % 64)) 0) + (l.foldl (fun a c => a ||| 2 ^ (c / 64)) 0) <<< 64
def mcastCores (l : List Nat) : List Nat :=
  let x := l.foldl (fun t c => NSet.add (c % 64) t) []
  let y := l.foldl (fun t c => NSet.add (c / 64) t) []
  y.flatMap (fun r => x.map (fun c => 64 * r + c))
/-- Delivered bytes and poison of `n` bytes of a stream packet as its source stands. -/
def State.delivered (s : State) (x : StreamPkt) (n : Nat) : Nat × Bool :=
  let src := x.source n
  let a := x.layer.src + src.1
  x.deliver n (s.partRead x.part a src.2) (fun o => (s.partByte x.part (a + o)).2)
/-- CRC-32C of the delivered 4 KiB block that a stream packet lies in, zeros standing for what is past the layer's end (R226, R227). -/
def State.deliveredCheck (s : State) (x : StreamPkt) : BitVec 32 :=
  let b : StreamPkt := { x with off := x.off - x.off % blockBytes }
  crc32c (leBytes (s.delivered b (min blockBytes (64 * x.layer.outRows - b.off))).1 blockBytes)
/-- One read of a stream packet and its delivery to every requester, one packet to one core on TC1 or one multicast to several on TC3
(R210, R217, R228, R230); the site's first read of a layer 0 packet makes its joining members active (R229). -/
def State.serveStream (s : State) (m : Nat) (reqs : List Pkt) (x : StreamPkt) (misreads : Nat) : State :=
  match reqs with
  | [] => s
  | k :: _ =>
    let src := x.source k.len
    match s.blocksOf x.part (x.layer.src + src.1) src.2 with
    | none => reqs.foldl (fun s k => s.refuse m k k.addr 5) s
    | some bl =>
      let s := s.verifyAll bl misreads
      let out := s.delivered x k.len
      let poison := out.2 || bl.any (fun b => (s.blkMeta b.1).poison) || reqs.any (·.poison)
      let data := toRows out.1 (cdiv k.len 64)
      let s := (s.bumpF F.ldgStreamStat_reads m 1).bumpF F.ldgStreamStat_copies m (reqs.length - 1)
      let g := k.addr / 2 ^ 36 % 256 - 192
      let s := if 192 ≤ k.addr / 2 ^ 36 % 256 ∧ x.num = 0 then
          s.modSite m (fun q => { q with active := q.active ++ q.joining.filter (fun e => e.1 = g)
                                         joining := q.joining.filter (fun e => e.1 ≠ g) })
        else s
      let crc := if reqs.any (·.bchk) then s.deliveredCheck x else 0
      let form (c : Nat) (mcast : Bool) : Pkt :=
        let r := (reqs.find? (fun r => r.src = c)).getD k
        ({ pktAnswer r .stream (siteNode m) with
          dst := c, mcast := mcast, addr2 := if mcast then mcastMasks (reqs.map (·.src)) else 0
          data := data, poison := poison, bchk := r.bchk, crc := crc } : Pkt).withProv (s.provOf r.part (bl.map (·.1)))
      match reqs with
      | [k] => s.inject (form k.src false)
      | l => s.injectAll ((mcastCores (l.map (·.src))).map (fun c => form c true))

/-- Serves requests each on its own, as a private read (R229, R231). -/
def State.servePrivate (s : State) (m : Nat) (reqs : List Pkt) : State :=
  reqs.foldl (fun s k =>
    match s.judgeStream m k with
    | .inl r => s.refuse m k k.addr r
    | .inr x => s.serveStream m [k] x 0) s
/-- A member leaves the active set of a home; its pending requests are served privately (R229, R231). -/
def State.deactivate (s : State) (m g p : Nat) : State :=
  let mine (w : StreamWait) : Bool := decide (w.group = some g)
  let reqs := ((s.site m).waits.filter mine).flatMap (fun w => w.reqs.filter (fun k => k.part = p))
  let s := s.modSite m (fun q => { q with
    active := q.active.filter (fun e => ¬ (e.1 = g ∧ e.2 = p))
    joining := q.joining.filter (fun e => ¬ (e.1 = g ∧ e.2 = p))
    waits := (q.waits.map (fun w => if mine w then { w with reqs := w.reqs.filter (fun k => k.part ≠ p) } else w)).filter
      (fun w => !w.reqs.isEmpty) })
  s.servePrivate m reqs
/-- A home drops a member: it broadcasts the drop, raises the event at the member's controller and counts (R231). -/
def State.dropMember (s : State) (m g p : Nat) : State :=
  let s := (s.raise .streamMemberDropped (siteNode m) (some p) 0).bumpF F.ldgStreamStat_drops m 1
  let s := s.send (.groupDrop g p) p stewardNode (siteNode m)
  s.deactivate m g p
/-- Active members with no request for a waiting packet. -/
def State.missing (s : State) (m : Nat) (w : StreamWait) : List Nat :=
  match w.group with
  | some g => (s.activeAt m g).filter (fun p => w.reqs.all (fun k => decide (k.part ≠ p)))
  | none => []
/-- The layer rule of R231: members missing from a packet of layer L while another has a packet of layer L + 3 or later pending. -/
def State.lagging (s : State) (m g : Nat) : List Nat :=
  let ws := (s.site m).waits.filter (fun w => w.group = some g)
  (s.activeAt m g).filter fun p => ws.any fun w =>
    (s.missing m w).contains p && ws.any (fun v => decide (w.layer + 3 ≤ v.layer) && v.reqs.any (fun k => decide (k.part ≠ p)))
/-- Serves a request now, or leaves the read outstanding where another request for the packet is about to join it (R228). -/
def State.joinRead (s : State) (m : Nat) (k : Pkt) (x : StreamPkt) (more : Bool) (misreads : Nat) : State :=
  let off := k.addr % 2 ^ 44
  let mine (w : StreamWait) : Bool := decide (w.group = none) && decide (w.offset = off)
    && w.reqs.any (fun r => decide (r.part = k.part) && decide (r.len = k.len))
  let old := ((s.site m).waits.filter mine).flatMap (·.reqs)
  let s := s.modSite m (fun q => { q with waits := q.waits.filter (fun w => !mine w) })
  if more then s.modSite m (fun q => { q with waits := q.waits ++ [⟨none, off, x.num, old ++ [k], s.now⟩] })
  else s.serveStream m (old ++ [k]) x misreads
/-- STREAM_RECEIVE (R225, R228 to R231). `more`: another request for the same packet reaches the home before this read is done. -/
def execStreamReceive (m : SiteIx) (k : Pkt) (ok more : Bool) (misreads : Nat) (s : State) : Outcome State Fault Refusal :=
  .next (s.takeAt m k ok fun s k =>
    match s.judgeStream m k with
    | .inl r => s.refuse m k k.addr r
    | .inr x =>
      let n := k.addr / 2 ^ 36 % 256
      let g := n - 192
      if n < 192 ∨ ¬ (s.activeAt m g).contains k.part then s.joinRead m k x more misreads
      else
        let off := k.addr % 2 ^ 44
        let mine (w : StreamWait) : Bool := decide (w.group = some g) && decide (w.offset = off)
        let s := s.modSite m (fun q => { q with
          waits := if q.waits.any mine then q.waits.map (fun w => if mine w then { w with reqs := w.reqs ++ [k] } else w)
            else q.waits ++ [⟨some g, off, x.num, [k], s.now⟩] })
        (s.lagging m g).foldl (fun s p => s.dropMember m g p) s)
/-- GROUP_PACKET_READ: with a request of every active member, one read and one multicast (R230). -/
def execGroupPacketRead (m : SiteIx) (g : Fin 64) (off misreads : Nat) (s : State) : Outcome State Fault Refusal :=
  .next (
    let off := off % 2 ^ 36 + (192 + g.val) * 2 ^ 36
    let mine (w : StreamWait) : Bool := decide (w.group = some g.val) && decide (w.offset = off)
    match (s.site m).waits.find? mine with
    | none => s
    | some w =>
      if s.missing m w ≠ [] then s
      else
        let s := s.modSite m (fun q => { q with waits := q.waits.filter (fun w => !mine w) })
        match w.reqs with
        | [] => s
        | k :: _ => match s.judgeStream m k with
          | .inl r => w.reqs.foldl (fun s k => s.refuse m k k.addr r) s
          | .inr x => s.serveStream m w.reqs x misreads)
/-- GROUP_WAIT_EXPIRY: every member still missing is dropped; a limit of 0 leaves only the layer rule (R231, R241). -/
def execGroupWaitExpiry (m : SiteIx) (g : Fin 64) (off : Nat) (s : State) : Outcome State Fault Refusal :=
  .next (
    let off := off % 2 ^ 36 + (192 + g.val) * 2 ^ 36
    match (s.site m).waits.find? (fun w => decide (w.group = some g.val) && decide (w.offset = off)) with
    | none => s
    | some w =>
      if s.getF F.ldgGroupWait_limit m = 0 then s
      else (s.missing m w).foldl (fun s p => s.dropMember m g p) s)
/-- GROUP_DROP reaches a home (R231). -/
def execGroupDrop (m : SiteIx) (c : Ctl) (s : State) : Outcome State Fault Refusal :=
  .next (match c.msg with
    | .groupDrop g p => s.takeCtl c fun s => s.deactivate m g p
    | _ => s)

/-! ### Refresh and test slices (R220 to R223) -/

/-- REFRESH of a channel: the interval in force, half while the stack is hot or the channel derated (R220, R350). -/
def execRefresh (m : SiteIx) (ch : Fin 32) (hot : Bool) (s : State) : Outcome State Fault Refusal :=
  .next (
    let half := hot || decide (0 < s.unitState (unitChan m ch))
    s.modSite m (fun q => { q with refreshHalf := if half then q.refreshHalf ||| 2 ^ ch.val else q.refreshHalf &&& (0xFFFFFFFF - 2 ^ ch.val) }))
/-- A service of the ledger die holds work for a channel: a whole-block read or write under way, a stream packet waiting, a checkpoint copy
of the site, or a reduction block still open (R221). Work whose channel is not fixed counts for every channel of the site. -/
def State.chanBusy (s : State) (m ch : Nat) : Bool :=
  let q := s.site m
  q.reads.any (fun r => decide (blkChan r.blk = ch)) || q.wip.any (fun k => (s.place k.part k.addr).any (fun x => decide (x.chan = ch)))
    || !q.waits.isEmpty || !q.copying.isEmpty || q.blocks.any (fun b => !b.closed)
/-- SELF_REFRESH_ENTRY: in module HOLD, a channel with no work enters self-refresh, and a channel that a request woke only after 1 ms
without one (R221). -/
def execSelfRefreshEntry (m : SiteIx) (ch : Fin 32) (s : State) : Outcome State Fault Refusal :=
  .next (
    let last := Tab.get (fun _ => 0) (s.site m).reqAt ch
    if s.getF F.pwrState_state 0 = 1 ∧ s.chanBusy m ch = false ∧ (last = 0 ∨ last + 100000 ≤ s.now + 1) then
      (s.modSite m (fun q => { q with reqAt := Tab.put (fun _ => 0) ch.val 0 q.reqAt })).setF F.ldgChState_self_refresh m
        (s.getF F.ldgChState_self_refresh m ||| 2 ^ ch.val)
    else s)
/-- TEST_SLICE: the next window is saved, tested and restored; a bad row is repaired from a spare, and a row that cannot be
repaired counts a fault against the channel; the patrol read is a whole-block read of each of the window's blocks (R217, R222, R223).
An interval of 0, self-refresh, or 500 µs not yet gone since the last slice leaves the channel alone. -/
def execTestSlice (m : SiteIx) (ch : Fin 32) (repaired : Nat) (unrepairable : Bool) (misreads : List Nat) (s : State) :
    Outcome State Fault Refusal :=
  .next (
    let q := s.site m
    let last := Tab.get (fun _ => 0) q.sliceTime ch
    if s.getF F.ldgSlice_interval m = 0 ∨ (s.getF F.ldgChState_self_refresh m).testBit ch ∨ ¬ s.chanOk m ch
      ∨ (last ≠ 0 ∧ s.now + 1 - last < 50000) then s
    else
      let w := Tab.get (fun _ => 0) q.sliceAt ch
      let s := s.modSite m (fun q => { q with sliceAt := Tab.put (fun _ => 0) ch ((w + 1) % 16384) q.sliceAt
                                              sliceTime := Tab.put (fun _ => 0) ch (s.now + 1) q.sliceTime })
      let blocks := rangeFrom ((m.val * 32 + ch.val) * 2 ^ 19 + w * 32) 32
      let owner (b : Nat) : Nat := match s.image with
        | some im => (((im.parts.flatMap (fun d => s.extents d.num)).find? (fun e =>
            e.valid && decide (e.frame * 8192 ≤ b % 2 ^ 19) && decide (b % 2 ^ 19 < (e.frame + e.len / e.siteCount) * 8192)
              && decide ((m.val + 40 - e.siteFirst) % 40 < e.siteCount))).map (·.owner)).getD 255
        | none => 255
      let s := blocks.zipIdx.foldl (fun s b => s.verify b.1 (owner b.1) (misreads.getD b.2 0)) s
      let s := s.bumpF F.ldgBlockStat_repaired m repaired
      let s := (rangeFrom 0 repaired).foldl (fun s _ => s.raise .dramRowRepaired (siteNode m) none 0) s
      if unrepairable then s.charge (unitChan m ch) Config.otherCause.toNat true else s)

end Sys2Proof.Machine
end

