-- ==== Sys2Proof/Machine/Link.lean ====
section
/-! DEFINITION. Sending on Kifildo Link, and the members of a reduction domain (R255, R420, R426). -/
namespace Sys2Proof.Machine

/-- This module's ID (R485). -/
def State.moduleId (s : State) : Nat := (s.image.map (·.moduleId)).getD 0
/-- Owner of a sub-port: the partition that the image gives it to, 255 for the module (R420). -/
def State.subOwner (s : State) (sub : Nat) : Nat :=
  match s.image with
  | some im => ((im.parts.find? (fun d => d.ports.contains sub)).map (·.num)).getD 255
  | none => 255
def State.conn (s : State) (sub peer : Nat) : Conn :=
  (s.conns.find? (fun c => c.sub = sub ∧ c.peer = peer)).getD (Conn.init sub peer)
def State.setConn (s : State) (c : Conn) : State :=
  if s.conns.any (fun d => decide (d.sub = c.sub) && decide (d.peer = c.peer)) then
    { s with conns := s.conns.map (fun d => if d.sub = c.sub ∧ d.peer = c.peer then c else d) }
  else { s with conns := s.conns ++ [c] }
/-- Whether PFC has paused the priority a channel sends on, at a sub-port (R421, R422). -/
def State.pfcPaused (s : State) (sub chan : Nat) : Bool :=
  let prio := ((s.image.map (·.klPrio)).getD []).getD chan 8
  decide (Tab.get (fun _ => 0) (s.edge (sub / 32)).paused (sub * 8 + prio) ≠ 0) && decide (prio < 8)
/-- One frame on an open connection: numbered, kept until acknowledged, at most 256 unacknowledged; it waits while its priority is
paused. Channel 3 is unsequenced (R421, R426). -/
def State.sendOn (s : State) (c : Conn) (f : KlFrame) : State :=
  let n := f.body.chan
  if n = 3 then s.emit (.frame c.sub f)
  else
    let ch := c.chans.getD n .init
    if 256 ≤ ch.unacked.length ∨ s.pfcPaused c.sub n then s.setConn { c with chans := c.chans.set n { ch with backlog := ch.backlog ++ [f] } }
    else
      let f := { f with seq := ch.next, cum := ch.expect - 1, ver := c.ver }
      (s.setConn { c with chans := c.chans.set n { ch with next := (ch.next + 1) % 2 ^ 32, unacked := ch.unacked ++ [(f, 0)] } }).emit
        (.frame c.sub f)
/-- The connection a partition's frames to a peer take: the first open one on a sub-port it owns (R420, R426). -/
def State.route (s : State) (owner peer : Nat) : Option Conn :=
  s.conns.find? (fun c => decide (c.peer = peer) && decide (c.status = 1) && decide (s.subOwner c.sub = owner))
/-- A frame for a peer; none where no connection is open. -/
def State.klSend (s : State) (p peer : Nat) (body : KlBody) (prov poison : Bool) : Option State :=
  (s.route p peer).map fun c => s.sendOn c ⟨1, prov, poison, false, peer, s.moduleId, p, 0, 0, body⟩
/-- Other members of a partition's domain, by rank and module (R255). -/
def State.peersOf (s : State) (p : Nat) : List (Nat × Nat) :=
  match (s.part p).cap.bind (·.domain) with
  | some (own, l) => (l.zipIdx.map (fun e => (e.2, e.1))).filter (fun e => e.1 ≠ own)
  | none => []
/-- Rank of a peer module; none for a module outside the domain. -/
def State.rankOf (s : State) (p m : Nat) : Option Nat := ((s.peersOf p).find? (fun e => e.2 = m)).map (·.1)
def State.ownRank (s : State) (p : Nat) : Nat := (((s.part p).cap.bind (·.domain)).map (·.1)).getD 0
/-- A frame to every other member; a member with no open connection hears nothing (R426: it shows as member loss). -/
def State.toPeers (s : State) (p : Nat) (body : KlBody) (poison : Bool) : State :=
  (s.peersOf p).foldl (fun s e => (s.klSend p e.2 body false poison).getD s) s
/-- A delivered frame leaves the receive list. -/
def State.takeFrame (s : State) (f : KlFrame) : State := { s with klRx := dropFirst f s.klRx }

end Sys2Proof.Machine
end

