-- ==== Sys2Proof/Machine/Reduction.lean ====
section
/-! DEFINITION. Reduction homes: GRID and TREE blocks, refusals, closing, retraction, reopening, and domain exchange (R242 to
R262, R276, R528). -/
namespace Sys2Proof.Machine
open Host

/-! ### Blocks of a home -/

def RedBlk.init (p st b : Nat) : RedBlk :=
  { part := p, stream := st, block := b, e := 0, exps := 0, expPoison := false, sums := [], vals := [], slots := [], waitE := []
    waitV := [], reopen := false, was := none, resum := false, raws := [], rebuilt := [], retracted := [], closed := false, peerMax := []
    peerPoison := false, peerSum := [], sent := none, sentBad := false, peerBad := [], lost := false }
def RedBlk.is (r : RedBlk) (p st b : Nat) : Bool := decide (r.part = p) && decide (r.stream = st) && decide (r.block = b)
/-- A block at its home; an open block nothing has reached is empty. -/
def State.redBlk (s : State) (m p st b : Nat) : RedBlk := ((s.site m).blocks.find? (·.is p st b)).getD (RedBlk.init p st b)
def State.setRed (s : State) (m : Nat) (r : RedBlk) : State :=
  s.modSite m (fun q => { q with
    blocks := if q.blocks.any (·.is r.part r.stream r.block) then
        q.blocks.map (fun o => if o.is r.part r.stream r.block then r else o) else q.blocks ++ [r] })
/-- A 32-bit sum element as stored: two's complement, the marker of R123 for none. -/
def sumCode (w : Nat) : Option Int → Nat
  | some i => ofInt w i
  | none => 2 ^ (w - 1)
/-- An element of a contribution: outside ±2^20 it is the marker (R252). -/
def contribElem (c : Nat) : Option Int :=
  let i := sext 32 c
  if i < -(2 ^ 20) ∨ (2 ^ 20 : Int) < i then none else some i
/-- Element-wise sum; a marker in either makes a marker (R123, R252, R255). -/
def addSums (a b : List (Option Int)) : List (Option Int) :=
  (a.zip b).map fun e => match e.1, e.2 with
    | some x, some y => some (x + y)
    | _, _ => none
def subSums (a b : List (Option Int)) : List (Option Int) :=
  (a.zip b).map fun e => match e.1, e.2 with
    | some x, some y => some (x - y)
    | _, _ => none
/-- Sum of this module's and every peer's module sums (R255). -/
def RedBlk.total (r : RedBlk) : List (Option Int) := r.peerSum.foldl (fun a e => addSums a e.2) r.sums
/-- Value contributions counted, and those not proven. -/
def RedBlk.count (r : RedBlk) : Nat := (r.vals.map (fun v => max 1 v.prov.length)).sum
def RedBlk.unproven (r : RedBlk) : Nat := ((r.vals.filter (fun v => !v.unproven.isEmpty)).map (fun v => max 1 v.prov.length)).sum
def RedBlk.poisoned (r : RedBlk) : Nat := (r.vals.filter (·.poison)).length
/-- Whether every peer of a domain block has given its byte, and its sum. -/
def RedBlk.peersIn (r : RedBlk) (peers : List (Nat × Nat)) : Bool := peers.all (fun e => r.peerMax.any (fun x => decide (x.1 = e.1)))
def RedBlk.sumsIn (r : RedBlk) (peers : List (Nat × Nat)) : Bool := peers.all (fun e => r.peerSum.any (fun x => decide (x.1 = e.1)))
/-- The agreed byte once every contribution and every member's maximum is in (R247); a reopened block has none (R260). -/
def RedBlk.byte (r : RedBlk) : Nat := r.peerMax.foldl (fun a e => max a e.2) r.e
def State.peersIf (s : State) (p : Nat) (st : Stream) : List (Nat × Nat) := if st.domain then s.peersOf p else []
def State.agreed (s : State) (p : Nat) (st : Stream) (r : RedBlk) : Bool := !r.reopen && decide (st.n ≤ r.exps) && r.peersIn (s.peersIf p st)
/-- Block state as R253 lays it out. -/
def State.blkState (s : State) (p : Nat) (st : Stream) (r : RedBlk) : Nat :=
  (if s.agreed p st r then r.byte else r.e) + (min r.exps 2047) <<< 8 + (min r.count 2047) <<< 19 + (min r.unproven 2047) <<< 30
    + (min r.poisoned 2047) <<< 41 + r.reopen.toNat <<< 52 + r.closed.toNat <<< 53
    + (if st.domain then r.peerSum.length <<< 64 + (s.agreed p st r).toNat <<< 78 + r.closed.toNat <<< 79 else 0)
/-- Bytes of the sum area that the home rewrites: it reads their block, verified, and writes part of it (R216 to R218, R252). -/
def State.putArea (s : State) (p a n v : Nat) : State :=
  match s.place p a with
  | none => s
  | some x => (s.verify x.blk x.ext.owner 0).putDram p a n v false
/-- Shows a block's sums and state in the sum area (R253, R257). -/
def State.showBlk (s : State) (p : Nat) (st : Stream) (r : RedBlk) : State :=
  let s := if st.tree then
      let w := if st.tfmt = 0 then 16 else 32
      r.slots.foldl (fun s e => s.putArea p (st.sumArea + e.1 * st.blocks * 4 * w + r.block * 4 * w) (4 * w) (pack w e.2)) s
    else if r.sums.isEmpty then s
    else if st.domain then s.putArea p (st.sumArea + 256 * r.block) 256 (pack 64 (r.total.map (sumCode 64)))
    else s.putArea p (st.sumArea + 128 * r.block) 128 (pack 32 (r.sums.map (sumCode 32)))
  s.putArea p (st.sumArea + sumBytes st + 16 * r.block) 16 (s.blkState p st r)
/-- Stores a block at its home and in the sum area. -/
def State.keepBlk (s : State) (m p : Nat) (st : Stream) (r : RedBlk) : State := (s.setRed m r).showBlk p st r

/-! ### Refusal (R245) -/

/-- Blocks a reduction packet covers: from its payload for values, one a byte for exponents, up to the stream's last. -/
def blocksIn (st : Stream) (k : Pkt) (h : RedHdr) : List Nat :=
  if h.pass = 1 then (rangeFrom h.b0 k.len).filter (· < st.blocks)
  else if h.kind = 2 ∨ k.len = 0 then [h.b0]
  else rangeFrom h.b0 (k.len / (if st.tree ∧ st.tfmt = 0 then 64 else 128))
/-- Whether a site still has a ledger engine; with none it refuses under reason 1 (R337). -/
def State.engineLeft (s : State) (m : Nat) : Bool := decide ((s.site m).engines ≠ 0)
/-- The lowest reason of R245; none accepts the packet. A packet whose values a rebuild already holds, or that follows its producer's retraction
into a pending reopen, meets no count and no byte; any other that comes while a reopen is pending has no agreed byte to meet (log 101). -/
def State.redRefusal (s : State) (m : Nat) (k : Pkt) (h : RedHdr) : Option Nat :=
  match s.stream k.part h.stream with
  | none => some 1
  | some st =>
    let cs := s.contribs k.part st
    let unit := if st.tree ∧ st.tfmt = 0 then 64 else 128
    let bs := blocksIn st k h
    let blk (b : Nat) := s.redBlk m k.part h.stream b
    let stranger (n : Nat) : Bool := cs.all (fun c => decide (c.core ≠ n))
    if h.prov.any (fun e => stranger e.1) || !s.engineLeft m || (h.prov.isEmpty && (decide (h.kind ≠ 1) || stranger k.prod.1)) then some 1
    else if (!st.tree && decide (h.pass = 1) && (decide (h.b0 % 64 ≠ 0) || decide (64 < k.len)))
      || (decide (h.pass = 0) && decide (h.kind ≤ 1) && (decide (k.len % unit ≠ 0) || (decide (k.len = 0) && decide (h.kind = 0)))) then some 2
    else if decide (st.blocks ≤ h.b0) || bs.any (fun b => decide (st.blocks ≤ b)) then some 3
    else if decide (h.kind = 0) && bs.any (fun b =>
        let r := blk b
        if h.pass = 1 then !h.prov.all (fun e => r.retracted.contains e.1) && decide (st.n < r.exps + h.prov.length)
        else !r.reopen && h.prov.all (fun e => !r.rebuilt.contains e.1) && decide (st.n < r.count + h.prov.length)) then some 5
    else if bs.any (fun b => decide (streamHome st b ≠ m)) then some 6
    else if !st.tree && decide (h.pass = 0) && decide (h.kind = 0) && bs.zipIdx.any (fun e =>
        let r := blk e.1
        let back : Bool := h.prov.any (fun x => r.retracted.contains x.1)
        if r.reopen then !back
        else !s.agreed k.part st r || (decide (h.ebytes.getD e.2 0 ≠ r.byte) && !(back && decide (r.byte < h.ebytes.getD e.2 0)))) then some 7
    else none
/-- Refuses a reduction packet: the first one logged, and the answer (R245). -/
def State.refuseRed (s : State) (m : Nat) (k : Pkt) (h : RedHdr) (reason : Nat) : State :=
  (s.logF F.ldgRedLog_valid m (redWord reason k.part h.stream h.b0 - 2 ^ 63)).injectAll (pktAnswers k .refused (siteNode m))
/-- A stream whose blocks have closed as lost (R274), or whose group a STOP action has ended (R346, R528): packets are acknowledged and add
nothing. -/
def State.pastSum (s : State) (p : Nat) (st : Stream) : Bool := (s.part p).groupsEnded || (st.domain && (s.part p).memberLost)
/-- The common front of every reduction packet. -/
def State.takeRed (s : State) (m : Nat) (k : Pkt) (ok : Bool) (f : State → Pkt → RedHdr → Stream → State) : State :=
  s.takeAt m k ok fun s k =>
    match k.red with
    | none => s.refuse m k k.addr 1
    | some h => match s.redRefusal m k h, s.stream k.part h.stream with
      | none, some st => if s.pastSum k.part st then s.injectAll (pktAnswers k .ack (siteNode m)) else f s k h st
      | r, _ => s.refuseRed m k h (r.getD 1)

/-! ### Pass 1 (R246, R247) -/

/-- Whether every block of a waiting packet satisfies a test. -/
def State.allBlocks (s : State) (m p : Nat) (st : Stream) (h : RedHdr) (bs : List Nat) (t : RedBlk → Bool) : Bool :=
  bs.all (fun b => decide (streamHome st b ≠ m) || t (s.redBlk m p h.stream b))
/-- Agreed bytes go to every contributor that a waiting pass 1 packet carries, once its blocks are all agreed; the landing
acknowledges the packet (R247, R248). -/
def State.giveBytes (s : State) (m p i : Nat) (st : Stream) (b : Nat) : State :=
  (s.redBlk m p i b).waitE.foldl (fun s k =>
    match k.red with
    | none => s
    | some h =>
      let bs := blocksIn st k h
      if s.allBlocks m p st h bs (s.agreed p st) then
        let rs := bs.map (s.redBlk m p i)
        let row (n : Nat) : Nat := (((s.contribs p st).find? (fun c => c.core = n)).map (·.retRow)).getD 0
        let s := bs.foldl (fun s b => let r := s.redBlk m p i b; s.setRed m { r with waitE := dropFirst k r.waitE }) s
        s.injectAll (((pktAnswers k .reduction (siteNode m)).zip h.prov).map (fun e => { e.1 with
          addr := 64 * row e.2.1 + h.b0, len := bs.length, data := toRows (pack 8 (rs.map (·.byte))) 1
          poison := rs.any (fun r => r.expPoison || r.peerPoison) }))
      else s) s
/-- A block whose own contributions are all in sends its module maximum to the peers of a domain (R255). -/
def State.sendMax (s : State) (p i : Nat) (st : Stream) (r : RedBlk) : State :=
  if st.domain ∧ st.n ≤ r.exps then s.toPeers p (.expMax i r.block [r.e]) r.expPoison else s
/-- EXPONENT_CONTRIBUTION (R246, R247). Bytes that a replay sends again after its retraction are not counted twice (R249; log 19). -/
def execExponentContribution (m : SiteIx) (k : Pkt) (ok : Bool) (s : State) : Outcome State Fault Refusal :=
  .next (s.takeRed m k ok fun s k h st =>
    let bs := blocksIn st k h
    let s := bs.zipIdx.foldl (fun (s : State) (e : Nat × Nat) =>
      let r := s.redBlk m k.part h.stream e.1
      let again : Bool := h.prov.all (fun x => r.retracted.contains x.1)
      let r := { r with e := if again && s.agreed k.part st r then r.e else max r.e (elem (ofRows k.data) 8 e.2)
                        exps := if again then r.exps else r.exps + h.prov.length
                        expPoison := r.expPoison || k.poison, waitE := r.waitE ++ [k] }
      (s.keepBlk m k.part st r).sendMax k.part h.stream st r) s
    bs.foldl (fun s b => s.giveBytes m k.part h.stream st b) s)

/-! ### Values, closing (R249 to R254, R257) -/

/-- Provenance of a provisional packet whose passing tokens the home does not hold (R258). -/
def State.awaiting (s : State) (m p : Nat) (prov : Bool) (l : List (Nat × Nat)) : List (Nat × Nat) :=
  if prov then l.filter (fun e => !(s.site m).tokens.contains (p, e.1, e.2, true)) else []
/-- Acknowledges every packet of a closed block whose blocks have all closed (R254). -/
def State.ackClosed (s : State) (m p i : Nat) (st : Stream) (b : Nat) : State :=
  (s.redBlk m p i b).waitV.foldl (fun s k =>
    match k.red with
    | none => s
    | some h =>
      let bs := blocksIn st k h
      if s.allBlocks m p st h bs (·.closed) then
        (bs.foldl (fun s b => let r := s.redBlk m p i b; s.setRed m { r with waitV := dropFirst k r.waitV }) s).injectAll
          (pktAnswers k .ack (siteNode m))
      else s) s
/-- FP32 addition with RN of two codes. -/
def addFp32 (a b : Nat) : Nat := (toFp32 (vadd (decode .fp32 a) (decode .fp32 b)).1).1
/-- One level of the fixed tree: neighbours added, an odd last passed up (R257). -/
def treeLevel : List Nat → List Nat
  | a :: b :: t => addFp32 a b :: treeLevel t
  | l => l
/-- The fixed binary tree over a list, in as many levels as it has elements at most. -/
def treeSum : Nat → List Nat → Nat
  | 0, l => l.headD 0
  | n + 1, l => if l.length ≤ 1 then l.headD 0 else treeSum n (treeLevel l)
/-- The module's TREE sum of a block as FP32 codes (R257). -/
def treeBlock (st : Stream) (r : RedBlk) : List Nat :=
  (rangeFrom 0 32).map fun i =>
    let l := (rangeFrom 0 st.n).map (fun k =>
      let c := ((r.slots.find? (fun e => e.1 = k)).map (fun e => e.2.getD i 0)).getD 0
      if st.tfmt = 0 then (toFp32 (decode .bf16 c)).1 else c)
    treeSum st.n l
/-- What a member sends its peers for a block: INT64 sums, or the TREE result's codes. -/
def RedBlk.moduleSum (r : RedBlk) (st : Stream) : List (Option Int) :=
  if st.tree then (treeBlock st r).map (fun c => some (c : Int)) else r.sums
/-- Sends a block's module sum to the peers, with the poison of its contributions: whole, or for a GRID block sent before the difference
(R255, R261, R314). -/
def State.sendSum (s : State) (p i : Nat) (st : Stream) (r : RedBlk) : State :=
  let cur := r.moduleSum st
  let bad := decide (0 < r.poisoned)
  match r.sent with
  | some old => if st.tree then s.toPeers p (.moduleSum i r.block false cur) bad
    else s.toPeers p (.moduleSum i r.block true (subSums cur old)) bad
  | none => s.toPeers p (.moduleSum i r.block false cur) bad
/-- After a retraction in a TREE stream the home sums its whole tensor again, and a domain member sends every module result again (R262). -/
def State.resumTensor (s : State) (m p i : Nat) (st : Stream) (b : Nat) : State :=
  if !st.domain then s
  else ((s.site m).blocks.filter (fun r => decide (r.part = p) && decide (r.stream = i) && decide (r.block ≠ b) && r.sent.isSome)).foldl
    (fun s r => s.sendSum p i st r) s
/-- Closes a block when it is complete and proven; a domain block first sends its module sum where that or its poison has changed
(R254, R255, R261, R262). -/
def State.tryClose (s : State) (m p i : Nat) (st : Stream) (b : Nat) : State :=
  let r := s.redBlk m p i b
  if r.closed ∨ r.reopen ∨ r.count < st.n ∨ 0 < r.unproven then s
  else
    let peers := s.peersIf p st
    let cur := r.moduleSum st
    let bad := decide (0 < r.poisoned)
    let s := if st.domain && (decide (r.sent ≠ some cur) || decide (r.sentBad ≠ bad) || r.resum) then s.sendSum p i st r else s
    let s := if r.resum then s.resumTensor m p i st b else s
    let r := { r with sent := if st.domain then some cur else none, sentBad := bad, resum := false }
    let s := s.setRed m r
    if r.sumsIn peers then
      let s := (s.keepBlk m p st { r with closed := true }).bumpF F.ldgRedStat_closed m 1
      s.ackClosed m p i st b
    else s
/-- Asks a contributor's DMA engine for a block's raw values (R260). -/
def State.askRaw (s : State) (m p i b core : Nat) : State :=
  s.send (.resendRaw i b) p ((s.physOf p core).getD 0xFFFF) (siteNode m)
/-- A reopened block loses its sum and exponent, and every contributor is asked for its raw values; the event is raised for each reopen
of a block (R259, R260). -/
def State.reopenBlk (s : State) (m p i : Nat) (st : Stream) (b : Nat) : State :=
  let r := s.redBlk m p i b
  if r.reopen then s
  else
    let s := (s.bumpF F.ldgRedStat_reopens m 1).raise .reduceReopened (siteNode m) (some p) 0
    let was := if s.agreed p st r then some r.byte else none
    let s := s.keepBlk m p st { r with reopen := true, was := was, closed := false, e := 0, sums := [], vals := [], raws := [], rebuilt := [] }
    (s.contribs p st).foldl (fun s c => s.askRaw m p i b c.core) s
/-- The reopen of a block extends to this member: its sum goes out whole again, and the peers' sums on the old byte count no more (R261).
`byte` is the byte the domain now has. -/
def State.extendReopen (s : State) (m p i : Nat) (st : Stream) (b byte : Nat) : State :=
  let s := s.reopenBlk m p i st b
  s.setRed m { s.redBlk m p i b with was := some byte, sent := none, peerSum := [], peerBad := [] }
/-- CONTRIBUTION to GRID blocks (R252, R254, R258, R259). A producer whose raw values a rebuild holds adds nothing more. -/
def execContribution (m : SiteIx) (k : Pkt) (ok : Bool) (s : State) : Outcome State Fault Refusal :=
  .next (s.takeRed m k ok fun s k h st =>
    let bs := blocksIn st k h
    let s := bs.zipIdx.foldl (fun (s : State) (e : Nat × Nat) =>
      let r := s.redBlk m k.part h.stream e.1
      let r := { r with waitV := r.waitV ++ [k] }
      let done : Bool := h.prov.any (fun x => r.rebuilt.contains x.1)
      let back : Bool := h.prov.any (fun x => r.retracted.contains x.1)
      let left := r.retracted.filter (fun c => h.prov.all (fun x => decide (x.1 ≠ c)))
      if r.reopen ∨ done then s.setRed m { r with retracted := left }
      else if back && s.agreed k.part st r && decide (r.byte < h.ebytes.getD e.2 0) then
        (s.setRed m { r with retracted := left }).reopenBlk m k.part h.stream st e.1
      else
        let q := (rangeFrom 0 32).map (fun i => contribElem (elem (ofRows k.data) 32 (32 * e.2 + i)))
        s.keepBlk m k.part st { r with
          sums := if r.sums.isEmpty then q else addSums r.sums q, retracted := left
          vals := r.vals ++ [⟨h.prov, s.awaiting m k.part k.prov h.prov, k.poison⟩] }) s
    bs.foldl (fun s b => s.tryClose m k.part h.stream st b) (bs.foldl (fun s b => s.ackClosed m k.part h.stream st b) s))
/-- Slot of a producer: its place in the contributor list (R257). -/
def State.slotOf (s : State) (p : Nat) (st : Stream) (core : Nat) : Nat :=
  (s.contribs p st).findIdx (fun c => c.core = core)
/-- TREE_CONTRIBUTION (R257). -/
def execTreeContribution (m : SiteIx) (k : Pkt) (ok : Bool) (s : State) : Outcome State Fault Refusal :=
  .next (s.takeRed m k ok fun s k h st =>
    let bs := blocksIn st k h
    let w := if st.tfmt = 0 then 16 else 32
    let slot := s.slotOf k.part st ((h.prov.head?.map (·.1)).getD 0)
    let s := bs.zipIdx.foldl (fun (s : State) (e : Nat × Nat) =>
      let r := s.redBlk m k.part h.stream e.1
      let codes := (rangeFrom 0 32).map (fun i => elem (ofRows k.data) w (32 * e.2 + i))
      s.keepBlk m k.part st { r with
        waitV := r.waitV ++ [k], slots := r.slots.filter (fun x => x.1 ≠ slot) ++ [(slot, codes)]
        retracted := r.retracted.filter (fun c => h.prov.all (fun x => decide (x.1 ≠ c)))
        vals := r.vals ++ [⟨h.prov, s.awaiting m k.part k.prov h.prov, k.poison⟩] }) s
    bs.foldl (fun s b => s.tryClose m k.part h.stream st b) s)

/-! ### Retraction and rebuild (R258 to R262) -/

/-- Takes a producer out of the counted contributions, and with a poisoned retraction the poison of the packet it was in, which counted once
(R258). -/
def dropProducer (c : Nat) (poison : Bool) (l : List RedContrib) : List RedContrib :=
  l.filterMap fun v =>
    if v.prov.any (fun e => decide (e.1 = c)) then
      (if v.prov.length ≤ 1 then none
       else some { v with
         prov := v.prov.filter (fun e => e.1 ≠ c), unproven := v.unproven.filter (fun e => e.1 ≠ c), poison := v.poison && !poison })
    else some v
/-- RETRACTION (R258, R259, R262). One without data names the fenced core by the packet's producer field. Raw values that a pending rebuild holds
of the producer go too, and are asked for again (R260). -/
def execRetraction (m : SiteIx) (k : Pkt) (ok : Bool) (s : State) : Outcome State Fault Refusal :=
  .next (s.takeRed m k ok fun s k h st =>
    let core := (h.prov.head?.map (·.1)).getD k.prod.1
    let bs := blocksIn st k h
    let s := s.bumpF F.ldgRedStat_retractions m 1
    let s := bs.zipIdx.foldl (fun (s : State) (e : Nat × Nat) =>
      let r := s.redBlk m k.part h.stream e.1
      let had := r.vals.any (fun v => v.prov.any (fun x => decide (x.1 = core)))
      let q := (rangeFrom 0 32).map (fun i => contribElem (elem (ofRows k.data) 32 (32 * e.2 + i)))
      let old := if s.agreed k.part st r then r.byte else r.e
      let again := !st.tree && (h.prov.isEmpty || decide (h.ebytes.getD e.2 0 = old) || decide (old = 255))
      let r := { r with
        retracted := if r.retracted.contains core then r.retracted else r.retracted ++ [core]
        rebuilt := r.rebuilt.filter (fun c => c ≠ core), closed := false, raws := r.raws.filter (fun x => x.1 ≠ core), resum := r.resum || st.tree
        sums := if had && !h.prov.isEmpty && !st.tree then subSums r.sums q else r.sums
        slots := if st.tree then r.slots.filter (fun x => x.1 ≠ s.slotOf k.part st core) else r.slots
        vals := dropProducer core k.poison r.vals }
      let lacks := r.reopen && (s.redBlk m k.part h.stream e.1).raws.any (fun x => decide (x.1 = core))
      let s := s.keepBlk m k.part st r
      let s := if lacks then s.askRaw m k.part h.stream e.1 core else s
      if again then s.reopenBlk m k.part h.stream st e.1 else s) s
    s.injectAll (pktAnswers k .ack (siteNode m)))
/-- RAW_RESEND: with every contributor's raw values the home forms the byte, quantises and sums. Where the byte of a domain has changed, its
sum goes out whole and the peers' sums on the old byte count no more (R124, R125, R260, R261). -/
def execRawResend (m : SiteIx) (k : Pkt) (ok : Bool) (s : State) : Outcome State Fault Refusal :=
  .next (s.takeRed m k ok fun s k h st =>
    let r := s.redBlk m k.part h.stream h.b0
    let s := s.inject (pktAnswer k .ack (siteNode m))
    if !r.reopen then s
    else
      let f := (Fmt.ofCode st.rawFmt).getD .fp32
      let core := (h.prov.head?.map (·.1)).getD 0
      let codes := (rangeFrom 0 32).map (elem (ofRows k.data) f.width)
      let raws : List (Nat × List Nat × RedContrib) := r.raws.filter (fun e => e.1 ≠ core) ++ [(core, codes, ⟨h.prov, s.awaiting m k.part k.prov h.prov, k.poison⟩)]
      if raws.length < st.n then s.setRed m { r with raws := raws }
      else
        let vals (e : Nat × List Nat × RedContrib) : List Val := e.2.1.map (decode f)
        let own := raws.foldl (fun a e => max a (bexp (vals e))) 0
        let r1 := { r with e := own, raws := [], reopen := false, rebuilt := raws.map (fun (e : Nat × List Nat × RedContrib) => e.1) }
        let E := r1.byte
        let r1 := if st.domain && decide (r.was ≠ some E) then { r1 with sent := none, peerSum := [], peerBad := [] } else r1
        let q (e : Nat × List Nat × RedContrib) : List (Option Int) := (vals e).map (fun x => contribElem (qgrid E x).1)
        let sums := raws.foldl (fun a e => addSums a (q e)) (List.replicate 32 (some 0))
        let s := s.keepBlk m k.part st { r1 with sums := sums, vals := raws.map (fun (e : Nat × List Nat × RedContrib) => e.2.2) }
        let s := if st.domain then s.toPeers k.part (.expMax h.stream h.b0 [own]) r1.expPoison else s
        (s.giveBytes m k.part h.stream st h.b0).tryClose m k.part h.stream st h.b0)
/-- A core can send a block's raw values: its pass 1 of the block has been issued since its micro-step began, or began again in a replay, so
that the raw rows hold what the contribution is of (R260, R357). -/
def State.rawReady (s : State) (c i b : Nat) : Bool :=
  (s.core c).offered.any (fun x => decide (x.1 = i) && decide (x.2.1 ≤ b) && decide (b < x.2.1 + x.2.2))
/-- The raw resend packet of a block (R243, R250, R260). -/
def State.rawPkt (s : State) (p c i b : Nat) (st : Stream) (e : Contributor) (tag : Nat) : Pkt :=
  let f := (Fmt.ofCode st.rawFmt).getD .fp32
  let len := 4 * f.width
  let row := e.rawRow + b * cdiv len 64
  let ep := s.getF F.seqUstep_epoch c
  ({ kind := .reduction, src := c, dst := siteNode (streamHome st b), part := p, tag := tag
     gen := Tab.get (fun _ => 0) (s.core c).gens tag, resend := 0, tries := 0, remCtr := 0, seq := 0, total := 1
     prov := s.provisional c ep, poison := s.rowsPoison c row (cdiv len 64), bchk := false, ce := false, ece := false, addr := 0
     addr2 := 0, len := len, prod := (e.core, ep, (s.core c).stamp), red := some ⟨i, b, 0, 2, [(e.core, ep)], []⟩
     data := toRows (s.span c (64 * row) len) (cdiv len 64), crc := 0 } : Pkt).sealed
/-- RESEND_RAW: the contributor's DMA engine sends a block's raw values with a tag of its own, once it has them and a tag is free; cycles spent
waiting for a tag count (R64, R243, R260, R342). Reading the rows meets what `ask` says (R44, R46). -/
def execResendRaw (c : CoreIx) (ask : RawAsk) (s : State) : Outcome State Fault Refusal :=
  .next (if ask.msg.high then s.takeCtl ask.msg id else match ask.msg.msg with
    | .resendRaw i b =>
      let s := s.bumpF F.dmaTagStall_cycles c ask.issue.cycles
      let p := ask.msg.part
      (match s.stream p i, s.logicalOf p c with
      | some st, some n =>
        (match (s.contribs p st).find? (fun e => e.core = n), freeTag (s.core c).tags with
        | some e, some tag =>
          if !s.rawReady c i b then s
          else
            let s := (s.takeCtl ask.msg id).observeRows c ask.issue.obs
            let k := s.rawPkt p c i b st e tag
            (((s.modCore c (fun q => { q with tags := q.tags ++ [⟨tag, 65536, 0, 0, 1, k⟩] })).inject k).noteReceiver c k).showTags c
        | _, _ => s)
      | _, _ => s.takeCtl ask.msg id)
    | _ => s)

/-! ### Tokens at a home (R258) -/

/-- A home keeps a token and proves what it covers; a failing one leaves its contributions unproven (R258). -/
def State.homeToken (s : State) (m p core epoch : Nat) (pass : Bool) : State :=
  let s := s.modSite m (fun q => { q with
    tokens := if q.tokens.contains (p, core, epoch, pass) then q.tokens else q.tokens ++ [(p, core, epoch, pass)]
    provs := if pass then q.provs.filter (fun e => ¬ (e.2.1 = p ∧ e.2.2.1 = core ∧ e.2.2.2.1 = epoch)) else q.provs })
  if !pass then s
  else
    let touched := (s.site m).blocks.filter (fun r => decide (r.part = p)
      && (r.vals.any (fun v => v.unproven.contains (core, epoch)) || r.raws.any (fun e => e.2.2.unproven.contains (core, epoch))))
    touched.foldl (fun s r =>
      let clear (v : RedContrib) : RedContrib := { v with unproven := v.unproven.filter (fun e => e ≠ (core, epoch)) }
      let r := { r with vals := r.vals.map clear, raws := r.raws.map (fun e => (e.1, e.2.1, clear e.2.2)) }
      match s.stream p r.stream with
      | some st => (s.keepBlk m p st r).tryClose m p r.stream st r.block
      | none => s.setRed m r) s

/-! ### Domain frames (R255, R261, R274) -/

/-- The ledger die that is home to a block of a partition's stream. -/
def State.homeSite (s : State) (p i b : Nat) : Nat := ((s.stream p i).map (fun st => streamHome st b)).getD 0
/-- EXP_MAX: a peer's maximum joins the domain byte; one that changes an agreed byte reopens the block (R255, R261). -/
def execExpMax (f : KlFrame) (s : State) : Outcome State Fault Refusal :=
  .next (
    let s := s.takeFrame f
    match f.body, s.rankOf f.part f.src with
    | .expMax i b0 bytes, some rank =>
      (match s.stream f.part i with
      | none => s
      | some st =>
        (bytes.zipIdx.filter (fun e => b0 + e.2 < st.blocks)).foldl (fun s e =>
          let b := b0 + e.2
          let m := streamHome st b
          let r := s.redBlk m f.part i b
          let was := s.agreed f.part st r
          let r' := { r with peerMax := r.peerMax.filter (fun x => x.1 ≠ rank) ++ [(rank, e.1)], peerPoison := r.peerPoison || f.poison }
          let s := s.keepBlk m f.part st r'
          if was ∧ r'.byte ≠ r.byte ∧ ¬ st.tree then s.extendReopen m f.part i st b r'.byte else s.giveBytes m f.part i st b) s)
    | _, _ => s)
/-- MODULE_SUM: a peer's module sum, or the difference it asks to add, with its poison (R255, R261, R314). -/
def execModuleSum (f : KlFrame) (s : State) : Outcome State Fault Refusal :=
  .next (
    let s := s.takeFrame f
    match f.body, s.rankOf f.part f.src with
    | .moduleSum i b diff sums, some rank =>
      (match s.stream f.part i with
      | none => s
      | some st =>
        let m := streamHome st b
        let r := s.redBlk m f.part i b
        let old := ((r.peerSum.find? (fun e => e.1 = rank)).map (·.2)).getD (List.replicate 32 (some 0))
        let s := s.keepBlk m f.part st { r with
          peerSum := r.peerSum.filter (fun e => e.1 ≠ rank) ++ [(rank, if diff then addSums old sums else sums)]
          peerBad := r.peerBad.filter (fun e => e ≠ rank) ++ (if f.poison then [rank] else []) }
        s.tryClose m f.part i st b)
    | _, _ => s)

/-! ### The end of a run (R528) -/

/-- Acknowledges every packet that waits on some blocks, each once. -/
def State.ackWaiting (s : State) (m : Nat) (l : List RedBlk) : State :=
  let ks := l.foldl (fun a r => (r.waitE ++ r.waitV).foldl (fun a k => if a.contains k then a else a ++ [k]) a) []
  ks.foldl (fun s k => s.injectAll (pktAnswers k .ack (siteNode m))) s
/-- Every packet that waits at a home of the partition is acknowledged, and its open sums and states are discarded (R528). -/
def State.discardSums (s : State) (p : Nat) : State :=
  s.forAll (rangeFrom 0 40) fun s m =>
    let mine := (s.site m).blocks.filter (fun r => r.part = p)
    let s := s.ackWaiting m mine
    let s := mine.foldl (fun s r => match s.stream p r.stream with
      | some st => s.showBlk p st { RedBlk.init p r.stream r.block with sums := List.replicate 32 (some 0) }
      | none => s) s
    s.modSite m (fun q => { q with blocks := q.blocks.filter (fun r => r.part ≠ p), tokens := q.tokens.filter (fun t => t.1 ≠ p) })

end Sys2Proof.Machine
end

