-- ==== Sys2Proof/Machine/Update.lean ====
section
/-! DEFINITION. The update beside memory: group records, templates, microprograms, verdicts and commits (R263 to R275, R337, R529). -/
namespace Sys2Proof.Machine

/-! ### FP32 arithmetic of the ledger engines: every operation rounded RN (R265) -/

/-- A rounded FP32 value and the flags so far. -/
abbrev FV := Val × Flags
def fround (r : Val × Flags) : FV := let e := toFp32 r.1; (decode .fp32 e.1, e.2 ||| r.2)
/-- Applies a two-operand operation and keeps every flag. -/
def fop (f : Val → Val → Val × Flags) (a b : FV) : FV := let r := fround (f a.1 b.1); (r.1, r.2 ||| a.2 ||| b.2)
def fadd : FV → FV → FV := fop vadd
def fsub : FV → FV → FV := fop (fun a b => vadd a (vneg b))
def fmul : FV → FV → FV := fop vmul
def fdiv : FV → FV → FV := fop vdiv
def fsqrt (a : FV) : FV := let r := fround (vsqrt a.1); (r.1, r.2 ||| a.2)
def fone : FV := (.fin false 1 0, 0#5)
/-- β^t exactly, rounded once (R265). -/
def fpow (b : Val) (t : Nat) : FV :=
  match b with
  | .fin s m e => fround (.fin (s && decide (t % 2 = 1)) (m ^ t) (e * t), 0#5)
  | v => (v, 0#5)
/-- x × 2^k exactly. -/
def scaleBy (k : Int) : Val → Val
  | .fin s m e => .fin s m (e + k)
  | v => v

/-! ### The group record (R270, R271) -/
structure GroupRec where
  row0 : Nat
  row1 : Nat
namespace GroupRec
variable (r : GroupRec)
def f32 (i : Nat) : Val := decode .fp32 (elem r.row0 32 i)
def byte0 (i : Nat) : Nat := elem r.row0 8 i
def template : Nat := r.byte0 20 % 4
/-- The format codes of row 0 are ones R270 names; a record with a reserved code is malformed (R11). -/
def ok : Bool :=
  (decide (r.byte0 21 % 16 = 2) || decide (r.byte0 21 % 16 = 3)) && (decide (r.byte0 21 / 16 = 2) || decide (r.byte0 21 / 16 = 0xE))
def wFmt : Fmt := if r.byte0 21 % 16 = 3 then .fp16 else .bf16
def vUl8 : Bool := decide (r.byte0 21 / 16 = 0xE)
def vshift : Int := sext 8 (r.byte0 22)
def lsMin : Nat := r.byte0 23
def lsMax : Nat := r.byte0 24
def cleanLimit : Nat := elem (r.row0 >>> 200) 16 0
def micro : Nat := r.byte0 27
def t : Nat := elem r.row1 32 0
def L : Nat := elem r.row1 8 4
def clean : Nat := elem r.row1 16 3
end GroupRec
/-- Row 1 of a record as the ledger writes it. -/
def row1Of (t L outcome clean : Nat) : Nat := t % 2 ^ 32 + (L % 256) <<< 32 + outcome <<< 40 + (clean % 65536) <<< 48
def State.groupOf (s : State) (p g : Nat) : Option UpdGroup := (s.part p).cap.bind (fun c => c.groups.find? (fun u => u.num = g))
def State.recOf (s : State) (p g : Nat) : GroupRec :=
  match s.groupOf p g with
  | some u => let v := s.partRead p u.record 128; ⟨v % 2 ^ 512, v >>> 512⟩
  | none => ⟨0, 0⟩
/-- A ledger engine's read of a record: its block is verified (R217). -/
def State.readRec (s : State) (p g : Nat) : State :=
  match s.groupOf p g with
  | some u => s.verifyAll ((s.blocksOf p u.record 128).getD []) 0
  | none => s
/-- Streams of a group in the plan in force, with their numbers. -/
def State.groupStreams (s : State) (p g : Nat) : List (Nat × Stream) :=
  match s.plan p with
  | some pl => ((planStreams pl).zipIdx.filter (fun e => e.1.group = g)).map (fun e => (e.2, e.1))
  | none => []
/-- A ledger engine's write inside a block: unpoisoned, held cleared until `seal` finds the block formed whole (R216, R218, R237). -/
def State.engineWrite (s : State) (p a n v : Nat) : State := s.putDram p a n v false
/-- Gives each block that an engine formed whole its check and sets held (R216): those that lie in the range `[a, a+n)` with no byte of `out`, the
addresses it left as they were. -/
def State.seal (s : State) (p a n : Nat) (out : List Nat) : State :=
  ((rangeFrom (cdiv a 4096) ((a + n) / 4096 - cdiv a 4096)).filter (fun b => out.all (fun x => decide (x / 4096 ≠ b)))).foldl (fun s b =>
    match s.place p (b * 4096) with
    | some x => s.setMeta x.blk { s.blkMeta x.blk with crc := s.blkCrc x.blk, held := true }
    | none => s) s

/-! ### The verdict (R264, R272) -/

/-- Gradient of one element before and after its one rounding (R264). -/
def State.gradient (s : State) (p : Nat) (st : Stream) (r : RedBlk) (L i : Nat) : FV :=
  if st.tree then
    let own := s.ownRank p
    let l := ((own, treeBlock st r) :: r.peerSum.map (fun e => (e.1, e.2.map (fun x => (x.getD 0).toNat))))
    let byRank := sortBy (fun a b => decide (a.1 ≤ b.1)) l
    let x := treeSum l.length (byRank.map (fun e => e.2.getD i 0))
    fround (scaleBy ((127 : Int) - L) (decode .fp32 x), 0#5)
  else
    match r.total.getD i (some 0) with
    | none => (.nan, 0#5)
    | some v => fround (.fin (decide (v < 0)) v.natAbs ((r.byte : Int) - 146 - ((L : Int) - 127)), 0#5)
/-- DRAM ranges of a stream's weights, moments and factors under a template (R242, R265). -/
def paramRanges (st : Stream) (g : GroupRec) : List (Nat × Nat) :=
  let n := 32 * st.blocks
  let vb := if g.vUl8 then 1 else 2
  (st.weights, 2 * n) :: (st.mom1, 2 * n) ::
    (if g.template = 0 then [] else if g.template = 2 then [(st.mom2, 2 * st.rows), (st.colFac, 2 * (n / max 1 st.rows))]
     else [(st.mom2, vb * n)])
/-- The verdict over every block of a group: 1 finite, 2 non-finite, 3 member lost, 4 incomplete, which governs (R272, R274). A group whose
record is malformed is left as an incomplete one is. DESIGN CHOICE (log 102). -/
def State.verdict (s : State) (p g : Nat) : Nat :=
  let sts := s.groupStreams p g
  let rc := s.recOf p g
  let blk (e : Nat × Stream) (b : Nat) := s.redBlk (streamHome e.2 b) p e.1 b
  let all (f : Nat × Stream → RedBlk → Bool) : Bool := sts.all (fun e => (rangeFrom 0 e.2.blocks).all (fun b => f e (blk e b)))
  if (s.part p).memberLost && sts.any (fun e => e.2.domain) then 3
  else if !all (fun _ r => r.closed) || !rc.ok then 4
  else
    let ok := all (fun e r =>
      (e.2.tree || decide (r.byte ≠ 255)) && (e.2.tree || r.total.all (·.isSome)) && decide (r.poisoned = 0) && r.peerBad.isEmpty
        && (rangeFrom 0 32).all (fun i => (s.gradient p e.2 r rc.L i).1.isFin))
    let clean := sts.all (fun e => (paramRanges e.2 rc).all (fun x =>
      ((s.blocksOf p x.1 x.2).getD []).all (fun b => !(s.blkMeta b.1).poison)))
    if ok && clean then 1 else 2

/-! ### Templates and microprograms (R265 to R267) -/

/-- New values of one element; none where a value is not stored. -/
structure NewVals where
  w : Option Val
  m : Option Val
  v : Option Val
  fl : Flags
/-- c1 and c2 of a group, formed once a step (R265). -/
def bias (b : Val) (t : Nat) : FV := fdiv fone (fsub fone (fpow b t))
/-- Template 0. -/
def sgd (r : GroupRec) (g w m : FV) : NewVals :=
  let lr : FV := (r.f32 0, 0#5); let mu : FV := (r.f32 1, 0#5); let la : FV := (r.f32 4, 0#5)
  let g2 := fadd g (fmul la w)
  let m' := fadd (fmul mu m) g2
  let w' := fsub w (fmul lr m')
  ⟨some w'.1, some m'.1, none, w'.2⟩
/-- Moving average β·x + (1 − β)·y. -/
def ema (b : Val) (x y : FV) : FV := fadd (fmul (b, 0#5) x) (fmul (fsub fone (b, 0#5)) y)
/-- Weight of templates 1 and 2 from m' and v' (R265). -/
def adamWeight (r : GroupRec) (c1 c2 w m' v' : FV) : FV :=
  let u := fdiv (fmul m' c1) (fadd (fsqrt (fmul v' c2)) (r.f32 3, 0#5))
  fsub w (fmul (r.f32 0, 0#5) (fadd u (fmul (r.f32 4, 0#5) w)))
/-- Template 1. -/
def adamw (r : GroupRec) (c1 c2 g w m v : FV) : NewVals :=
  let m' := ema (r.f32 1) m g
  let v' := ema (r.f32 2) v (fmul g g)
  let w' := adamWeight r c1 c2 w m' v'
  ⟨some w'.1, some m'.1, some v'.1, w'.2 ||| m'.2 ||| v'.2⟩
/-- A microprogram's registers after one instruction, with its stores (R267). -/
def microStep (x : List Val × NewVals) (w : BitVec 32) : List Val × NewVals :=
  let op := bits w 26 6; let d := bits w 22 4
  let a := x.1.getD (bits w 18 4) .nan; let b := x.1.getD (bits w 14 4) .nan; let c := x.1.getD (bits w 10 4) .nan
  let put (r : FV) : List Val × NewVals := (x.1.set d r.1, { x.2 with fl := x.2.fl ||| r.2 })
  match op with
  | 0 => put (fround (vadd a b))
  | 1 => put (fround (vadd a (vneg b)))
  | 2 => put (fround (vmul a b))
  | 3 => put (fround (vfma a b c))
  | 4 => put (fround (vmax a b, 0#5))
  | 5 => put (fround (vmin a b, 0#5))
  | 6 => put (fround (vdiv a b))
  | 7 => put (fround (vsqrt a))
  | 8 => put (fround (vrsqrt a))
  | 9 => let r := Config.pow (BitVec.ofNat 32 (toFp32 a).1) (BitVec.ofNat 32 (toFp32 b).1); put (decode .fp32 r.1.toNat, r.2)
  | 10 => (x.1, { x.2 with w := some a })
  | 11 => (x.1, { x.2 with m := some a })
  | 12 => (x.1, { x.2 with v := some a })
  | _ => x
/-- Template 3: the group's microprogram over one element. -/
def runMicro (r : GroupRec) (prog : List (BitVec 32)) (g w m v : FV) : NewVals :=
  let z : Val := .fin false 0 0
  let regs := [g.1, w.1, m.1, v.1, r.f32 0, r.f32 1, r.f32 2, r.f32 3, r.f32 4, (fround (.fin false r.t 0, 0#5)).1] ++ List.replicate 6 z
  (prog.foldl microStep (regs, ⟨none, none, none, 0#5⟩)).2

/-- Stores one new value in a two-byte format with SR, the discarded bits counted from the FP32 value (R129, R266). -/
def State.storeSr (s : State) (p a : Nat) (f : Fmt) (t tensor idx : Nat) (v : Val) : State × Flags :=
  let e := encode f ⟨.sr, true, false⟩ (srGen (s.reg .partSrSeed p).toNat t (tensor % 2 ^ 32) idx) v.lsb v
  (s.engineWrite p a 2 e.1, e.2)
/-- Stores an optional new value. -/
def State.storeOpt (s : State × Flags) (v : Option Val) (f : State → Val → State × Flags) : State × Flags :=
  match v with
  | some x => let r := f s.1 x; (r.1, r.2 ||| s.2)
  | none => s
/-- Whether any byte of a range lies in a poisoned block (R529). -/
def State.poisonedAt (s : State) (p a n : Nat) : Bool := ((s.blocksOf p a n).getD []).any (fun b => (s.blkMeta b.1).poison)
/-- A mean of template 2, by the free value of R265, with the flags of its terms (log 15). -/
def meanOf (l : List FV) : FV :=
  let r := Config.mean (l.map (fun x => BitVec.ofNat 32 (toFp32 x.1).1))
  (decode .fp32 r.1.toNat, l.foldl (fun a x => a ||| x.2) r.2)
/-- Mean of g·g over a row or a column. -/
def meanSq (l : List FV) : FV := meanOf (l.map (fun g => fmul g g))
/-- Row and column factors of template 2 as the first sweep forms them: r' by row, c' by column, the mean of r' (R265). -/
def State.factors (s : State) (p : Nat) (st : Stream) (rc : GroupRec) (g : Nat → FV) : List FV × List FV × FV :=
  let cols := 32 * st.blocks / max 1 st.rows
  let old (a i : Nat) : FV := (decode .bf16 (s.partRead p (a + 2 * i) 2), 0#5)
  let r := (rangeFrom 0 st.rows).map (fun i => ema (rc.f32 2) (old st.mom2 i) (meanSq ((rangeFrom 0 cols).map (fun j => g (i * cols + j)))))
  let c := (rangeFrom 0 cols).map (fun j => ema (rc.f32 2) (old st.colFac j) (meanSq ((rangeFrom 0 st.rows).map (fun i => g (i * cols + j)))))
  (r, c, meanOf r)
/-- Addresses that an element's update reads and writes: weight, first moment, and second moment or its two factors. -/
def elemAddrs (st : Stream) (rc : GroupRec) (e : Nat) : List Nat :=
  let cols := 32 * st.blocks / max 1 st.rows
  [st.weights + 2 * e, st.mom1 + 2 * e] ++ (match rc.template with
    | 0 => []
    | 2 => [st.mom2 + 2 * (e / max 1 cols), st.colFac + 2 * (e % max 1 cols)]
    | _ => [st.mom2 + (if rc.vUl8 then 1 else 2) * e])
/-- The update of one stream of a finite group (R264 to R268, R529). An element with a weight, moment or factor in a poisoned block keeps them
all. The flags of a factor are set at the home of its first element (log 15). -/
def State.updateStream (s : State) (p : Nat) (g : UpdGroup) (rc : GroupRec) (i : Nat) (st : Stream) : State :=
  let _ := g
  let L := rc.L
  let grad (s : State) (e : Nat) : FV := s.gradient p st (s.redBlk (streamHome st (e / 32)) p i (e / 32)) L (e % 32)
  let c1 := bias (rc.f32 1) rc.t
  let c2 := bias (rc.f32 2) rc.t
  let prog := (((s.part p).cap.map (·.micro)).getD []).getD rc.micro []
  let cols := 32 * st.blocks / max 1 st.rows
  let kept := (rangeFrom 0 (32 * st.blocks)).filter (fun e => (elemAddrs st rc e).any (fun a => s.poisonedAt p a 1))
  let fac := if rc.template = 2 then s.factors p st rc (grad s) else ([], [], fone)
  let s := (rangeFrom 0 (32 * st.blocks)).foldl (fun s e =>
    let m := streamHome st (e / 32)
    if kept.contains e then s
    else
      let s := s.modSite m (fun q => { q with updated := q.updated + 1 })
      let gv := grad s e
      let w : FV := (decode rc.wFmt (s.partRead p (st.weights + 2 * e) 2), 0#5)
      let mo : FV := (decode .bf16 (s.partRead p (st.mom1 + 2 * e) 2), 0#5)
      let v : FV := if rc.vUl8 then fround (scaleBy (-rc.vshift) (decode .ul8 (s.partRead p (st.mom2 + e) 1)), 0#5)
        else (decode .bf16 (s.partRead p (st.mom2 + 2 * e) 2), 0#5)
      let nv := match rc.template with
        | 0 => sgd rc gv w mo
        | 1 => adamw rc c1 c2 gv w mo v
        | 2 =>
          let m' := ema (rc.f32 1) mo gv
          let v' := fdiv (fmul (fac.1.getD (e / max 1 cols) fone) (fac.2.1.getD (e % max 1 cols) fone)) fac.2.2
          let w' := adamWeight rc c1 c2 w m' v'
          ⟨some w'.1, some m'.1, none, w'.2 ||| m'.2⟩
        | _ => runMicro rc prog gv w mo v
      let r := State.storeOpt (s, nv.fl ||| gv.2) nv.w (fun s x => s.storeSr p (st.weights + 2 * e) rc.wFmt rc.t st.tensorId e x)
      let r := State.storeOpt r nv.m (fun s x => s.storeSr p (st.mom1 + 2 * e) .bf16 rc.t (st.tensorId + 1) e x)
      let r := State.storeOpt r nv.v (fun s x =>
        if rc.vUl8 then let c := encode .ul8 .plain 0 none (scaleBy rc.vshift x); (s.engineWrite p (st.mom2 + e) 1 c.1, c.2)
        else s.storeSr p (st.mom2 + 2 * e) .bf16 rc.t (st.tensorId + 2) e x)
      r.1.orUpdFlags m r.2) s
  let s := if rc.template = 2 then
      let put (s : State) (base : Nat) (l : List FV) (first : Nat → Nat) : State := l.zipIdx.foldl (fun s x =>
        if kept.any (fun e => (elemAddrs st rc e).contains (base + 2 * x.2)) then s
        else
          let r := s.storeSr p (base + 2 * x.2) .bf16 rc.t (st.tensorId + 2) x.2 x.1.1
          r.1.orUpdFlags (streamHome st (first x.2 / 32)) (r.2 ||| x.1.2)) s
      put (put s st.mom2 fac.1 (fun i => i * cols)) st.colFac fac.2.1 id
    else s
  let out := kept.flatMap (elemAddrs st rc)
  (paramRanges st rc).foldl (fun s x => s.seal p x.1 x.2 out) s

/-! ### Commit and skip (R273, R274) -/

/-- Sites that hold a block of a group. -/
def State.groupSites (s : State) (p g : Nat) : List Nat :=
  (s.groupStreams p g).foldl (fun a e => (rangeFrom 0 (min e.2.blocks (64 * e.2.homeCount))).foldl
    (fun a b => NSet.add (streamHome e.2 b) a) a) []
/-- Every block of a group returns to the open state, and the packets that still wait are acknowledged (R273, R274). -/
def State.openBlocks (s : State) (p g : Nat) : State :=
  let sts := s.groupStreams p g
  s.forAll (s.groupSites p g) fun s m =>
    let mine (r : RedBlk) : Bool := decide (r.part = p) && sts.any (fun e => decide (e.1 = r.stream))
    let s := s.ackWaiting m ((s.site m).blocks.filter mine)
    let s := ((s.site m).blocks.filter mine).foldl (fun s r => match s.stream p r.stream with
      | some st => s.showBlk p st { RedBlk.init p r.stream r.block with sums := List.replicate 32 (some 0) }
      | none => s) s
    s.modSite m (fun q => { q with blocks := q.blocks.filter (fun r => !mine r) })
/-- The action of a verdict: the update or a skip, row 1 of the record, PART.UPDATE, the tallies and the event (R273, R276). `row0` is the
record's row 0 as the verdict read it (R270). -/
def State.resolveGroup (s : State) (p g verdict row0 : Nat) : State :=
  match s.groupOf p g with
  | none => s
  | some u =>
    let s := s.readRec p g
    let rc : GroupRec := { s.recOf p g with row0 := row0 }
    let sites := s.groupSites p g
    let commit := decide (verdict = 1)
    let s := if commit then
        let sts := s.groupStreams p g
        let s := sts.foldl (fun s e => (paramRanges e.2 rc).foldl (fun s x => s.verifyAll ((s.blocksOf p x.1 x.2).getD []) 0) s) s
        sts.foldl (fun s e => s.updateStream p u rc e.1 e.2) s
      else s
    let clean := rc.clean + 1
    let full := decide (rc.cleanLimit ≤ clean)
    let n : Nat × Nat × Nat × Nat := match verdict with
      | 1 => (rc.t + 1, if full then min rc.lsMax (rc.L + 1) else rc.L, 1, if full then 0 else clean)
      | 2 => (rc.t, max rc.lsMin (rc.L - 1), 2, 0)
      | v => (rc.t, rc.L, v, rc.clean)
    let s := s.openBlocks p g
    let s := sites.foldl (fun s m =>
      let s := if commit then s.bumpF F.ldgUpdStat_commits m 1 else s.bumpF F.ldgUpdStat_skips m 1
      s.setF F.ldgUpdStat_kelements m (min (2 ^ 32 - 1) ((s.site m).updated / 1024))) s
    let s := s.engineWrite p (u.record + 64) 64 (row1Of n.1 n.2.1 n.2.2.1 n.2.2.2)
    let s := s.setReg .partUpdate p (BitVec.ofNat 64 (n.2.2.1 + g <<< 8 + n.2.1 <<< 20 + (n.1 % 2 ^ 32) <<< 32))
    match verdict with
    | 2 => (s.raise .nonfiniteSkip stewardNode (some p) 0).policy p 0 .nonfiniteSkip 0
    | 4 => s.raise .reduceIncomplete stewardNode (some p) 0
    | _ => s
/-- Every open group of a partition ends as incomplete (R273, R346, R360, R361, R391). -/
def State.endIncomplete (s : State) (p : Nat) : State :=
  let gs := (((s.part p).cap.map (·.groups)).getD []).map (·.num)
  let isOpen (s : State) (g : Nat) : Bool :=
    (s.groupStreams p g).any (fun e => s.sites.any (fun x => x.2.blocks.any (fun r => decide (r.part = p) && decide (r.stream = e.1))))
  gs.foldl (fun s g => if isOpen s g then s.resolveGroup p g 4 (s.recOf p g).row0 else s) (s.modPart p (fun q => { q with resolving := [] }))
/-- A second datapath mismatch retires one engine of a site; the element moves to another, or to the nearest site clockwise
that has one, with the same bits (R337). -/
def State.retireEngine (s : State) (m : Nat) : State :=
  let e := (s.site m).engines
  match (rangeFrom 0 8).find? (fun i => e.testBit i) with
  | none => s
  | some i => (s.modSite m (fun q => { q with engines := q.engines - 2 ^ i })).raise .ledgerEngineFault (siteNode m) none 0

end Sys2Proof.Machine
end

