-- ==== Sys2Proof/Machine/Barrier.lean ====
section
/-! DEFINITION. The barrier root: arrivals, everything that withholds a release, the release, step boundaries and plans, proof
tokens, and what a core does at its release (R93 to R101, R272 to R275, R306, R324 to R330, R341 to R344, R352, R389, R392, R393). -/
namespace Sys2Proof.Machine
open Host

/-! ### Plans (R324 to R330) -/

/-- Program of a logical core in the plan in force. -/
def State.program (s : State) (p n : Nat) : Option Program := (s.plan p).bind (fun pl => pl.programs.find? (fun g => g.core = n))
/-- Steps of the run: START's count, else that of the outer REPEAT (R324, R388). -/
def State.runSteps (s : State) (p : Nat) : Nat :=
  if (s.part p).stepLimit ≠ 0 then (s.part p).stepLimit
  else match (s.plan p).bind (fun pl => pl.programs.head?) with
    | some g => bits (g.words.headD 0) 40 16
    | none => 0
/-- Class that a tolerance entry gives a ring entry: 15 where the core does not use that ring die (R326). -/
def tolerated (e : BitVec 192) (t : Nat) : Nat := bits e (4 * t) 4
/-- Whether the placement fits the normal plan: every active core's class to each ring die it uses is within its tolerance (R326, R327). -/
def State.fits (s : State) (p : Nat) : Bool :=
  match (s.part p).cap with
  | none => false
  | some cp => cp.normal.isSome && (s.activeOf p).all (fun n =>
    match cp.tolerance[n]?, s.physOf p n with
    | some e, some c => (rangeFrom 0 48).all (fun t => decide (tolerated e t = 15) || decide (s.ringClass c t ≤ tolerated e t))
    | _, _ => false)
/-- The choice of R328: its reason, and with reason 5 the refusal's side effects. The count loaded for a recovery takes in the step
that begins. DEDUCED (log 16). Uniform but for reason 4. -/
def State.choosePlan (s : State) (p : Nat) : State × Nat :=
  let q := s.part p
  let gens := (s.getF F.partAliasGen_generation p, s.getF F.modFpGen_count 0)
  let seen : Bool := match q.fitSeen with
    | some (a, b, _) => decide ((a, b) = gens)
    | none => false
  let was : Bool := match q.fitSeen with
    | some (_, _, f) => f
    | none => false
  let fit := if seen then was else s.fits p
  let s := s.modPart p (fun q => { q with fitSeen := some (gens.1, gens.2, fit), switched := false, fitTold := q.fitTold && seen })
  let count := if q.warmup ≠ 0 then q.warmup else q.recCount
  let r : State × Nat :=
    if s.flagF F.partPlan_force_uniform p then (s, 1)
    else if q.switched || (was && !fit) then
      (s.modPart p (fun q => { q with recCount := ((q.cap.map (·.recovery)).getD 1) - 1, warmup := 0 }), 2)
    else if count ≠ 0 then
      (s.modPart p (fun q => if q.warmup ≠ 0 then { q with warmup := q.warmup - 1 } else { q with recCount := q.recCount - 1 }), 3)
    else if fit then (s, 4)
    else
      let s := s.setB F.partPlan_refused p true
      (if (s.part p).fitTold then s
       else (s.modPart p (fun q => { q with fitTold := true })).raise .planNormalRefused stewardNode (some p) 0, 5)
  let left := (r.1.part p).warmup + (r.1.part p).recCount
  ((r.1.setF F.partPlan_reason p r.2).setF F.partPlan_count p (min 255 left), r.2)
/-- Loads a plan whose first micro-step is `n`: live periods and offsets (R329). -/
def State.loadPlan (s : State) (p n : Nat) (uniform : Bool) : State :=
  let s := s.setB F.partPlan_active p uniform
  match s.plan p with
  | some pl => s.modPart p (fun q => { q with periods := pl.periods.map (fun e => (e.1, e.2.1, (n + e.2.2) % max 1 e.2.1)) })
  | none => s
/-- A step boundary whose next micro-step is `n`: the choice, and a change of plan with its event (R328, R329). -/
def State.boundary (s : State) (p n : Nat) : State :=
  let r := s.choosePlan p
  let uniform := decide (r.2 ≠ 4)
  let s := r.1
  if uniform = s.flagF F.partPlan_active p then s
  else
    let s := (s.loadPlan p n uniform).modPart p (fun q => { q with planMove := true })
    (s.bumpF F.partPlanStat_switches p 1).raise .planSwitched stewardNode (some p) n
/-- The boundary state of a plan's step body with `left` executions remaining (R324, R329). -/
def stepBody (g : Program) (left : Nat) (b : Boundary) : Boundary :=
  let stop := g.addr + 8 + 8 * bits (g.words.headD 0) 24 16
  { b with pc := g.addr + 8, loops := [⟨g.addr + 8, stop, left⟩], tensorId := 0, inScale := 0, convA := 0, convB := 0, threshold := 0x6666 }

/-- Home table of a partition's cores: the plan's private streams, and the entry in the map header of each joined group (R225,
R226, R396). -/
def State.homeTable (s : State) (p : Nat) : Tab Nat :=
  let own := ((s.plan p).map (·.homes)).getD []
  let grp := (s.part p).joined.filterMap (fun g => (s.streamMap p (192 + g)).map (fun e => (192 + g, s.partRead e.1 (e.2 + 8) 2)))
  (own ++ grp).foldl (fun t e => Tab.put (fun _ => 0) (e.1 % 256) (e.2 % 65536) t) []
/-- Gives every core of a partition its home table. -/
def State.loadHomes (s : State) (p : Nat) : State :=
  let t := s.homeTable p
  (s.coresOf p).foldl (fun (s : State) c => s.modCore c (fun q => { q with homes := t })) s

/-! ### Boundary state (R95) -/

/-- The present boundary state of a core. -/
def State.boundaryOf (s : State) (c : Nat) : Boundary :=
  { pc := s.getF F.seqPc_addr c, loops := (s.core c).loops, number := s.getF F.seqUstep_number c, epoch := s.getF F.seqUstep_epoch c
    tensorId := (s.reg .seqTensorId c).toNat, inScale := (s.reg .arrInScale c).toNat, convA := (s.reg .arrConvA c).toNat
    convB := (s.reg .arrConvB c).toNat, threshold := (s.reg .speThreshold c).toNat }
/-- Zeroes the 64 completion counters (R81). -/
def State.zeroCounts (s : State) (c : Nat) : State :=
  (rangeFrom 0 64).foldl (fun s n => s.setF F.seqCount_value (c * 64 + n) 0) s
/-- Puts a core at a boundary state. -/
def State.restoreBoundary (s : State) (c : Nat) (b : Boundary) : State :=
  let s := s.modCore c (fun q => { q with loops := b.loops, bound := b, held := none })
  let s := ((s.setF F.seqPc_addr c b.pc).setF F.seqUstep_number c b.number).setF F.seqUstep_epoch c b.epoch
  let put (s : State) (r : Reg) (v : Nat) : State := s.setReg r c (BitVec.ofNat 64 v)
  put (put (put (put (put s .seqTensorId b.tensorId) .arrInScale b.inScale) .arrConvA b.convA) .arrConvB b.convB) .speThreshold b.threshold
/-- Clears what a core holds of one micro-step: counters, tile, dependency table, logs (R81, R95, R153, R341, R353, R363). -/
def State.freshMicroStep (s : State) (c : Nat) : State :=
  let s := (s.zeroCounts c).setB F.arrStatus_tile_valid c false
  let s := ((s.setF F.intEpoch_deps c 0).setB F.intEpoch_dep_all c false).setB F.intEpoch_range c false
  s.modCore c (fun q => { q with
    tile := none, mark := none, atBar := none, deps := [], got := [], proven := [], sentLog := [], kept := [], retracted := [], offered := []
    inbound := [], epochEnd := [], boundSeq := q.nextSeq, suppress := none, overrun := false, releasedAt := s.now, epochFail := none })
/-- The next micro-step opens a step under another plan (R329). -/
def State.planStarts (s : State) (p n : Nat) : Bool := (s.part p).planMove && decide (n = (s.part p).stepStart)
/-- The boundary state of a core that waits at its STEP barrier, as its release will record it: the instruction after the barrier, the next
micro-step, and at a change of plan the new plan's body (R95, R329). SEQ.USTEP.number wraps (log 96). -/
def State.nextBoundary (s : State) (p c : Nat) : Boundary :=
  let r := closeLoops (s.getF F.seqPc_addr c + 8) (s.core c).loops
  let n := (s.getF F.seqUstep_number c + 1) % 2 ^ 32
  let b := { s.boundaryOf c with pc := r.1 % 2 ^ F.seqPc_addr.len, loops := r.2, number := n }
  match (s.logicalOf p c).bind (s.program p), s.planStarts p n with
  | some g, true => stepBody g ((r.2.getLast?.map (fun (l : Loop) => l.left)).getD 1) b
  | _, _ => b
/-- MIRROR_COMMIT: the pending half becomes the committed one, and the boundary state that the buddy records in the same release fills its last
four rows (R352). -/
def State.mirrorCommit (s : State) (p c : Nat) : State :=
  if !(s.core c).mirrored then s
  else
    let half := 1 - s.getF F.intMirror_committed_half c
    let s := s.modCore c (fun q => { q with mirrored := false })
    let s := ((s.setF F.intMirror_committed_half c half).setB F.intMirror_valid c true).setB F.intMirror_pending c false
    let n := s.getF F.partMirrorCfg_rows p / 2
    let k := (s.buddyOf p c).getD c
    let b := if s.getF F.seqUstep_number k = s.getF F.seqUstep_number c then (s.core k).bound else s.nextBoundary p k
    let v := Config.boundaryImage ([b.pc, b.number, b.epoch, b.tensorId, b.inScale, b.convA, b.convB, b.threshold]
      ++ b.loops.flatMap (fun l => [l.start, l.stop, l.left]))
    s.putRows c (s.mirrorRow p half + n - 4) (toRows v.toNat 4) false

/-! ### Commit barriers (R269, R272 to R275) -/

/-- Micro-step being closed: that of the lowest active core. -/
def State.microStep (s : State) (p : Nat) : Nat :=
  match (s.activeOf p).head?.bind (s.physOf p) with
  | some c => s.getF F.seqUstep_number c
  | none => 0
/-- Groups whose commit barrier closes micro-step `n` (R269). -/
def State.dueGroups (s : State) (p n : Nat) : List Nat :=
  ((s.part p).periods.filter (fun e => decide (n % max 1 e.2.1 = e.2.2 % max 1 e.2.1))).map (·.1)
def State.domainGroup (s : State) (p g : Nat) : Bool := (s.groupStreams p g).any (fun e => e.2.domain)
/-- The homes form their parts of a group's verdict and the root combines them; a member of a domain that holds its sums and
verdict tells the others (R272, R275). -/
def State.formVerdict (s : State) (p g : Nat) : State :=
  if (s.part p).resolving.any (fun e => decide (e.1 = g)) then s
  else
    let s := s.readRec p g
    let v := s.verdict p g
    let s := s.modPart p (fun q => { q with resolving := q.resolving ++ [(g, v, (s.recOf p g).row0)] })
    if s.domainGroup p g && decide (v ≤ 2) then s.toPeers p (.prepared g) false else s
/-- A finite domain group commits only once every other member is prepared (R275). -/
def State.mayResolve (s : State) (p g v : Nat) : Bool :=
  decide (v ≠ 1) || !s.domainGroup p g
    || (s.peersOf p).all (fun e => (s.part p).prepared.any (fun x => decide (x = (g, e.2))))

/-! ### The release -/

/-- Logical cores whose epochs of this micro-step have all passed, as the root has heard (R343). -/
def State.passed (s : State) (p n c : Nat) : Bool :=
  let b := (s.core c).bound.epoch
  let e := s.getF F.seqUstep_epoch c
  (rangeFrom 0 ((e + 65536 - b) % 65536)).all (fun i => (s.part p).tokens.contains (n, (b + i) % 65536, true))
/-- Takes a READ_OUT's data and completes the order; poisoned blocks are delivered as stored and counted (R393). -/
def State.takeReadOut (s : State) (o : OrderSt) : State :=
  let a := ordNat o.words 16 8
  let n := ordNat o.words 32 4
  let s := s.emit (.hostData (pathIx o.path) (ordNat o.words 24 8) n (s.partRead o.part a n))
  let bad := (((s.blocksOf o.part a n).getD []).filter (fun b => (s.blkMeta b.1).poison)).length
  s.finish o (if bad = 0 then ccOk else ccFaulted) bad 0
/-- PAUSE_TAKES_EFFECT: the partition enters PAUSED and every PAUSE that the root holds completes; the newest hold time stands
(R389). A cap pause has no order. -/
def State.enterPause (s : State) (p : Nat) : State :=
  match (s.part p).pausePend.getLast? with
  | none => s
  | some (_, hold) =>
    let n := s.microStep p
    let done := (s.part p).pausePend.filterMap (·.1)
    let s := s.modPart p (fun q => { q with pausePend := [], paused := some hold, pausedAt := s.now
                                            pausedWatts := s.getF F.partPower_watts p })
    let s := (s.setPState p psPaused).setB F.partState_pause_pending p (!(s.part p).pauseAsked.isEmpty)
    done.foldl (fun s o => s.finish o ccOk 0 n) s
/-- Required buffers with no completed FEED for a step (R392). -/
def State.feedsMissing (s : State) (p step : Nat) : Bool :=
  (((s.part p).cap.map (·.inputs)).getD []).any (fun b => b.required && !(s.part p).fed.contains (b.num, step))
/-- Tokens credited at a step boundary whose plan group committed, and the efficiency figures (R480). -/
def State.creditTokens (s : State) (p g : Nat) : State :=
  let t := (s.part p).tokensLive
  let s := if bits (BitVec.ofNat 512 (s.recOf p g).row1) 40 8 = 1 then
      (s.bumpF F.partTokens_value p t).bumpF F.pwrTokens_value 0 t
    else s
  s.modPart p (fun q => { q with tokensLive := s.getF F.partTokensStep_tokens p })
/-- Everything that still withholds a STEP release whose arrivals are all in, but for a commit, PAUSE, FEED or snapshot. -/
def State.heldBack (s : State) (p : Nat) : Bool :=
  let q := s.part p
  (match q.recov with
    | some r => decide (r.stage < 3)
    | none => false)
  || q.stopHold || q.faultHold || q.cancelled || q.paused.isSome || !q.foreign.isEmpty
  || (s.activeOf p).any (fun n => match s.physOf p n with
    | some c => !s.passed p n c
    | none => false)
/-- A CHECKPOINT waits for its snapshot at this barrier (R236, R394). -/
def State.snapshotDue (s : State) (p : Nat) : Bool :=
  (s.part p).markNow.isSome && (match (s.part p).copy with
    | some c => !c.taken
    | none => false)
/-- STEP_RELEASE: the release is broadcast; what the root and the stewards do with it (R95, R328, R359, R465, R480). The last step's boundary is
one too: its choice is made and counted, and with no step after it no plan is loaded. DEDUCED (log 16). -/
def State.release (s : State) (p : Nat) : State :=
  let q := s.part p
  let n := s.microStep p
  let cs := (s.activeOf p).filterMap (s.physOf p)
  let g := (q.cap.map (·.planGroup)).getD 0
  let isStep := (s.dueGroups p n).contains g
  let s := s.modPart p (fun q => { q with
    arrivals := none, tokens := [], resolved := [], resolving := [], feedWait := false, planMove := false
    markNow := none, recMicro := 0, seqFault := none, moves := [], recov := none, faults := s.openFaults p })
  let s := s.forAll (rangeFrom 0 40) fun s m =>
    s.modSite m (fun x => { x with tokens := x.tokens.filter (fun t => t.1 ≠ p), provs := x.provs.filter (fun e => e.2.1 ≠ p) })
  let s := if q.replaying then
      ((s.modPart p (fun q => { q with replaying := false })).bumpF F.partRecovery_replays p 1).raise .microstepReplayed stewardNode (some p) 0
    else s
  let s := (q.returned.foldl (fun s c => s.raise .coreReturned stewardNode (some p) c) s).modPart p (fun q => { q with returned := [] })
  let s := if !isStep then s
    else
      let s := s.bumpF F.partRun_steps p 1
      let s := if s.flagF F.partPlan_active p then s.bumpF F.partPlanStat_uniform_steps p 1 else s.bumpF F.partPlanStat_normal_steps p 1
      let s := s.creditTokens p g
      let s := s.modPart p (fun q => { q with stepNo := q.stepNo + 1, stepStart := n + 1, recStep := 0, failedStep := [] })
      if q.stepNo + 1 < s.runSteps p then s.boundary p (n + 1) else (s.choosePlan p).1
  let s := s.pointsAtRelease p q.moves
  let s := (s.running p opReadOut).foldl (fun s o => s.takeReadOut o) s
  cs.foldl (fun s c => s.send (.barRelease (n % 65536) true 0) p c stewardNode) s
/-- The root's decision once every active core has arrived, tried again whenever something that withheld the release is
gone (R94 to R97, R272, R273, R306, R343, R361, R389, R392). -/
def State.tryRelease (s : State) (p : Nat) : State :=
  match (s.part p).arrivals with
  | none => s
  | some a =>
    if a.count < (s.activeOf p).length ∨ a.differ ∨ s.heldBack p then s
    else
      let n := s.microStep p
      let due := (s.dueGroups p n).filter (fun g => !(s.part p).resolved.contains g)
      if !due.isEmpty then s.forAll due (fun s g => s.formVerdict p g)
      else if !(s.part p).pausePend.isEmpty then s.enterPause p
      else
        let g := ((s.part p).cap.map (·.planGroup)).getD 0
        let next := (s.part p).stepNo + 1
        if (s.dueGroups p n).contains g && decide (next < s.runSteps p) && s.feedsMissing p next then
          (if (s.part p).feedWait then s
           else (s.bumpF F.partRun_feed_waits p 1).modPart p (fun q => { q with feedWait := true }))
        else if s.snapshotDue p then s
        else s.release p
/-- The last arrival is counted: differing tags or marks refuse the release (R96, R306). -/
def State.allArrived (s : State) (p : Nat) : State :=
  match (s.part p).arrivals with
  | none => s
  | some a =>
    if a.count < (s.activeOf p).length then s
    else if a.differ then (s.raise .barrierMismatch stewardNode (some p) 0).policy p 0 .barrierMismatch 0
    else (s.modPart p (fun q => { q with markNow := a.mark })).tryRelease p
/-- One arrival message joins a count: arrivals summed, tags and marks compared (R90, R96, R306). -/
def addArrival (o : Option Arrivals) (tag merged : Nat) (differ : Bool) (mark : Option Nat) : Arrivals :=
  match o with
  | none => ⟨merged, tag, mark, differ⟩
  | some a => { a with count := a.count + merged, differ := a.differ || differ || decide (a.tag ≠ tag) || decide (a.mark ≠ mark) }
/-- Members of a barrier group in the plan in force; a group the capsule does not list has every active core (log 17). -/
def State.barMembers (s : State) (p g : Nat) : List Nat :=
  match (s.plan p).bind (fun pl => pl.barGroups.find? (fun e => e.1 = g)) with
  | some e => e.2
  | none => s.activeOf p
/-- Whether two of the messages pass a node on their way, so that they may merge there (R301, R306). -/
def State.mayMerge (s : State) (msgs : List Ctl) (c : Nat) : Bool :=
  decide (2 ≤ (msgs.filter (fun m => (s.ctlRoute m.src m.dst).contains c)).length)
/-- BAR_ARRIVE: arrivals of the partition that merged into one message on the way, at the given nodes, reach the root with the governor's
choice for the release (R93, R306, R465). -/
def execBarArrive (p : PartIx) (msgs : List Ctl) (nodes : List CoreIx) (moves : List (CoreIx × Bool)) (s : State) :
    Outcome State Fault Refusal :=
  .next (
    let s := (nodes.filter (fun (c : CoreIx) => s.mayMerge msgs c.val)).foldl (fun (s : State) (c : CoreIx) => s.bumpF F.rtrCnStat_merged c 1) s
    let s := s.modPart p (fun q => { q with moves := if moves.isEmpty then q.moves else moves.map (fun m => (m.1.val, m.2)) })
    (msgs.filter (fun m => decide (m.part = p.val))).foldl (fun (s : State) (m : Ctl) => s.takeCtl m fun s =>
      match m.msg with
      | .barArrive tag merged differ true _ mark =>
        (s.modPart p (fun q => { q with arrivals := some (addArrival q.arrivals tag merged differ mark) })).allArrived p
      | .barArrive tag merged differ false g mark =>
        let old := ((s.part p).groupArr.find? (fun e => e.1 = g)).map (·.2)
        let a := addArrival old tag merged differ mark
        let rest := (s.part p).groupArr.filter (fun e => e.1 ≠ g)
        let who := s.barMembers p g
        if a.count < who.length then s.modPart p (fun q => { q with groupArr := rest ++ [(g, a)] })
        else
          let s := s.modPart p (fun q => { q with groupArr := rest })
          (who.filterMap (s.physOf p)).foldl (fun s c => s.send (.barRelease 0 false g) p c stewardNode) s
      | _ => s) s)

/-- BAR_RELEASE at a core; one of another partition is ignored (R93, R95, R153, R306, R329, R341, R352, R353, R469). SEQ.USTEP.number wraps
(log 96). -/
def execBarRelease (c : CoreIx) (m : Ctl) (s : State) : Outcome State Fault Refusal :=
  .next (s.takeCtl m fun s =>
    if s.ownerOf c ≠ some m.part then s else
    match m.msg with
    | .barRelease _ false _ =>
      ((s.modCore c (fun q => { q with atBar := none })).setF F.seqStatus_state c stRunning).advance c 1
    | .barRelease _ true _ =>
      let p := m.part
      let b := s.nextBoundary p c
      let homes := if s.planStarts p b.number then s.homeTable p else (s.core c).homes
      let s := (s.freshMicroStep c).restoreBoundary c b
      let b := s.boundaryOf c
      let s := s.modCore c (fun q => { q with
        afterStep := true, homes := homes, bound := b, stepBound := if b.number = (s.part p).stepStart then b else q.stepBound })
      ((s.mirrorCommit p c).setF F.seqStatus_state c stRunning).setPower c vRun
    | _ => s)

/-- GROUP_RESOLVED: a group whose verdict is formed commits or skips, engines that mismatch twice on the way retire, and the
release is tried again (R273, R275, R337). -/
def execGroupResolved (p : PartIx) (g : BitVec 12) (retired : List SiteIx) (s : State) : Outcome State Fault Refusal :=
  .next (
    match (s.part p).resolving.find? (fun e => e.1 = g.toNat) with
    | none => s
    | some (_, v, row0) =>
      if !s.mayResolve p g.toNat v then s
      else
        let s := retired.foldl (fun (s : State) (m : SiteIx) => s.retireEngine m) s
        let s := (s.resolveGroup p g.toNat v row0).modPart p (fun q => { q with
          prepared := q.prepared.filter (fun e => e.1 ≠ g.toNat)
          resolving := q.resolving.filter (fun e => e.1 ≠ g.toNat), resolved := q.resolved ++ [g.toNat] })
        s.tryRelease p)
/-- PREPARED: a member holds the same sums and verdict (R275). -/
def execPrepared (f : KlFrame) (s : State) : Outcome State Fault Refusal :=
  .next (
    let s := s.takeFrame f
    match f.body with
    | .prepared g => s.modPart f.part (fun q => { q with
        prepared := if q.prepared.contains (g, f.src) then q.prepared else q.prepared ++ [(g, f.src)] })
    | _ => s)

/-! ### Tokens (R258, R305, R342 to R344) -/

/-- An edge port die passes a token on to the module its activations went to (R344). -/
def State.forwardToken (s : State) (p edge core epoch : Nat) (pass retract : Bool) : State :=
  let peers := s.conns.filter (fun c => decide (c.status = 1) && decide (s.subOwner c.sub = p) && decide (c.sub / 32 = edge))
  peers.foldl (fun s c => s.sendOn c ⟨1, false, false, false, c.peer, s.moduleId, p, 0, 0, .token core epoch pass retract⟩) s
/-- PROOF_TOKEN reaches the root, a home, an edge port die, or a consuming core, whose data of the epoch is provisional no more (R258, R339,
R342 to R344). -/
def execProofToken (m : Ctl) (s : State) : Outcome State Fault Refusal :=
  .next (s.takeCtl m fun s =>
    match m.msg with
    | .proofToken core e pass =>
      if m.dst = stewardNode then
        (s.modPart m.part (fun q => { q with
          tokens := if q.tokens.contains (core, e, pass) then q.tokens else q.tokens ++ [(core, e, pass)] })).tryRelease m.part
      else if 0x1000 ≤ m.dst ∧ m.dst < 0x1028 then s.homeToken (m.dst - 0x1000) m.part core e pass
      else if 0x1040 ≤ m.dst ∧ m.dst < 0x1048 then s.forwardToken m.part (m.dst - 0x1040) core e pass false
      else if m.dst < 4096 ∧ pass ∧ s.ownerOf m.dst = some m.part then
        s.modCore m.dst (fun q => { q with proven := if q.proven.contains (core, e) then q.proven else q.proven ++ [(core, e)] })
      else s
    | _ => s)
/-- RETRACT_TOKEN announces retractions: a home keeps the producer's contributions of that epoch unproven (R258, R305). -/
def execRetractToken (m : Ctl) (s : State) : Outcome State Fault Refusal :=
  .next (s.takeCtl m fun s =>
    match m.msg with
    | .retractToken core e _ =>
      if 0x1000 ≤ m.dst ∧ m.dst < 0x1028 then s.homeToken (m.dst - 0x1000) m.part core e false
      else if 0x1040 ≤ m.dst ∧ m.dst < 0x1048 then s.forwardToken m.part (m.dst - 0x1040) core e false true
      else s
    | _ => s)
/-- HOLD reaches the root: a recovery hold stands with the recovery, a PAUSE's with the pause it asks for; a STOP's ends the open groups
where its class does, and no packet waits on them any more (R97, R346, R354, R389, R528; log 81). -/
def execHold (p : PartIx) (m : Ctl) (s : State) : Outcome State Fault Refusal :=
  .next (s.takeCtl m fun s =>
    match m.msg with
    | .hold 0 => (s.modPart p (fun q => { q with pausePend := q.pausePend ++ q.pauseAsked, pauseAsked := [] })).tryRelease p
    | .hold 3 => ((s.endIncomplete p).discardSums p).modPart p (fun q => { q with groupsEnded := true })
    | _ => s)
/-- ALIAS_UPDATE at a core, between two injections (R104, R105). With the last one the update has reached every core. -/
def execAliasUpdate (c : CoreIx) (m : Ctl) (s : State) : Outcome State Fault Refusal :=
  .next (s.takeCtl m fun s =>
    match m.msg with
    | .aliasUpdate e new _ =>
      let s := s.modCore c (fun q => { q with xlat := Tab.put (fun _ => 0) e new q.xlat })
      let left := s.ctl.any (fun k => decide (k.part = m.part) && (match k.msg with
        | .aliasUpdate _ _ _ => true
        | _ => false))
      if left then s else s.setB F.partAliasGen_busy m.part false
    | _ => s)

/-! ### END (R101, R382, R388, R528) -/

/-- A run is over: the partition is LOADED and its cores go to HOLD, but standbys to IDLE; START completes, waiting READ_OUTs take their data, and what
still waits at a home is given up where no commit barrier ended the run (R101, R388, R393, R469, R528). -/
def State.endRun (s : State) (p code : Nat) (discard : Bool) : State :=
  let s := if discard then s.discardSums p else s
  let s := (s.running p opReadOut).foldl (fun s o => s.takeReadOut o) s
  let steps := s.getF F.partRun_steps p
  let s := (s.running p opStart).foldl (fun s o => s.finish o code 0 steps) s
  let s := (((s.part p).pausePend ++ (s.part p).pauseAsked).filterMap (·.1)).foldl (fun s o => s.finish o ccCancelled 0 0) s
  let s := s.modPart p (fun q => { q with
    arrivals := none, groupArr := [], pausePend := [], pauseAsked := [], paused := none, stopHold := false, groupsEnded := false, cancelled := false
    recov := none, faults := s.openFaults p, moved := [], tokens := [], foreign := [], resolving := [], resolved := [], prepared := [], fed := [], memberLost := false, replaying := false
    beginWait := false })
  let s := (s.setB F.partState_pause_pending p false).setB F.partPower_cap_paused p false
  let s := s.setPState p psLoaded
  s.forAll (s.coresOf p) fun s c =>
    ((s.modCore c (fun q => { q with atBar := none, loops := [] })).setF F.seqStatus_state c stStopped).setPower c
      (if s.flagF F.seqStatus_standby c then vIdle else vHold)
/-- END is valid only directly after a STEP barrier; the core becomes IDLE, and the last one ends the run (R101, R107). -/
def execEnd (c : CoreIx) (w : Word) (o : Obs) (s : State) : Outcome State Fault Refusal :=
  .next (s.dispatch c w o false false fun s =>
    if bits w 0 56 ≠ 0 then s.instrFault c 1
    else if !(s.core c).afterStep then s.instrFault c 6
    else
      let s := (s.modCore c (fun q => { q with ended := true })).setF F.seqStatus_state c stStopped
      let s := s.setPower c vIdle
      match s.ownerOf c with
      | none => s
      | some p =>
        if (s.activeOf p).all (fun n => match s.physOf p n with
            | some k => (s.core k).ended
            | none => false) then s.endRun p ccOk false
        else s)

end Sys2Proof.Machine
end

