-- ==== Sys2Proof/Machine/Notify.lean ====
section
/-! DEFINITION. Event controllers: counts, coalescing, records, deliveries and the writes to their registers (R399 to R416), and
who may reach a window (R365, R507). -/
namespace Sys2Proof.Machine
open Host

/-! ### Access paths (R365, R491, R506, R507) -/

/-- MOD.STATE.state codes. -/
def mBooting : Nat := 0
def mReady : Nat := 1
def mSafe : Nat := 2
def mRestarting : Nat := 3
/-- Whether a path's session opens its whole window: a tenant session, or the admin session held on that path outside safe mode. -/
def State.admitted (s : State) (path : Path) : Bool :=
  (s.fn (pathIx path)).session.isSome && (match path with
    | .vf _ => true
    | _ => decide (s.getF F.modState_state 0 ≠ mSafe))
/-- The event controller whose registers a path's window holds (R400, R416). -/
def ctrlOf : Path → Nat
  | .vf p => p.val
  | _ => 64
/-- Any access on a path discards its latched upper half (R510). -/
def State.touch (s : State) (path : Path) : State := s.modFn (pathIx path) (fun q => { q with latch := none })
/-- A write that is not admitted is ignored. -/
def State.ifAdmitted (s : State) (path : Path) (f : State → State) : State :=
  if s.admitted path then f (s.touch path) else s.touch path

/-! ### Coalescing (R404 to R409) -/

/-- Undelivered occurrences of a class. -/
def State.evU (s : State) (k c : Nat) : Nat := Tab.get (fun _ => 0) (s.evc k).u c
def State.evTimer (s : State) (k c : Nat) : Option Nat := Tab.get (fun _ => none) (s.evc k).timer c
/-- Whether a class is due under its committed pair (R405). -/
def State.isDue (s : State) (k c : Nat) : Bool :=
  let n := s.getF F.evtCoal_count (k * 16 + c)
  let t := s.getF F.evtCoal_time_us (k * 16 + c)
  let u := s.evU k c
  decide (0 < u) && (if n = 0 ∧ t = 0 then true
    else (decide (0 < n) && decide (n ≤ u)) || (match s.evTimer k c with
      | some a => decide (0 < t) && decide (a + 100 * t ≤ s.now)
      | none => false))
/-- A class that has become due stays due until a delivery. -/
def State.judgeClass (s : State) (k c : Nat) : State :=
  if s.isDue k c then s.modEvc k (fun q => { q with due := NSet.add c q.due }) else s
/-- Event notices of R439: the records a module delivery covers go to the session's source on a management port. -/
def State.notices (s : State) : State :=
  let from_ := (s.evc 64).noticed
  let n := (s.getF F.evtRqTail_index 64 + 8192 - from_) % 8192
  let s := [68, 69].foldl (fun (s : State) k =>
    if (s.fn k).session.isSome then
      (rangeFrom 0 n).foldl (fun s i =>
        match Tab.get (fun _ => none) (s.evc 64).records ((from_ + i) % 4096) with
        | some r => s.emit (.datagram k 5 r.seq 0 (r.num + r.src <<< 16 + r.seq <<< 32 + r.part <<< 48 + r.time <<< 64 + r.detail <<< 128))
        | none => s) s
    else s) s
  s.modEvc 64 (fun q => { q with noticed := s.getF F.evtRqTail_index 64 })
/-- One delivery for every class that is due, while deliveries are enabled and not held (R406, R407). -/
def State.deliver (s : State) (k : Nat) : State :=
  let due := (s.evc k).due
  if due.isEmpty || !s.flagF F.evtCtrl_enable k || s.flagF F.evtCtrl_hold k then s
  else
    let s := s.modEvc k (fun q => { q with
      u := due.foldl (fun t c => Tab.put (fun _ => 0) c 0 t) q.u
      timer := due.foldl (fun t c => Tab.put (fun _ => none) c none t) q.timer, due := [] })
    if k < 64 then s.emit (.msix k) else (s.emit .stewardLine).notices
/-- One undelivered occurrence of a class; the first one starts its timer. -/
def State.occur (s : State) (k c : Nat) : State :=
  let s := s.modEvc k (fun q => { q with
    u := Tab.put (fun _ => 0) c (s.evU k c + 1) q.u
    timer := if (s.evTimer k c).isNone then Tab.put (fun _ => none) c (some s.now) q.timer else q.timer })
  s.judgeClass k c
/-- An occurrence of an event is counted, and counts toward its class while enabled (R401, R404). -/
def State.countEvent (s : State) (k n : Nat) : State :=
  let i := k * 512 + n
  let s := s.bumpF F.evtEvent_pending i 1
  if s.flagF F.evtEvent_enable i then s.occur k (s.getF F.evtEvent_class i) else s
/-- A record reaches its controller: counted, then queued or dropped (R401, R410 to R412). -/
def State.evArrive (s : State) (k : Nat) (e : EvRec) : State :=
  let s := s.countEvent k e.num
  let t := s.getF F.evtRqTail_index k
  let s := if (t + 8192 - s.getF F.evtRqHead_index k) % 8192 = 4096 then
      (s.bumpF F.evtRqStat_dropped k 1).countEvent k 511
    else
      (s.modEvc k (fun q => { q with records := Tab.put (fun _ => none) (t % 4096) (some e) q.records })).setF F.evtRqTail_index k
        ((t + 1) % 8192)
  s.deliver k

/-! ### The commands -/

/-- A record does not overtake one of its own source on the way to its controller, nor a record of the stewards one of a fault, on which they act
(R413, R414; log 106). -/
def State.overtakes (s : State) (k : Nat) (e : EvRec) : Bool :=
  (s.evNet.takeWhile (fun x => decide (x ≠ (k, e)))).any (fun x => decide (x.1 = k) && (decide (x.2.src = e.src)
    || (decide (e.src = stewardNode) && ((Ev.ofNum (decide (k < 64)) x.2.num).bind Ev.faultClass).isSome)))
/-- EVENT_RECORD (R401, R410 to R414). -/
def execEventRecord (k : CtrlIx) (e : EvRec) (s : State) : Outcome State Fault Refusal :=
  .next (if s.overtakes k e then s else ({ s with evNet := dropFirst (k.val, e) s.evNet }).evArrive k e)
/-- COALESCE_TIMER_EXPIRY: a class whose timer has started and reaches T is due (R405). -/
def execCoalesceTimerExpiry (k : CtrlIx) (cls : Fin 16) (s : State) : Outcome State Fault Refusal :=
  .next (
    if s.evU k cls = 0 ∨ s.getF F.evtCoal_time_us (k * 16 + cls) = 0 then s
    else (s.modEvc k (fun q => { q with due := NSet.add cls q.due })).deliver k)
/-- EVT.COMPLETE clears one pending count (R403). -/
def execEvtCompleteWrite (path : Path) (v : BitVec 32) (s : State) : Outcome State Fault Refusal :=
  .next (s.ifAdmitted path fun s => s.setF F.evtEvent_pending (ctrlOf path * 512 + bits v 0 9) 0)
/-- EVT.COMMIT: the error bit clears where 1 is written, then go commits the class's shadow pair or rejects it (R408, R409). -/
def execEvtCommitWrite (path : Path) (v : BitVec 32) (s : State) : Outcome State Fault Refusal :=
  .next (s.ifAdmitted path fun s =>
    let k := ctrlOf path
    let s := if bit v 8 then s.setB F.evtCommit_error k false else s
    if !bit v 4 then s
    else
      let i := k * 16 + bits v 0 4
      let n := s.getF F.evtCoalShadow_count i
      let t := s.getF F.evtCoalShadow_time_us i
      if 4096 < n ∨ 60000 < t ∨ (2 ≤ n ∧ t = 0) then
        (s.setB F.evtCommit_error k true).record .pairCommitRejected stewardNode k (if k < 64 then k else 255) 0
      else (((s.setF F.evtCoal_count i n).setF F.evtCoal_time_us i t).judgeClass k (bits v 0 4)).deliver k)
/-- EVT.RQ_HEAD frees records; a head that would pass the tail is ignored (R411). -/
def execEvtRqHeadWrite (path : Path) (v : BitVec 32) (s : State) : Outcome State Fault Refusal :=
  .next (s.ifAdmitted path fun s =>
    let k := ctrlOf path
    let h := s.getF F.evtRqHead_index k
    if (bits v 0 13 + 8192 - h) % 8192 ≤ (s.getF F.evtRqTail_index k + 8192 - h) % 8192 then s.setF F.evtRqHead_index k (bits v 0 13)
    else s.setB F.evtRqStat_head_error k true)
/-- EVT.CTRL: with hold clear and enable set, every due class is delivered together (R406, R407). -/
def execEvtCtrlWrite (path : Path) (v : BitVec 32) (s : State) : Outcome State Fault Refusal :=
  .next (s.ifAdmitted path fun s =>
    let k := ctrlOf path
    ((s.setB F.evtCtrl_enable k (bit v 0)).setB F.evtCtrl_hold k (bit v 1)).deliver k)
/-- EVT.EVENT's enable: an event enabled with a count pending is one undelivered occurrence of its class (R404). An unassigned
number's entry reads zero (R415). -/
def execEvtEventEnableWrite (path : Path) (n : Fin 512) (v : BitVec 32) (s : State) : Outcome State Fault Refusal :=
  .next (s.ifAdmitted path fun s =>
    let k := ctrlOf path
    let i := k * 512 + n.val
    if (Ev.ofNum (decide (k < 64)) n).isNone then s
    else
      let was := s.flagF F.evtEvent_enable i
      let s := s.setB F.evtEvent_enable i (bit v 16)
      if bit v 16 && !was && decide (s.getF F.evtEvent_pending i ≠ 0) then (s.occur k (s.getF F.evtEvent_class i)).deliver k else s)

end Sys2Proof.Machine
end

