-- ==== Sys2Proof/Machine/Recovery.lean ====
section
/-! DEFINITION. Recovery from a fault: retry and fencing, the drain, replay sets and alias switches, restores, step replays and
FAULTED_HOLD; health decay and clearing; member loss (R105, R274, R346, R349 to R362). -/
namespace Sys2Proof.Machine
open Host

/-! ### Alias switches (R102, R105) -/

/-- Standby entries of a partition, by rising number, whose core is GOOD or DERATED. -/
def State.standbys (s : State) (p : Nat) : List (Nat × Nat) :=
  ((s.part p).aliasTab.filter (fun e => decide (entryKind e.2 = 2) && decide ((s.core (entryCore e.2)).state ≤ 1))).map
    (fun e => (e.1, entryCore e.2))
/-- Sends one changed entry to every core of the partition. -/
def State.sendAlias (s : State) (p e new : Nat) : State :=
  let g := s.getF F.partAliasGen_generation p
  let s := (s.modPart p (fun q => { q with aliasTab := Tab.put (fun _ => 0) e new q.aliasTab })).setB F.partAliasGen_busy p true
  (s.coresOf p).foldl (fun s c => s.send (.aliasUpdate e new g) p c stewardNode) s
/-- Shows the standby entries left. -/
def State.showStandbys (s : State) (p : Nat) : State :=
  let n := ((s.part p).aliasTab.filter (fun e => decide (entryKind e.2 = 2))).length
  s.setF F.partRecovery_standby_left p (min 255 n)
/-- A core's coordinates as an entry of a kind (R102). -/
def entryOf (c kind : Nat) : Nat := c % 64 + (c / 64) <<< 6 + kind <<< 12
/-- PLACEMENT_SWITCHED: a logical core moves to a standby's core, whose entry becomes unused. That core holds no mirror of the buddy yet (R105,
R360). -/
def State.aliasSwitch (s : State) (p n : Nat) (sb : Nat × Nat) : State :=
  let s := s.setF F.partAliasGen_generation p (satAdd 16 (s.getF F.partAliasGen_generation p) 1)
  let s := (s.sendAlias p n (entryOf sb.2 1)).sendAlias p sb.1 0
  let s := (s.modPart p (fun q => { q with switched := true })).setB F.seqStatus_standby sb.2 false
  ((s.setB F.intMirror_valid sb.2 false).showStandbys p).raise .placementSwitched stewardNode (some p) n
/-- A core whose fault did not repeat takes the first unused entry after the active ones as a standby (R358). -/
def State.returnStandby (s : State) (p c : Nat) : State :=
  let a := ((s.part p).cap.map (·.active)).getD 0
  let b := ((s.part p).cap.map (·.standby)).getD 0
  let named := (s.part p).aliasTab.any (fun e => decide (entryKind e.2 = 1 ∨ entryKind e.2 = 2) && decide (entryCore e.2 = c))
  if named then s
  else match (rangeFrom a b).find? (fun e => entryKind (Tab.get (fun _ => 0) (s.part p).aliasTab e) = 0) with
  | some e => (((s.sendAlias p e (entryOf c 2)).setB F.seqStatus_standby c true).setPower c vIdle).showStandbys p
  | none => s

/-! ### When one micro-step is not enough (R360, R361) -/

/-- Drops what a core has in flight and stops it. -/
def State.quiet (s : State) (c : Nat) : State :=
  (s.modCore c (fun q => { q with descs := [], tags := [], verdicts := [], consumers := [] })).showTags c
/-- FAULTED_HOLD (R361). START completes FAULTED (R388). -/
def State.faultedHold (s : State) (p : Nat) : State :=
  let s := s.endIncomplete p
  let s := s.endRun p ccFaulted true
  let s := s.modPart p (fun q => { q with faultHold := true, recov := none, faults := s.openFaults p, moved := [] })
  let s := (s.forAll (s.coresOf p) (fun s c => (s.setF F.seqStatus_state c stStopped).setPower c vIdle)).setB F.partRecovery_held p true
  (s.setPState p psHeld).raise .partitionFaultedHold stewardNode (some p) 0
/-- STEP_REPLAYED: groups end incomplete, and every core starts the step again; the restart is a step boundary (R328, R360). -/
def State.stepReplay (s : State) (p : Nat) : State :=
  let s := (s.endIncomplete p).discardSums p
  let start := (s.part p).stepStart
  let cs := (s.activeOf p).filterMap (fun n => (s.physOf p n).map (fun c => (n, c)))
  let s := s.modPart p (fun q => { q with
    arrivals := none, groupArr := [], recov := none, faults := s.openFaults p, moved := [], recMicro := 0, tokens := [], resolved := [], resolving := [], prepared := []
    foreign := [], stopHold := false, groupsEnded := false, replaying := false, seqFault := none, planMove := false, feedWait := false })
  let s := (s.boundary p start).loadHomes p
  let s := cs.foldl (fun (s : State) (e : Nat × Nat) =>
    let b := (s.core e.2).stepBound
    let b := match s.program p e.1, (s.part p).planMove with
      | some g, true => stepBody g ((b.loops.getLast?.map (fun (l : Loop) => l.left)).getD (s.runSteps p)) b
      | _, _ => b
    let s := ((s.quiet e.2).freshMicroStep e.2).restoreBoundary e.2 b
    ((s.modCore e.2 (fun q => { q with stepBound := b, ended := false })).setF F.seqStatus_state e.2 stRunning).setPower e.2 vRun) s
  ((s.modPart p (fun q => { q with planMove := false })).bumpF F.partRecovery_step_replays p 1).raise .stepReplayed stewardNode (some p) 0

/-! ### The retry (R346, R349, R358, R359) -/

/-- The fault whose retry is over: a range failure's cross-check, which needs the replay, ends after the retries (R358). -/
def State.retried (s : State) (p : Nat) : Option Recovery :=
  let l := ((s.part p).recov.toList ++ (s.part p).faults).filter (fun r => r.isLocal && decide ((s.core r.phys).state = 2))
  (l.find? (fun r => r.ev ≠ Ev.rangeFail.num)).or l.head?
/-- Whether the fault of a retry repeats; `digest` is the replacement's of a range failure's epoch (R358). -/
def State.faultRepeats (s : State) (r : Recovery) (repeats : Bool) (digest : BitVec 32) : Bool :=
  if r.ev = Ev.rangeFail.num then decide (digest.toNat ≠ s.getF F.intDigest_crc r.phys)
  else decide (r.ev = Ev.proofMismatch.num ∨ r.ev = Ev.coreHang.num) && repeats
/-- What a retry charges (R349, R358): the core, the link on the route of a lost packet, or the memory channel of a program block. -/
def State.chargeRetry (s : State) (p : Nat) (r : Recovery) (rep : Bool) (unit : Nat) : State :=
  let is (e : Ev) : Bool := decide (r.ev = e.num)
  if is .proofMismatch then s.charge (unitCore r.phys) 0 rep
  else if is .coreHang then s.charge (unitCore r.phys) 3 rep
  else if is .rangeFail then
    (if rep then s.charge (unitCore r.phys) 1 true
     else (s.raise .rangeConfirmed stewardNode (some p) 0).policy p r.phys .rangeConfirmed 0)
  else if is .packetLost then s.charge unit 8 false
  else if is .seqFault && decide (r.detail % 16 = 8) then
    (match s.place p (r.detail / 16 % 2 ^ 48) with
    | some x => s.charge (unitChan x.site x.chan) 4 false
    | none => s)
  else s
/-- A core whose fault did not repeat comes back, DERATED where its entry says so: at once as a standby where its number has moved, and reported
after the micro-step's release, or at once where no recovery runs (R358, R359; log 50). -/
def State.returnCore (s : State) (p : Nat) (r : Recovery) : State :=
  let c := r.phys
  let s := (s.modCore c (fun q => { q with state := 0 })).applyCore c (s.unitState (unitCore c))
  let s := if (s.part p).recov.isSome then s.modPart p (fun q => { q with returned := q.returned ++ [c] })
    else s.raise .coreReturned stewardNode (some p) c
  if 2 ≤ r.stage then s.returnStandby p c else s
/-- An isolated core's retry or cross-check is over. `repeats` is what the retry met; `digest` the replacement's digest of a
range failure's epoch; `unit` the link on the route of a lost packet (R358). -/
def execFaultRetryDone (p : PartIx) (repeats : Bool) (digest : BitVec 32) (unit : BitVec 16) (s : State) : Outcome State Fault Refusal :=
  .next (
    match s.retried p with
    | none => s
    | some r =>
      let c := r.phys
      let rep := s.faultRepeats r repeats digest
      let s := s.chargeRetry p r rep unit.toNat
      let gone := rep || decide (s.unitState (unitCore c) = 3)
      let done (x : Recovery) : Recovery := if x.phys = c ∧ x.isLocal then { x with repeats := gone, stage := if x.stage = 0 then 1 else x.stage } else x
      let s := s.modPart p (fun q => { q with
        recov := q.recov.map done, faults := (q.faults.map done).filter (fun x => decide (x.phys ≠ c) || !x.isLocal || decide (x.stage < 2)) })
      let s := if gone then
          ((s.modCore c (fun q => { q with state := 4 })).bumpF F.partRecovery_fences p 1).raise .coreFenced stewardNode (some p) c
        else s.returnCore p r
      s.rebuild)

/-! ### The replay set (R355) -/

/-- An epoch as its distance from a core's first of the micro-step. -/
def State.epochOff (s : State) (c e : Nat) : Nat := (e + 65536 - (s.core c).bound.epoch) % 65536
/-- Members with first tainted epoch, as logical core, physical core and distance. -/
abbrev Taint := List (Nat × Nat × Nat)
/-- First tainted epoch a core takes from a set: the first of its own that received such data; all of them with dep_all. -/
def State.taintedBy (s : State) (c : Nat) (t : Taint) : Option Nat :=
  if s.flagF F.intEpoch_dep_all c then some 0
  else
    let hits := (s.core c).got.filterMap (fun g =>
      (t.find? (fun m => m.1 = g.1)).bind (fun m => if m.2.2 ≤ s.epochOff m.2.1 g.2.1 then some (s.epochOff c g.2.2) else none))
    hits.foldl (fun a h => some (match a with
      | some x => min x h
      | none => h)) none
/-- One round of step 2 of R355. -/
def State.growSet (s : State) (l : List (Nat × Nat)) (t : Taint) : Taint :=
  l.foldl (fun t e =>
    match s.taintedBy e.2 t, t.find? (fun m => m.1 = e.1) with
    | none, _ => t
    | some h, none => t ++ [(e.1, e.2, h)]
    | some h, some m => if h < m.2.2 then t.map (fun m => if m.1 = e.1 then (m.1, m.2.1, h) else m) else t) t
/-- The closure, in as many rounds as there are cores and epochs to lower at most. -/
def State.closeSet (s : State) (l : List (Nat × Nat)) : Nat → Taint → Taint
  | 0, t => t
  | n + 1, t =>
    let t' := s.growSet l t
    if t' = t then t else s.closeSet l n t'

/-! ### Retractions (R258, R259, R305) -/

/-- Packets a descriptor sent, formed again from its source rows. -/
def State.packetsOf (s : State) (p c : Nat) : Nat → Desc → List (Nat × Pkt)
  | 0, _ => []
  | n + 1, d =>
    match s.nextSlice p d with
    | none => []
    | some x =>
      let rest := s.packetsOf p c n { d with sent := d.sent + x.len }
      match s.routeOf p c d x with
      | .inl dst => (x.off, s.formPkt p c d x dst 0 []) :: rest
      | .inr _ => rest
/-- A producer retracts its value contributions of tainted epochs: the same payload with kind 1 and the pass 1 bytes it sent. -/
def State.retract (s : State) (p : Nat) (m : Nat × Nat × Nat) : State :=
  let c := m.2.1
  let s := s.modCore c (fun q => { q with offered := [] })
  let ds := (s.core c).sentLog.filter (fun d => decide (d.kind = .reduceSend) && decide (m.2.2 ≤ s.epochOff c d.epoch))
  ds.foldl (fun s d =>
    (s.packetsOf p c (d.len / 64 + 1) d).foldl (fun (s : State) (x : Nat × Pkt) =>
      match x.2.red with
      | some h =>
        if h.pass = 1 then s
        else match s.stream p h.stream with
        | none => s
        | some st =>
          let keys := (blocksIn st x.2 h).map (fun b => h.stream * 2 ^ 19 + b)
          let bytes := keys.map (fun k => Tab.get (fun _ => 0) (s.core c).kept k)
          let s := s.modCore c (fun q => { q with retracted := keys.foldl (fun t k => NSet.add k t) q.retracted })
          let s := s.send (.retractToken m.1 d.epoch false) p x.2.dst c
          s.inject { x.2 with gen := 16, red := some { h with kind := 1, ebytes := bytes, prov := [(m.1, d.epoch)] } }
      | none => s) s) s
/-- The stewards retract for a failed core: no data, one packet for each block that counts a tainted contribution of it. -/
def State.retractFor (s : State) (p : Nat) (m : Nat × Nat × Nat) : State :=
  s.forAll (rangeFrom 0 40) fun s site =>
    ((s.site site).blocks.filter (fun b => decide (b.part = p) && b.vals.any (fun v =>
      v.unproven.any (fun e => decide (e.1 = m.1) && decide (m.2.2 ≤ s.epochOff m.2.1 e.2))))).foldl (fun (s : State) (b : RedBlk) =>
        let s := s.send (.retractToken m.1 ((s.core m.2.1).bound.epoch + m.2.2) false) p (siteNode site) stewardNode
        s.inject { kind := .reduction, src := stewardNode, dst := siteNode site, part := p, tag := 0, gen := 16, resend := 0, tries := 0
                   remCtr := 0, seq := 0, total := 1, prov := false, poison := false, bchk := false, ce := false, ece := false
                   addr := 0, addr2 := 0, len := 0, prod := (m.1, (s.core m.2.1).bound.epoch, 0)
                   red := some ⟨b.stream, b.block, 0, 1, [], []⟩, data := [], crc := 0 }) s

/-! ### Drain, switch, restore, replay (R353 to R357, R360 to R362) -/

/-- Buddy of a logical core (R352). -/
def State.buddyNum (s : State) (p n : Nat) : Option Nat :=
  ((s.part p).cap.bind (fun c => c.buddies.find? (fun e => e.1 = n))).map (·.2)
/-- A failing token from another module starts a replay here with no fence; the recovery's logical number is the remote core's plus
65536, under which the receivers hold its data (R341, R344). -/
def State.recoverForeign (s : State) (p core epoch : Nat) : State :=
  (s.newFault p ⟨65536 + core, 0, Ev.proofMismatch.num, 0, 1, epoch, false, []⟩).holdPart p
/-- Active cores of a partition with their logical numbers. -/
def State.activePairs (s : State) (p : Nat) : List (Nat × Nat) := (s.activeOf p).filterMap (fun n => (s.physOf p n).map (fun c => (n, c)))
/-- The failed core had arrived at its STEP barrier and all its epochs had passed: it needs no replay (R362). -/
def State.doneBefore (s : State) (p : Nat) (r : Recovery) : Bool :=
  match (s.core r.phys).atBar with
  | some (true, _, _) => s.passed p r.logical r.phys
  | _ => false
/-- Where a fault's replay set starts: the failed core's failed epoch, or what took a remote core's failed data (R344, R355, R362). -/
def State.firstTaint (s : State) (p : Nat) (r : Recovery) : Taint :=
  if r.isLocal then (if s.doneBefore p r then [] else [(r.logical, r.phys, s.epochOff r.phys r.epoch)])
  else (s.activePairs p).filterMap (fun e =>
    let hits := (s.core e.2).got.filter (fun g => decide (g.1 = r.logical) && decide (g.2.1 = r.epoch))
    (hits.head?).map (fun h => (e.1, e.2, hits.foldl (fun a g => min a (s.epochOff e.2 g.2.2)) (s.epochOff e.2 h.2.2))))
/-- A member joins a set, or lowers its first tainted epoch there (R362). -/
def addTaint (t : Taint) (m : Nat × Nat × Nat) : Taint :=
  if t.any (fun x => decide (x.1 = m.1)) then t.map (fun x => if x.1 = m.1 then (x.1, x.2.1, min x.2.2 m.2.2) else x) else t ++ [m]
/-- The replay set of a recovery's faults, with the members of one that it follows (R355, R362). -/
def State.replaySet (s : State) (p : Nat) (l : List Recovery) : Taint :=
  let act := s.activePairs p
  let out := (l.filter Recovery.isLocal).map (·.logical)
  let olds : Taint := l.flatMap (fun r => r.replay.filterMap (fun e => (s.physOf p e.1).map (fun c => (e.1, c, e.2))))
  let start := (l.flatMap (s.firstTaint p) ++ olds).foldl addTaint []
  s.closeSet (if out.length ≤ 1 then act.filter (fun e => !out.contains e.1) else act) (act.length * 256 + 1) start
/-- The committed half that a failed core needs is lost: its buddy is in the replay set, failed too, or holds none (R360). -/
def State.mirrorLost (s : State) (p : Nat) (set : Taint) (out : List Nat) (n : Nat) : Bool :=
  match s.buddyNum p n with
  | none => true
  | some b =>
    set.any (fun m => decide (m.1 = b)) || out.contains b || (match s.physOf p b with
      | some k => !s.flagF F.intMirror_valid k
      | none => true)
/-- A failed logical core moves to a standby, which takes its boundary and, where it had done its micro-step, its place at the barrier. A core
whose retry is over without a repeat returns (R105, R354 step 5, R358, R362). -/
def State.switchIn (s : State) (p : Nat) (r : Recovery) (sb : Nat × Nat) : State :=
  let past := s.doneBefore p r
  let s := s.aliasSwitch p r.logical sb
  let old := s.core r.phys
  let s := s.modCore sb.2 (fun q => { q with
    bound := old.bound, stepBound := old.stepBound, boundSeq := old.boundSeq, epochEnd := old.epochEnd, atBar := old.atBar
    homes := old.homes, xlat := old.xlat })
  let s := if past then
      (s.restoreBoundary sb.2 old.bound).setF F.seqPc_addr sb.2 (s.getF F.seqPc_addr r.phys) |>.setF F.seqUstep_epoch sb.2
        (s.getF F.seqUstep_epoch r.phys) |>.setF F.seqStatus_state sb.2 stWaiting
    else s
  let s := s.modCore sb.2 (fun q => { q with loops := old.loops })
  let s := (s.setF F.seqStatus_state r.phys stStopped).modPart p (fun q => { q with
    failedStep := q.failedStep ++ [r.logical], moved := q.moved.filter (fun n => n ≠ r.logical) ++ [r.logical] })
  if (s.core r.phys).state ≤ 1 then s.returnStandby p r.phys else s
/-- The faults of the next drain: the recovery's own and those that joined it. -/
def PartSt.batch (q : PartSt) : List Recovery :=
  match q.recov with
  | some r => if r.stage < 2 then r :: q.faults.filter (fun f => decide (f.stage < 2)) else []
  | none => []
/-- Steps 4 and 5 of R354: the replay set, its retractions, and the switches; a step replay where one micro-step is not enough (R360, R361). -/
def State.afterDrain (s : State) (p : Nat) (l : List Recovery) : State :=
  let failing := l.filter Recovery.isLocal
  let out := failing.map (·.logical)
  let sbs := s.standbys p
  if out.any (fun n => (s.part p).failedStep.contains n) || decide (sbs.length < failing.length) then s.faultedHold p
  else
    let set := s.replaySet p l
    let wide := !(set.isEmpty && out.isEmpty)
      && (!s.flagF F.partMirrorCfg_enabled p || decide (3 ≤ (s.part p).recMicro) || out.any (s.mirrorLost p set out))
    let s := if wide then s
      else set.foldl (fun (s : State) (m : Nat × Nat × Nat) => if out.contains m.1 then s.retractFor p m else s.retract p m) s
    let s := (failing.zip sbs).foldl (fun (s : State) (x : Recovery × Nat × Nat) => s.switchIn p x.1 x.2) s
    if wide then s.stepReplay p
    else s.modPart p (fun q => { q with
      recov := l.head?.map (fun r => { r with stage := 2, replay := set.map (fun m => (m.1, m.2.2)) }), faults := s.untested q.faults })
/-- RECOVERY_DRAIN_DONE: the retries are over and every tag is free, so the replay set is computed and the alias switched (R354 steps 3 to
5). -/
def execRecoveryDrainDone (p : PartIx) (s : State) : Outcome State Fault Refusal :=
  .next (
    let l := (s.part p).batch
    if l.isEmpty || l.any (fun r => !r.ready Ev.rangeFail.num) || (s.coresOf p).any (fun c => !(s.core c).tags.isEmpty) then s
    else s.afterDrain p l)

/-- Loads a logical core's persistent region from its buddy's committed half; whether the half is free of poison (R352, R354 step 6). -/
def State.loadMirror (s : State) (p n c : Nat) : State × Bool :=
  match s.buddyNum p n |>.bind (s.physOf p), (s.part p).cap.bind (fun cp => cp.persist.find? (fun e => e.1 = n)) with
  | some k, some (_, row, rows) =>
    let src := s.mirrorRow p (s.getF F.intMirror_committed_half k)
    let half := s.getF F.partMirrorCfg_rows p / 2
    let s' := (rangeFrom 0 rows).foldl (fun (t : State) i => t.putRow c (row + i) (s.row k (src + i)) (s.rowPoison k (src + i))) s
    (s', !(s.rowsPoison k src rows || s.rowsPoison k (src + half - 4) 4))
  | _, _ => (s, true)
/-- Suppression mark of a replay-set core, as the number of descriptors from the micro-step's first up to the end of its last passed
epoch before its first tainted one (R357). -/
def State.markOf (s : State) (c off : Nat) : Option Nat :=
  if off = 0 then none
  else
    let e := ((s.core c).bound.epoch + off - 1) % 65536
    ((s.core c).epochEnd.find? (fun x => x.1 = e)).bind (fun x =>
      some ((x.2 + 65536 - (s.core c).boundSeq) % 65536))
/-- One replay-set core starts its micro-step again (R356, R357). -/
def State.startReplay (s : State) (p : Nat) (m : Nat × Nat) : State :=
  match s.physOf p m.1 with
  | none => s
  | some c =>
    let b := (s.core c).bound
    let mark := s.markOf c m.2
    let keptR := (s.core c).retracted
    let kept := (s.core c).kept
    let seq := (s.core c).boundSeq
    let s := (s.quiet c).freshMicroStep c
    let s := s.restoreBoundary c b
    let s := s.modCore c (fun q => { q with
      suppress := some (mark.getD 0), stamp := s.getF F.partRecovery_stamp p, nextSeq := seq
      boundSeq := seq, retracted := keptR, kept := kept })
    (s.setF F.seqStatus_state c stRunning).setPower c vRun
/-- Producers outside the set send their logged pushes to a member again (R353). -/
def State.resendTo (s : State) (p : Nat) (set : List (Nat × Nat)) : State :=
  (s.activeOf p).foldl (fun s n =>
    if set.any (fun m => decide (m.1 = n)) then s
    else match s.physOf p n with
    | none => s
    | some c =>
      let l := (s.core c).sentLog.filter (fun d => decide (d.kind = .corePush) && set.any (fun m => decide (m.1 = d.remote % 65536)))
      l.foldl (fun s d => s.modCore c (fun q => { q with
        descs := q.descs ++ [{ d with seq := q.nextSeq, again := true, sent := 0, open_ := 0, active := false }]
        nextSeq := (q.nextSeq + 1) % 65536 })) s) s
/-- MIRROR_RESTORE_DONE: the set has its persistent regions again and the replay begins under a new stamp (R354 steps 6, 7). -/
def execMirrorRestoreDone (p : PartIx) (s : State) : Outcome State Fault Refusal :=
  .next (
    match (s.part p).recov with
    | none => s
    | some r =>
      if r.stage ≠ 2 then s
      else
        let moved := (s.part p).moved
        let only := r.replay.map (·.1) ++ moved.filter (fun n => r.replay.all (fun m => m.1 ≠ n))
        let t := only.foldl (fun (a : State × Bool) (n : Nat) =>
          match a.1.physOf p n with
          | some c =>
            let x := a.1.loadMirror p n c
            (x.1, a.2 && (x.2 || !moved.contains n))
          | none => a) (s, true)
        if !t.2 then s.faultedHold p
        else
          let s := t.1
          let arrived := (r.replay.filter (fun m => match s.physOf p m.1 with
            | some c => (s.core c).atBar.any (fun b => b.1)
            | none => false)).length
          let s := if r.replay.isEmpty then s
            else s.setF F.partRecovery_stamp p ((s.getF F.partRecovery_stamp p + 1) % 256)
          let s := r.replay.foldl (fun s m => s.startReplay p m) s
          let s := s.resendTo p r.replay
          let s := s.modPart p (fun q => { q with
            recov := some { r with stage := 3 }, moved := [], replaying := !r.replay.isEmpty
            arrivals := q.arrivals.map (fun a => { a with count := a.count - arrived }) })
          let s := s.forAll (s.coresOf p) (fun s c =>
            if s.getF F.seqStatus_state c = stHeld then s.setF F.seqStatus_state c stRunning else s)
          s.tryRelease p)

/-! ### Health (R349, R350, R359, R461) -/

/-- A derated unit with no fault for 168 h returns one state (R349). -/
def execHealthDecay (unit : BitVec 16) (s : State) : Outcome State Fault Refusal :=
  .next (
    let h := s.healthOf unit.toNat
    let last := max (h.times.headD 0) h.changed
    if (h.state = 1 ∨ h.state = 2) ∧ last + 168 * 3600 ≤ s.seconds ∧ unitOk unit.toNat then s.setUnit unit.toNat (h.state - 1) h else s)
/-- HEALTH_CLEARED: an entry returns to OK with no history (R349, R363). A cleared fenced core returns through TESTING at the
next bring-up (R36); a cleared channel is in service again; a die under three shed phases keeps its ceiling until then no more (R461). -/
def execHealthCleared (path : Path) (v : BitVec 32) (s : State) : Outcome State Fault Refusal :=
  .next (s.ifAdmitted path fun s =>
    let u := bits v 0 16
    if !bit v 16 || !unitOk u then s
    else
      let s := s.setHealth u { Health.init with changed := s.seconds, due := true, wroteAt := (s.healthOf u).wroteAt }
      let s := (s.setF F.hlthGen_count 0 (s.getF F.hlthGen_count 0 + 1)).raise .healthCleared stewardNode none u
      let s := match u / 0x2000 with
        | 0 => if (s.core u).state ≤ 1 then s.applyCore u 0 else s
        | 2 =>
          let m := u % 0x2000 / 32
          s.setF F.ldgChService_in_service m (s.getF F.ldgChService_in_service m ||| 2 ^ (u % 32))
        | 4 =>
          let d := u % 0x2000 / 16
          let shed := (rangeFrom 0 16).filter (fun k => decide (s.unitState (unitPhase d k) = 3))
          if shed.length < 3 then (s.setB F.tileStatus_capped d false).showDie d else s
        | _ => s
      s.rebuild)

/-! ### Members of a domain (R274) -/

/-- Whether any domain stream of a partition has an open block that something has reached. -/
def State.openDomain (s : State) (p : Nat) : Bool :=
  s.sites.any (fun x => x.2.blocks.any (fun r => decide (r.part = p) && !r.closed && (match s.stream p r.stream with
    | some st => st.domain
    | none => false)))
/-- HEARTBEAT_SEND (R274). -/
def execHeartbeatSend (p : PartIx) (s : State) : Outcome State Fault Refusal :=
  .next (if s.openDomain p then s.toPeers p .heartbeat false else s)
/-- HEARTBEAT resets its peer's silence timer; the timer's own expiry is REDUCE_MEMBER_LOST (R274). -/
def execHeartbeat (f : KlFrame) (s : State) : Outcome State Fault Refusal :=
  .next { s.takeFrame f with heard := Tab.put (fun _ => 0) (f.part * 2 ^ 16 + f.src) (s.now + 1) s.heard }
/-- REDUCE_MEMBER_LOST: a peer silent for 100 µs. Open domain blocks close as lost, and the groups that have such a stream
skip (R274, R275). -/
def execReduceMemberLost (p : PartIx) (rank : BitVec 14) (s : State) : Outcome State Fault Refusal :=
  .next (
    match (s.peersOf p).find? (fun e => e.1 = rank.toNat) with
    | none => s
    | some (_, peer) =>
      if s.openDomain p = false ∨ s.now < Tab.get (fun _ => 0) s.heard (p * 2 ^ 16 + peer) + 9999 then s
      else
        let s := if s.flagF F.partDomain_lost p then s else (s.setB F.partDomain_lost p true).setF F.partDomain_lost_rank p rank.toNat
        let s := (s.raise .reduceMemberLost stewardNode (some p) rank.toNat).modPart p (fun q => { q with
          memberLost := true, resolving := q.resolving.map (fun e => if s.domainGroup p e.1 then (e.1, 3, e.2.2) else e) })
        s.forAll (rangeFrom 0 40) fun s m =>
          ((s.site m).blocks.filter (fun (r : RedBlk) => decide (r.part = p.val) && !r.closed)).foldl (fun (s : State) (r : RedBlk) =>
            match s.stream p r.stream with
            | none => s
            | some st =>
              if !st.domain then s
              else
                let s := s.ackWaiting m [r]
                s.keepBlk m p st { r with closed := true, lost := true, waitE := [], waitV := [] }) s)

end Sys2Proof.Machine
end

