-- ==== Sys2Proof/Machine/Fabric.lean ====
section
/-! DEFINITION. Link replays, degraded links and the congestion map (R281, R294, R295, R347, R349). -/
namespace Sys2Proof.Machine
open Host

/-- Replay tally of a link of a router: its north, east, south and west inputs, and its rim inputs, which are two at a corner with a third from
the steward die (RTR.LINK_ERR, R24, R277). -/
def linkField (k : Fin 7) : RF :=
  match k with
  | 0 => F.rtrLinkErr_north
  | 1 => F.rtrLinkErr_east
  | 2 => F.rtrLinkErr_south
  | 3 => F.rtrLinkErr_west
  | 4 | 5 | 6 => F.rtrLinkErr_rim
/-- Unit that a link's faults count against: the seam channel of a seam crossing, else the router's own core (R281, R347). -/
def linkUnit (c : Nat) (k : Fin 7) : Nat :=
  let x := c % 64
  let y := c / 64
  let across (i : Nat) : Nat := unitSeam (8 * (7 * (y / 8) + i) + y % 8)
  let down (j : Nat) : Nat := unitSeam (8 * (56 + 8 * j + x / 8) + x % 8)
  match k with
  | 0 => if y % 8 = 0 ∧ 0 < y then down (y / 8 - 1) else unitCore c
  | 1 => if x % 8 = 7 ∧ x < 63 then across (x / 8) else unitCore c
  | 2 => if y % 8 = 7 ∧ y < 63 then down (y / 8) else unitCore c
  | 3 => if x % 8 = 0 ∧ 0 < x then across (x / 8 - 1) else unitCore c
  | 4 | 5 | 6 => unitCore c
/-- FLIT_REPLAY: a flit arrived with a failed link check and was sent again (R281). -/
def execFlitReplay (c : CoreIx) (k : Fin 7) (s : State) : Outcome State Fault Refusal :=
  .next ((s.bumpF (linkField k) c 1).modCore c (fun q => { q with replays := Tab.put (fun _ => 0) k (Tab.get (fun _ => 0) q.replays k + 1) q.replays }))
/-- LINK_DEGRADED, at the end of a 1 ms interval: more than 16 replays on the link in it (R281, R349). -/
def execLinkDegraded (c : CoreIx) (k : Fin 7) (s : State) : Outcome State Fault Refusal :=
  .next (
    if Tab.get (fun _ => 0) (s.core c).replays k ≤ 16 then s
    else (s.raise .linkDegraded stewardNode none (linkUnit c k)).charge (linkUnit c k) 16 false)
/-- Steward node of a core's quadrant, the one at the quadrant's own corner: S0 north-west, S1 north-east, S2 south-east, S3 south-west (R22,
R294). -/
def quadNode (c : Nat) : Nat := stewardNode + (if c < 2048 then (if c % 64 < 32 then 0 else 1) else if c % 64 < 32 then 3 else 2)
/-- CONGESTION_INTERVAL: a router sends what it counted, in two messages: its blocked fractions as observed, then its marks as observed and its
replays as tallied (R294, R305; log 92). -/
def execCongestionInterval (c : CoreIx) (blocked : Vector (BitVec 8) 5) (marks : Nat) (s : State) : Outcome State Fault Refusal :=
  .next (
    let n := ((s.core c).replays.map (·.2)).sum
    let s := s.modCore c (fun q => { q with replays := [] })
    let s := s.send (.congReport c 0 (blocked.toList.map (·.toNat))) 255 (quadNode c) c
    s.send (.congReport c 1 [min 4095 marks, min 255 n]) 255 (quadNode c) c)
/-- An entry of the congestion map with one half of a router's counts in place: half 0 the blocked fractions, half 1 marks and replays (R294). -/
def congWord (w : Word) (half : Nat) (l : List Nat) : Word :=
  if half = 0 then setBits w 0 40 (pack 8 (l.take 5)) else setBits w 40 20 (l.getD 0 0 % 4096 + (l.getD 1 0 % 256) <<< 12)
/-- CONG_REPORT: the fabric manager writes its part of a router's entry; with the last part of the last router the map is complete (R294, R295). -/
def execCongReport (m : Ctl) (s : State) : Outcome State Fault Refusal :=
  .next (s.takeCtl m fun s =>
    match m.msg with
    | .congReport c half l =>
      let e := c % 4096
      let s := { s with congMap := Tab.put (fun _ => 0) e (congWord (Tab.get (fun _ => 0) s.congMap e) half l) s.congMap
                        congHeard := NSet.add (2 * e + min half 1) s.congHeard }
      let full := decide (s.congHeard.length = 8192)
      let mark (s : State) (b n : RF) (i : Nat) : State :=
        let s := s.setB b i (!full)
        if full then s.setF n i (s.getF n i + 1) else s
      let s := mark s F.fabCongGen_busy F.fabCongGen_count 0
      let s := (rangeFrom 0 64).foldl (fun s p => mark s F.partCongGen_busy F.partCongGen_count p) s
      if full then { s with congHeard := [] } else s
    | _ => s)

end Sys2Proof.Machine
end

