-- ==== Sys2Proof/Machine/Checkpoint.lean ====
section
/-! DEFINITION. Checkpoint copies and restores (R235 to R240, R394, R395, R437). -/
namespace Sys2Proof.Machine
open Host

/-! ### The order's fields (R394) -/
namespace OrderSt
def slot (o : OrderSt) : Nat := ordByte o.words 16 % 2
def incremental (o : OrderSt) : Bool := decide (ordByte o.words 17 = 1)
def toCxl (o : OrderSt) : Bool := decide (ordByte o.words 18 = 1)
def buddy (o : OrderSt) : Nat := ordNat o.words 20 2
def cxlAddr (o : OrderSt) : Nat := ordNat o.words 24 8
end OrderSt

/-! ### Units and blocks (R235, R236) -/

/-- Number that stands for the header among a copy's blocks. -/
def headerBlk : Nat := 1 <<< 40
/-- Extents a copy of a partition holds: writable ones, and shared ones it owns (R236). -/
def State.copyExtents (s : State) (p : Nat) : List Extent :=
  (s.extents p).filter (fun e => if e.shared then decide (e.owner = p) else !e.readOnly)
/-- Whether an extent has blocks on a site. -/
def extOnSite (e : Extent) (m : Nat) : Bool := e.valid && decide ((m + 40 - e.siteFirst % 40) % 40 < e.siteCount)
/-- GiB units of a partition that a site holds blocks of. -/
def State.siteUnits (s : State) (p m : Nat) : List Nat :=
  ((s.copyExtents p).filter (fun e => extOnSite e m)).flatMap (fun e => rangeFrom e.pbase e.len)
/-- Dirty bit of a unit for a slot. -/
def dirtyKey (p u slot : Nat) : Nat := (p * 2 ^ 18 + u) * 2 + slot
/-- Sets or clears a slot's bit for units of a partition at a site. -/
def State.setDirty (s : State) (m p slot : Nat) (units : List Nat) (on : Bool) : State :=
  s.modSite m (fun q => { q with
    dirty := units.foldl (fun t u => if on then NSet.add (dirtyKey p u slot) t else NSet.del (dirtyKey p u slot) t) q.dirty })
/-- The next block of a unit that lies on a site, from index `i`. -/
def State.nextBlk (s : State) (p m u : Nat) : Nat → Nat → Option Nat
  | 0, _ => none
  | n + 1, i =>
    if (s.place p (u * 2 ^ 30 + i * 4096)).any (fun x => decide (x.site = m)) then some i else s.nextBlk p m u n (i + 1)

/-! ### Sending and ending a copy (R238, R437) -/

/-- CXL window of a partition on a host port: base and length. -/
def State.cxlWindow (s : State) (p h : Nat) : Option (Nat × Nat) :=
  (s.image.bind (fun im => im.cxl.find? (fun e => decide (e.1 = p) && decide (e.2.1 = h)))).map (fun e => (e.2.2.1, e.2.2.2))
/-- Sends one block or the header of a copy to its target; none where the target cannot be reached. -/
def State.sendCkpt (s : State) (p : Nat) (o : OrderSt) (header : Bool) (block data : Nat) (poison : Bool) (crc : BitVec 32) : Option State :=
  if o.toCxl then
    match s.cxlWindow p o.buddy with
    | some (base, _) =>
      if s.flagF F.epdHost_up o.buddy then some (s.emit (.cxlWrite o.buddy (base + o.cxlAddr) o.slot header block data poison crc)) else none
    | none => none
  else (s.route p o.buddy).map fun c =>
    s.sendOn c ⟨1, false, poison, false, o.buddy, s.moduleId, 255, 0, 0, .ckptData p o.slot header block data crc⟩
/-- A copy leaves the sites: listed units and blocks read ahead are given up. -/
def State.dropCopy (s : State) (p : Nat) : State :=
  (s.forAll (rangeFrom 0 40) fun s m => s.modSite m (fun q => { q with
    copying := q.copying.filter (fun k => k.part ≠ p), ahead := q.ahead.filter (fun e => e.1 ≠ p)
    leaving := q.leaving.filter (fun e => e.1 ≠ p) })).modPart p
    (fun q => { q with copy := none })
/-- The snapshot: each site lists its units and clears their bits, and the copy orders go out (R236). -/
def State.takeSnapshot (s : State) (p : Nat) (c : Copy) : State :=
  let o := c.order
  let s := s.modPart p (fun q => { q with copy := some { c with taken := true, mark := q.markNow.getD 0 } })
  s.forAll (rangeFrom 0 40) fun s m =>
    let all := s.siteUnits p m
    let l := if o.incremental then all.filter (fun u => (s.site m).dirty.contains (dirtyKey p u o.slot)) else all
    if all.isEmpty then s
    else
      let s := (s.setDirty m p o.slot l false).setF F.ldgCkptStat_blocks m 0
      let s := s.modSite m (fun q => { q with copying := q.copying ++ [⟨p, o.slot, l, 0, []⟩] })
      s.send (.stewardOrder p o.slot) p (siteNode m) stewardNode
/-- Whether a copy runs past its CXL window: 4 KiB for the header and for every block of its extents (R437; log 20). -/
def State.pastWindow (s : State) (p : Nat) (o : OrderSt) : Bool :=
  o.toCxl && (match s.cxlWindow p o.buddy with
    | some (_, len) => decide (len < o.cxlAddr + 4096 + ((s.copyExtents p).map (fun e => e.len * 2 ^ 30)).sum)
    | none => true)
/-- CHECKPOINT_FAILED (R238): the header is marked invalid and every unit's bit for the slot is set. -/
def State.breakCopy (s : State) (p : Nat) : State :=
  match (s.part p).copy with
  | none => s
  | some { order := o, .. } =>
    let s := s.dropCopy p
    let s := (s.sendCkpt p o true headerBlk 0 false 0).getD s
    let s := s.forAll (rangeFrom 0 40) (fun s m => s.setDirty m p o.slot (s.siteUnits p m) true)
    s.raise .checkpointFailed stewardNode (some p) 0
/-- A copy that cannot finish, whose order completes FAULTED (R238). -/
def State.failCopy (s : State) (p : Nat) : State :=
  match (s.part p).copy with
  | none => s
  | some c => (s.breakCopy p).finish c.order ccFaulted 0 0
/-- Makes an admitted CHECKPOINT the partition's copy; outside RUNNING its snapshot is taken at once (R394). -/
def State.beginCopy (s : State) (p : Nat) (o : OrderSt) : State :=
  let c : Copy := { order := o, slot := o.slot, mark := 0, unacked := [], header := false, taken := false }
  let s := s.modPart p (fun q => { q with copy := some c })
  if s.pastWindow p o then s.failCopy p
  else if s.pState p = psRunning then s
  else s.takeSnapshot p c
/-- The next waiting CHECKPOINT takes its turn once none runs. -/
def State.nextCopy (s : State) (p : Nat) : Nat → State
  | 0 => s
  | n + 1 =>
    match (s.part p).copy, (s.part p).copyQueue with
    | none, o :: t => ((s.modPart p (fun q => { q with copyQueue := t })).beginCopy p o).nextCopy p n
    | _, _ => s
/-- A copy that cannot finish, and the orders behind it. -/
def State.endCopy (s : State) (p : Nat) : State :=
  let s := s.failCopy p
  s.nextCopy p ((s.part p).copyQueue.length + 1)
/-- With every listed block acknowledged, the header goes out, last (R238). -/
def State.tryHeader (s : State) (p : Nat) : State :=
  match (s.part p).copy with
  | some c =>
    if !c.taken || c.header || !c.unacked.isEmpty || s.sites.any (fun e => e.2.copying.any (fun k => decide (k.part = p))) then s
    else
      let v := (Config.slotHeader p c.mark (if c.order.incremental then 1 else 0) s.freeCtr).toNat
      let s := { s with freeCtr := s.freeCtr + 1 }
      match s.sendCkpt p c.order true headerBlk v false (crc32c (leBytes v blockBytes)) with
      | some s => s.modPart p (fun q => { q with copy := some { c with header := true, unacked := [headerBlk] } })
      | none => s.endCopy p
  | none => s
/-- The target has taken or refused a block of the copy; the header's acknowledgement completes it (R238). -/
def State.copyAnswer (s : State) (p block : Nat) (ok : Bool) : State :=
  match (s.part p).copy with
  | none => s
  | some c =>
    if !c.unacked.contains block then s
    else if !ok then s.endCopy p
    else if c.header then
      let s := (s.dropCopy p).raise .checkpointDone stewardNode (some p) 0
      let s := s.finish c.order ccOk 0 0
      s.nextCopy p ((s.part p).copyQueue.length + 1)
    else (s.modPart p (fun q => { q with copy := some { c with unacked := NSet.del block c.unacked } })).tryHeader p
/-- The block of a partition that a site's copy buffer gives up next: one that already left it, else the oldest in it (R237; log 100). -/
def State.takeAhead (s : State) (m p : Nat) : Option ((Nat × Nat × Nat × Bool × BitVec 32) × State) :=
  match (s.site m).leaving.find? (fun e => e.1 = p), (s.site m).ahead.find? (fun e => e.1 = p) with
  | some e, _ => some (e, s.modSite m (fun q => { q with leaving := dropFirst e q.leaving }))
  | none, some e => some (e, s.modSite m (fun q => { q with ahead := dropFirst e q.ahead }))
  | none, none => none
/-- One more block of a site's copy: a block read ahead first, else the next one in order, read and verified (R217, R237). -/
def State.copyBlock (s : State) (m p : Nat) (misreads : Nat) : State :=
  match (s.part p).copy, (s.site m).copying.find? (fun k => k.part = p) with
  | some c, some k =>
    let put (s : State) (b v : Nat) (poison : Bool) (crc : BitVec 32) : State :=
      match s.sendCkpt p c.order false b v poison crc with
      | some s => (s.modPart p (fun q => { q with copy := some { c with unacked := NSet.add b c.unacked } })).bumpF F.ldgCkptStat_blocks m 1
      | none => s.endCopy p
    match s.takeAhead m p with
    | some (e, s) => put s e.2.1 e.2.2.1 e.2.2.2.1 e.2.2.2.2
    | none =>
      let rest := (s.site m).copying.filter (fun x => x.part ≠ p)
      match k.units with
      | [] => (s.modSite m (fun q => { q with copying := rest })).tryHeader p
      | u :: t =>
        match s.nextBlk p m u (2 ^ 18 - k.pos) k.pos with
        | none =>
          let s := s.modSite m (fun q => { q with copying := if t.isEmpty then rest else rest ++ [{ k with units := t, pos := 0 }] })
          if t.isEmpty then s.tryHeader p else s
        | some i =>
          let a := u * 2 ^ 30 + i * 4096
          match s.place p a with
          | none => s
          | some x =>
            let taken := (s.listed m p a)
            let s := s.modSite m (fun q => { q with copying := rest ++ [{ k with pos := i + 1 }] })
            if !taken then s
            else
              let s := s.verify x.blk x.ext.owner misreads
              put s (a / 4096) (s.blkData x.blk) (s.blkMeta x.blk).poison (s.blkMeta x.blk).crc
  | _, _ => s
/-- `n` more blocks. -/
def State.copyBlocks (s : State) (m p misreads : Nat) : Nat → State
  | 0 => s
  | n + 1 => (s.copyBlock m p misreads).copyBlocks m p misreads n

/-! ### The commands -/

/-- STEWARD_ORDER at a ring die: a checkpoint copy sends its next blocks. The order stands until the site has copied its list (log 21). -/
def execStewardOrder (m : SiteIx) (c : Ctl) (blocks misreads : Nat) (s : State) : Outcome State Fault Refusal :=
  .next (
    match c.msg with
    | .stewardOrder p _ =>
      let t := s.takeCtl c (fun s => s.copyBlocks m p misreads blocks)
      if (t.site m).copying.any (fun k => decide (k.part = p)) && decide (c.high = c.msg.isHigh) then { t with ctl := t.ctl ++ [c] } else t
    | _ => s.takeCtl c id)
/-- CHECKPOINT_SNAPSHOT: at the checkpoint boundary, once the updates before it have resolved, or outside RUNNING (R236, R394). -/
def execCheckpointSnapshot (p : PartIx) (s : State) : Outcome State Fault Refusal :=
  .next (
    match (s.part p).copy with
    | none => s
    | some c =>
      let n := s.microStep p
      let due := (s.dueGroups p n).any (fun g => !(s.part p).resolved.contains g)
      let full : Bool := match (s.part p).arrivals with
        | some a => decide ((s.activeOf p).length ≤ a.count)
        | none => false
      if c.taken then s
      else if s.pState p ≠ psRunning then s.takeSnapshot p c
      else if (s.part p).markNow.isSome && full && !due then (s.takeSnapshot p c).tryRelease p
      else s)
/-- CKPT_ACK (R238). -/
def execCkptAck (f : KlFrame) (s : State) : Outcome State Fault Refusal :=
  .next (
    let s := s.takeFrame f
    match f.body with
    | .ckptAck _ header block ok => s.copyAnswer f.part (if header then headerBlk else block) ok
    | _ => s)
/-- Where a received checkpoint block is held. -/
def recvKey (module_ part slot block : Nat) : Nat := ((module_ * 64 + part) * 2 + slot) * 2 ^ 41 + block
/-- CKPT_DATA: a permitted sender's block is written in the frames LDG.RECV reserves and acknowledged; any other is dropped and counted, and
refused to its sender (R239, R437). `State.recv` holds those frames by sender, slot and block. DESIGN CHOICE (log 35). -/
def execCkptData (sub : Fin 256) (f : KlFrame) (s : State) : Outcome State Fault Refusal :=
  .next (
    let s := s.takeFrame f
    match f.body with
    | .ckptData p slot header block data crc =>
      let allowed := decide (s.getF F.ldgRecv_frame_count 0 ≠ 0) && ((s.image.map (·.ckptSenders)).getD []).any (fun e => decide (e.1 = f.src) && decide (e.2.1 = p))
      let answer (s : State) : State :=
        s.sendOn (s.conn sub f.src) ⟨1, false, false, false, f.src, s.moduleId, p, 0, 0, .ckptAck slot header block allowed⟩
      if allowed then
        let k := recvKey f.src (p % 64) (slot % 2) (if header then headerBlk else block % headerBlk)
        answer { s with recv := Tab.put (fun _ => none) k (some ⟨data % 2 ^ 32768, f.poison, crc⟩) s.recv }
      else answer (s.bumpF F.epdStat_isolation (sub.val / 32) 1)
    | _ => s)
/-- One block of a restore: a failed check writes poison and is counted; a block copied with poison keeps it (R240). A block in no extent of the
copy is left out. -/
def State.restoreBlk (s : State) (p : Nat) (b : RestoreBlk) : State :=
  let a := b.block * 4096
  match (s.part p).restore, translate (s.copyExtents p) a with
  | some r, some x =>
    let good := decide (crc32c (leBytes b.data blockBytes) = b.crc)
    let s := s.putBlock p a (b.data % 2 ^ 32768) (b.poison || !good) (crc32c (leBytes b.data blockBytes))
    let s := s.setDirty x.site p r.order.slot [a / 2 ^ 30] false
    if good then s
    else (s.bumpF F.ldgCkptStat_bad_blocks x.site 1).modPart p (fun q => { q with restore := some { r with bad := r.bad + 1 } })
  | _, _ => s
/-- RESTORE_DONE: the rest of the slot is written, and the order completes (R240, R395). -/
def execRestoreDone (p : PartIx) (blocks : List RestoreBlk) (s : State) : Outcome State Fault Refusal :=
  .next (
    if (s.part p).restore.isNone then s
    else
      let s := blocks.foldl (fun s b => s.restoreBlk p b) s
      match (s.part p).restore with
      | none => s
      | some r =>
        let s := (s.modPart p (fun q => { q with restore := none })).setB F.partState_restore_incomplete p false
        if r.bad = 0 then s.finish r.order ccOk 0 0 else s.finish r.order ccFaulted 2 r.bad)
/-- A block that the device refuses to read is a failing block of the restore: it keeps its bytes, poisoned (R240; log 20). -/
def State.restoreLost (s : State) (p block : Nat) : State :=
  let v := s.partRead p (block * 4096) blockBytes
  s.restoreBlk p ⟨block, v, true, crc32c (leBytes v blockBytes) ^^^ 1⟩
/-- CXL_MEM_COMPLETION: a write of a copy taken or refused, or a block read for a restore or refused (R238, R240, R437). -/
def execCxlMemCompletion (p : PartIx) (ok : Bool) (block : Nat) (read : Option RestoreBlk) (s : State) : Outcome State Fault Refusal :=
  .next (
    match read with
    | none => if ok ∨ (s.part p).restore.isNone then s.copyAnswer p block ok else s.restoreLost p block
    | some b => if ok then s.restoreBlk p b else s.restoreLost p b.block)

end Sys2Proof.Machine
end

