-- ==== Sys2Proof/Machine/Crypto.lean ====
section
/-! DEFINITION. SHA-256 and HMAC-SHA-256, which sessions, capsules and images are checked with (R368, R386, R485). -/
namespace Sys2Proof.Machine

/-- Round constants of SHA-256. -/
def shaK : List (BitVec 32) :=
  [0x428a2f98, 0x71374491, 0xb5c0fbcf, 0xe9b5dba5, 0x3956c25b, 0x59f111f1, 0x923f82a4, 0xab1c5ed5] ++
    [0xd807aa98, 0x12835b01, 0x243185be, 0x550c7dc3, 0x72be5d74, 0x80deb1fe, 0x9bdc06a7, 0xc19bf174] ++
    [0xe49b69c1, 0xefbe4786, 0x0fc19dc6, 0x240ca1cc, 0x2de92c6f, 0x4a7484aa, 0x5cb0a9dc, 0x76f988da] ++
    [0x983e5152, 0xa831c66d, 0xb00327c8, 0xbf597fc7, 0xc6e00bf3, 0xd5a79147, 0x06ca6351, 0x14292967] ++
    [0x27b70a85, 0x2e1b2138, 0x4d2c6dfc, 0x53380d13, 0x650a7354, 0x766a0abb, 0x81c2c92e, 0x92722c85] ++
    [0xa2bfe8a1, 0xa81a664b, 0xc24b8b70, 0xc76c51a3, 0xd192e819, 0xd6990624, 0xf40e3585, 0x106aa070] ++
    [0x19a4c116, 0x1e376c08, 0x2748774c, 0x34b0bcb5, 0x391c0cb3, 0x4ed8aa4a, 0x5b9cca4f, 0x682e6ff3] ++
    [0x748f82ee, 0x78a5636f, 0x84c87814, 0x8cc70208, 0x90befffa, 0xa4506ceb, 0xbef9a3f7, 0xc67178f2]
/-- Initial hash value of SHA-256. -/
def shaInit : List (BitVec 32) :=
  [0x6a09e667, 0xbb67ae85, 0x3c6ef372, 0xa54ff53a, 0x510e527f, 0x9b05688c, 0x1f83d9ab, 0x5be0cd19]
/-- Rotation to the right. -/
def rotr (x : BitVec 32) (n : Nat) : BitVec 32 := x.rotateRight n
/-- One more word of the message schedule, held newest first. -/
def shaNext (l : List (BitVec 32)) : List (BitVec 32) :=
  let w (i : Nat) : BitVec 32 := l.getD (i - 1) 0
  let s0 := rotr (w 15) 7 ^^^ rotr (w 15) 18 ^^^ (w 15 >>> 3)
  let s1 := rotr (w 2) 17 ^^^ rotr (w 2) 19 ^^^ (w 2 >>> 10)
  (w 16 + s0 + w 7 + s1) :: l
/-- Extends a schedule by `n` words. -/
def shaExtend : Nat → List (BitVec 32) → List (BitVec 32)
  | 0, l => l
  | n + 1, l => shaExtend n (shaNext l)
/-- One round on the eight working values, for a constant and a schedule word. -/
def shaRound (v : List (BitVec 32)) (k w : BitVec 32) : List (BitVec 32) :=
  match v with
  | [a, b, c, d, e, f, g, h] =>
    let t1 := h + (rotr e 6 ^^^ rotr e 11 ^^^ rotr e 25) + ((e &&& f) ^^^ (~~~e &&& g)) + k + w
    let t2 := (rotr a 2 ^^^ rotr a 13 ^^^ rotr a 22) + ((a &&& b) ^^^ (a &&& c) ^^^ (b &&& c))
    [t1 + t2, a, b, c, d + t1, e, f, g]
  | _ => v
/-- The big-endian word at the head of a block. -/
def beWord (l : List Byte) : BitVec 32 := BitVec.ofNat 32 (ofBe (l.take 4))
/-- One 64 B block. -/
def shaBlock (h : List (BitVec 32)) (b : List Byte) : List (BitVec 32) :=
  let w := ((rangeFrom 0 16).map (fun i => beWord (b.drop (4 * i)))).reverse
  let ws := (shaExtend 48 w).reverse
  let v := (shaK.zip ws).foldl (fun v x => shaRound v x.1 x.2) h
  (h.zip v).map (fun x => x.1 + x.2)
/-- The blocks of a padded message. -/
def shaBlocks : Nat → List (BitVec 32) → List Byte → List (BitVec 32)
  | 0, h, _ => h
  | n + 1, h, l => shaBlocks n (shaBlock h (l.take 64)) (l.drop 64)
/-- SHA-256 as 32 bytes. -/
def sha256 (m : List Byte) : List Byte :=
  let n := m.length
  let zeros := (119 - n % 64) % 64
  let padded := m ++ [0x80#8] ++ List.replicate zeros 0#8 ++ (leBytes (8 * n) 8).reverse
  (shaBlocks (padded.length / 64) shaInit padded).flatMap (fun w => (leBytes w.toNat 4).reverse)
/-- HMAC-SHA-256; a key of more than 64 bytes is hashed first. -/
def hmac256 (key msg : List Byte) : List Byte :=
  let key := if 64 < key.length then sha256 key else key
  let k := key ++ List.replicate (64 - key.length) 0#8
  sha256 (k.map (· ^^^ 0x5c#8) ++ sha256 (k.map (· ^^^ 0x36#8) ++ msg))
/-- The rounds of PBKDF2 after the first: the last block and the sum so far. -/
def pbkdfRounds (key : List Byte) : Nat → List Byte → List Byte → List Byte
  | 0, _, acc => acc
  | n + 1, u, acc =>
    let u := hmac256 key u
    pbkdfRounds key n u ((acc.zip u).map (fun x => x.1 ^^^ x.2))
/-- PBKDF2-HMAC-SHA-256 with a 256-bit result (R369). -/
def pbkdf2 (password salt : List Byte) (count : Nat) : List Byte :=
  let u := hmac256 password (salt ++ [0#8, 0#8, 0#8, 1#8])
  pbkdfRounds password (count - 1) u u

end Sys2Proof.Machine
end

