-- ==== Sys2Proof/Machine/Power.lean ====
section
/-! DEFINITION. Power delivery, points and ceilings between releases, the thermal governor, module power states, the facility cap
and metering (R448 to R482). -/
namespace Sys2Proof.Machine
open Host

/-- Node of a die's power tile (R284). -/
def tileNode (d : Nat) : Nat := 0x1100 + d
/-- Module power states of R470. -/
def pwActive : Nat := 0
def pwHold : Nat := 1
def pwStandby : Nat := 2
def State.pwState (s : State) : Nat := s.getF F.pwrState_state 0
/-- Whether any partition is RUNNING. -/
def State.anyRunning (s : State) : Bool := (rangeFrom 0 64).any (fun p => decide (s.pState p = psRunning))
/-- Partition of a core; 255 for none. -/
def State.ownerNum (s : State) (c : Nat) : Nat := (s.ownerOf c).getD 255

/-! ### Forecasts, droop and voltage (R456, R457, R463) -/

/-- FORECAST_NOTE at a power tile (R456). -/
def execForecastNote (d : DieIx) (m : Ctl) (s : State) : Outcome State Fault Refusal :=
  .next (s.takeCtl m fun s =>
    match m.msg with
    | .forecastNote l => s.modDie d (fun q => { q with levels := Tab.put (fun _ => 0) m.src l q.levels })
    | _ => s)
/-- DROOP_STRETCH: the core stretches its array cycles while its margin is short (R457). -/
def execDroopStretch (c : CoreIx) (ps : BitVec 8) (s : State) : Outcome State Fault Refusal :=
  .next (if ps.toNat < 10 then (s.modCore c (fun q => { q with stretch := true })).setF F.vregDroop_min_ps c ps.toNat else s)
/-- DROOP_RECOVERY, after so many stretched cycles (R457). -/
def execDroopRecovery (c : CoreIx) (cycles : Nat) (s : State) : Outcome State Fault Refusal :=
  .next (if (s.core c).stretch then
      (s.modCore c (fun q => { q with stretch := false })).bumpF F.vregDroop_stretches c cycles else s)
/-- VOLTAGE_REACHED: the faster divisor is taken (R463). -/
def execVoltageReached (c : CoreIx) (s : State) : Outcome State Fault Refusal :=
  .next (match (s.core c).rising with
    | none => s
    | some i =>
      let s := (s.modCore c (fun q => { q with rising := none })).setF F.vregPoint_divisor c i
      (s.setF F.vregPoint_mv c (s.vCommand c i)).levelMv c)

/-! ### Phases and supply distress (R453, R458 to R461) -/

/-- PHASE_SHED: a phase that fails open or loses its current sense is retired, and so shed (R458). -/
def execPhaseShed (d : DieIx) (k : Fin 16) (s : State) : Outcome State Fault Refusal :=
  .next (if s.unitState (unitPhase d k) = 3 then s.shedPhase d k else s.charge (unitPhase d k) Config.otherCause.toNat true)
/-- PHASE_FAULT: any other fault of a phase is counted (R349, R458). -/
def execPhaseFault (d : DieIx) (k : Fin 16) (s : State) : Outcome State Fault Refusal :=
  .next (s.charge (unitPhase d k) Config.otherCause.toNat false)
/-- SUPPLY_DISTRESS_ONSET (R459). -/
def execSupplyDistressOnset (d : DieIx) (s : State) : Outcome State Fault Refusal :=
  .next (
    if s.flagF F.tileStatus_distress d then s
    else
      let s := (s.setB F.tileStatus_distress d true).raise .supplyDistress (tileNode d) none 0
      (dieCores d).foldl (fun s c => s.send .supplyDistress (s.ownerNum c) c (tileNode d)) s)
/-- SUPPLY_DISTRESS at a core: one divisor step slower than its governed point, or ceiling 32 at ÷12 (R99, R459). -/
def execSupplyDistress (c : CoreIx) (m : Ctl) (s : State) : Outcome State Fault Refusal :=
  .next (s.takeCtl m fun s =>
    if s.getF F.vregPoint_state c ≠ vRun then s
    else
      let p := s.ownerNum c
      if s.pointOf p c = 4 ∧ (s.core c).distSteps = 0 then (s.modCore c (fun q => { q with distCeil := true })).showCeil c
      else (s.modCore c (fun q => { q with distSteps := 1 })).applyPoint p c)
/-- DISTRESS_PERSISTS: the die ceiling falls by 8, down to 16 (R460). -/
def execDistressPersists (d : DieIx) (s : State) : Outcome State Fault Refusal :=
  .next (if s.flagF F.tileStatus_distress d then (s.modDie d (fun q => { q with distDrop := min 48 (q.distDrop + 8) })).showDie d else s)
/-- DISTRESS_END: points and ceilings return at the next STEP release (R459, R460). -/
def execDistressEnd (d : DieIx) (s : State) : Outcome State Fault Refusal := .next (s.setB F.tileStatus_distress d false)

/-! ### The thermal governor (R467) -/

/-- Dies beside a die. -/
def dieNeighbours (d : Nat) : List Nat :=
  (if 8 ≤ d then [d - 8] else []) ++ (if d % 8 < 7 then [d + 1] else []) ++ (if d < 56 then [d + 8] else []) ++ (if 0 < d % 8 then [d - 1] else [])
/-- Over the limit, by a margin: 95 °C less it, or 20 °C less it above an adjacent die. -/
def State.overLimit (s : State) (d margin : Nat) : Bool :=
  let t := s.getF F.tileStatus_temp_c d
  decide (95 < t + margin) || (dieNeighbours d).any (fun k => decide (s.getF F.tileStatus_temp_c k + 20 < t + margin))
/-- THERMAL_SAMPLE: a reading judged against both limits. -/
def execThermalSample (d : DieIx) (temp : BitVec 8) (s : State) : Outcome State Fault Refusal :=
  .next (
    let s := s.setF F.tileStatus_temp_c d temp.toNat
    if s.overLimit d 0 then s.modDie d (fun q => { q with hot := true, cooled := false }) else s)
/-- THERMAL_STEP: RUN cores one divisor slower, down to the clock floor, then the thermal ceiling by 8, down to 16. -/
def execThermalStep (d : DieIx) (s : State) : Outcome State Fault Refusal :=
  .next (
    if !(s.die d).hot || !s.overLimit d 0 then s
    else
      let s := if (s.die d).told then s
        else (s.modDie d (fun q => { q with told := true })).raise .thermalStep (tileNode d) none 0
      let run := (dieCores d).filter (fun c => decide (s.getF F.vregPoint_state c = vRun))
      let free := run.filter (fun c => decide (s.pointOf (s.ownerNum c) c < s.floorCode (s.ownerNum c)))
      if free.isEmpty then (s.modDie d (fun q => { q with thermCeil := max 16 (q.thermCeil - 8) })).showDie d
      else free.foldl (fun s c => (s.modCore c (fun q => { q with thermSteps := q.thermSteps + 1 })).applyPoint (s.ownerNum c) c) s)
/-- THERMAL_RECOVERY: 5 °C inside both limits; divisors and ceiling return at the following releases. -/
def execThermalRecovery (d : DieIx) (s : State) : Outcome State Fault Refusal :=
  .next (
    if (s.die d).hot && !s.overLimit d 5 then s.modDie d (fun q => { q with hot := false, told := false, cooled := true }) else s)

/-! ### Module power states (R469 to R473) -/

/-- The module enters HOLD: every core that is not in OFF is in HOLD. -/
def State.enterHold (s : State) : State :=
  let s := (rangeFrom 0 4096).foldl (fun s c => s.setPower c vHold) s
  (s.setF F.pwrState_state 0 pwHold).modMod (fun q => { q with exiting := false })
/-- The exit from HOLD begins, unless a leak holds the module there (R471, R473). -/
def State.beginExit (s : State) : State :=
  if s.pwState = pwHold ∧ ¬ s.flagF F.pwrState_leak 0 then s.modMod (fun q => { q with exiting := true }) else s
/-- A refused PWR.MODE request. -/
def State.modeError (s : State) : State := s.setB F.pwrMode_error 0 true
/-- MODULE_ACTIVE_REQUEST (R471). -/
def execModuleActiveRequest (path : Path) (s : State) : Outcome State Fault Refusal :=
  .next (s.ifAdmitted path fun s =>
    if s.pwState = pwActive then s
    else if s.pwState = pwHold ∧ ¬ s.flagF F.pwrState_leak 0 then s.beginExit
    else s.modeError)
/-- MODULE_HOLD_REQUEST: refused while a partition runs (R471). -/
def execModuleHoldRequest (path : Path) (s : State) : Outcome State Fault Refusal :=
  .next (s.ifAdmitted path fun s =>
    if s.anyRunning || decide (s.pwState = pwStandby) then s.modeError else s.enterHold)
/-- IDLE_HOLD_ENTRY (R471). -/
def execIdleHoldEntry (s : State) : Outcome State Fault Refusal :=
  .next (if s.anyRunning || decide (s.getF F.pwrCfg_idle_hold_ms 0 = 0) || decide (s.pwState ≠ pwActive) then s else s.enterHold)
/-- A paused partition asks for its pause as a cap pause does: a management PAUSE with no hold time (R389, R473, R475). -/
def State.capPause (s : State) (p : Nat) : State :=
  let s := (s.setB F.partPower_cap_paused p true).setB F.partState_pause_pending p true
  let s := s.modPart p (fun q => { q with pauseAsked := q.pauseAsked ++ [(none, 0)] })
  s.send (.hold 0) p stewardNode stewardNode
/-- LEAK_DETECTED: the event with its sources, a cap pause of every RUNNING partition, and PWR.STATE.leak (R442, R473, R517). -/
def execLeakDetected (src : BitVec 3) (s : State) : Outcome State Fault Refusal :=
  .next (
    let s := ((s.setB F.sbStat_leak 0 true).raise .leakDetected stewardNode none src.toNat).setB F.pwrState_leak 0 true
    ((rangeFrom 0 64).filter (fun p => decide (s.pState p = psRunning))).foldl (fun s p => s.capPause p) s)
/-- LEAK_HOLD_ENTRY: HOLD once every partition has paused (R473). -/
def execLeakHoldEntry (s : State) : Outcome State Fault Refusal :=
  .next (if s.flagF F.pwrState_leak 0 && !s.anyRunning && decide (s.pwState ≠ pwStandby) then s.enterHold else s)
/-- LEAK_DET and the drip sensors read no leak (R473). -/
def execLeakDetDeassert (s : State) : Outcome State Fault Refusal := .next (s.setB F.sbStat_leak 0 false)
/-- CORE_PAUSE_HOLD: a paused partition's core that waits at the barrier goes to HOLD (R469). -/
def execCorePauseHold (c : CoreIx) (s : State) : Outcome State Fault Refusal :=
  .next (
    match s.ownerOf c with
    | some p => if s.pState p = psPaused ∧ (s.core c).atBar.isSome then s.setPower c vHold else s
    | none => s)

/-! ### References (R449) -/

/-- REF_LOSS_PRIMARY: the root PLL takes the secondary reference. -/
def execRefLossPrimary (d : DieIx) (s : State) : Outcome State Fault Refusal :=
  .next (if s.flagF F.tileStatus_holdover d then s else s.setB F.tileStatus_ref_secondary d true)
/-- REF_LOSS_BOTH: holdover. -/
def execRefLossBoth (d : DieIx) (s : State) : Outcome State Fault Refusal :=
  .next ((s.setB F.tileStatus_ref_secondary d false).setB F.tileStatus_holdover d true)
/-- REF_RETURN: edges of the primary reference, or of the secondary one, are seen again. -/
def execRefReturn (d : DieIx) (primary : Bool) (s : State) : Outcome State Fault Refusal :=
  .next (
    if primary then (s.setB F.tileStatus_ref_secondary d false).setB F.tileStatus_holdover d false
    else if s.flagF F.tileStatus_holdover d then (s.setB F.tileStatus_holdover d false).setB F.tileStatus_ref_secondary d true
    else s)

/-! ### The facility cap (R474 to R477) -/

/-- Caps in force with their sources, in source order. -/
def State.caps (s : State) : List (Nat × Nat) :=
  [(s.mod.pinCap, 1), (s.mod.smbusCap, 2), (s.getF F.pwrCap_cap_w 0, 3), ((s.image.map (·.imageCap)).getD 0, 4)].filter (fun e => e.1 ≠ 0)
/-- The lowest cap and its source; 24,000 W and no source where none is in force. -/
def State.lowestCap (s : State) : Nat × Nat :=
  s.caps.foldl (fun b e => if b.2 = 0 ∨ e.1 < b.1 then e else b) (24000, 0)
/-- A cap source has changed: a decrease at once, an increase by the ramp; POWER_CAP_CHANGED for a new target or source (R474). -/
def State.recap (s : State) : State :=
  let t := s.lowestCap
  let now := s.getF F.pwrCapEff_watts 0
  let s := if t.1 ≤ now then (s.setF F.pwrCapEff_watts 0 t.1).setB F.pwrCapEff_ramping 0 false else s.setB F.pwrCapEff_ramping 0 true
  let s := s.setF F.pwrCapEff_source 0 t.2
  if t = (s.mod.capTarget, s.mod.capSource) then s
  else (s.modMod (fun q => { q with capTarget := t.1, capSource := t.2 })).raise .powerCapChanged stewardNode none 0
/-- CAP_RAMP_STEP: 1 ms of a ramp (R474, R477). -/
def execCapRampStep (s : State) : Outcome State Fault Refusal :=
  .next (
    let t := s.lowestCap.1
    let n := min t (s.getF F.pwrCapEff_watts 0 + s.getF F.pwrCap_ramp_w_ms 0)
    if s.flagF F.pwrCapEff_ramping 0 then (s.setF F.pwrCapEff_watts 0 n).setB F.pwrCapEff_ramping 0 (decide (n < t)) else s)
/-- PWR_CAP_COMMIT of the management pair (R408, R477). -/
def execPwrCapCommit (path : Path) (v : BitVec 32) (s : State) : Outcome State Fault Refusal :=
  .next (s.ifAdmitted path fun s =>
    let s := if bit v 8 then s.setB F.pwrCapCommit_error 0 false else s
    let cap := s.getF F.pwrCapShadow_cap_w 0
    let ramp := s.getF F.pwrCapShadow_ramp_w_ms 0
    if !bit v 0 then s
    else if (cap = 0 ∨ (2400 ≤ cap ∧ cap ≤ 24000)) ∧ 1 ≤ ramp ∧ ramp ≤ 24000 then
      ((s.setF F.pwrCap_cap_w 0 cap).setF F.pwrCap_ramp_w_ms 0 ramp).recap
    else (s.setB F.pwrCapCommit_error 0 true).raise .pairCommitRejected stewardNode none 0)
/-- Whether a cap ceiling or a cap pause is in force. -/
def State.showLimiting (s : State) : State :=
  s.setB F.pwrCapEff_limiting 0 (s.cores.any (fun e => decide (e.2.capCeil < 64))
    || (rangeFrom 0 64).any (fun p => s.flagF F.partPower_cap_paused p))
/-- Tokens per MWh in units of 10^6, from tokens and mJ (R480). -/
def efficiency (tokens mj : Nat) : Nat := if mj = 0 then 0 else min (2 ^ 32 - 1) (tokens * 3600000000 * 1000 / mj / 1000000)
/-- Adds the present second's figures to a history of 60 s. -/
def keepPast (sec tokens mj : Nat) (l : List (Nat × Nat × Nat)) : List (Nat × Nat × Nat) :=
  (if l.any (fun e => decide (e.1 = sec)) then l else (sec, tokens, mj) :: l).filter (fun e => decide (sec ≤ e.1 + 60))
/-- Efficiency over a history: since its oldest entry. -/
def windowEff (tokens mj : Nat) (l : List (Nat × Nat × Nat)) : Nat :=
  match l.getLast? with
  | some e => efficiency (tokens - e.2.1) (mj - e.2.2)
  | none => 0
/-- One reading of the energy meter: measurements, energy, the efficiency registers, and the currents of power tiles (R478 to R480, R482). -/
def State.meter (s : State) (m : Meter) : State :=
  let s := ((s.setF F.pwrInput_mv 0 m.mv.toNat).setF F.pwrInput_deciamps 0 m.deciamps.toNat).setF F.pwrInput_watts 0 m.watts.toNat
  let s := m.currents.foldl (fun (s : State) (e : DieIx × BitVec 10) => s.setF F.tileStatus_current e.1 e.2.toNat) s
  let s := s.bumpF F.pwrOverhead_value 0 m.overhead
  let s := s.bumpF F.pwrEnergy_value 0 (m.overhead + (m.parts.map (fun e => e.2.2)).sum)
  let s := m.parts.foldl (fun (s : State) (e : PartIx × Nat × Nat) =>
    let s := (s.setF F.partPower_watts e.1 (min 32767 e.2.1)).bumpF F.partEnergy_value e.1 e.2.2
    let t := s.getF F.partTokens_value e.1
    let j := s.getF F.partEnergy_value e.1
    let s := s.modPart e.1 (fun q => { q with past := keepPast s.seconds t j q.past })
    (s.setF F.partEff_window e.1 (windowEff t j (s.part e.1).past)).setF F.partEff_total e.1 (efficiency t j)) s
  let t := s.getF F.pwrTokens_value 0
  let j := s.getF F.pwrEnergy_value 0
  let s := s.modMod (fun q => { q with past := keepPast s.seconds t j q.past })
  (s.setF F.pwrEff_window 0 (windowEff t j s.mod.past)).setF F.pwrEff_total 0 (efficiency t j)
/-- CAP_CHECK: the governor reads the meter and, while power exceeds the cap, lowers the cap ceiling by 8 on the cores it
names; below the cap it may lift the ceilings of the cores it names (R475, R476). -/
def execCapCheck (m : Meter) (cores : List CoreIx) (s : State) : Outcome State Fault Refusal :=
  .next (
    let s := s.meter m
    let over_ := decide (s.getF F.pwrCapEff_watts 0 < m.watts.toNat)
    let s := cores.foldl (fun (s : State) (c : CoreIx) =>
      (s.modCore c (fun q => { q with capCeil := if over_ then max 16 (q.capCeil - 8) else min 64 (q.capCeil + 8) })).showCeil c) s
    s.showLimiting)
/-- The RUNNING partition whose power most exceeds its budget (R475, R476). -/
def State.mostOver (s : State) : Option Nat :=
  let run := (rangeFrom 0 64).filter (fun p => decide (s.pState p = psRunning))
  let shares := (run.map (fun p => s.getF F.partPower_share_w p)).sum
  let drawn := ((rangeFrom 0 64).map (fun p => s.getF F.partPower_watts p)).sum
  let budget := s.getF F.pwrCapEff_watts 0 - (s.getF F.pwrInput_watts 0 - drawn)
  let excess (p : Nat) : Int := (s.getF F.partPower_watts p * shares : Nat) - (budget * s.getF F.partPower_share_w p : Nat)
  run.foldl (fun (b : Option Nat) p => match b with
    | none => some p
    | some q => if excess q < excess p then some p else b) none
/-- CAP_PAUSE: every running core sits at ceiling 16 and power still exceeds the cap (R475). -/
def execCapPause (s : State) : Outcome State Fault Refusal :=
  .next (
    let running := (rangeFrom 0 4096).filter (fun c => decide (s.getF F.vregPoint_state c = vRun))
    if s.getF F.pwrInput_watts 0 ≤ s.getF F.pwrCapEff_watts 0 ∨ running.any (fun c => decide (16 < s.ceilOf c)) then s
    else match s.mostOver with
      | some p => (s.capPause p).showLimiting
      | none => s)

/-! ### Steward mode (R481) -/

/-- Steward mode begins or ends, with its event. -/
def State.setSteward (s : State) (on : Bool) : State :=
  if s.flagF F.pwrState_steward_mode 0 = on then s
  else (s.setB F.pwrState_steward_mode 0 on).raise (if on then .stewardModeEntered else .stewardModeLeft) stewardNode none 0
/-- STEWARD_MODE_ENTERED: every host port in endpoint mode is down (R435, R481). -/
def execStewardModeEntered (s : State) : Outcome State Fault Refusal :=
  .next (if (rangeFrom 0 4).any (fun h => decide (s.getF F.epdHost_mode h = 1) && s.flagF F.epdHost_up h) then s else s.setSteward true)
/-- STEWARD_SET by an admin (R481). -/
def execStewardSet (path : Path) (s : State) : Outcome State Fault Refusal := .next (s.ifAdmitted path fun s => s.setSteward true)
/-- STEWARD_MODE_LEFT by an admin (R481); a host link that trains ends the mode at its own row. -/
def execStewardModeLeft (path : Path) (s : State) : Outcome State Fault Refusal := .next (s.ifAdmitted path fun s => s.setSteward false)

end Sys2Proof.Machine
end

