-- ==== Sys2Proof/Machine/Capsule.lean ====
section
/-! DEFINITION. Job capsules: the header and section table in their bytes, validation, and loading (R324, R385 to R387). -/
namespace Sys2Proof.Machine
open Host

/-! ### The capsule's bytes (R386) -/

/-- A little-endian field of a 256 B header: first byte, bytes. -/
def hdrNat (h : BitVec 2048) (k n : Nat) : Nat := bits h (8 * k) (8 * n)
/-- One entry of the section table. -/
structure SecEntry where
  kind : Nat
  ver : Nat
  len : Nat
  off : Nat
/-- The section table of a capsule or image: `n` entries of 16 B. -/
def secTable : Nat → List Byte → List SecEntry
  | 0, _ => []
  | n + 1, l => ⟨ofLe (l.take 2), ofLe ((l.drop 2).take 2), ofLe ((l.drop 4).take 4), ofLe ((l.drop 8).take 8)⟩ :: secTable n (l.drop 16)
/-- Whether ranges of start and length, given in any order, share a byte. -/
def rangesMeet : List (Nat × Nat) → Bool
  | [] => false
  | a :: t => t.any (fun b => decide (a.1 < b.1 + b.2) && decide (b.1 < a.1 + a.2)) || rangesMeet t
/-- The header's fields in place of the decoded capsule's own. -/
def capsuleOf (h : BitVec 2048) (b : Capsule) : Capsule :=
  { b with active := hdrNat h 18 2, standby := hdrNat h 20 2, clockFloor := hdrNat h 22 1, warmup := hdrNat h 23 1
           recovery := hdrNat h 24 1, planGroup := hdrNat h 26 2, seed := BitVec.ofNat 64 (hdrNat h 64 8)
           policy := hdrNat h 72 8, mirror := hdrNat h 80 4 }
/-- The plans of a capsule, normal first. -/
def plansOf (b : Capsule) : List Plan := b.normal.toList ++ [b.uniform]
/-- Steps of the run a capsule declares: the count of the outer REPEAT, the same in every program of both plans (R324). -/
def runCount (b : Capsule) : Nat := bits (((b.uniform.programs.head?).bind (·.words.head?)).getD 0) 40 16

/-! ### Programs (R107, R165, R324, R353): run once through on a scratch machine -/

/-- The state an outcome holds. -/
def outState (d : State) : Outcome State Fault Refusal → State
  | .next t => t
  | _ => d
/-- Words of an instruction by its opcode (R73, R75). -/
def wordsOf (op : Nat) : Nat :=
  match op with
  | 0x11 | 0x20 | 0x30 => 2
  | 0x38 => 5
  | 0x39 => 3
  | _ => 1
/-- One instruction of a program at a core, in the meaning its own row has; none for a reserved opcode. What a SPARSE_TILE finds at run time is
not known here, so one that may run dense leaves no tile (R165, R193). -/
def runInstr (c : CoreIx) (ws : List Word) (s : State) : Option State :=
  let w := ws.headD 0
  let x (i : Nat) : Word := ws.getD i 0
  let o := Obs.clean
  let out (r : Outcome State Fault Refusal) : Option State := some (outState s r)
  match bits w 58 6 with
  | 0x00 => out (execNop c w o s)
  | 0x01 => out (execEnd c w o s)
  | 0x02 => out (execWaitCount c w o (s.setF F.seqCount_value (c * 64 + bits w 48 8 % 64) (2 ^ 32 - 1)))
  | 0x03 => if bits w 54 2 = 0 then out (execBarrierGroup c w o s) else if bits w 54 2 = 1 then out (execBarrierStep c w o s) else none
  | 0x04 => out (execForecast c w o s)
  | 0x05 => out (execChkptMark c w o s)
  | 0x06 => out (execRepeat c w o s)
  | 0x07 => out (execSetr c w o s)
  | 0x10 => out (execLoadTile c w o s)
  | 0x11 => out (execStream c w (x 1) o s)
  | 0x12 => out (execProof c w o s)
  | 0x20 =>
    match bits w 50 6 with
    | 0 => out (execVecAdd c w (x 1) o s)
    | 1 => out (execVecSub c w (x 1) o s)
    | 2 => out (execVecMul c w (x 1) o s)
    | 3 => out (execVecFma c w (x 1) o s)
    | 4 => out (execVecMax c w (x 1) o s)
    | 5 => out (execVecMin c w (x 1) o s)
    | 6 => out (execVecCmpEq c w (x 1) o s)
    | 7 => out (execVecCmpLt c w (x 1) o s)
    | 8 => out (execVecCmpLe c w (x 1) o s)
    | 9 => out (execVecCvt c w (x 1) o s)
    | 10 => out (execVecExp c w (x 1) o s)
    | 11 => out (execVecRecip c w (x 1) o s)
    | 12 => out (execVecRsqrt c w (x 1) o s)
    | 13 => out (execVecRsum c w (x 1) o s)
    | 14 => out (execVecRmax c w (x 1) o s)
    | 15 => out (execVecRange c w (x 1) o s)
    | 16 => out (execVecBexp c w (x 1) o s)
    | 17 => out (execVecQgrid c w (x 1) o s)
    | 18 => out (execVecMxscale c w (x 1) o s)
    | _ => none
  | 0x30 => (out (execSparseTile c w (x 1) o s)).map (fun t => if bits (x 1) 38 2 = 1 ∨ bits (x 1) 0 32 = 0 then t else t.dropTile c)
  | 0x38 =>
    match bits (x 1) 0 4 with
    | 0 => out (execDramRead c w (x 1) (x 2) (x 3) (x 4) o s)
    | 1 => out (execDramWrite c w (x 1) (x 2) (x 3) (x 4) o s)
    | 2 => out (execCorePush c w (x 1) (x 2) (x 3) (x 4) o s)
    | 3 => out (execReduceSendValues c w (x 1) (x 2) (x 3) (x 4) o s)
    | 4 => out (execDramCopy c w (x 1) (x 2) (x 3) (x 4) o s)
    | _ => out (.next (s.dispatch c w o false false fun s => s.advance c 5))
  | 0x39 => out (execGather c w (x 1) (x 2) o s)
  | 0x3A => out (execMirror c w o s)
  | _ => none
/-- A program under check: the scratch machine, STEP barriers passed, whether it broke a rule, whether END has dispatched. -/
structure Check where
  s : State
  steps : Nat
  bad : Bool
  done : Bool
/-- One instruction of the check, with every earlier one complete, every count reached and every barrier released. -/
def Check.next (c : CoreIx) (g : Program) (k : Check) : Check :=
  let s := ((k.s.setF F.seqStatus_state c stRunning).modCore c (fun q => { q with descs := [], tags := [], state := 0 }))
  let pc := s.getF F.seqPc_addr c
  let i := (pc - g.addr) / 8
  let ws := g.words.drop i
  if k.done || k.bad then k
  else if ws.isEmpty || decide (pc < g.addr) || decide (ws.length < wordsOf (bits (ws.headD 0) 58 6)) then { k with bad := true }
  else match runInstr c ws { s with evNet := [], ctl := [], net := [], out := [] } with
    | none => { k with bad := true }
    | some t =>
      let fault := t.flagF F.seqFault_valid c || t.evNet.any (fun e => decide (e.2.num = Ev.arrayNoTile.num))
        || decide (1024 < (t.core c).sentLog.length)
      match (t.core c).atBar with
      | some (true, _, _) => ⟨(t.goto c (pc + 8) (t.core c).loops true).freshMicroStep c, k.steps + 1, fault, false⟩
      | some (false, _, _) => ⟨(t.modCore c (fun q => { q with atBar := none })).advance c 1, k.steps, fault, false⟩
      | none => ⟨t, k.steps, fault || (t.core c).ended && decide (i + 1 ≠ g.words.length), (t.core c).ended⟩
/-- `n` instructions of the check. -/
def Check.run (c : CoreIx) (g : Program) : Nat → Check → Check
  | 0, k => k
  | n + 1, k => if k.done || k.bad then k else Check.run c g n (k.next c g)
/-- STEP barriers of one execution of a program's outer body, if the program keeps R324 and cannot fault with reasons 1 to 7. The
body is run twice, so that the second time it meets the register values it leaves itself (R107). -/
def State.checkProgram (s : State) (p : Nat) (b : Capsule) (uniform : Bool) (g : Program) : Option Nat :=
  let w := g.words.headD 0
  let e := b.entries.getD g.core 0
  if h : entryCore e < 4096 then
    let c : CoreIx := ⟨entryCore e, h⟩
    let tab := b.entries.zipIdx.foldl (fun t x => Tab.put (fun _ => 0) x.2 x.1 t) []
    let t : State := ({ State.reset with image := s.image }).modPart p (fun q => { q with cap := some b, aliasTab := tab, stepLimit := 2 })
    let t := (t.modCore c (fun q => { q with xlat := tab })).setB F.partPlan_active p uniform
    let t := (t.setF F.seqPc_addr c g.addr).setReg .partMirrorCfg p (BitVec.ofNat 64 b.mirror)
    let r := Check.run c g (2 * g.words.length * 65536 ^ 3 + 2) ⟨t, 0, false, false⟩
    let body := bits w 24 16
    if bits w 58 6 = 6 ∧ bits w 40 16 = runCount b ∧ runCount b ≠ 0 ∧ g.words.length = body + 2 ∧ r.done ∧ ¬ r.bad ∧ r.steps % 2 = 0 then some (r.steps / 2) else none
  else none
/-- Micro-steps of a step in a plan, where every program has as many; none where a program is missing or breaks a rule. -/
def State.planSteps (s : State) (p : Nat) (b : Capsule) (uniform : Bool) (pl : Plan) : Option Nat :=
  let l := pl.programs.map (fun g => s.checkProgram p b uniform g)
  let k := l.headD none
  if l.all (fun x => x.isSome && decide (x = k)) && (rangeFrom 0 b.active).all (fun n => (pl.programs.filter (fun g => g.core = n)).length = 1)
  then k else none

/-! ### Validation (R387) -/

/-- Whether a byte range lies in writable extents of a partition. -/
def State.inWritable (s : State) (p a n : Nat) : Bool :=
  let ok (x : Nat) : Bool := match translate (s.extents p) x with
    | some t => !t.ext.readOnly && (!t.ext.shared || decide (t.ext.owner = p))
    | none => false
  ok a && ok (a + (n - 1)) && (rangeFrom (a / 2 ^ 30) ((a + n - 1) / 2 ^ 30 - a / 2 ^ 30)).all (fun u => ok ((u + 1) * 2 ^ 30))
/-- Areas of a capsule that both plans share, or that are placed at once for both: programs, maps, group records, offload extents,
input slots. Equal areas of the two plans are one area. -/
def areasOf (b : Capsule) : List (Nat × Nat) :=
  let progs := ((plansOf b).flatMap (fun pl => pl.programs.map (fun g => (g.addr, g.words)))).eraseDups.map (fun x => (x.1, 8 * x.2.length))
  let maps := ((plansOf b).flatMap (·.mapData)).eraseDups.map (fun x => (x.1, max 64 x.2.length))
  progs ++ maps ++ b.groups.map (fun u => (u.record, 128)) ++ b.offload ++ b.inputs.map (fun i => (i.slot0, 2 * i.size))
/-- Detail 7: every area writable and disjoint, with the sum areas of each plan (R253). The two plans' sum areas may share. -/
def State.areasBad (s : State) (p : Nat) (b : Capsule) : Bool :=
  (plansOf b).any fun pl =>
    let l := (areasOf b ++ (planStreams pl).map (fun st => (st.sumArea, areaBytes st))).filter (fun x => x.2 ≠ 0)
    l.any (fun x => !s.inWritable p x.1 x.2) || rangesMeet l
/-- Whether a group's template holds factored second moments (R266, R270). -/
def factored (b : Capsule) (g : Nat) : Bool :=
  b.groups.any (fun u => decide (u.num = g) && decide ((⟨u.row0.toNat, 0⟩ : GroupRec).template = 2))
/-- A valid stream entry of a plan: its fields in their ranges, reserved bits zero, column factors and rows zero unless its group is factored,
and its contributor entries valid (R242, R243). -/
def streamOk (b : Capsule) (pl : Plan) (r : Row) : Bool :=
  let st := Stream.of r
  let cs := (pl.contribs.drop st.contrib).take st.n
  decide (streamReserved r = 0) && decide (1 ≤ st.blocks ∧ st.blocks ≤ 524288) && (st.tree || decide (st.tfmt = 0)) && decide (st.rawFmt ≤ 3)
    && decide (1 ≤ st.homeCount ∧ st.homeCount ≤ 40) && decide (1 ≤ st.n ∧ st.n ≤ if st.tree then 16 else 2047)
    && b.groups.any (fun u => decide (u.num = st.group)) && decide (st.sumArea % 4096 = 0) && decide (cs.length = st.n)
    && cs.all (fun w => decide (contribReserved w = 0) && decide ((Contributor.of w).core < b.active))
    && (if factored b st.group then decide (1 ≤ st.rows) else decide (st.colFac = 0 ∧ st.rows = 0))
/-- A valid microprogram: up to 256 instructions, known ops, reserved bits zero, at least one STW (R267). -/
def microOk (m : List (BitVec 32)) : Bool :=
  decide (m.length ≤ 256) && m.any (fun w => bits w 26 6 = 10) && m.all (fun w => decide (bits w 26 6 ≤ 12) && decide (bits w 0 10 = 0))
/-- An update group's entry gives defined format codes, and it or its record in DRAM a defined t and L (R11, R270, R271). -/
def State.groupOk (s : State) (p : Nat) (b : Capsule) (u : UpdGroup) : Bool :=
  let r : GroupRec := ⟨u.row0.toNat, (s.partRead p (u.record + 64) 64)⟩
  let t := if u.init then u.t0 else r.t
  let l := if u.init then u.l0 else r.L
  r.ok && decide (1 ≤ t) && decide (r.lsMin ≤ l ∧ l ≤ r.lsMax) && decide (u.num < 4096) && decide (u.record % 64 = 0)
    && (decide (r.template ≠ 3) || decide (r.micro < b.micro.length))
/-- Commit barriers of a plan whose step has `k` micro-steps: every group's closes the last of them and no other, so that the step is one
commit of each (R324). -/
def alignedPlan (b : Capsule) (k : Nat) (pl : Plan) : Bool :=
  b.groups.all (fun u => pl.periods.any (fun e => decide (e.1 = u.num))) && pl.periods.any (fun e => decide (e.1 = b.planGroup))
    && pl.periods.all (fun e => decide (1 ≤ k ∧ e.2.1 = k ∧ e.2.2 % k = k - 1))
/-- A tolerance table is malformed where it has not one entry per active logical core, or holds a reserved class (R11, R326; log 103). -/
def toleranceBad (b : Capsule) : Bool :=
  decide (b.tolerance.length ≠ b.active) || b.tolerance.any (fun e => (rangeFrom 0 48).any (fun t => decide (6 ≤ tolerated e t ∧ tolerated e t ≤ 14)))
/-- Actions each fault class permits, as a mask (R345). -/
def policyMask : List Nat := [6, 7, 3, 6, 6, 3, 3, 3, 6, 2, 3, 3, 2, 1, 3]
/-- Whether an alias entry is what its place calls for, on a core that may run (R102, R387). -/
def State.entryOk (s : State) (p : Nat) (e kind : Nat) : Bool :=
  decide (entryKind e = kind) && decide (e / 2 ^ 14 = 0) && (s.coresOf p).contains (entryCore e) && decide ((s.core (entryCore e)).state ≤ 1)
/-- A domain list (R255): distinct module IDs, this module at its own rank. -/
def State.domainOk (s : State) (d : Option (Nat × List Nat)) : Bool :=
  match d with
  | none => true
  | some (own, l) => decide (l.Nodup) && decide (l[own]? = some s.moduleId) && l.all (fun m => decide (m < 2 ^ 14))
/-- Detail of R387 for a capsule of a partition: 0 where it is valid, else the lowest that applies. `len` is the order's length. -/
def State.judgeCapsule (s : State) (p len : Nat) (h : BitVec 2048) (rest : List Byte) (b : Capsule) : Nat :=
  let secs := secTable (hdrNat h 16 2) rest
  let total := 256 + rest.length
  let steps (u : Bool) (pl : Plan) : Option Nat := s.planSteps p b u pl
  let stepsN := b.normal.bind (steps false)
  let stepsU := steps true b.uniform
  let permitted (g : Nat) : Bool := ((s.image.map (·.groups)).getD []).any (fun d => decide (d.num = g) && d.members.contains p)
  if hdrNat h 0 4 ≠ 0x50435747 ∨ hdrNat h 6 2 ≠ 256 ∨ hdrNat h 8 8 ≠ total ∨ len ≠ total ∨ total < 256 + 16 * hdrNat h 16 2
      ∨ hdrNat h 25 1 ≠ 0 ∨ hdrNat h 84 172 ≠ 0 ∨ 2 ^ 30 ≤ b.policy ∨ 2 ^ 19 ≤ b.mirror ∨ 2 ^ 12 ≤ b.planGroup then 1
  else if hdrNat h 4 2 ≠ 1 ∨ secs.any (fun e => decide (e.ver ≠ 1)) then 2
  else if (leBytes (hdrNat h 32 32) 32) ≠ sha256 rest then 3
  else if !(rangeFrom 1 15).all (fun k => (secs.filter (fun e => e.kind = k)).length = 1) || decide (secs.length ≠ 15)
      || secs.any (fun e => decide (e.off < 256 + 16 * secs.length) || decide (total < e.off + e.len))
      || rangesMeet (secs.map (fun e => (e.off, e.len))) || b.normal.isNone || toleranceBad b then 4
  else if b.active = 0 ∨ 4096 < b.active ∨ b.entries.length ≠ b.active + b.standby ∨ 4096 < b.entries.length
      ∨ b.standby < cdiv b.active 64
      ∨ b.entries.zipIdx.any (fun e => !s.entryOk p e.1 (if e.2 < b.active then 1 else 2)) then 5
  else if stepsN.isNone || stepsU.isNone then 6
  else if s.areasBad p b then 7
  else if (plansOf b).any (fun pl => pl.streams.any (fun st => !streamOk b pl st)) || b.micro.any (fun m => !microOk m)
      || b.groups.any (fun u => !s.groupOk p b u)
      || !alignedPlan b (stepsU.getD 1) b.uniform || b.normal.any (fun pl => !alignedPlan b (stepsN.getD 1) pl) then 8
  else if policyMask.zipIdx.any (fun e => !e.1.testBit (b.policy / 4 ^ e.2 % 4)) then 9
  else if b.predictors.any (fun r => decide (r = 0 ∨ 256 < r)) then 10
  else if b.streamGroups.any (fun g => !permitted g) || !s.domainOk b.domain then 11
  else if ¬ (b.clockFloor = 4 ∨ b.clockFloor = 5 ∨ b.clockFloor = 6 ∨ b.clockFloor = 8) ∨ b.recovery = 0 then 12
  else 0

/-! ### Loading (R385) -/

/-- Writes bytes into partition DRAM as a writer of whole blocks does, one by one, and then gives their blocks checks (R71, R216). -/
def State.placeBytes (s : State) (p a : Nat) (l : List Byte) : State :=
  (l.zipIdx.foldl (fun (s : State) (x : Byte × Nat) => s.engineWrite p (a + x.2) 1 x.1.toNat) s).seal p a l.length []
/-- Loads a valid capsule: programs, maps and group records in DRAM, the alias table with its copies, the partition's settings,
and the tables; what waited under the old tables is given up (R271, R385, R469, R528). -/
def State.loadCapsule (s : State) (p : Nat) (b : Capsule) : State :=
  let s := s.discardSums p
  let s := (plansOf b).foldl (fun (s : State) pl =>
    let s := pl.programs.foldl (fun (s : State) g => s.placeBytes p g.addr (g.words.flatMap (fun w => leBytes w.toNat 8))) s
    pl.mapData.foldl (fun (s : State) x => s.placeBytes p x.1 x.2) s) s
  let s := b.groups.foldl (fun (s : State) u =>
    let s := s.placeBytes p u.record (rowBytes u.row0)
    if u.init then s.placeBytes p (u.record + 64) (leBytes (row1Of u.t0 u.l0 0 0) 64) else s) s
  let tab := b.entries.zipIdx.foldl (fun t x => Tab.put (fun _ => 0) x.2 x.1 t) []
  let s := s.modPart p (fun q => { q with
    cap := some b, aliasTab := tab, fitSeen := none, fitTold := false, switched := false, groupsEnded := false, recCount := 0, warmup := 0, faultHold := false, periods := []
    fed := [], stepLimit := 0 })
  let s := (s.setReg .partSrSeed p b.seed).setReg .partFaultPolicy p (BitVec.ofNat 64 b.policy)
  let s := s.setReg .partMirrorCfg p (BitVec.ofNat 64 b.mirror)
  let s := ((s.setF F.partAliasGen_generation p 0).showStandbys p).setB F.partRecovery_held p false
  let s := s.setF F.partDomain_members p ((b.domain.map (fun d => d.2.length)).getD 0)
  let sb := (tab.filter (fun e => decide (entryKind e.2 = 2))).map (fun e => entryCore e.2)
  let s := (s.coresOf p).foldl (fun (s : State) c =>
    let s := (s.modCore c (fun q => { q with xlat := tab, ibuf := [], held := none })).setB F.seqStatus_standby c (sb.contains c)
    s.setPower c (if sb.contains c then vIdle else vHold)) s
  s.loadHomes p

end Sys2Proof.Machine
end

