-- ==== Sys2Proof/Machine/Sessions.lean ====
section
/-! DEFINITION. Queues, arbitration, sessions and teardown (R365 to R381, R397, R434, R491, R528). -/
namespace Sys2Proof.Machine
open Host

/-! ### Resets of a partition (R7, R372) -/

/-- Numbers of the functions as paths. -/
def pathOf (k : Nat) : Path :=
  if h : k < 64 then .vf ⟨k, h⟩ else if h : k - 64 < 4 then .pf ⟨k - 64, h⟩ else .mgmt ⟨(k - 68) % 2, Nat.mod_lt _ (by decide)⟩
/-- Instances of a register that belong to each unit of its space: the index divided by this is the unit's number. -/
def Reg.perUnit : Reg → Nat
  | .seqCount => 64
  | .evtCoal | .evtCoalShadow => 16
  | .evtEvent => 512
  | .epdLink | .epdPortCfg | .sbLed => 4
  | .fabQuota => 64
  | _ => 1
/-- Returns the registers that satisfy a test on register and instance to their reset values. -/
def State.resetRegs (s : State) (f : Reg → Nat → Bool) : State :=
  { s with regs := Tab.clear (fun k => match Reg.all[k % 256]? with
    | some r => f r (k / 256)
    | none => false) s.regs }
/-- Registers a PART reset of a partition touches: its own, its cores' and its event controller's (R7, R372, R416). -/
def partReg (p : Nat) (cores : List Nat) (r : Reg) (i : Nat) : Bool :=
  let u := i / r.perUnit
  match r.place.1 with
  | .part => decide (r.dom = .part) && decide (u = p)
  | .core | .eng => decide (r.dom = .part) && cores.contains u
  | .ctrl => decide (u = p)
  | _ => false
/-- A core after a PART reset: what its health, power point and tags were stays. -/
def CoreSt.partReset (q : CoreSt) : CoreSt :=
  { CoreSt.init with
    state := q.state, derateV := q.derateV, derateD := q.derateD, gens := q.gens, rising := q.rising, govDiv := q.govDiv
    thermSteps := q.thermSteps, distSteps := q.distSteps, capCeil := q.capCeil, distCeil := q.distCeil, stretch := q.stretch }
/-- An event controller starts anew, and so do its sources' sequence numbers (R413). -/
def State.resetController (s : State) (k : Nat) : State :=
  let s := s.setEvc k .init
  { s with evSeq := Tab.clear (fun e => decide (e % 128 = k)) s.evSeq }

/-! ### Zeroing (R372, R373) -/

/-- Whether an extent holds the DRAM byte of a key (R209, R212). -/
def extHolds (e : Extent) (key : Nat) : Bool :=
  let m := key / 2 ^ 36
  let ch := key / 2 ^ 31 % 32
  let a := key % 2 ^ 31
  let lb := (a - e.frame * 2 ^ 25) / 4096 * 32 + ch
  extOnSite e m && decide (e.frame * 2 ^ 25 ≤ a) && decide (lb * e.siteCount + (m + 40 - e.siteFirst % 40) % 40 < e.len * 2 ^ 18)
/-- Zeroes extents: every byte zero, every check that of a zero block and held, no poison. -/
def State.zeroExtents (s : State) (es : List Extent) : State :=
  { s with
    dram := Tab.clear (fun k => es.any (fun e => extHolds e k)) s.dram
    blk := Tab.clear (fun b => es.any (fun e => extHolds e (b * 4096))) s.blk }
/-- Other partitions with a session that has joined a group since its OPEN (R373). -/
def State.joinedOthers (s : State) (p g : Nat) : Bool :=
  (rangeFrom 0 64).any (fun q => decide (q ≠ p) && (s.fn q).session.isSome && (s.part q).joinedEver.contains g)
/-- Shared extents a partition owns, and those of them whose group others still use. -/
def State.ownShared (s : State) (p : Nat) : List Extent := (s.extents p).filter (fun e => e.valid && e.shared && decide (e.owner = p))
def State.heldShared (s : State) (p : Nat) : List Extent := (s.ownShared p).filter (fun e => s.joinedOthers p e.group)
/-- Clears the scratchpad of a core, its poison and its block-check entries. -/
def State.zeroSpad (s : State) (cs : List Nat) : State :=
  { s with
    spad := Tab.clear (fun k => cs.contains (k / 2 ^ 24)) s.spad
    spadPoison := s.spadPoison.filter (fun k => !cs.contains (k / 2 ^ 18))
    spadChk := Tab.clear (fun k => cs.contains (k / 2048)) s.spadChk }

/-! ### Ends of orders and runs (R391, R397, R434) -/

/-- CANCEL of kind 1: open groups end incomplete, START completes CANCELLED and the partition is LOADED (R391, R528). -/
def State.cancelRun (s : State) (p : Nat) : State :=
  let s := s.modMod (fun q => { q with wakers := q.wakers.filter (fun o => o.part ≠ p) })
  if s.pState p = psRunning ∨ s.pState p = psPaused ∨ s.pState p = psStopped then (s.endIncomplete p).endRun p ccCancelled true
  else (s.running p opStart).foldl (fun s o => s.finish o ccCancelled 0 0) s
/-- Completes every outstanding order on a partition but one: CHECKPOINTs FAULTED, the rest CANCELLED (R397). -/
def State.endOrders (s : State) (p : Nat) (but : Option OrderSt) : State :=
  let s := (s.modPart p (fun q => { q with copyQueue := [] })).failCopy p
  let l := (s.ordersOn p).filter (fun o => decide (some o.tag ≠ but.map (·.tag)) || decide (some o.path ≠ but.map (·.path)))
  let s := l.foldl (fun s o => s.finish o (if o.opcode = opCheckpoint then ccFaulted else ccCancelled) 0 0) s
  s.modPart p (fun q => { q with loading := none, restore := none })
/-- The outcome of CANCEL of kind 0 for the order it names (R391). -/
def State.cancelOrder (s : State) (o : OrderSt) : State :=
  let p := o.part
  let gone (s : State) : State := s.finish o ccCancelled 0 0
  if o.stage < 2 then gone s
  else if o.opcode = opStart then s.cancelRun p
  else if o.opcode = opPause then
    let s := s.modPart p (fun q => { q with pauseAsked := q.pauseAsked.filter (fun e => e.1 ≠ some o)
                                            pausePend := q.pausePend.filter (fun e => e.1 ≠ some o) })
    let s := s.setB F.partState_pause_pending p (!((s.part p).pauseAsked ++ (s.part p).pausePend).isEmpty)
    (gone s).tryRelease p
  else if o.opcode = opResume then gone (s.modMod (fun q => { q with wakers := q.wakers.filter (fun x => x ≠ o) }))
  else if o.opcode = opLoad then gone ((s.modPart p (fun q => { q with loading := none, cap := none })).setPState p psOpened)
  else if o.opcode = opCheckpoint then
    if (s.part p).copyQueue.contains o then gone (s.modPart p (fun q => { q with copyQueue := q.copyQueue.filter (fun x => x ≠ o) }))
    else s.endCopy p
  else if o.opcode = opRestore then
    gone ((s.modPart p (fun q => { q with restore := none })).setB F.partState_restore_incomplete p true)
  else gone s
/-- Discards every order on a partition without completion; a copy cut off so has failed (R238, R372, R434). -/
def State.dropOrders (s : State) (p : Nat) : State :=
  let s := (s.ordersOn p).foldl (fun s o => s.dropOrder o) s
  let s := s.breakCopy p
  s.modPart p (fun q => { q with copyQueue := [], loading := none, restore := none, pauseAsked := [], pausePend := [] })
/-- Teardown begins (R372): the run and every order end, by completion or, after an FLR, without one; the session is over. -/
def State.teardown (s : State) (p : Nat) (quietly : Bool) (close : Option OrderSt) : State :=
  let s := if quietly then s.dropOrders p else s
  let s := s.cancelRun p
  let s := if quietly then s else s.endOrders p close
  let s := s.discardSums p
  let s := (s.part p).joined.foldl (fun (s : State) g => (rangeFrom 0 40).foldl (fun (s : State) m => s.deactivate m g p) s) s
  let s := s.modPart p (fun q => { q with closing := close, joined := [] })
  let s := s.modFn p (fun q => { q with session := none, fetched := [], nonce := 0, nonceValid := false, latch := none })
  s.setPState p psZero
/-- Values that the image gives PART fields: the power share and the coalescing defaults (R476, R487). -/
def State.imagePart (s : State) (p : Nat) : State :=
  match s.image with
  | none => s
  | some im =>
    let s := match im.parts.find? (fun d => d.num = p) with
      | some d => s.setF F.partPower_share_w p d.share
      | none => s
    (im.coal.filter (fun e => decide (e.1 = p))).foldl (fun (s : State) (e : Nat × Nat × Nat × Nat) =>
      let i := p * 16 + e.2.1 % 16
      let w := BitVec.ofNat 64 (e.2.2.1 % 65536 + e.2.2.2 % 65536 * 65536)
      (s.setReg .evtCoal i w).setReg .evtCoalShadow i w) s
/-- Steps 2 to 5 of R372: zeroing is done, the partition is reset and EMPTY. -/
def State.teardownDone (s : State) (p : Nat) : State :=
  let cs := s.coresOf p
  let s := s.zeroSpad cs
  let held := s.heldShared p
  let s := s.zeroExtents ((s.copyExtents p).filter (fun e => !held.contains e))
  let s := if held.isEmpty then s else s.setB F.partState_zero_pending p true
  let s := match (s.part p).closing with
    | some o => s.finish o ccOk 0 0
    | none => s
  let s := (s.resetRegs (partReg p cs)).imagePart p
  let s := (s.setPart p { PartSt.init with faults := s.openFaults p }).resetController p
  let s := s.modFn p (fun q => { q with fetched := [] })
  let s := cs.foldl (fun (s : State) c =>
    let s := s.modCore c CoreSt.partReset
    if 3 ≤ (s.core c).state then s.setF F.vregPoint_state c vOff else s.setPower c vHold) s
  let s := s.rebuildView p
  (s.setPState p psEmpty).raise .sessionClosed stewardNode (some p) 0

/-! ### Queues (R374) -/

/-- Whether the session and queue block of a path answers (R365, R491, R507). -/
def State.queueReach (s : State) (path : Path) : Bool :=
  decide (s.getF F.modState_state 0 ≠ mSafe) || (match path with
    | .mgmt _ => true
    | _ => false)
/-- Sets queue_error and raises QUEUE_ERROR. -/
def State.queueError (s : State) (k : Nat) : State :=
  (s.setB F.partQStat_queue_error k true).raise .queueError stewardNode (if k < 64 then some k else none) 0
/-- OQ_TAIL_WRITE: the entries from the old tail to the new one are handed over; a tail that would pass the head is ignored. -/
def execOqTailWrite (path : Path) (v : BitVec 32) (entries : List Row) (s : State) : Outcome State Fault Refusal :=
  .next (
    let k := pathIx path
    let s := s.touch path
    if !s.queueReach path || !s.flagF F.partOqCfg_enable k then s
    else
      let size := 2 ^ s.getF F.partOqCfg_log2_entries k
      let t := s.getF F.partOqTail_index k
      let n := (bits v 0 12 + size - t % size) % size
      let have_ := (t + size - s.getF F.partQStat_oq_head k % size) % size
      if size ≤ bits v 0 12 ∨ size ≤ have_ + n then s.queueError k
      else (s.setF F.partOqTail_index k (bits v 0 12)).modFn k (fun q => { q with
        fetched := q.fetched ++ (rangeFrom 0 n).map (fun i => entries.getD i 0) }))
/-- CQ_HEAD_WRITE frees completion slots, and held completions are written. -/
def execCqHeadWrite (path : Path) (v : BitVec 32) (s : State) : Outcome State Fault Refusal :=
  .next (
    let k := pathIx path
    let s := s.touch path
    if !s.queueReach path || !s.flagF F.partCqCfg_enable k then s
    else
      let size := 2 ^ s.getF F.partCqCfg_log2_entries k
      let h := s.getF F.partCqHead_index k
      let used := (s.getF F.partQStat_cq_tail k + size - h % size) % size
      let n := (bits v 0 12 + size - h % size) % size
      if size ≤ bits v 0 12 ∨ used < n then s.queueError k
      else (s.setF F.partCqHead_index k (bits v 0 12)).flushHeld k)
/-- QUEUE_CFG_WRITE to OQ_CFG, or to CQ_CFG: while enabled only a cleared enable acts, and empties the queue; a write that sets
enable with a size outside 6 to 12 is ignored as a whole. -/
def execQueueCfgWrite (path : Path) (cq : Bool) (v : BitVec 32) (s : State) : Outcome State Fault Refusal :=
  .next (
    let k := pathIx path
    let n := bits v 0 4
    let s := s.touch path
    if !s.queueReach path then s
    else if cq then
      if s.flagF F.partCqCfg_enable k then
        (if bit v 4 then s
         else (((s.setB F.partCqCfg_enable k false).setF F.partCqHead_index k 0).setF F.partQStat_cq_tail k 0).setF F.partQStat_phase k 1)
      else if bit v 4 && (decide (n < 6) || decide (12 < n)) then s.queueError k
      else
        let s := (s.setF F.partCqCfg_log2_entries k n).setB F.partCqCfg_enable k (bit v 4)
        if bit v 4 then s.flushHeld k else s
    else if s.flagF F.partOqCfg_enable k then
      (if bit v 4 then s
       else (((s.setB F.partOqCfg_enable k false).setF F.partOqTail_index k 0).setF F.partQStat_oq_head k 0).modFn k
        (fun q => { q with fetched := [] }))
    else if bit v 4 && (decide (n < 6) || decide (12 < n)) then s.queueError k
    else (s.setF F.partOqCfg_log2_entries k n).setB F.partOqCfg_enable k (bit v 4))

/-! ### Format, readiness, collisions (R375 to R381) -/

/-- Bytes `[a, b)` of an order are zero. -/
def zeroFrom (w : Row) (a b : Nat) : Bool := decide (ordNat w a (b - a) = 0)
/-- Parameters within their stated ranges, undefined bytes zero, by opcode (R376, R377, R384 to R396). -/
def paramsOk (w : Row) : Bool :=
  let z := zeroFrom w
  let b := ordByte w
  match b 0 with
  | 1 => decide (b 16 ≤ 2) && z 17 32
  | 2 => z 16 64
  | 3 => z 32 64
  | 4 => z 18 64
  | 5 => z 20 64
  | 6 => z 16 64
  | 7 => decide (b 16 ≤ 1) && z 17 18 && decide (ordNat w 18 2 < 4096) && (decide (b 16 = 0) || z 18 20) && z 20 64
  | 8 => decide (ordNat w 24 4 % 64 = 0) && z 30 32 && z 36 64
  | 9 => decide (ordNat w 16 8 < 2 ^ 48) && z 36 64
  | 10 => decide (b 16 ≤ 1 ∧ b 17 ≤ 1 ∧ b 18 ≤ 1) && z 19 20 && decide (ordNat w 20 2 < if b 18 = 0 then 16384 else 4) && z 22 24 && z 32 64
  | 11 => decide (b 16 ≤ 1 ∧ b 18 ≤ 1) && z 17 18 && z 19 20 && decide (ordNat w 20 2 < if b 18 = 0 then 16384 else 4) && z 22 24 && z 32 64
  | 12 | 13 => decide (b 16 < 64) && z 17 64
  | _ => false
/-- Whether an order taken from function `k` passes R377. -/
def State.formatOk (s : State) (k : Nat) (w : Row) : Bool :=
  let t := ordByte w 4
  let op := ordByte w 0
  decide (ordByte w 1 < 4) && decide (ordNat w 2 2 < 4096) && decide (ordByte w 5 = 1) && decide (ordNat w 6 2 < 4096) && zeroFrom w 8 16
    && (if k < 64 then decide (t = k) else decide (t < 64) || (decide (t = 255) && decide (op = opOpen ∨ op = opClose)))
    && !(s.fn k).orders.any (fun o => decide (o.tag = ordNat w 2 2)) && paramsOk w
/-- Orders the admin session may issue for a partition (R383). -/
def mgmtMay (op : Nat) : Bool := [opOpen, opPause, opResume, opCancel, opCheckpoint, opRestore, opClose].contains op
/-- Whether an order's fence and after conditions hold, given the outstanding orders of its function taken before it (R375, R379). -/
def readyAmong (before : List OrderSt) (w : Row) : Bool :=
  (!(ordByte w 1).testBit 0 || before.isEmpty) && (!(ordByte w 1).testBit 1 || before.all (fun o => decide (o.tag ≠ ordNat w 6 2)))
/-- Outstanding orders of a function taken before the one with this tag. -/
def ordersBefore (l : List OrderSt) (tag : Nat) : List OrderSt := l.takeWhile (fun o => o.tag ≠ tag)
/-- Arbiter of a partition's orders, 64 for those that name no partition (R380). -/
def arbiterOf (p : Nat) : Nat := min 64 p
/-- In cycle `n` of an arbiter, waiting orders of a function whose conditions now hold become ready. -/
def State.promote (s : State) (a n k : Nat) : State :=
  s.modFn k (fun q => { q with orders := q.orders.map (fun o =>
    if o.stage = 0 ∧ arbiterOf o.part = a ∧ readyAmong (ordersBefore q.orders o.tag) o.words then { o with stage := 1, since := n } else o) })
/-- Takes the next entry of a function's queue in cycle `n`: refused with REJECTED_FORMAT or REJECTED_AUTH, or outstanding (R377, R383). -/
def State.takeOrder (s : State) (n k : Nat) : State × Option OrderSt :=
  match (s.fn k).fetched with
  | [] => (s, none)
  | w :: t =>
    let s := s.modFn k (fun q => { q with fetched := t })
    let size := 2 ^ s.getF F.partOqCfg_log2_entries k
    let s := if k < 68 then s.setF F.partQStat_oq_head k ((s.getF F.partQStat_oq_head k + 1) % size) else s
    let op := ordByte w 0
    let o : OrderSt := ⟨pathOf k, ordNat w 2 2, w, if readyAmong (s.fn k).orders w then 1 else 0, n, n⟩
    let answer (code : Nat) : State × Option OrderSt := (s.post k ⟨o.tag % 4096, code, op, if k < 64 then k else ordByte w 4, 0, 0⟩, none)
    if !s.formatOk k w then answer ccFormat
    else if op ≠ opOpen ∧ (s.fn k).session.isNone then answer ccAuth
    else if 64 ≤ k ∧ ¬ mgmtMay op then answer ccAuth
    else (s.modFn k (fun q => { q with orders := q.orders ++ [o] }), some o)
/-- Whether a management order and a tenant order of one cycle collide (R380). -/
def collides (m t : OrderSt) : Bool :=
  let kind1 (o : OrderSt) : Bool := decide (o.opcode = opCancel) && decide (ordByte o.words 16 = 1)
  let ends (o : OrderSt) : Bool := kind1 o || decide (o.opcode = opClose)
  let copies (o : OrderSt) : Bool := decide (o.opcode = opCheckpoint ∨ o.opcode = opRestore)
  (decide (m.opcode = opPause) && decide (t.opcode = opResume)) || (decide (m.opcode = opResume) && decide (t.opcode = opPause))
    || (ends m && [opStart, opPause, opResume, opCheckpoint, opFeed, opReadOut].contains t.opcode)
    || (decide (m.opcode = opPause ∨ m.opcode = opResume ∨ m.opcode = opCheckpoint) && ends t)
    || (copies m && copies t && decide (m.slot = t.slot))
/-- Whether orders are fetched from a function: its host link is up and the module is READY; in safe mode the management ports'
alone are (R435, R491, R496). -/
def State.fetches (s : State) (k : Nat) : Bool :=
  match s.hostPortOf k with
  | some h => s.flagF F.epdHost_up h && decide (s.getF F.modState_state 0 = mReady)
  | none => decide (s.getF F.modState_state 0 = mReady ∨ s.getF F.modState_state 0 = mSafe)
/-- ARBITRATION_CYCLE of a partition's arbiter, or with 64 of the one for orders that name no partition (R379, R380). -/
def execArbitrationCycle (a : Fin 65) (s : State) : Outcome State Fault Refusal :=
  .next (
    let n := Tab.get (fun _ => 0) s.mod.cycles a + 1
    let s := s.modMod (fun q => { q with cycles := Tab.put (fun _ => 0) a n q.cycles })
    let s := (fnsFor a).foldl (fun s k => if k < 70 then s.promote a n k else s) s
    let names (s : State) (k : Nat) : Bool := match (s.fn k).fetched with
      | w :: _ => if a.val < 64 then decide (ordByte w 4 = a) else decide (64 ≤ ordByte w 4)
      | [] => false
    let tenant := if a.val < 64 ∧ s.fetches a then s.takeOrder n a else (s, none)
    let s := tenant.1
    match (rangeFrom 64 6).find? (fun k => s.fetches k && names s k) with
    | none => s
    | some k =>
      let mg := s.takeOrder n k
      match mg.2, tenant.2 with
      | some m, some t => if collides m t then mg.1.finish t ccSuperseded 0 0 else mg.1
      | _, _ => mg.1)

/-! ### Acting on an order (R379 to R383) -/

/-- States that admit an order (R383). -/
def admits (op st : Nat) (pausing : Bool) : Bool :=
  if op = opLoad then st = psOpened || st = psLoaded || st = psHeld
  else if op = opStart then st = psLoaded
  else if op = opPause then st = psRunning || st = psPaused
  else if op = opResume then st = psPaused || st = psStopped || (st = psRunning && pausing)
  else if op = opCancel ∨ op = opClose then decide (st ≠ psEmpty) && decide (st ≠ psZero)
  else if op = opFeed ∨ op = opCheckpoint ∨ op = opJoin ∨ op = opLeave then st = psLoaded || st = psRunning || st = psPaused
  else if op = opReadOut then decide (st ≠ psEmpty) && decide (st ≠ psZero)
  else if op = opRestore then st = psOpened || st = psLoaded
  else st = psEmpty
/-- A CANCEL of kind 0 that names another order of its function (R391). -/
def OrderSt.kills (m o : OrderSt) : Bool :=
  decide (m.opcode = opCancel) && decide (ordByte m.words 16 = 0) && decide (m.path = o.path) && decide (ordNat m.words 18 2 = o.tag)
/-- Whether ready order `m` acts before ready order `o`: the one ready in an earlier cycle; of one cycle a CANCEL of kind 0 before the order that it
names, then the one taken earlier, then management's (R380, R381; log 105). -/
def OrderSt.first (m o : OrderSt) : Bool :=
  if m.since ≠ o.since then decide (m.since < o.since)
  else if m.kills o ≠ o.kills m then m.kills o
  else if m.taken ≠ o.taken then decide (m.taken < o.taken)
  else m.isMgmt && !o.isMgmt
/-- A LOAD_CAPSULE or RESTORE that waits for the one in progress holds up no other order (log 105). -/
def State.inTurn (s : State) (o : OrderSt) : Bool :=
  (decide (o.opcode = opLoad) && (s.part o.part).loading.isSome) || (decide (o.opcode = opRestore) && (s.part o.part).restore.isSome)
/-- Another ready order on the partition acts first (R380, R381). -/
def State.blockedOrder (s : State) (o : OrderSt) : Bool :=
  (s.ordersOn o.part).any (fun m => decide (m.stage = 1) && !s.inTurn m && m.first o)
/-- Acts on a ready order by path and tag, if its row is the order's own and its partition admits it. -/
def State.act (s : State) (path : Path) (tag : Fin 4096) (op : Nat) (f : OrderSt → State) : State :=
  match s.order path tag with
  | none => s
  | some o =>
    if o.opcode ≠ op ∨ o.stage ≠ 1 ∨ s.blockedOrder o then s
    else if o.part < 64 ∧ op ≠ opOpen ∧ ¬ admits op (s.pState o.part) (s.flagF F.partState_pause_pending o.part) then s.rejectState o
    else f o

/-! ### Sessions (R366 to R371, R384, R397) -/

/-- CHALLENGE: a fresh nonce replaces any earlier one (R367). -/
def State.challenge (s : State) (k : Nat) : State :=
  { s.modFn k (fun q => { q with nonce := Config.nonce s.freeCtr, nonceValid := true }) with freeCtr := s.freeCtr + 1 }
def execChallenge (path : Path) (s : State) : Outcome State Fault Refusal :=
  .next (let s := s.touch path; if s.queueReach path then s.challenge (pathIx path) else s)
/-- NONCE_EXPIRY (R367). -/
def execNonceExpiry (path : Path) (s : State) : Outcome State Fault Refusal :=
  .next (s.modFn (pathIx path) (fun q => { q with nonce := 0, nonceValid := false }))
/-- Key that a role's response is checked with: the partition's, the admin's, the derived one; the recovery key alone in safe mode
(R367 to R369, R491). -/
def State.keyFor (s : State) (k role : Nat) : Option (BitVec 256) :=
  if k < 64 then (s.image.bind (fun im => im.parts.find? (fun d => d.num = k))).map (·.key)
  else if s.getF F.modState_state 0 = mSafe then (if role = 1 then some Config.recoveryKey else none)
  else s.image.bind (fun im => if role = 1 then im.adminKey else im.adminPwKey)
/-- The response of R368. -/
def response (key nonce : BitVec 256) (part count : Nat) : List Byte :=
  hmac256 (leBytes key.toNat 32) (leBytes nonce.toNat 32 ++ [BitVec.ofNat 8 part] ++ leBytes count 4)
/-- Seconds of the k-th lockout (R370). -/
def lockSeconds (k : Nat) : Nat := if 11 ≤ k then 61440 else 60 * 2 ^ (k - 1)
/-- A wrong response: counted, and the fifth one locks the function (R370). -/
def State.failedResponse (s : State) (k : Nat) : State :=
  let n := s.getF F.partSessStat_failures k + 1
  let s := s.setF F.partSessStat_failures k n
  if n < 5 then s
  else
    let c := satAdd 4 (s.getF F.partSessStat_lockouts k) 1
    let s := (s.setF F.partSessStat_lockouts k c).setB F.partSessStat_locked k true
    let s := (s.setF F.partSessStat_lock_left k (lockSeconds c)).modFn k (fun q => { q with lockEnd := s.now + lockSeconds c * 100000000 })
    s.raise .sessionLocked stewardNode (if k < 64 then some k else none) 0
/-- OPEN (R366 to R370, R384). The nonce is consumed whatever the outcome. -/
def execOpen (path : Path) (tag : Fin 4096) (s : State) : Outcome State Fault Refusal :=
  .next (s.act path tag opOpen fun o =>
    let k := pathIx path
    let role := ordByte o.words 16
    let nonce := (s.fn k).nonce
    let valid := (s.fn k).nonceValid
    let s := s.modFn k (fun q => { q with nonce := 0, nonceValid := false })
    let count := s.getF F.partSessCount_count k
    let admin := decide (64 ≤ k)
    let target := if admin then 255 else k
    if (s.fn k).session.isSome || (admin && (rangeFrom 64 6).any (fun j => (s.fn j).session.isSome))
        || (!admin && (decide (s.pState k ≠ psEmpty) || s.flagF F.partState_zero_pending k)) then s.rejectState o
    else if (decide (role = 0) == admin) || decide (o.part ≠ target) then s.finish o ccAuth 0 0
    else if s.flagF F.partSessStat_locked k then s.finish o ccAuth 3 0
    else if !valid then s.finish o ccAuth 2 0
    else if (s.keyFor k role).any (fun key => response key nonce target count == leBytes (ordNat o.words 32 32) 32) then
      let s := (s.setF F.partSessCount_count k (count + 1)).modFn k (fun q => { q with session := some role })
      let s := (s.setF F.partSessStat_failures k 0).setF F.partSessStat_lockouts k 0
      let s := s.modFn k (fun q => { q with peer := (q.srcs.find? (fun e => decide (e.1 = o.tag))).map (·.2) })
      let s := if admin then s else (s.setPState k psOpened).modPart k (fun q => { q with joinedEver := [] })
      (s.raise .sessionOpened stewardNode (if admin then none else some k) 0).finish o ccOk 0 (Config.openResult 1 count).toNat
    else (s.failedResponse k).finish o ccAuth 1 0)
/-- LOCKOUT_END (R370). -/
def execLockoutEnd (path : Path) (s : State) : Outcome State Fault Refusal :=
  .next (
    let k := pathIx path
    if s.flagF F.partSessStat_locked k then
      ((s.setB F.partSessStat_locked k false).setF F.partSessStat_failures k 0).setF F.partSessStat_lock_left k 0
    else s)
/-- The admin session of a path is over; it tears nothing down (R371). -/
def State.endAdmin (s : State) (k : Nat) : State := s.modFn k (fun q => { q with session := none, latch := none, peer := none })
/-- SESSION_TIMEOUT: the idle timer has run for idle_s seconds (R371). -/
def execSessionTimeout (path : Path) (s : State) : Outcome State Fault Refusal :=
  .next (
    let k := pathIx path
    if (s.fn k).session.isNone || decide (s.getF F.partSessCfg_idle_s k = 0) || !(s.fn k).orders.isEmpty then s
    else if 64 ≤ k then (s.raise .sessionTimeout stewardNode none 0).endAdmin k
    else if s.pState k = psRunning ∨ s.pState k = psPaused ∨ ¬ (s.ordersOn k).isEmpty then s
    else (s.raise .sessionTimeout stewardNode (some k) 0).teardown k false none)
/-- CLOSE: of a partition it runs the teardown and completes at EMPTY; of the module it ends the admin session (R371, R397). -/
def execClose (path : Path) (tag : Fin 4096) (s : State) : Outcome State Fault Refusal :=
  .next (s.act path tag opClose fun o =>
    if 64 ≤ o.part then
      let k := pathIx path
      let rest := (s.fn k).orders.filter (fun x => x.tag ≠ o.tag)
      let s := rest.foldl (fun (s : State) x =>
        if x.opcode = opCheckpoint ∧ (s.part x.part).copyQueue.contains x then
          (s.modPart x.part (fun q => { q with copyQueue := q.copyQueue.filter (fun y => y ≠ x) })).finish x ccFaulted 0 0
        else s.cancelOrder x) s
      (s.finish o ccOk 0 0).endAdmin k
    else (s.stageOrder o 2).teardown o.part false (some { o with stage := 2 }))
/-- TEARDOWN_DONE (R372). -/
def execTeardownDone (p : PartIx) (s : State) : Outcome State Fault Refusal :=
  .next (if s.pState p = psZero then s.teardownDone p else s)
/-- SHARED_EXTENT_ZEROING (R373). -/
def execSharedExtentZeroing (p : PartIx) (s : State) : Outcome State Fault Refusal :=
  .next (
    if s.flagF F.partState_zero_pending p && (s.heldShared p).isEmpty then
      (s.zeroExtents (s.ownShared p)).setB F.partState_zero_pending p false
    else s)

end Sys2Proof.Machine
end

