-- ==== Sys2Proof/Machine/Orders.lean ====
section
/-! DEFINITION. What the orders of a partition do, and the ends of pauses (R385 to R396, R471, R475). -/
namespace Sys2Proof.Machine
open Host

/-! ### LOAD_CAPSULE (R385, R387) -/

/-- LOAD_CAPSULE: the capsule's header, the bytes after it and its sections as decoded. A refused capsule changes nothing. -/
def execLoadCapsule (path : Path) (tag : Fin 4096) (header : BitVec 2048) (rest : List Byte) (body : Capsule) (s : State) :
    Outcome State Fault Refusal :=
  .next (s.act path tag opLoad fun o =>
    let b := capsuleOf header body
    if (s.part o.part).loading.isSome then s
    else
      let d := s.judgeCapsule o.part (ordNat o.words 24 8) header rest b
      if d ≠ 0 then s.finish o ccFormat d 0
      else (s.stageOrder o 2).modPart o.part (fun q => { q with loading := some ({ o with stage := 2 }, b) }))
/-- CAPSULE_LOAD_DONE: everything is in place and the partition is LOADED. -/
def execCapsuleLoadDone (p : PartIx) (s : State) : Outcome State Fault Refusal :=
  .next (
    match (s.part p).loading with
    | none => s
    | some (o, b) =>
      let s := (s.modPart p (fun q => { q with loading := none })).loadCapsule p b
      (s.setPState p psLoaded).finish o ccOk 0 0)

/-! ### START (R324, R388, R392) -/

/-- Moves every listed logical core that is no longer GOOD or DERATED to a standby; none where too few remain. -/
def State.coverCores (s : State) (p : Nat) : List Nat → Option State
  | [] => some s
  | n :: t =>
    match s.physOf p n with
    | none => s.coverCores p t
    | some c =>
      if (s.core c).state ≤ 1 then s.coverCores p t
      else match s.standbys p with
        | [] => none
        | sb :: _ => (s.aliasSwitch p n sb).coverCores p t
/-- Every active core starts its program of the plan in force. -/
def State.launch (s : State) (p : Nat) : State :=
  let s := (s.modPart p (fun q => { q with beginWait := false })).loadHomes p
  (s.activePairs p).foldl (fun (s : State) e =>
    let c := e.2
    let s := (s.freshMicroStep c).setF F.seqPc_addr c (((s.program p e.1).map (·.addr)).getD 0)
    let s := s.modCore c (fun q => { q with loops := [], ended := false, afterStep := false })
    let b := s.boundaryOf c
    let s := s.modCore c (fun q => { q with bound := b, stepBound := b })
    ((s.setPower c vRun).applyPoint p c).setF F.seqStatus_state c stRunning) s
/-- The run begins: RUNNING, the first step's plan, and the FEEDs that step 0 requires. Micro-step numbers go on from the largest
one an active core holds (log 22). -/
def State.beginRun (s : State) (p : Nat) (o : OrderSt) : State :=
  match s.coverCores p (s.activeOf p) with
  | none => s.rejectState o
  | some s =>
    let s := (s.stageOrder o 2).setPState p psRunning
    let s := (s.bumpF F.partRun_runs p 1).setF F.partRun_steps p 0
    let n := (s.activePairs p).foldl (fun a e => max a (s.getF F.seqUstep_number e.2)) 0
    let s := (s.activePairs p).foldl (fun (s : State) e => s.setF F.seqUstep_number e.2 n) s
    let s := s.modPart p (fun q => { q with
      stepLimit := ordNat o.words 16 2, warmup := (q.cap.map (·.warmup)).getD 0, recCount := 0, stepNo := 0, stepStart := n, recMicro := 0
      recStep := 0, failedStep := [], faultHold := false, stopHold := false, groupsEnded := false, memberLost := false, planMove := false, markNow := none
      tokensLive := s.getF F.partTokensStep_tokens p, fitSeen := none })
    let r := s.choosePlan p
    let s := r.1.loadPlan p n (decide (r.2 ≠ 4))
    if s.feedsMissing p 0 then (s.bumpF F.partRun_feed_waits p 1).modPart p (fun q => { q with beginWait := true }) else s.launch p
/-- START: refused while a restore is incomplete; a module in HOLD is woken first (R471). -/
def execStart (path : Path) (tag : Fin 4096) (s : State) : Outcome State Fault Refusal :=
  .next (s.act path tag opStart fun o =>
    if s.flagF F.partState_restore_incomplete o.part then s.rejectState o
    else if s.pwState = pwHold then
      (s.stageOrder o 2).beginExit.modMod (fun q => { q with wakers := q.wakers ++ [{ o with stage := 2 }] })
    else s.beginRun o.part o)

/-! ### PAUSE and RESUME (R389, R390, R469, R471, R475) -/

/-- PAUSE: asks the root to withhold the next release; in PAUSED it sets a new hold time at once. -/
def execPause (path : Path) (tag : Fin 4096) (s : State) : Outcome State Fault Refusal :=
  .next (s.act path tag opPause fun o =>
    let p := o.part
    let hold := ordNat o.words 16 4
    if s.pState p = psPaused then
      (s.modPart p (fun q => { q with paused := some hold, pausedAt := s.now })).finish o ccOk 0 (s.microStep p)
    else
      let s := (s.stageOrder o 2).modPart p (fun q => { q with pauseAsked := q.pauseAsked ++ [(some { o with stage := 2 }, hold)] })
      (s.setB F.partState_pause_pending p true).send (.hold 0) p stewardNode stewardNode)
/-- Withdraws the PAUSEs that have not taken effect; a cap pause stays. -/
def State.withdrawPauses (s : State) (p : Nat) : State :=
  let l := ((s.part p).pausePend ++ (s.part p).pauseAsked).filterMap (·.1)
  let s := s.modPart p (fun q => { q with pausePend := q.pausePend.filter (fun e => e.1.isNone), pauseAsked := q.pauseAsked.filter (fun e => e.1.isNone) })
  let s := l.foldl (fun s o => s.finish o ccCancelled 0 0) s
  s.setB F.partState_pause_pending p (!((s.part p).pausePend ++ (s.part p).pauseAsked).isEmpty)
/-- A pause is over: the withheld release is judged again. -/
def State.resumePart (s : State) (p : Nat) : State :=
  let s := s.withdrawPauses p
  let s := s.modPart p (fun q => { q with paused := none, resumeDue := false, pausePend := [], pauseAsked := [] })
  let s := ((s.setB F.partState_pause_pending p false).setB F.partPower_cap_paused p false).showLimiting
  (s.setPState p psRunning).tryRelease p
/-- A pause ends, after the module's exit from HOLD where it is there. -/
def State.endPause (s : State) (p : Nat) : State :=
  if s.pwState = pwHold then (s.modPart p (fun q => { q with resumeDue := true })).beginExit else s.resumePart p
/-- What RESUME does once the module is ACTIVE. The step replay out of FAULT_STOPPED needs every active core: one that is out of service moves
to a standby first, and with too few the partition is held (R360, R361, R382; log 104). -/
def State.doResume (s : State) (o : OrderSt) : State :=
  let p := o.part
  if s.pState p = psPaused then (s.resumePart p).finish o ccOk 0 0
  else if s.pState p = psStopped then
    (match s.coverCores p (s.activeOf p) with
    | some s => (s.setPState p psRunning).stepReplay p
    | none => s.faultedHold p).finish o ccOk 0 0
  else ((s.withdrawPauses p).tryRelease p).finish o ccOk 0 0
/-- RESUME: ends a pause, withdraws a pending one, or restarts the step from FAULT_STOPPED. A tenant's is SUPERSEDED during a cap pause. -/
def execResume (path : Path) (tag : Fin 4096) (s : State) : Outcome State Fault Refusal :=
  .next (s.act path tag opResume fun o =>
    if !o.isMgmt && s.flagF F.partPower_cap_paused o.part then s.finish o ccSuperseded 0 0
    else if s.pwState = pwHold then
      (s.stageOrder o 2).beginExit.modMod (fun q => { q with wakers := q.wakers ++ [{ o with stage := 2 }] })
    else s.doResume o)
/-- PAUSE_EXPIRED: a non-zero hold time has run out. A cap pause holds the partition on. -/
def execPauseExpired (p : PartIx) (s : State) : Outcome State Fault Refusal :=
  .next (
    match (s.part p).paused with
    | some (h + 1) =>
      let _ := h
      let s := s.raise .pauseExpired stewardNode (some p.val) 0
      if s.flagF F.partPower_cap_paused p then s.modPart p (fun q => { q with paused := some 0 }) else s.endPause p
    | _ => s)
/-- The cap exceeds measured power by 1.1 times a cap-paused partition's last measured power: as its pause took effect, or as it stands (R475). -/
def State.capHeadroom (s : State) (p : Nat) : Bool :=
  let w := if s.pState p = psPaused then (s.part p).pausedWatts else s.getF F.partPower_watts p
  decide (10 * s.getF F.pwrInput_watts 0 + 11 * w ≤ 10 * s.getF F.pwrCapEff_watts 0)
/-- CAP_RESUME: the headroom has stood for 100 ms (R475); a leak holds its pauses until it is cleared (R473). -/
def execCapResume (p : PartIx) (s : State) : Outcome State Fault Refusal :=
  .next (
    if !s.flagF F.partPower_cap_paused p || s.flagF F.pwrState_leak 0 || !s.capHeadroom p then s
    else
      let s := s.setB F.partPower_cap_paused p false
      if s.pState p = psPaused then s.showLimiting.endPause p
      else
        let s := s.modPart p (fun q => { q with pausePend := q.pausePend.filter (fun e => e.1.isSome)
                                                pauseAsked := q.pauseAsked.filter (fun e => e.1.isSome) })
        let s := s.setB F.partState_pause_pending p (!((s.part p).pausePend ++ (s.part p).pauseAsked).isEmpty)
        s.showLimiting.tryRelease p)
/-- MODULE_HOLD_EXIT_DONE: the module is ACTIVE, standbys are in IDLE, and what waited acts (R469, R471). -/
def execModuleHoldExitDone (s : State) : Outcome State Fault Refusal :=
  .next (
    if !s.mod.exiting || decide (s.pwState ≠ pwHold) then s
    else
      let l := s.mod.wakers
      let s := (s.setF F.pwrState_state 0 pwActive).modMod (fun q => { q with exiting := false, wakers := [] })
      let s := (rangeFrom 0 4096).foldl (fun (s : State) c => if s.flagF F.seqStatus_standby c then s.setPower c vIdle else s) s
      let s := ((rangeFrom 0 64).filter (fun p => (s.part p).resumeDue)).foldl (fun s p => s.resumePart p) s
      l.foldl (fun (s : State) o =>
        if o.opcode = opStart then (if s.pState o.part = psLoaded then s.beginRun o.part o else s.rejectState o)
        else if admits opResume (s.pState o.part) (s.flagF F.partState_pause_pending o.part) then s.doResume o
        else s.rejectState o) s)

/-! ### CANCEL (R381, R391) -/

/-- CANCEL_KIND_0 names an order of its own function; REJECTED_STATE with detail 0xFF where none is outstanding by that tag. -/
def execCancelKind0 (path : Path) (tag : Fin 4096) (s : State) : Outcome State Fault Refusal :=
  .next (s.act path tag opCancel fun o =>
    let named := ordNat o.words 18 2
    if ordByte o.words 16 ≠ 0 then s
    else match (s.fn (pathIx path)).orders.find? (fun x => decide (x.tag = named) && decide (x.tag ≠ o.tag)) with
      | none => s.finish o ccState 0xFF 0
      | some x => (s.finish o ccOk 0 0).cancelOrder x)
/-- CANCEL_KIND_1 ends the run. -/
def execCancelKind1 (path : Path) (tag : Fin 4096) (s : State) : Outcome State Fault Refusal :=
  .next (s.act path tag opCancel fun o =>
    if ordByte o.words 16 ≠ 1 then s else (s.cancelRun o.part).finish o ccOk 0 0)

/-! ### FEED and READ_OUT (R392, R393) -/

/-- Input buffer that a FEED names. -/
def State.feedBuf (s : State) (o : OrderSt) : Option InputBuf :=
  (s.part o.part).cap.bind (fun c => c.inputs.find? (fun b => b.num = ordNat o.words 28 2))
def feedStep (o : OrderSt) : Nat := ordNat o.words 32 4
def feedLen (o : OrderSt) : Nat := ordNat o.words 24 4
/-- Whether a step of the run has begun. -/
def State.stepBegun (s : State) (p k : Nat) : Bool :=
  (decide (s.pState p = psRunning) || decide (s.pState p = psPaused)) && !(s.part p).beginWait && decide (k ≤ (s.part p).stepNo)
/-- FEED: judged, then waiting for its transfer. -/
def execFeed (path : Path) (tag : Fin 4096) (s : State) : Outcome State Fault Refusal :=
  .next (s.act path tag opFeed fun o =>
    match s.feedBuf o with
    | none => s.finish o ccFormat 0 0
    | some b =>
      if b.size < feedLen o then s.finish o ccFormat 0 0
      else if s.stepBegun o.part (feedStep o) then s.rejectState o
      else s.stageOrder o 2)
/-- Writes zero or given bytes from an address on, byte by byte, in as many bytes as stated (R216: held is cleared). -/
def State.putBytesAt (s : State) (p a v : Nat) : Nat → State
  | 0 => s
  | n + 1 => (s.putDram p a 1 (v % 256) false).putBytesAt p (a + 1) (v / 256) n
/-- FEED_TRANSFER: once step s − 2 has ended the data lands in slot s mod 2, the rest of the slot is zero, and a release that waits
may go. -/
def execFeedTransfer (path : Path) (tag : Fin 4096) (data : Nat) (s : State) : Outcome State Fault Refusal :=
  .next (
    match s.order path tag with
    | none => s
    | some o =>
      let p := o.part
      let k := feedStep o
      let ended := decide (k ≤ 1) || (decide (s.pState p ≠ psLoaded) && decide (k ≤ (s.part p).stepNo + 1))
      match s.feedBuf o with
      | none => s
      | some b =>
        if o.opcode ≠ opFeed ∨ o.stage ≠ 2 ∨ ¬ ended then s
        else
          let s := s.putBytesAt p (b.slot0 + k % 2 * b.size) (data % 256 ^ feedLen o) b.size
          let s := (s.modPart p (fun q => { q with fed := q.fed ++ [(b.num, k)] })).finish o ccOk 0 0
          if (s.part p).beginWait then (if s.feedsMissing p 0 then s else s.launch p) else s.tryRelease p)
/-- READ_OUT: at once, or at the next STEP release in RUNNING. -/
def execReadOut (path : Path) (tag : Fin 4096) (s : State) : Outcome State Fault Refusal :=
  .next (s.act path tag opReadOut fun o =>
    let n := ordNat o.words 32 4
    if (s.blocksOf o.part (ordNat o.words 16 8) n).isNone then s.finish o ccFormat 0 0
    else if s.pState o.part = psRunning then (if 16 * 2 ^ 20 < n then s.finish o ccFormat 0 0 else s.stageOrder o 2)
    else s.takeReadOut o)

/-! ### CHECKPOINT, RESTORE, groups (R394 to R396) -/

/-- CHECKPOINT: runs now, or waits for the copy before it. -/
def execCheckpoint (path : Path) (tag : Fin 4096) (s : State) : Outcome State Fault Refusal :=
  .next (s.act path tag opCheckpoint fun o =>
    let p := o.part
    let o2 : OrderSt := { o with stage := 2 }
    let s := s.stageOrder o 2
    if (s.part p).copy.isSome then s.modPart p (fun q => { q with copyQueue := q.copyQueue ++ [o2] })
    else
      let s := s.beginCopy p o2
      s.nextCopy p ((s.part p).copyQueue.length + 1))
/-- RESTORE: `valid` is what the slot's header reads as. One restore of a partition runs at a time. -/
def execRestore (path : Path) (tag : Fin 4096) (valid : Bool) (s : State) : Outcome State Fault Refusal :=
  .next (s.act path tag opRestore fun o =>
    if (s.part o.part).restore.isSome then s
    else if !valid then s.finish o ccFaulted 1 0
    else (s.stageOrder o 2).modPart o.part (fun q => { q with restore := some ⟨{ o with stage := 2 }, 0⟩ }))
/-- Whether a partition is a member of a stream group: joined, and dropped or left nowhere yet (R229, R231). -/
def State.isMember (s : State) (p g : Nat) : Bool :=
  (s.part p).joined.contains g && s.sites.any (fun e => (e.2.active ++ e.2.joining).any (fun x => decide (x = (g, p))))
/-- JOIN_GROUP (R396). -/
def execJoinGroup (path : Path) (tag : Fin 4096) (s : State) : Outcome State Fault Refusal :=
  .next (s.act path tag opJoin fun o =>
    let p := o.part
    let g := ordByte o.words 16
    let permitted := ((s.image.map (·.groups)).getD []).any (fun d => decide (d.num = g) && d.members.contains p)
    let declared := (s.part p).cap.any (fun c => c.streamGroups.contains g)
    if !permitted then s.finish o ccAuth 0 0
    else if !declared then s.finish o ccFormat 0 0
    else if s.isMember p g then s.finish o ccOk 0 0
    else
      let s := s.modPart p (fun q => { q with joined := if q.joined.contains g then q.joined else q.joined ++ [g]
                                              joinedEver := if q.joinedEver.contains g then q.joinedEver else q.joinedEver ++ [g] })
      let s := (rangeFrom 0 40).foldl (fun (s : State) m => s.modSite m (fun q => { q with joining := q.joining ++ [(g, p)] })) s
      (s.loadHomes p).finish o ccOk 0 0)
/-- LEAVE_GROUP: what is pending is served privately, and then the group's stream is open to the partition no more (R224, R229, R396). -/
def execLeaveGroup (path : Path) (tag : Fin 4096) (s : State) : Outcome State Fault Refusal :=
  .next (s.act path tag opLeave fun o =>
    let p := o.part
    let g := ordByte o.words 16
    let s := if s.isMember p g then
        ((rangeFrom 0 40).foldl (fun (s : State) m => s.deactivate m g p) s).modPart p (fun q => { q with joined := q.joined.filter (fun x => x ≠ g) })
      else s
    s.finish o ccOk 0 0)

end Sys2Proof.Machine
end

