-- ==== Sys2Proof/Machine/Host.lean ====
section
/-! DEFINITION. Host ports: function level resets, lost and retrained links (R431 to R437, R481, R518). -/
namespace Sys2Proof.Machine
open Host

/-- Whether the image declares a partition (R364, R432). -/
def State.declared (s : State) (p : Nat) : Bool := ((s.image.map (·.parts)).getD []).any (fun d => decide (d.num = p))
/-- Declared virtual functions of a host port (R432). -/
def State.vfsOf (s : State) (h : Nat) : List Nat :=
  (((s.image.map (·.parts)).getD []).filter (fun d => decide (d.hostPort = h))).map (·.num)
/-- Registers of a function's queues (R374, R398). -/
def queueReg (r : Reg) : Bool :=
  [Reg.partOqBase, .partOqCfg, .partOqTail, .partCqBase, .partCqCfg, .partCqHead, .partQStat].contains r
/-- The queue registers of a function reset, and what the queues held is gone (R434; log 25). -/
def State.resetQueues (s : State) (k : Nat) : State :=
  (s.resetRegs (fun r i => queueReg r && decide (i = k))).modFn k (fun q => { q with fetched := [], held := [], latch := none, srcs := [] })
/-- Every outstanding order of a function ends and none of them completes (R434; log 25). -/
def State.discardFn (s : State) (k : Nat) : State :=
  let s := (s.fn k).orders.foldl (fun s o => s.cancelOrder o) (s.resetQueues k)
  let s := (rangeFrom 0 64).foldl (fun (s : State) p =>
    s.modPart p (fun q => { q with closing := q.closing.filter (fun o => decide (pathIx o.path ≠ k)) })) s
  s.modFn k (fun q => { q with orders := [], held := [] })
/-- FLR of a virtual function (R434). A teardown already under way goes on, and the CLOSE it would have completed is discarded. -/
def State.flrVf (s : State) (p : Nat) : State :=
  if !s.declared p then s
  else
    let s := s.resetQueues p
    if s.pState p = psEmpty then s.discardFn p
    else if s.pState p = psZero then (s.dropOrders p).modPart p (fun q => { q with closing := none })
    else s.teardown p true none
/-- FLR of a physical function: its admin session ends, and every virtual function of the port is reset (R434). -/
def State.flrPf (s : State) (h : Nat) : State :=
  let s := s.discardFn (64 + h)
  let s := if (s.fn (64 + h)).session.isSome then s.endAdmin (64 + h) else s
  (s.vfsOf h).foldl (fun s p => s.flrVf p) s

/-- FLR_VF (R434). -/
def execFlrVf (p : PartIx) (s : State) : Outcome State Fault Refusal := .next (s.flrVf p)
/-- FLR_PF (R434). -/
def execFlrPf (h : HostIx) (s : State) : Outcome State Fault Refusal := .next (s.flrPf h)
/-- HOT_RESET, or a link disable: every function on the port (R434). -/
def execHotReset (h : HostIx) (s : State) : Outcome State Fault Refusal := .next (s.flrPf h)
/-- VF_ENABLE_CLEAR: every virtual function on the port (R434). -/
def execVfEnableClear (h : HostIx) (s : State) : Outcome State Fault Refusal := .next ((s.vfsOf h).foldl (fun s p => s.flrVf p) s)
/-- PERST_ASSERT. R518 names the contact and no rule says what it does: PRESUMED to reset the port's functions as a hot reset
does (log 26). -/
def execPerstAssert (h : HostIx) (s : State) : Outcome State Fault Refusal := .next (s.flrPf h)
/-- Node of a host port's edge die: H0 to H3 stand on E0, E2, E4 and E6 (R22, R284). -/
def hostNode (h : Nat) : Nat := 0x1040 + 2 * h
/-- HOST_LINK_LOST without a reset: the event; fetch and completion writes stop while the link is down, and everything else stays (R435). -/
def execHostLinkLost (h : HostIx) (s : State) : Outcome State Fault Refusal :=
  .next (
    if !s.flagF F.epdHost_up h then s
    else
      let s := ((s.setB F.epdHost_up h false).setF F.epdHost_gen h 0).setF F.epdHost_width h 0
      s.raise .hostLinkLost (hostNode h) none 0)
/-- Lanes by code: x1, x4, x8, x16 (R431). -/
def laneCount (w : Fin 4) : Nat := [1, 4, 8, 16].getD w 16
/-- HOST_LINK_RETRAIN at a generation and width: held completions are written, fetch resumes, and steward mode ends (R431, R435,
R481). A port that is disabled, or taken out of service, does not train. -/
def execHostLinkRetrain (h : HostIx) (gen : Fin 3) (width : Fin 4) (s : State) : Outcome State Fault Refusal :=
  .next (
    if s.getF F.epdHost_mode h = 0 ∨ s.unitState (unitLink (32 + h)) = 3 ∨ s.unitState (unitPort (32 + h)) = 3 then s
    else
      let s := ((s.setB F.epdHost_up h true).setF F.epdHost_gen h (gen + 1)).setF F.epdHost_width h (laneCount width)
      let s := ((64 + h.val) :: s.vfsOf h).foldl (fun (s : State) k => s.flushHeld k) s
      s.setSteward false)

end Sys2Proof.Machine
end

