-- ==== Sys2Proof/Machine/Store.lean ====
section
/-! DEFINITION. The Configuration Store: the image and its validation, the operations on it, and the health record log (R351,
R483 to R493). -/
namespace Sys2Proof.Machine
open Host

/-! ### The image (R485 to R490) -/

/-- One byte of a slot; an erased byte reads 0xFF. -/
def State.flashByte (s : State) (slot k : Nat) : Byte := Tab.get (fun _ => 0xFF) s.flash (slot * 2 ^ 28 + k)
def State.setFlash (s : State) (slot k : Nat) (b : Byte) : State :=
  { s with flash := Tab.put (fun _ => 0xFF) (slot * 2 ^ 28 + k) b s.flash }
/-- Erases bytes `[a, a+n)` of a slot. -/
def State.eraseFlash (s : State) (slot a n : Nat) : State :=
  { s with flash := Tab.clear (fun k => decide (slot * 2 ^ 28 + a ≤ k) && decide (k < slot * 2 ^ 28 + a + n)) s.flash }
/-- Longest image, and the unit of PROGRAM. -/
def slotSize : Nat := 0x0F000000
def chunkSize : Nat := 65536
/-- Bytes `[a, a+n)` of an image, and the number they spell. -/
def imgBytes (img : Nat → Byte) (a n : Nat) : List Byte := (rangeFrom a n).map img
def imgNat (img : Nat → Byte) (a n : Nat) : Nat := ofLe (imgBytes img a n)
/-- Detail 5 as far as the section table shows it: types 1 to 10 once each, inside the image, clear of one another and of the header. -/
def sectionsBad (len : Nat) (l : List SecEntry) : Bool :=
  (rangeFrom 1 10).any (fun k => decide ((l.filter (fun e => decide (e.kind = k))).length ≠ 1))
    || l.any (fun e => decide (len < e.off + e.len)) || rangesMeet ((0, 672) :: l.map (fun e => (e.off, e.len)))
/-- Whether the fenced cores of a factory floor plan leave less than R15 asks for. -/
def fewCores (fenced : List Nat) : Bool :=
  decide (128 < fenced.eraseDups.length) || (rangeFrom 0 64).any (fun d => decide (8 < ((dieCores d).filter (fun c => fenced.contains c)).length))
/-- Whether every number of a list differs from the others. -/
def noRepeat (l : List Nat) : Bool := decide (l.eraseDups.length = l.length)
/-- Detail 7: clusters and functions (R364, R436). -/
def partsBad (im : Image) : Bool :=
  im.parts.any (fun d => d.clusters.isEmpty || decide (64 ≤ d.num) || decide (im.hostModes.getD d.hostPort 0 ≠ 1) || decide (64 ≤ d.vf))
    || (im.parts.flatMap (·.clusters)).any (fun k => decide (1024 ≤ k)) || !noRepeat (im.parts.flatMap (·.clusters))
    || !noRepeat (im.parts.map (fun d => d.hostPort * 64 + d.vf)) || !noRepeat (im.parts.map (·.num))
/-- GiB of each site that an extent uses. -/
def extFrames (e : Extent) : Nat := e.len / max 1 e.siteCount
/-- Whether two extents share a physical block. -/
def extentsMeet (a b : Extent) : Bool :=
  decide (a.frame < b.frame + extFrames b) && decide (b.frame < a.frame + extFrames a)
    && (rangeFrom 0 40).any (fun m => extOnSite a m && extOnSite b m)
/-- Whether a partition is the owner or a permitted member of the group a shared extent is for (R213, R229). -/
def sharesIn (im : Image) (p : Nat) (e : Extent) : Bool :=
  decide (p = e.owner) || im.groups.any (fun g => decide (g.num = e.group) && decide (g.owner = e.owner) && g.members.contains p)
/-- Two entries of one shared extent. -/
def sameShared (a b : Extent) : Bool :=
  a.shared && b.shared && decide (a.owner = b.owner) && decide (a.group = b.group) && decide (a.siteFirst = b.siteFirst)
    && decide (a.siteCount = b.siteCount) && decide (a.frame = b.frame) && decide (a.len = b.len)
/-- Every pair of a list, the earlier element first. -/
def pairsOf {α : Type} : List α → List (α × α)
  | [] => []
  | a :: t => t.map (fun b => (a, b)) ++ pairsOf t
/-- An extent entry that breaks R213 by itself. -/
def extentBad (im : Image) (e : Extent) : Bool :=
  decide (e.len = 0) || decide (e.siteCount = 0) || decide (40 < e.siteCount) || decide (40 ≤ e.siteFirst)
    || decide (e.len % max 1 e.siteCount ≠ 0) || decide (64 < e.frame + extFrames e) || decide (245760 < e.pbase + e.len)
    || (decide (im.recvCount ≠ 0) && decide (e.frame < im.recvFirst + im.recvCount) && decide (im.recvFirst < e.frame + extFrames e))
/-- Detail 8: valid extents, shared extents and group maps; a table holds 64 entries (R211, R213, R229). -/
def extentsBad (im : Image) : Bool :=
  let has (p : Nat) : Bool := im.parts.any (fun d => decide (d.num = p))
  let all := im.parts.flatMap (fun d => (d.extents.filter (·.valid)).map (fun e => (d.num, e)))
  im.parts.any (fun d => decide (64 < d.extents.length)) || all.any (fun x => extentBad im x.2 || (x.2.shared && !has x.2.owner))
    || (pairsOf all).any (fun x =>
      (decide (x.1.1 = x.2.1) && decide (x.1.2.pbase < x.2.2.pbase + x.2.2.len) && decide (x.2.2.pbase < x.1.2.pbase + x.1.2.len))
        || (extentsMeet x.1.2 x.2.2 && !(sameShared x.1.2 x.2.2 && decide (x.1.1 ≠ x.2.1) && sharesIn im x.1.1 x.1.2 && sharesIn im x.2.1 x.2.2)))
    || im.groups.any (fun g => !has g.owner || g.members.any (fun p => !has p)
      || !all.any (fun x => decide (x.1 = g.owner) && x.2.shared && decide (x.2.group = g.num) && decide (g.mapOff + 64 ≤ x.2.len * 2 ^ 30)))
/-- Whether a function code of a pin is one R444 gives it: function 1 stands on SB_GPIO0, 1, 4 and 5 and on PWRCAP_IN (pin 12). -/
def pinFnOk (m f : Nat) : Bool := decide (f = 0) || (decide (f = 1) && [0, 1, 4, 5, 12].contains m)
/-- Detail 9: ports, PFC masks, the peer table, and the reserved codes of host modes and pins (R11, R417, R422, R423, R444, R447). -/
def linksBad (im : Image) : Bool :=
  im.ports.any (fun d => decide (3 < d.mode) || decide (2 < d.lanes) || (decide (d.mode = 3) && decide (d.lanes = 2))
      || (d.pfc && d.mask.testBit (im.klPrio.getD 3 0)))
    || im.peers.any (fun e => decide (e.id = im.moduleId)) || decide (im.bodyFault = 9)
    || im.hostModes.any (fun m => decide (2 < m)) || (rangeFrom 0 13).any (fun m => !pinFnOk m (im.pinmux / 4 ^ m % 4))
/-- A cap that is none, or lies in its range (R474, R477). -/
def capOk (w : Nat) : Bool := decide (w = 0) || (decide (2400 ≤ w) && decide (w ≤ 24000))
/-- Detail 10: divisor rows, voltages, caps and shares (R462, R463, R474, R476, R477). -/
def powerBad (im : Image) : Bool :=
  (rangeFrom 0 64).any (fun d => [4, 5, 6, 8, 12].any (fun v => !im.rows.any (fun r => decide (r.1 = d) && decide (r.2.1 = v))))
    || im.rows.any (fun r => decide (r.2.2 < 550) || decide (950 < r.2.2)) || !capOk im.imageCap || !capOk im.capW || !capOk im.lowCap
    || decide (im.lowCap = 0) || decide (im.ramp = 0) || decide (24000 < im.ramp) || im.parts.any (fun d => decide (65536 ≤ d.share))
/-- Details 5 to 11 as the decoded sections show them, the lowest first; 0 for none. -/
def bodyDetail (im : Image) : Nat :=
  if im.bodyFault = 5 then 5
  else if decide (im.serial ≠ Config.serial.toNat) || decide (im.bodyFault = 6) || fewCores im.fenced then 6
  else if partsBad im then 7
  else if extentsBad im then 8
  else if linksBad im then 9
  else if powerBad im then 10
  else if im.bodyFault = 11 ∨ (im.adminKey.isNone ∧ im.adminPwKey.isNone) then 11
  else 0
/-- The detail of R490 of an image; 0 where it passes. -/
def imageDetail (img : Nat → Byte) (body : Option Image) : Nat :=
  let len := imgNat img 8 4
  let secs := secTable 10 (imgBytes img 512 160)
  if imgNat img 0 4 ≠ 0x49475747 ∨ imgNat img 6 2 ≠ 512 ∨ imgNat img 12 2 ≠ 10 ∨ slotSize < len ∨ imgNat img 14 2 ≠ 0
      ∨ imgNat img 24 8 ≠ 0 ∨ imgNat img 256 256 ≠ 0 then 1
  else if imgNat img 4 2 ≠ 1 ∨ secs.any (fun e => decide (e.ver ≠ 1)) then 2
  else if sha256 (imgBytes img 512 (len - 512)) ≠ imgBytes img 32 32 then 3
  else if sha256 (imgBytes img 64 96) ≠ leBytes Config.ownerKeyHash.toNat 32 ∨ !Config.ecdsaOk (imgBytes img 0 160) (imgBytes img 160 96) then 4
  else if sectionsBad len secs then 5
  else match body with
    | some im => bodyDetail im
    | none => 5
/-- Detail of a slot as it stands. -/
def State.slotDetail (s : State) (slot : Nat) (body : Option Image) : Nat := imageDetail (s.flashByte slot) body
/-- Detail of a slot with its held chunk in place of the first one (R492). -/
def State.commitDetail (s : State) (slot : Nat) (body : Option Image) : Nat :=
  imageDetail (fun k => if k < chunkSize ∧ s.mod.heldFor.contains slot then Memory.read s.mod.held (slot * chunkSize + k)
    else s.flashByte slot k) body
/-- The field of CFGS.STATUS that says a slot holds a committed image. -/
def slotField (slot : Nat) : RF := if slot = 0 then F.cfgsStatus_slot_a_valid else F.cfgsStatus_slot_b_valid

/-! ### Operations (R492) -/

/-- Who may use the CFGS registers and MOD.RESET: the admin session's path; in safe mode a management port with its session (R491, R507). -/
def State.cfgsMay (s : State) (path : Path) : Bool :=
  s.admitted path || (decide (s.getF F.modState_state 0 = mSafe) && (s.fn (pathIx path)).session.isSome && (match path with
    | .mgmt _ => true
    | _ => false))
def State.cfgsError (s : State) : State := s.setB F.cfgsStatus_error 0 true
/-- A write to CFGS.CTRL with go: ignored while busy, or for a chunk outside the slot. An erasure invalidates its slot at once. -/
def State.cfgsStart (s : State) (path : Path) (op slot offset : Nat) : State :=
  let s := s.touch path
  if !s.cfgsMay path then s
  else if s.flagF F.cfgsStatus_busy 0 || (decide (op = 2) && decide (3839 < offset)) then s.cfgsError
  else
    let s := (s.setB F.cfgsStatus_busy 0 true).modMod (fun q => { q with op := some (op, slot, offset) })
    if op = 1 then
      ((s.setB (slotField slot) 0 false).eraseFlash slot 0 chunkSize).modMod (fun q => { q with heldFor := NSet.del slot q.heldFor })
    else s
/-- ERASE. -/
def execErase (path : Path) (slot : Fin 2) (s : State) : Outcome State Fault Refusal := .next (s.cfgsStart path 1 slot 0)
/-- PROGRAM of CFGS.BUF at a chunk. -/
def execProgram (path : Path) (slot : Fin 2) (offset : BitVec 12) (s : State) : Outcome State Fault Refusal :=
  .next (s.cfgsStart path 2 slot offset.toNat)
/-- COMMIT. -/
def execCommit (path : Path) (slot : Fin 2) (s : State) : Outcome State Fault Refusal := .next (s.cfgsStart path 3 slot 0)
/-- SEAL. -/
def execSeal (path : Path) (s : State) : Outcome State Fault Refusal := .next (s.cfgsStart path 4 0 0)
/-- Programs CFGS.BUF; chunk 0 is held back (R492, R493). -/
def State.programChunk (s : State) (slot offset : Nat) : State :=
  if offset = 0 then
    let old := Tab.clear (fun k => decide (k / chunkSize = slot)) s.mod.held
    let new := s.mod.buf.foldl (fun m e => Memory.write m (slot * chunkSize + e.1) e.2) old
    s.modMod (fun q => { q with held := new, heldFor := NSet.add slot q.heldFor })
  else (rangeFrom 0 chunkSize).foldl (fun (s : State) k => s.setFlash slot (offset * chunkSize + k) (Memory.read s.mod.buf k)) s
/-- COMMIT's end: the detail as result, the header last for a slot that passes, IMAGE_WRITTEN. -/
def State.commitSlot (s : State) (slot : Nat) (body : Option Image) : State :=
  let d := s.commitDetail slot body
  let s := s.setF F.cfgsStatus_result 0 d
  let s := if d ≠ 0 then s
    else
      let s := (rangeFrom 0 chunkSize).foldl (fun (s : State) k =>
        s.setFlash slot k (Memory.read s.mod.held (slot * chunkSize + k))) s
      (s.setB (slotField slot) 0 true).modMod (fun q => { q with heldFor := NSet.del slot q.heldFor })
  s.raise .imageWritten stewardNode none 0
/-- SEAL's end: the record of R488 in bytes 0 to 63 and zero after it; a role or partition that R488 reserves is an error. -/
def State.sealBuf (s : State) : State :=
  let b := s.mod.buf
  let role := Memory.readNat b 0 1
  let part := Memory.readNat b 1 1
  if 2 < role ∨ (role = 0 ∧ 64 ≤ part) then s.cfgsError
  else
    let who := if role = 0 then part else 255
    let nonce := Config.sealNonce s.freeCtr
    let box := Config.sealKey role who nonce (BitVec.ofNat 256 (Memory.readNat b 4 32))
    let rec_ := [BitVec.ofNat 8 role, BitVec.ofNat 8 who, 0#8, 0#8] ++ leBytes nonce.toNat 12 ++ leBytes box.toNat 48
    { s with mod := { s.mod with buf := Memory.writeBytes [] 0 rec_ }, freeCtr := s.freeCtr + 1 }
/-- CFGS_OPERATION_DONE: the operation takes effect, unless the device failed it. A COMMIT meets the sections as decoded. -/
def execCfgsOperationDone (failed : Bool) (body : Option Image) (s : State) : Outcome State Fault Refusal :=
  .next (
    match s.mod.op with
    | none => s
    | some (op, slot, offset) =>
      let s := (s.setB F.cfgsStatus_busy 0 false).modMod (fun q => { q with op := none })
      if failed then s.cfgsError
      else if op = 1 then s.eraseFlash slot 0 slotSize
      else if op = 2 then s.programChunk slot offset
      else if op = 3 then s.commitSlot slot body
      else s.sealBuf)

/-! ### The health record log (R351, R484) -/

/-- Bytes of a health record entry (R348). -/
def healthBytes (u : Nat) (h : Health) : List Byte :=
  leBytes u 2 ++ leBytes h.state 1 ++ leBytes h.cause 1 ++ leBytes h.count 4
    ++ (rangeFrom 0 4).flatMap (fun i => leBytes (h.times.getD i 0) 4) ++ leBytes h.changed 4 ++ leBytes 0 4
/-- Unit number of the n-th entry of the record: kinds in order, then indices (R347). -/
def unitAt (n : Nat) : Nat :=
  if n < 4096 then n else if n < 4992 then 0x2000 + (n - 4096) else if n < 6272 then 0x4000 + (n - 4992)
  else if n < 6308 then 0x6000 + (n - 6272) else if n < 7332 then 0x8000 + (n - 6308) else 0xA000 + (n - 7332)
/-- An entry from its bytes: as many fault times as faults, up to four (R348). -/
def healthOfBytes (l : List Byte) : Health :=
  let at_ (a n : Nat) : Nat := ofLe ((l.drop a).take n)
  { Health.init with
    state := at_ 2 1, cause := at_ 3 1, count := at_ 4 4, times := (rangeFrom 0 (min 4 (at_ 4 4))).map (fun i => at_ (8 + 4 * i) 4)
    changed := at_ 24 4 }
/-- Entries of the record, and records of a log half. -/
def healthEntries : Nat := 7368
def halfRecords : Nat := 65536
/-- Device address of the log, of 2 × 65,536 records of 64 B (R483, R484). -/
def logBase : Nat := 0x0F000000
/-- The 64 B of a log record: entry, sequence number, zeros, check (R484). -/
def logRecord (u : Nat) (h : Health) (seq : Nat) : List Byte :=
  let l := healthBytes u h ++ leBytes seq 8 ++ leBytes 0 20
  l ++ leBytes (crc32c l).toNat 4
/-- Writes record `k` of the log, at the same place in both devices. -/
def State.putRecord (s : State) (k : Nat) (l : List Byte) : State :=
  (rangeFrom 0 2).foldl (fun (s : State) d => l.zipIdx.foldl (fun (s : State) x => s.setFlash d (logBase + 64 * k + x.2) x.1) s) s
/-- An entry as its newest record now holds it. -/
def Health.written (h : Health) (now : Nat) : Health := { h with due := false, wroteAt := some now }
/-- Whether the stewards write an entry now: changed, and RETIRED or not written within the last minute. -/
def State.writesNow (s : State) (h : Health) : Bool :=
  h.due && (decide (h.state = 3) || (match h.wroteAt with
    | some a => decide (a + 6000000000 ≤ s.now)
    | none => true))
/-- A full half: every entry goes to the start of the other half, and the full one is erased. -/
def State.compactLog (s : State) : State :=
  if s.mod.logPos < halfRecords then s
  else
    let half := 1 - s.mod.logHalf
    let s := (rangeFrom 0 healthEntries).foldl (fun (s : State) n =>
      s.putRecord (half * halfRecords + n) (logRecord (unitAt n) (s.healthOf (unitAt n)) (s.mod.logSeq + n))) s
    let s := (rangeFrom 0 2).foldl (fun (s : State) d => s.eraseFlash d (logBase + 64 * halfRecords * (1 - half)) (64 * halfRecords)) s
    let s := s.health.foldl (fun (s : State) e => s.setHealth e.1 (e.2.written s.now)) s
    s.modMod (fun q => { q with logHalf := half, logPos := healthEntries, logSeq := q.logSeq + healthEntries })
/-- Writes one entry to the logs of both devices. -/
def State.logEntry (s : State) (u : Nat) (h : Health) : State :=
  let s := s.putRecord (s.mod.logHalf * halfRecords + s.mod.logPos) (logRecord u h s.mod.logSeq)
  ((s.setHealth u (h.written s.now)).modMod (fun q => { q with logPos := q.logPos + 1, logSeq := q.logSeq + 1 })).compactLog
/-- Writes the entries that a test picks. -/
def State.writeHealth (s : State) (pick : Health → Bool) : State :=
  (s.health.filter (fun e => pick e.2)).foldl (fun (s : State) e => s.logEntry e.1 e.2) s
/-- HEALTH_RECORD_WRITE (R351). -/
def execHealthRecordWrite (s : State) : Outcome State Fault Refusal := .next (s.writeHealth s.writesNow)
/-- The records of both logs whose check holds: unit, sequence number, entry. Erased places hold none (R484). -/
def State.logRecords (s : State) : List (Nat × Nat × Health) :=
  let places := ((s.flash.filter (fun e => decide (logBase ≤ e.1 % 2 ^ 28) && decide (e.1 % 2 ^ 28 < logBase + 128 * halfRecords))).map
    (fun e => e.1 / 64)).eraseDups
  places.filterMap (fun k =>
    let l := (rangeFrom 0 64).map (fun i => Tab.get (fun _ => 0xFF) s.flash (64 * k + i))
    if leBytes (crc32c (l.take 60)).toNat 4 = l.drop 60 then some (ofLe (l.take 2), ofLe ((l.drop 32).take 8), healthOfBytes l) else none)
/-- The entry of a unit by the record with the highest sequence number. -/
def newestRecord (l : List (Nat × Nat × Health)) (u : Nat) : Health :=
  (((l.filter (fun e => e.1 = u)).foldl (fun (b : Option (Nat × Nat × Health)) e => match b with
    | some x => if x.2.1 < e.2.1 then some e else b
    | none => some e) none).map (fun e => e.2.2)).getD Health.init
/-- The stewards' memory is lost: the record is as the logs hold it, but for DERATED_2 of a unit whose retirement was not yet written (R351,
R484; log 12). -/
def State.revertHealth (s : State) : State :=
  let l := s.logRecords
  (l.map (·.1) ++ s.health.map (·.1)).foldl (fun (t : State) u =>
    let h := newestRecord l u
    let old := s.healthOf u
    t.setHealth u (if old.state = 3 ∧ old.due ∧ h.state ≠ 3 then { h with state := 2 } else h)) s

end Sys2Proof.Machine
end

