-- ==== Sys2Proof/Machine/Bringup.lean ====
section
/-! DEFINITION. Resets of the module, bring-up, restarts, loss of power, STANDBY (R7, R31, R32, R36, R470 to R473, R489 to R500,
R514). -/
namespace Sys2Proof.Machine
open Host

/-! ### Resets (R7, R499) -/

/-- What is left of the stewards' own state after a COLD reset: the health log's place and the JTAG port (R441, R484). -/
def State.coldMod (s : State) : ModSt :=
  { ModSt.init with off := false, pg := true, jtag := s.mod.jtag, boundary := s.mod.boundary, logHalf := s.mod.logHalf
                    logPos := s.mod.logPos, logSeq := s.mod.logSeq }
/-- A COLD reset: every field returns to its reset value; the Configuration Store, the health record and the time base go on. -/
def State.coldReset (s : State) : State :=
  { State.reset with
    flash := s.flash, health := s.health, evSeq := [], mod := s.coldMod, out := s.out, now := s.now, freeCtr := s.freeCtr
    pending := s.pending }
/-- A function after a WARM reset: its nonce and lockout are COLD (R398). -/
def FnSt.warm (q : FnSt) : FnSt := { FnSt.init with nonce := q.nonce, nonceValid := q.nonceValid, lockEnd := q.lockEnd }
/-- A WARM reset: the fields of domains WARM and PART; scratchpad and DRAM are lost, LDG.RECV frames and the record are kept. -/
def State.warmReset (s : State) : State :=
  let s := s.resetRegs (fun r _ => decide (r.dom ≠ .cold))
  let fns := s.fns
  let s := { s with
    cores := [], parts := [], sites := [], fns := [], evcs := [], edges := [], congHeard := [], spad := [], spadPoison := []
    spadChk := [], dram := [], blk := [], net := [], ctl := [], evNet := [], evSeq := [], conns := [], klRx := [], heard := []
    fab := FabSt.init }
  fns.foldl (fun (s : State) e => s.setFn e.1 e.2.warm) s

/-! ### What an image sets (R487, R494 step 1) -/

/-- LCK fields and the COLD fields whose reset value is the image's. -/
def State.imageLocked (s : State) (im : Image) : State :=
  let s := (im.hostModes.zipIdx.take 4).foldl (fun (s : State) (e : Nat × Nat) => s.setF F.epdHost_mode e.2 e.1) s
  let s := im.ports.foldl (fun (s : State) d =>
    let i := d.edge * 4 + d.port
    let s := ((s.setF F.epdPortCfg_mode i d.mode).setF F.epdPortCfg_lanes i d.lanes).setB F.epdPortCfg_pfc_en i d.pfc
    (s.setF F.epdPortCfg_pfc_mask i d.mask).setB F.epdPortCfg_udp i d.udp) s
  let s := (rangeFrom 0 8).foldl (fun (s : State) e =>
    let s := (s.setF F.epdKlCfg_ethertype e im.ethertype).setF F.epdKlCfg_udp_port e im.udpPort
    (s.setF F.epdKlCfg_rto_us e im.rto).setF F.epdKlCfg_retries e im.retries) s
  let s := (rangeFrom 0 40).foldl (fun (s : State) m =>
    (s.setF F.ldgRecv_frame_first m im.recvFirst).setF F.ldgRecv_frame_count m im.recvCount) s
  let s := im.parts.foldl (fun (s : State) d =>
    let s := (s.setF F.partId_partition d.num d.num).setF F.partId_host_port d.num d.hostPort
    let s := (s.setF F.partId_vf d.num d.vf).setF F.partId_clusters d.num d.clusters.length
    (s.setF F.partSessCfg_idle_s d.num d.idle).setF F.partSessCfg_kdf_kiter d.num im.kdf) s
  let s := (rangeFrom 64 6).foldl (fun (s : State) k =>
    (s.setF F.partSessCfg_idle_s k im.adminIdle).setF F.partSessCfg_kdf_kiter k im.kdf) s
  (s.setF F.modId_module_id 0 im.moduleId).setReg .sbPinmux 0 (BitVec.ofNat 64 im.pinmux)
/-- WARM and PART fields whose reset value is the image's: quotas, the management cap pair, idle_hold_ms, coalescing, shares. -/
def State.imageRuntime (s : State) (im : Image) : State :=
  let s := im.quotas.foldl (fun (s : State) (e : Nat × Nat) => s.setReg .fabQuota e.1 (BitVec.ofNat 64 (e.2 % 2 ^ 32))) s
  let pair := BitVec.ofNat 64 (im.capW % 65536 + im.ramp % 65536 * 65536)
  let s := ((s.setReg .pwrCap 0 pair).setReg .pwrCapShadow 0 pair).setF F.pwrCfg_idle_hold_ms 0 im.idleHold
  (rangeFrom 0 65).foldl (fun (s : State) p => s.imagePart p) s
/-- Cores as the fuses and the record enter them (R36): FENCED_FACTORY, FENCED_FIELD for a retired one, DERATED; a fenced core is
OFF. Every other core passed through TESTING and is GOOD. -/
def State.enterCores (s : State) (im : Image) : State :=
  let fence (s : State) (c n : Nat) : State := (s.modCore c (fun q => { q with state := n })).setF F.vregPoint_state c vOff
  let s := (s.health.filter (fun e => decide (e.1 < 4096) && decide (e.2.state ≠ 0))).foldl (fun (s : State) e =>
    let s := s.modCore e.1 (fun q => { q with state := 1, derateV := 1, derateD := if 2 ≤ e.2.state then 1 else 0 })
    if e.2.state = 3 then (s.modCore e.1 (fun q => { q with derateV := 0, derateD := 0 })) |> fun s => fence s e.1 4 else s) s
  im.fenced.foldl (fun (s : State) c => fence s c 3) s
/-- Channels, ports and phases that the record holds retired are out of service from the start (R350, R461). -/
def State.enterUnits (s : State) : State :=
  s.health.foldl (fun (s : State) e =>
    let u := e.1
    match u / 0x2000 with
    | 2 =>
      let m := u % 0x2000 / 32
      if e.2.state = 3 then s.setF F.ldgChService_in_service m (s.getF F.ldgChService_in_service m &&& (0xFFFFFFFF - 2 ^ (u % 32))) else s
    | 4 =>
      let d := u % 0x2000 / 16
      let w := s.getF F.tilePhases_in_service d
      let s := if e.2.state = 3 ∧ w.testBit (u % 16) then
          (s.setF F.tilePhases_in_service d (w - 2 ^ (u % 16))).setF F.tilePhases_shed d (min 15 (s.getF F.tilePhases_shed d + 1)) else s
      let s := if 3 ≤ s.getF F.tilePhases_shed d then s.setB F.tileStatus_capped d true else s
      s.showLimit d
    | _ => s) s

/-! ### Bring-up (R494 to R497) -/

/-- Units that failed a test: retired after a second failure, one fault after the first, carry lines and rim crossings out of service after a
second (R37, R495); a core that did not finish its tests is fenced as after a second failure (R36; log 46); repaired rows (R497). -/
def State.testUnits (s : State) (b : BringUp) : State :=
  let s := s.modFab (fun f => { f with lineOut := b.badLines.foldl (fun l n => NSet.add n l) f.lineOut
                                       rimOut := b.badRims.foldl (fun l n => NSet.add n l) f.rimOut })
  let s := b.unfinished.foldl (fun (s : State) c => s.charge (unitCore c) Config.otherCause.toNat true) s
  let s := b.failTwice.foldl (fun (s : State) u => if unitOk u then s.charge u Config.otherCause.toNat true else s) s
  let s := (b.failOnce.filter (fun u => !b.failTwice.contains u)).foldl (fun (s : State) u =>
    if unitOk u then s.charge u Config.otherCause.toNat false else s) s
  b.repaired.foldl (fun (s : State) (e : Nat × Nat) => s.bumpF F.ldgBlockStat_repaired e.1 e.2) s
/-- READY (R32, R494 step 8, R496), and the leak hold of R500. -/
def State.goReady (s : State) (b : BringUp) : State :=
  let s := ((s.setF F.modState_state 0 mReady).setF F.modState_step 0 8).rebuild
  let s := ((s.setB F.modState_lock_closed 0 true).modMod (fun q => { q with ready := true })).raise .moduleReady stewardNode none 0
  let s := (rangeFrom 0 64).foldl (fun (s : State) d => s.showDie d) s
  if b.leak = 0 then s
  else (((s.setB F.sbStat_leak 0 true).raise .leakDetected stewardNode none b.leak.toNat).setB F.pwrState_leak 0 true).enterHold
/-- Steps 2 to 8 with an image in force. -/
def State.bringUp (s : State) (im : Image) (b : BringUp) : State :=
  let s := (s.imageRuntime im).recap
  (((s.testUnits b).enterUnits).enterCores im).goReady b
/-- Safe mode (R481, R491). -/
def State.goSafe (s : State) : State :=
  let s := ((s.setF F.modState_state 0 mSafe).setF F.modState_step 0 1).setB F.modState_lock_closed 0 true
  (s.raise .safeModeEntered stewardNode none 0).setSteward true
/-- Selection of a slot: what stands against it, where it can be read (R489; log 27). -/
def State.slotReject (s : State) (slot : Nat) (read : Bool) (body : Option Image) : Nat := if read then s.slotDetail slot body else 1
/-- Bring-up from step 0 after a COLD reset (R489 to R497). -/
def State.coldBringUp (s : State) (b : BringUp) : State :=
  let ra := s.slotReject 0 b.readA b.bodyA
  let rb := s.slotReject 1 b.readB b.bodyB
  let s := (s.setB F.cfgsStatus_slot_a_valid 0 (decide (ra = 0))).setB F.cfgsStatus_slot_b_valid 0 (decide (rb = 0))
  let s := s.setF F.modState_reject_a 0 ra
  if ra = 0 then
    match b.bodyA with
    | some im => (({ s with image := some im }).imageLocked im).bringUp im b
    | none => s.goSafe
  else
    let s := s.setF F.modState_reject_b 0 rb
    match b.bodyB with
    | some im =>
      if rb ≠ 0 then s.goSafe
      else
        let s := ((s.setF F.modState_image 0 1).setB F.modState_fallback 0 true).raise .imageFallback stewardNode none 0
        (({ s with image := some im }).imageLocked im).bringUp im b
    | none => s.goSafe

/-! ### The commands -/

/-- Nothing that needs power is left. Of the stewards' record only the retirements that their log does not hold leave a trace (R351, R470;
log 12). -/
def State.powerOff (s : State) : State :=
  { State.reset with
    flash := s.flash, health := s.health.filter (fun e => decide (e.2.state = 3) && e.2.due), out := s.out, now := s.now, freeCtr := s.freeCtr, pending := s.pending
    mod := { ModSt.init with logHalf := s.mod.logHalf, logPos := s.mod.logPos, logSeq := s.mod.logSeq } }
/-- POWER_ON: input rises through the start threshold; MOD_PG, the health record from its log, and COLD bring-up (R484, R494, R514). -/
def execPowerOn (b : BringUp) (s : State) : Outcome State Fault Refusal :=
  .next (if s.mod.off then (s.powerOff.revertHealth.coldReset).coldBringUp b else s)
/-- INPUT_LOSS: below 44 V or above 62 V for 1 ms. The module is OFF (R470, R514). -/
def execInputLoss (s : State) : Outcome State Fault Refusal := .next s.powerOff
/-- MOD_RST_N_ASSERT, low for 10 µs: a COLD reset, then bring-up from step 0 once the pin is released. `held` tells that it is
still low (R441, R442, R500); an image write in progress leaves its slot invalid, as its header is not programmed (R493). -/
def execModRstNAssert (held : Bool) (b : BringUp) (s : State) : Outcome State Fault Refusal :=
  .next (
    if s.mod.off then s
    else
      let s := (s.revertHealth).coldReset
      if held then s.setB F.sbStat_reset_in 0 true else s.coldBringUp b)
/-- A restart request: who may make it, and when it is refused (R498, R500). -/
def State.restart (s : State) (path : Path) (inSafe : Bool) (go : State → State) : State :=
  let s := s.touch path
  if !s.cfgsMay path then s
  else
    let st := s.getF F.modState_state 0
    if (decide (st = mReady) || (inSafe && decide (st = mSafe))) && !s.flagF F.cfgsStatus_busy 0 then go s
    else s.setB F.modReset_error 0 true
/-- What comes before a restart: RESTARTING, every tenant session torn down with its orders completed, the admin session ended, every
pending health change written (R498). -/
def State.beforeRestart (s : State) : State :=
  let s := s.setF F.modState_state 0 mRestarting
  let s := (rangeFrom 0 64).foldl (fun (s : State) p =>
    if s.pState p = psEmpty then s
    else (if s.pState p = psZero then s else s.teardown p false none).teardownDone p) s
  let s := (rangeFrom 64 6).foldl (fun (s : State) k =>
    if (s.fn k).session.isSome then ((s.fn k).orders.foldl (fun s o => s.cancelOrder o) s).endAdmin k else s) s
  s.writeHealth (fun h => h.due)
/-- WARM_RESTART, kind 1 of MOD.RESET (R498, R499). The image in use is not read again. -/
def execWarmRestart (path : Path) (b : BringUp) (s : State) : Outcome State Fault Refusal :=
  .next (s.restart path false fun s =>
    match s.image with
    | none => s
    | some im =>
      let s := (s.beforeRestart.warmReset).modMod (fun q => { q with ready := false, exiting := false, wakers := [], console := false })
      let s := (s.setF F.modState_state 0 mBooting).setB F.modState_warm 0 true
      let s := (rangeFrom 0 64).foldl (fun (s : State) p => s.setB F.partState_zero_pending p false) s
      let s := b.recvBad.foldl (fun (s : State) k => match Tab.get (fun _ => none) s.recv k with
        | some x => { s with recv := Tab.put (fun _ => none) k (some { x with poison := true }) s.recv }
        | none => s) s
      s.bringUp im b)
/-- FULL_RELOAD, kind 2 of MOD.RESET: a COLD reset (R498, R499). -/
def execFullReload (path : Path) (b : BringUp) (s : State) : Outcome State Fault Refusal :=
  .next (s.restart path true fun s => (s.beforeRestart.coldReset).coldBringUp b)
/-- What is left of a core without power: what the stewards know of it, its state and its derating (R35, R36). -/
def CoreSt.unpowered (q : CoreSt) : CoreSt := { CoreSt.init with state := q.state, derateV := q.derateV, derateD := q.derateD }
/-- STANDBY: compute, ledger and edge port dies unpowered, and what they held lost. Sessions on the functions that `gone` picks end
without completions (R470, R472; log 28). -/
def State.enterStandby (s : State) (gone : Nat → Bool) : State :=
  let cores := s.cores
  let s := { s with cores := [], sites := [], dies := [], edges := [], spad := [], spadPoison := [], spadChk := [], dram := [], blk := []
                    recv := [], net := [], conns := [], klRx := [], ctl := [], parts := []
                    fab := { s.fab with taps := [], copies := [] } }
  let s := cores.foldl (fun (s : State) e => s.setCore e.1 e.2.unpowered) s
  let s := (rangeFrom 0 4096).foldl (fun (s : State) c => s.setF F.vregPoint_state c vOff) s
  let s := (rangeFrom 0 64).foldl (fun (s : State) p => s.setPState p psEmpty) s
  let s := (rangeFrom 0 32).foldl (fun (s : State) i => s.setF F.epdLink_up i 0) s
  let s := (rangeFrom 0 4).foldl (fun (s : State) h => ((s.setB F.epdHost_up h false).setF F.epdHost_gen h 0).setF F.epdHost_width h 0) s
  let s := (rangeFrom 0 70).foldl (fun (s : State) k =>
    if gone k then s.modFn k (fun q => { FnSt.init with lockEnd := q.lockEnd }) else s.modFn k (fun q => { q with orders := [] })) s
  (s.setF F.pwrState_state 0 pwStandby).modMod (fun q => { q with exiting := false, wakers := [] })
/-- THERM_TRIP: a sensor at 115 °C (R472, R500). -/
def execThermTrip (d : DieIx) (s : State) : Outcome State Fault Refusal :=
  .next (
    let s := (s.setF F.tileStatus_temp_c d (max 115 (s.getF F.tileStatus_temp_c d))).enterStandby (fun _ => true)
    let s := (s.setB F.pwrState_trip 0 true).modMod (fun q => { q with tripped := true, ready := false })
    s.raise .thermTrip stewardNode none 0)
/-- STANDBY_REQUEST: while every partition is EMPTY (R471). The admin session of a physical function ends with its port's power. -/
def execStandbyRequest (path : Path) (s : State) : Outcome State Fault Refusal :=
  .next (s.ifAdmitted path fun s =>
    if s.pwState = pwStandby then s
    else if (rangeFrom 0 64).any (fun p => decide (s.pState p ≠ psEmpty)) then s.modeError
    else s.enterStandby (fun k => decide (k < 68)))

end Sys2Proof.Machine
end

