-- ==== Sys2Proof/Machine/Ports.lean ====
section
/-! DEFINITION. The edge port dies: link states, flow control, the receive parser, Kifildo Link connections and what their frames
bring (R417 to R430). Sub-ports are numbered 8 × port + sub-port. -/
namespace Sys2Proof.Machine
open Host

/-- Node of an edge port die (R284). -/
def edgeNode (e : Nat) : Nat := 0x1040 + e

/-! ### Link states (R419) -/

/-- LINK_UP or LINK_DOWN detail: port, then sub-port. -/
def linkDetail (port sub : Nat) : Nat := port + 256 * sub
/-- Sub-ports of a port: as its mode has them, and one of a management port (R417, R419). -/
def State.subPorts (s : State) (port : Nat) : Nat := if port < 32 then 2 ^ s.getF F.epdPortCfg_mode port else 1
/-- The debounced state of a sub-port of N00 to N31, or of management port 32 or 33. A port whose link or logic is retired does not come up
(R350), and a sub-port that the mode does not have reports nothing. -/
def State.linkState (s : State) (port sub : Nat) (on : Bool) : State :=
  if s.subPorts port ≤ sub ∨ (on = true ∧ port < 32 ∧ s.portServes port = false) then s
  else
    let src := if port < 32 then edgeNode (port / 4) else stewardNode
    let s := if 32 ≤ port then s
      else
        let w := s.getF F.epdLink_up port
        s.setF F.epdLink_up port (if on then w ||| 2 ^ sub else w &&& (255 - 2 ^ sub))
    s.raise (if on then .linkUp else .linkDown) src none (linkDetail port sub)
/-- LINK_UP: locked and aligned for 10 ms with no fault signalled. -/
def execLinkUp (port : Fin 34) (sub : Fin 8) (s : State) : Outcome State Fault Refusal := .next (s.linkState port sub true)
/-- LINK_DOWN: any of it lost for 10 ms. -/
def execLinkDown (port : Fin 34) (sub : Fin 8) (s : State) : Outcome State Fault Refusal := .next (s.linkState port sub false)

/-! ### Sending and acknowledging (R421, R426) -/

/-- Sends what waits on a channel, as far as its window and PFC allow. -/
def State.drainChan (s : State) (sub peer n : Nat) : Nat → State
  | 0 => s
  | k + 1 =>
    let c := s.conn sub peer
    let ch := c.chans.getD n .init
    match ch.backlog with
    | [] => s
    | f :: t =>
      if c.status ≠ 1 ∨ 256 ≤ ch.unacked.length ∨ s.pfcPaused sub n then s
      else
        let s := s.setConn { c with chans := c.chans.set n { ch with backlog := t } }
        (s.sendOn (s.conn sub peer) f).drainChan sub peer n k
/-- A cumulative acknowledgement frees the frames it covers, and the window moves on. -/
def State.ackChan (s : State) (sub peer n cum : Nat) : State :=
  let c := s.conn sub peer
  let ch := c.chans.getD n .init
  let left := ch.unacked.filter (fun e => decide (2 ^ 31 ≤ (cum + 2 ^ 32 - e.1.seq) % 2 ^ 32))
  let s := s.setConn { c with chans := c.chans.set n { ch with unacked := left } }
  s.drainChan sub peer n (ch.backlog.length + 1)
/-- ACK: acknowledges one channel and carries nothing. -/
def execAck (sub : Fin 256) (f : KlFrame) (ch : Fin 3) (s : State) : Outcome State Fault Refusal :=
  .next ((s.takeFrame f).ackChan sub f.src ch f.cum)
/-- Gives up frames that no connection can carry: REFUSED to the source of an activation, a failed copy for checkpoint data (R426). -/
def State.refuseFrame (s : State) (sub : Nat) (f : KlFrame) : State :=
  match f.body with
  | .activation k => s.inject (pktAnswer k .refused (edgeNode (sub / 32)))
  | .ckptData p _ _ _ _ _ => s.endCopy p
  | _ => s
/-- KL_RETRANSMIT_TIMEOUT: a frame is sent again; after the last retransmission the channel moves to another open sub-port of its
owner to that peer, or the connection closes. While PFC pauses the priority the timer stands still (R422, R426). -/
def execKlRetransmitTimeout (sub : Fin 256) (peer : BitVec 14) (ch : Fin 3) (seq : BitVec 32) (s : State) : Outcome State Fault Refusal :=
  .next (
    let c := s.conn sub peer.toNat
    let q := c.chans.getD ch .init
    match q.unacked.find? (fun e => e.1.seq = seq.toNat) with
    | none => s
    | some (f, n) =>
      if s.pfcPaused sub ch ∨ c.status ≠ 1 then s
      else if n < s.getF F.epdKlCfg_retries (sub / 32) then
        let g := { f with retx := true }
        (s.setConn { c with chans := c.chans.set ch { q with unacked := q.unacked.map (fun e => if e.1.seq = seq.toNat then (g, n + 1) else e) } }).emit
          (.frame sub g)
      else match s.conns.find? (fun d => decide (d.peer = peer.toNat) && decide (d.status = 1) && decide (d.sub ≠ sub.val)
          && decide (s.subOwner d.sub = s.subOwner sub)) with
        | some d =>
          let s := s.setConn { c with chans := c.chans.set ch .init }
          (q.unacked.map (·.1) ++ q.backlog).foldl (fun (s : State) g => s.sendOn (s.conn d.sub d.peer) { g with retx := false }) s
        | none =>
          let s := s.setConn (Conn.init sub peer.toNat)
          (c.chans.flatMap (fun x => x.unacked.map (·.1) ++ x.backlog)).foldl (fun (s : State) g => s.refuseFrame sub g) s)

/-! ### Priority flow control (R421) -/

/-- Whether PFC is on for a priority at a sub-port. -/
def State.pfcOn (s : State) (sub prio : Nat) : Bool :=
  s.flagF F.epdPortCfg_pfc_en (sub / 8) && (s.getF F.epdPortCfg_pfc_mask (sub / 8)).testBit prio
/-- Sets a priority's pause in quanta, 0 ending it, and lets its channels send again. -/
def State.setPause (s : State) (sub prio quanta : Nat) : State :=
  let s := s.modEdge (sub / 32) (fun q => { q with paused := Tab.put (fun _ => 0) (sub * 8 + prio) quanta q.paused })
  if quanta ≠ 0 then s
  else (s.conns.filter (fun c => c.sub = sub)).foldl (fun (s : State) c => (rangeFrom 0 3).foldl (fun (s : State) n =>
    s.drainChan c.sub c.peer n (((s.conn c.sub c.peer).chans.getD n .init).backlog.length + 1)) s) s
/-- PFC_FRAME: quanta by priority; with PFC off it is discarded and counted. -/
def execPfcFrame (sub : Fin 256) (l : List (Fin 8 × BitVec 16)) (s : State) : Outcome State Fault Refusal :=
  .next (
    if !s.flagF F.epdPortCfg_pfc_en (sub / 8) then s.bumpF F.epdLink_pause_drops (sub / 8) 1
    else l.foldl (fun (s : State) e => if s.pfcOn sub e.1 then s.setPause sub e.1 e.2.toNat else s) s)
/-- PFC_PAUSE_EXPIRY: the quanta of a priority have run out. -/
def execPfcPauseExpiry (sub : Fin 256) (prio : Fin 8) (s : State) : Outcome State Fault Refusal := .next (s.setPause sub prio 0)
/-- PFC_SEND: a priority's receive buffer passed XOFF, or fell below XON. -/
def State.pfcSend (s : State) (sub prio : Nat) (over_ : Bool) : State :=
  if !s.pfcOn sub prio then s
  else
    let k := sub * 8 + prio
    let s := s.modEdge (sub / 32) (fun q => { q with xoff := if over_ then NSet.add k q.xoff else NSet.del k q.xoff })
    s.emit (.pfc sub prio (if over_ then 0xFFFF else 0))

/-! ### Connections (R427) -/

/-- A Kifildo Link frame of channel 3 with header version 1. -/
def State.bare (s : State) (sub peer : Nat) (b : KlBody) : KlFrame := ⟨1, false, false, false, peer, s.moduleId, s.subOwner sub, 0, 0, b⟩
/-- Whether the peer table names a module. -/
def State.knowsPeer (s : State) (m : Nat) : Bool := ((s.image.map (·.peers)).getD []).any (fun e => decide (e.id = m))
/-- Check of the link section, as HELLO carries it. -/
def State.linkCrc (s : State) : Nat :=
  match s.image with
  | some im => im.linkCrc.toNat
  | none => 0
/-- Bitmaps meet at a version, the highest of both, or the connection is refused and reported. -/
def State.negotiate (s : State) (sub peer bitmap : Nat) : State :=
  let c := s.conn sub peer
  if bitmap.testBit 1 then
    if c.status = 1 then s else s.setConn { (Conn.init sub peer) with status := 1, gotHello := c.gotHello, gotAck := true, ver := 1 }
  else
    let s := s.setConn { c with status := 2 }
    if c.status = 2 then s else s.raise .klVersionRefused (edgeNode (sub / 32)) none peer
/-- HELLO: answered with HELLO_ACK; versions that share nothing leave the connection closed. -/
def execHello (sub : Fin 256) (f : KlFrame) (s : State) : Outcome State Fault Refusal :=
  .next (
    let s := s.takeFrame f
    match f.body with
    | .hello _ bitmap _ _ =>
      if !s.knowsPeer f.src then s
      else
        let s := s.emit (.frame sub (s.bare sub f.src (.helloAck 1 2 s.moduleId s.linkCrc)))
        let s := s.setConn { s.conn sub f.src with gotHello := true }
        if bitmap.testBit 1 then s else s.negotiate sub f.src bitmap
    | _ => s)
/-- HELLO_ACK: opens the connection at the highest shared version. -/
def execHelloAck (sub : Fin 256) (f : KlFrame) (s : State) : Outcome State Fault Refusal :=
  .next (
    let s := s.takeFrame f
    match f.body with
    | .helloAck _ bitmap _ _ => if s.knowsPeer f.src then s.negotiate sub f.src bitmap else s
    | _ => s)
/-- HELLO_RETRY: HELLO goes out again until it is acknowledged; after a refusal it starts a new attempt. -/
def execHelloRetry (sub : Fin 256) (peer : BitVec 14) (s : State) : Outcome State Fault Refusal :=
  .next (
    let c := s.conn sub peer.toNat
    if c.status = 1 ∨ ¬ s.knowsPeer peer.toNat then s
    else (s.setConn { c with status := 0 }).emit (.frame sub (s.bare sub peer.toNat (.hello 1 2 s.moduleId s.linkCrc))))

/-! ### The receive parser (R418, R420, R427 to R430) -/

/-- A frame's structure stays within R428. -/
def withinStructure (r : RxFrame) : Bool :=
  decide (r.vlans ≤ 2) && (decide (r.ether = 0) || ((decide (r.ether = 4) || decide (r.ether = 6)) && !r.frag && r.udp && r.portOk
    && decide (r.exts.length ≤ 2) && r.exts.all (fun e => decide (e = 0))))
/-- Lengths that contradict one another (R430). -/
def badLengths (r : RxFrame) : Bool :=
  let kl := 32 + r.klLen + 4
  decide (8192 < r.klLen) || (if r.ether = 0 then decide (r.l2 < kl) || (decide (64 < r.len) && decide (r.l2 ≠ kl))
    else (decide (r.ether = 4) && (decide (r.ihl < 20) || decide (60 < r.ihl))) || decide (r.l2 < r.ip) || (decide (64 < r.len) && decide (r.ip < r.l2))
      || decide (r.udpLen ≠ r.ipLessExt) || decide (kl + 8 ≠ r.udpLen))
/-- Frames that now stand next in order, taken from those that came early. -/
def takeInOrder : Nat → Chan → List KlFrame → Chan × List KlFrame
  | 0, c, l => (c, l)
  | n + 1, c, l =>
    match c.early.find? (fun f => f.seq = c.expect) with
    | none => (c, l)
    | some f => takeInOrder n { c with expect := (c.expect + 1) % 2 ^ 32, early := c.early.filter (fun g => g.seq ≠ c.expect) } (l ++ [f])
/-- A frame that passed every check: channel 3 at once, the others in sequence, with an acknowledgement (R426; log 24). -/
def State.klTake (s : State) (sub : Nat) (f : KlFrame) : State :=
  let n := f.body.chan
  if n = 3 then { s with klRx := s.klRx ++ [f] }
  else
    let s := s.ackChan sub f.src n f.cum
    let c := s.conn sub f.src
    let ch := c.chans.getD n .init
    let ahead := (f.seq + 2 ^ 32 - ch.expect) % 2 ^ 32
    let ch := if 256 ≤ ahead ∨ ch.early.any (fun g => decide (g.seq = f.seq)) then ch else { ch with early := ch.early ++ [f] }
    let r := takeInOrder (ch.early.length) ch []
    let s := s.setConn { c with chans := c.chans.set n r.1 }
    ({ s with klRx := s.klRx ++ r.2 }).emit (.frame sub { s.bare sub f.src .ack with cum := (r.1.expect + 2 ^ 32 - 1) % 2 ^ 32 })
/-- Whether a frame is of HELLO or HELLO_ACK, of which the connection need not be open. -/
def isHello (f : KlFrame) : Bool :=
  match f.body with
  | .hello .. | .helloAck .. => true
  | _ => false
def isCkptData (f : KlFrame) : Bool :=
  match f.body with
  | .ckptData .. => true
  | _ => false
/-- A frame of a reserved type is malformed as a whole, and is dropped (R11, R425; log 24). -/
def isReserved (f : KlFrame) : Bool :=
  match f.body with
  | .reserved _ => true
  | _ => false
/-- FRAME_RECEIVE: the MAC, the parser's structure, lengths and check, then version and owner. `flow` names the priorities whose
receive buffers crossed XOFF or XON. A frame to another module, or on a closed connection, is discarded (log 24). -/
def execFrameReceive (sub : Fin 256) (r : RxFrame) (flow : List (Fin 8 × Bool)) (s : State) : Outcome State Fault Refusal :=
  .next (
    let e := sub.val / 32
    let port := sub.val / 8
    let s := flow.foldl (fun (s : State) x => s.pfcSend sub x.1 x.2) s
    let s := s.bumpF F.epdLink_fec_uncorr port r.fecBad
    let f := r.frame
    if r.macDrops then s.bumpF F.epdLink_fcs_drops port 1
    else if r.pause then s.bumpF F.epdLink_pause_drops port 1
    else if !withinStructure r then
      let s := s.bumpF F.epdStat_exceptions e 1
      if 256 ≤ (s.edge e).exceptions.length then s
      else
        let s := s.modEdge e (fun q => { q with exceptions := q.exceptions ++ [r] })
        let ms := s.now / 100000 + 1
        if (s.edge e).raised = ms then s
        else (s.modEdge e (fun q => { q with raised := ms })).raise .parserException (edgeNode e) none 0
    else if badLengths r then s.bumpF F.epdStat_length e 1
    else if !r.klOk then s.bumpF F.epdStat_kl_check e 1
    else
      let c := s.conn sub f.src
      if f.dst ≠ s.moduleId ∨ isReserved f then s
      else if f.ver ≠ (if isHello f then 1 else c.ver) then s.bumpF F.epdStat_version e 1
      else if f.part ≠ s.subOwner sub ∨ (isCkptData f ∧ ¬ ((s.image.map (·.ckptPorts)).getD []).contains sub.val) then
        s.bumpF F.epdStat_isolation e 1
      else if isHello f ∨ c.status = 1 then s.klTake sub f
      else s)
/-- EXCEPTION_SERVICE: the stewards take the oldest frame, answer it or discard it (R429). -/
def execExceptionService (e : EdgeIx) (s : State) : Outcome State Fault Refusal :=
  .next (
    match (s.edge e).exceptions with
    | [] => s
    | r :: t =>
      let s := s.modEdge e (fun q => { q with exceptions := t })
      if r.answerable then s.emit (.answer e r) else s)

/-! ### Activations and tokens (R319, R344) -/

/-- ACTIVATION: the frame's packet goes on into the fabric from the edge port die; provisional data awaits its token. Its producer's
number is kept apart from the partition's own logical cores. -/
def execActivation (sub : Fin 256) (f : KlFrame) (s : State) : Outcome State Fault Refusal :=
  .next (
    let s := s.takeFrame f
    match f.body with
    | .activation k =>
      let p := f.part
      let k := { k with src := edgeNode (sub / 32), part := p, prov := f.prov, poison := f.poison, prod := (65536 + k.prod.1 % 65536, k.prod.2) }
      let s := if f.prov then s.modPart p (fun q => { q with
          foreign := if q.foreign.contains (k.prod.1 - 65536, k.prod.2.1) then q.foreign else q.foreign ++ [(k.prod.1 - 65536, k.prod.2.1)] }) else s
      s.inject k
    | _ => s)
/-- TOKEN: a passing one releases what waits for it; a failing one starts a replay here; a retraction announces one (R344). -/
def execToken (f : KlFrame) (s : State) : Outcome State Fault Refusal :=
  .next (
    let s := s.takeFrame f
    match f.body with
    | .token core epoch pass retract =>
      if retract then s
      else if pass then (s.modPart f.part (fun q => { q with foreign := q.foreign.filter (fun x => x ≠ (core, epoch)) })).tryRelease f.part
      else s.recoverForeign f.part core epoch
    | _ => s)

end Sys2Proof.Machine
end

