-- ==== Sys2Proof/Machine/Window.lean ====
section
/-! DEFINITION. The register space and its windows: where an offset leads, what reads return and writes do (R4, R6, R9, R31 to R40,
R43, R45, R49, R52, R365, R416, R491, R502 to R512). -/
namespace Sys2Proof.Machine
open Host

/-! ### The floor-plan record (R34 to R40) -/

/-- The ring die of a kind, among `n` from entry `a` of the ring table, with the least distance figure; ties to the lower number. -/
def State.nearest (s : State) (c a n : Nat) : Nat :=
  let fig (t : Nat) : Nat := let d := s.distance c t; 16 * d.1 + 14 * d.2.1 + 8
  (rangeFrom (a + 1) (n - 1)).foldl (fun b t => if fig t < fig b then t else b) a
/-- Number of cores available to schedules (R36). -/
def State.available (s : State) (cs : List Nat) : Nat := (cs.filter (fun c => decide ((s.core c).state ≤ 1))).length
/-- The 64 B header; `view` is a partition, or 64 for the full record. The check field is zero here. The generation is the whole FP_GEN register
as the completed build leaves it, busy clear and the new count. DESIGN CHOICE (log 70). -/
def State.fpHeader (s : State) (view : Nat) : List Byte :=
  let gen := if view < 64 then (s.reg .partFpGen view).toNat else (s.reg .modFpGen 0).toNat
  let fewest := (rangeFrom 0 64).foldl (fun b d => min b (s.available (dieCores d))) 64
  leBytes 0x50465747 4 ++ leBytes 1 2 ++ leBytes 64 2 ++ leBytes 426816 4 ++ leBytes gen 4 ++ leBytes 4096 2
    ++ leBytes (s.available (rangeFrom 0 4096)) 2 ++ leBytes fewest 2 ++ [64#8, 40#8, 8#8, 4#8] ++ leBytes 0 2
    ++ leBytes 0x40 4 ++ leBytes 0x8040 4 ++ leBytes 0x8340 4 ++ leBytes 0 24
/-- A core table entry (R35, R40). -/
def State.fpCore (s : State) (view c : Nat) : List Byte :=
  let q := s.core c
  let site := s.nearest c 0 40
  let edge := s.nearest c 40 8
  let tail := leBytes site 1 ++ leBytes (s.ringClass c site) 1 ++ leBytes (edge - 40) 1 ++ leBytes 0 2
  if view < 64 ∧ s.ownerOf c ≠ some view then [0x0E#8, 0xFF#8, 0#8] ++ tail
  else leBytes q.state 1 ++ leBytes (s.ownerNum c) 1 ++ leBytes (q.derateV + 16 * q.derateD) 1 ++ tail
/-- Whether a partition owns a share of a memory site's channels, or of a port (R364). A site that only another partition's shared extent takes it
to counts as its own: its table holds that entry. DESIGN CHOICE (log 70). -/
def State.ownsSite (s : State) (p m : Nat) : Bool := (s.extents p).any (fun e => extOnSite e m)
def State.ownsPort (s : State) (p k : Nat) : Bool :=
  match s.image.bind (fun im => im.parts.find? (fun d => decide (d.num = p))) with
  | some d => if k < 32 then d.ports.any (fun x => decide (x / 8 = k)) else decide (d.hostPort = k - 32)
  | none => false
/-- A ring table entry (R38, R40): a bit of a resource that the viewing partition does not own reads 1. -/
def State.fpRing (s : State) (view t : Nat) : List Byte :=
  let place := leBytes (ringSide t) 1 ++ leBytes (ringPos t) 1 ++ leBytes (runFirst (ringPos t)) 1 ++ leBytes (runLast (ringPos t)) 1 ++ leBytes 0 2
  if t < 40 then
    let w := if view < 64 ∧ ¬ s.ownsSite view t then 0xFFFFFFFF else s.getF F.ldgChService_in_service t
    [0#8] ++ leBytes t 1 ++ place ++ leBytes w 4 ++ leBytes 0 4
  else
    let e := t - 40
    let one (k i : Nat) : Nat := if (view < 64 ∧ ¬ s.ownsPort view k) ∨ s.portServes k then 2 ^ i else 0
    let w := ((rangeFrom 0 4).map (fun i => one (4 * e + i) i)).sum + (if e % 2 = 0 then one (32 + e / 2) 4 else 0)
    [1#8] ++ leBytes e 1 ++ place ++ leBytes w 4 ++ leBytes 0 4
/-- A distance table entry (R39). Of an H above 127, which a detour on one of the longest routes can give, the field holds the low seven bits; the
spec names no such case. DESIGN CHOICE (log 70). -/
def State.fpDist (s : State) (c t : Nat) : List Byte :=
  let d := s.distance c t
  leBytes (d.1 % 128 + d.2.1 % 16 * 256 + d.2.2 * 4096) 2
/-- A byte of the record, its check taken as zero. -/
def State.fpRaw (s : State) (view off : Nat) : Byte :=
  if off < 0x40 then (s.fpHeader view).getD off 0
  else if off < 0x8040 then (s.fpCore view ((off - 0x40) / 8)).getD ((off - 0x40) % 8) 0
  else if off < 0x8340 then (s.fpRing view ((off - 0x8040) / 16)).getD ((off - 0x8040) % 16) 0
  else if off < 426816 then
    let k := (off - 0x8340) / 2
    (s.fpDist (k / 48) (k % 48)).getD (off % 2) 0
  else 0
/-- A byte of the image with its check, once a build is complete (R31, R34). -/
def State.fpByte (s : State) (view off : Nat) : Byte :=
  if off / 4 = 10 then byteOf (crc32c ((rangeFrom 0 426816).map (s.fpRaw view))).toNat (off % 4) else s.fpRaw view off

/-! ### Where an offset leads (R502 to R508) -/

/-- Areas that are read as memory (R510). -/
inductive Area
  /-- Floor-plan image: a partition's view, or with 64 the full record. -/
  | plan (view : Nat)
  | health
  /-- Congestion map: a partition's view, or with 64 the whole. -/
  | cong (view : Nat)
  | records (ctrl : Nat)
  | aliases (p : Nat)
  | extents
  | nonce (k : Nat)
  | salt
  | buffer
  | spad (c : Nat)
  deriving DecidableEq, Repr
/-- What an address reaches: a register, by instance and byte within it; a byte of an area; reserved space. -/
inductive Target
  | reg (r : Reg) (i b : Nat)
  | area (a : Area) (off : Nat)
  | reserved
  deriving DecidableEq, Repr
/-- The register at an offset of a space: its place in the unit and the byte within it. -/
def findReg (sp : Space) (off : Nat) : Option (Reg × Nat × Nat) :=
  Reg.all.findSome? fun r =>
    let (q, o, st, n) := r.place
    if q = sp ∧ o ≤ off then
      let d := off - o
      let i := if st = 0 then 0 else d / st
      let b := if st = 0 then d else d % st
      if i < n ∧ b < r.width / 8 then some (r, i, b) else none
    else none
/-- A register of unit `u` of a space. -/
def unitReg (sp : Space) (u off : Nat) : Target :=
  match findReg sp off with
  | some (r, i, b) => .reg r (u * r.perUnit + i) b
  | none => .reserved
/-- Session and queue block of function `k` at its offset (R398). The salt shows on management paths alone. -/
def sessionAt (k off : Nat) : Target :=
  if 0x20 ≤ off ∧ off < 0x40 then .area (.nonce k) (off - 0x20)
  else if 0x40 ≤ off ∧ off < 0x50 then (if 64 ≤ k then .area .salt (off - 0x40) else .reserved)
  else unitReg .part k off
/-- Module and steward control (R503), as path `k` sees it. -/
def controlAt (k a : Nat) : Target :=
  if 0x1010 ≤ a ∧ a < 0x1078 then sessionAt k (a - 0x1000)
  else if 0x100000 ≤ a ∧ a < 0x180000 then .area (.plan 64) (a - 0x100000)
  else if 0x210000 ≤ a ∧ a < 0x218000 then .area (.cong 64) (a - 0x210000)
  else if 0x310000 ≤ a ∧ a < 0x350000 then .area .health (a - 0x310000)
  else if 0x400000 ≤ a ∧ a < 0x400C00 then unitReg .ctrl 64 (a - 0x400000)
  else if 0x410000 ≤ a ∧ a < 0x430000 then .area (.records 64) (a - 0x410000)
  else if 0x710000 ≤ a ∧ a < 0x720000 then .area .buffer (a - 0x710000)
  else match findReg .mgmt a with
    | some (.modWinBase, _, b) => .reg .modWinBase k b
    | some (r, i, b) => .reg r i b
    | none => .reserved
/-- An edge port die's registers; EPD.HOST stands on E0, E2, E4 and E6 and is numbered by host port (R447). -/
def edgeAt (e off : Nat) : Target :=
  match findReg .port off with
  | some (.epdHost, _, b) => if e % 2 = 0 then .reg .epdHost (e / 2) b else .reserved
  | some (r, i, b) => .reg r (e * r.perUnit + i) b
  | none => .reserved
/-- The internal register space (R502). -/
def internalAt (k a : Nat) : Target :=
  let hi := a / 2 ^ 32
  let lo := a % 2 ^ 32
  if a < 0x3000000 then controlAt k a
  else if hi = 1 ∧ lo < 4096 * 65536 then unitReg .core (lo / 65536) (lo % 65536)
  else if hi = 2 ∧ lo < 40 * 2 ^ 24 then
    (if 0x10000 ≤ lo % 2 ^ 24 ∧ lo % 2 ^ 24 < 0x20000 then .area .extents (lo % 2 ^ 24 - 0x10000) else unitReg .ldg (lo / 2 ^ 24) (lo % 2 ^ 24))
  else if hi = 3 ∧ lo < 8 * 2 ^ 24 then edgeAt (lo / 2 ^ 24) (lo % 2 ^ 24)
  else if hi = 4 ∧ lo < 64 * 65536 then unitReg .tile (lo / 65536) (lo % 65536)
  else if hi = 5 ∧ lo < 4096 * 65536 then unitReg .eng (lo / 65536) (lo % 65536)
  else if 0x1000000000 ≤ a ∧ a < 0x2000000000 then .area (.spad ((a - 0x1000000000) / 2 ^ 24)) (a % 2 ^ 24)
  else .reserved
/-- A partition window (R508). -/
def partAt (p off : Nat) : Target :=
  if off < 0x100 then sessionAt p off
  else if off < 0x800 ∨ (0x1800 ≤ off ∧ off < 0x1900) then unitReg .part p off
  else if off < 0x1400 then unitReg .ctrl p (off - 0x800)
  else if 0x2000 ≤ off ∧ off < 0x4000 then .area (.aliases p) (off - 0x2000)
  else if 0x4000 ≤ off ∧ off < 0xC000 then .area (.cong p) (off - 0x4000)
  else if 0x10000 ≤ off ∧ off < 0x30000 then .area (.records p) (off - 0x10000)
  else if 0x80000 ≤ off ∧ off < 0x100000 then .area (.plan p) (off - 0x80000)
  else .reserved
/-- What an offset of a path's window reaches: the partition window, or the management window with its aperture (R505, R506). -/
def State.windowAt (s : State) (path : Path) (off : Nat) : Target :=
  match path with
  | .vf p => if s.declared p then partAt p off else .reserved
  | _ =>
    let k := pathIx path
    if off < 0x3000000 then controlAt k off
    else if off < 0x4000000 then internalAt k (s.getF F.modWinBase_base k * 2 ^ 24 + (off - 0x3000000))
    else .reserved

/-! ### Who may reach it (R365, R491, R496, R507) -/

/-- Registers that answer on a path whatever its session: identity, state, and the session and queue block. -/
def alwaysOpen (path : Path) : Target → Bool
  | .reg r _ _ =>
    (match path with
      | .vf _ => r == .partId || r == .partState
      | _ => r == .modId || r == .modState)
      || queueReg r || r == .partSessCtrl || r == .partSessStat || r == .partSessCount || r == .partSessCfg
      || (r == .partRun && (match path with
        | .vf _ => true
        | _ => false))
  | .area (.nonce _) _ | .area .salt _ => true
  | _ => false
/-- What answers in safe mode beside that, to a management port with its session. -/
def safeOpen : Target → Bool
  | .reg r _ _ => r == .cfgsCtrl || r == .cfgsStatus || r == .modReset
  | .area .health _ | .area .buffer _ => true
  | _ => false
/-- Whether a target stands on a die without power in STANDBY or safe mode (R470, R491). -/
def onDie : Target → Bool
  | .reg r _ _ => match r.place.1 with
    | .core | .eng | .ldg | .port | .tile => true
    | _ => false
  | .area (.spad _) _ | .area .extents _ => true
  | _ => false
/-- Whether a path's access to a target is admitted. -/
def State.mayReach (s : State) (path : Path) (t : Target) : Bool :=
  let safe := decide (s.getF F.modState_state 0 = mSafe)
  let mgmt := (match path with
    | .mgmt _ => true
    | _ => false)
  if s.mod.off || (!mgmt && (safe || decide (s.pwState = pwStandby))) then false
  else if onDie t && (safe || decide (s.pwState = pwStandby)) then false
  else alwaysOpen path t || s.admitted path || (safe && s.cfgsMay path && safeOpen t)

/-! ### Reads (R4, R31, R43, R402, R509 to R511) -/

/-- EVT.CLAIM: the highest enabled number with a count, 0xFFFF for none (R402). -/
def State.claim (s : State) (k : Nat) : Nat :=
  (rangeFrom 0 512).foldl (fun b n =>
    if s.getF F.evtEvent_pending (k * 512 + n) ≠ 0 ∧ s.flagF F.evtEvent_enable (k * 512 + n) then n else b) 0xFFFF
/-- Level at a GPIO pin: its inactive level high during a switch; the register's bit while it drives; CAP_ACTIVE on SB_GPIO5 in
function 1; else the pull-up's (R444, R445, R520; log 29). -/
def State.pinLevel (s : State) (m : Nat) : Bool :=
  let f := s.getF F.sbPinmux_gpio 0 >>> (2 * m) % 4
  if s.mod.breaking.contains m then true
  else if f = 1 ∧ m = 5 then s.flagF F.pwrCapEff_limiting 0
  else if (s.getF F.sbGpio_oe 0).testBit m ∧ f = 0 then (s.getF F.sbGpio_out 0).testBit m
  else true
/-- The value a register shows: what it stores, with the fields that other state gives. -/
def State.shown (s : State) (r : Reg) (i : Nat) : Word :=
  let w := s.reg r i
  match r with
  | .evtClaim => BitVec.ofNat 64 (s.claim i)
  | .corePoisonProbe =>
    let row := bits w 6 18
    let rows := (s.spadPoison.filter (fun k => decide (k / 2 ^ 18 = i))).length
    BitVec.ofNat 64 ((if s.rowPoison i row then 1 else 0) + row * 64 + rows * 2 ^ 32)
  | .partSessStat =>
    let left := if s.flagF F.partSessStat_locked i then cdiv ((s.fn i).lockEnd - s.now) 100000000 else 0
    setBits w 8 16 (min left 65535)
  | .partSessCfg => if i < 64 then setBits w 16 16 0 else w
  | .sbStat =>
    setBits w 16 16 (if s.mod.flowAt = s.seconds then bits w 16 16 else if s.mod.flowAt + 1 = s.seconds then min 65535 s.mod.flow else 0)
  | .sbGpio => setBits w 32 12 (((rangeFrom 0 12).map (fun m => if s.pinLevel m then 2 ^ m else 0)).sum)
  | _ => w
/-- Bits of a register that read as zero: WO and reserved ones (R4, R9). -/
def readMask (r : Reg) : Nat := (r.fields.filter (fun f => decide (f.acc ≠ .wo))).foldl (fun a f => a ||| (2 ^ f.len - 1) <<< f.lo) 0
/-- Bytes of an event record (R410). -/
def recordBytes (r : EvRec) : List Byte :=
  leBytes r.num 2 ++ leBytes r.src 2 ++ leBytes r.seq 2 ++ leBytes r.part 1 ++ leBytes 0 1 ++ leBytes r.time 8 ++ leBytes r.detail 16
/-- Bytes of an extent entry of partition `p` (R211). -/
def extentBytes (p : Nat) (e : Extent) : List Byte :=
  leBytes e.pbase 4 ++ leBytes e.len 2 ++ leBytes e.siteFirst 1 ++ leBytes e.siteCount 1 ++ leBytes e.frame 1
    ++ leBytes ((if e.valid then 1 else 0) + (if e.readOnly then 2 else 0) + (if e.shared then 4 else 0)) 1
    ++ leBytes (if e.shared then e.owner else p) 1 ++ leBytes (if e.shared then e.group else 255) 1 ++ leBytes 0 4
/-- A byte of an area. -/
def State.areaByte (s : State) (a : Area) (off : Nat) : Byte :=
  match a with
  | .plan v => s.fpByte v off
  | .health => if off / 32 < 7368 then (healthBytes (unitAt (off / 32)) (s.healthOf (unitAt (off / 32)))).getD (off % 32) 0 else 0
  | .cong v =>
    let c := off / 8
    if v < 64 ∧ s.ownerOf c ≠ some v then 0 else byteOf (Tab.get (fun _ => 0) s.congMap c).toNat (off % 8)
  | .records k => match Tab.get (fun _ => none) (s.evc k).records (off / 32) with
    | some r => (recordBytes r).getD (off % 32) 0
    | none => 0
  | .aliases p => byteOf (Tab.get (fun _ => 0) (s.part p).aliasTab (off / 2)) (off % 2)
  | .extents => match (s.extents (off / 1024))[off % 1024 / 16]? with
    | some e => (extentBytes (off / 1024) e).getD (off % 16) 0
    | none => 0
  | .nonce k => byteOf (s.fn k).nonce.toNat off
  | .salt => byteOf Config.salt.toNat off
  | .buffer => Memory.read s.mod.buf off
  | .spad c => if off < 8 * 2 ^ 20 then Memory.read s.spad (spadKey c off) else 0
/-- One byte of what a target shows. -/
def State.targetByte (s : State) : Target → Byte
  | .reg r i b => byteOf ((s.shown r i).toNat &&& readMask r) b
  | .area a off => s.areaByte a off
  | .reserved => 0
/-- A register access is 4 B or 8 B wide and aligned (R509). -/
def sizeOk (off size : Nat) : Bool := (decide (size = 4) || decide (size = 8)) && decide (off % size = 0)
/-- A scratchpad that a window access reaches: awake after it, or in OFF and refused (R49). -/
def State.wakeSpad (s : State) (c : Nat) : State × Bool :=
  if s.getF F.vregPoint_state c = vOff then (s.setB F.corePhase_win_refused c true, false)
  else (if s.getF F.vregPoint_state c = vHold then s.modCore c (fun q => { q with woken := true }) else s, true)
/-- Four bytes from an offset of a path's window. -/
def State.read4 (s : State) (path : Path) (off : Nat) : Nat :=
  ofLe ((rangeFrom off 4).map (fun a => let t := s.windowAt path a; if s.mayReach path t then s.targetByte t else 0))
/-- A read of a path's window: its value, with the latch of R510 and a scratchpad's wake or refusal. -/
def State.windowRead (s : State) (path : Path) (off size : Nat) : State × Nat :=
  let held := (s.fn (pathIx path)).latch
  let s := s.touch path
  if !sizeOk off size then (s, 0)
  else
    let t := s.windowAt path off
    if !s.mayReach path t then (s, 0)
    else match t with
      | .area (.spad c) _ =>
        let w := s.wakeSpad c
        if w.2 then (w.1, w.1.read4 path off + (if size = 8 then w.1.read4 path (off + 4) <<< 32 else 0)) else (w.1, 0)
      | .reg r i b =>
        if size = 8 then (s, s.read4 path off + s.read4 path (off + 4) <<< 32)
        else if r.width = 64 ∧ b = 0 then
          (s.modFn (pathIx path) (fun q => { q with latch := some (r.key i, s.read4 path (off + 4)) }), s.read4 path off)
        else match held with
          | some (k, v) => (s, if r.width = 64 ∧ b = 4 ∧ k = r.key i then v else s.read4 path off)
          | none => (s, s.read4 path off)
      | _ => (s, s.read4 path off + (if size = 8 then s.read4 path (off + 4) <<< 32 else 0))

/-! ### Writes (R4 to R6, R9, R45, R374, R509, R512) -/

/-- Bits of a register with an access code. -/
def accMask (r : Reg) (p : Acc → Bool) : Nat := (r.fields.filter (fun f => p f.acc)).foldl (fun a f => a ||| (2 ^ f.len - 1) <<< f.lo) 0
/-- A write of the four bytes at byte `b` of a register, under its access codes: RW and RWS stored, RW1C cleared by ones, LCK stored
while the configuration lock is open. -/
def State.plainWrite (s : State) (r : Reg) (i b v : Nat) : State :=
  let half := (2 ^ 32 - 1) <<< (8 * b)
  let new := v <<< (8 * b)
  let open_ := !s.flagF F.modState_lock_closed 0
  let stored := accMask r (fun a => a == .rw || a == .rws || (a == .lck && open_)) &&& half
  let cleared := accMask r (· == .rw1c) &&& half &&& new
  let w := (s.reg r i).toNat
  s.setReg r i (BitVec.ofNat 64 (((w - (w &&& stored)) ||| (new &&& stored)) - (((w - (w &&& stored)) ||| (new &&& stored)) &&& cleared)))
/-- The state an outcome of this model goes on in. -/
def State.thenOn (s : State) (o : Outcome State Fault Refusal) : State :=
  match o with
  | .next t => t
  | _ => s
/-- Whether a management write to a schedule-writable register is accepted: the partition of the core is EMPTY, OPENED, LOADED or in
FAULTED_HOLD (R512). -/
def State.scheduleOpen (s : State) (c : Nat) : Bool :=
  match s.ownerOf c with
  | some p => [psEmpty, psOpened, psLoaded, psHeld].contains (s.pState p)
  | none => false
/-- The registers of R512. -/
def scheduleReg (r : Reg) : Bool := r == .seqTensorId || r == .arrInScale || r == .arrConvA || r == .arrConvB || r == .speThreshold
/-- Every pin of SB.PINMUX whose function a write changes breaks for 2 µs; a reserved code leaves its pin as it is (R444, R445;
log 30). -/
def State.pinmux (s : State) (v : Nat) : State :=
  (rangeFrom 0 13).foldl (fun (s : State) m =>
    let new := v >>> (2 * m) % 4
    let w := s.reg .sbPinmux 0
    let old := bits w (2 * m) 2
    if new = old ∨ ¬ pinFnOk m new then s
    else
      let s := s.setReg .sbPinmux 0 (setBits w (2 * m) 2 new)
      s.modMod (fun q => { q with breaking := NSet.add m q.breaking, spoiled := q.spoiled || decide (m = 12) })) s
/-- A write to PWR.MODE: the error bit, the request, steward mode (R471, R481, R482). -/
def State.modeWrite (s : State) (path : Path) (v : BitVec 32) : State :=
  let s := if bit v 8 then s.setB F.pwrMode_error 0 false else s
  let s := match bits v 0 2 with
    | 1 => s.thenOn (execModuleActiveRequest path s)
    | 2 => s.thenOn (execModuleHoldRequest path s)
    | 3 => s.thenOn (execStandbyRequest path s)
    | _ => s
  let s := if bit v 2 then s.thenOn (execStewardSet path s) else s
  if bit v 3 then s.thenOn (execStewardModeLeft path s) else s
/-- PWR.STATE.leak clears only while no source reads a leak; a START, RESUME or interrupted pause that waits lets the module go (R473). -/
def State.leakWrite (s : State) (v : BitVec 32) : State :=
  if !bit v 3 || s.flagF F.sbStat_leak 0 then s
  else
    let s := s.setB F.pwrState_leak 0 false
    if s.mod.wakers.isEmpty && !(rangeFrom 0 64).any (fun p => (s.part p).resumeDue) then s else s.beginExit
/-- Order entries of host memory that a write does not carry (log 77). -/
def State.hostEntries (s : State) : List Row := (rangeFrom 0 4096).map (fun i => Config.orderEntry (s.freeCtr + i))
/-- A 4 B write to a register of a path's window. Registers with a row of their own act as that row does. What a row carries beside the
value, the entries of OQ_TAIL_WRITE and what the bring-up of a restart meets, is free here (log 77). -/
def State.writeReg (s : State) (path : Path) (r : Reg) (i b : Nat) (v : BitVec 32) : State :=
  let k := pathIx path
  match r with
  | .partSessCtrl => if bit v 0 then s.challenge k else s
  | .partOqTail => s.thenOn (execOqTailWrite path v s.hostEntries { s with freeCtr := s.freeCtr + 4096 })
  | .modReset =>
    let t := { s.plainWrite r i b v.toNat with freeCtr := s.freeCtr + 1 }
    match bits v 0 2 with
    | 1 => t.thenOn (execWarmRestart path (Config.bringUp s.freeCtr) t)
    | 2 => t.thenOn (execFullReload path (Config.bringUp s.freeCtr) t)
    | _ => t
  | .partOqCfg => s.thenOn (execQueueCfgWrite path false v s)
  | .partCqCfg => s.thenOn (execQueueCfgWrite path true v s)
  | .partCqHead => s.thenOn (execCqHeadWrite path v s)
  | .partOqBase => if s.flagF F.partOqCfg_enable k then s else s.plainWrite r i b v.toNat
  | .partCqBase => if s.flagF F.partCqCfg_enable k then s else s.plainWrite r i b v.toNat
  | .evtCtrl => s.thenOn (execEvtCtrlWrite path v s)
  | .evtComplete => s.thenOn (execEvtCompleteWrite path v s)
  | .evtCommit => s.thenOn (execEvtCommitWrite path v s)
  | .evtRqHead => s.thenOn (execEvtRqHeadWrite path v s)
  | .evtEvent => s.thenOn (execEvtEventEnableWrite path ⟨i % 512, Nat.mod_lt _ (by decide)⟩ v s)
  | .hlthCtrl => s.thenOn (execHealthCleared path v s)
  | .pwrCapCommit => s.thenOn (execPwrCapCommit path v s)
  | .pwrMode => s.modeWrite path v
  | .pwrState => s.leakWrite v
  | .sbPinmux => s.pinmux v.toNat
  | .cfgsCtrl =>
    if s.flagF F.cfgsStatus_busy 0 then s.cfgsError
    else if !bit v 16 then s
    else if bits v 0 3 = 0 ∨ 4 < bits v 0 3 then s.cfgsError
    else s.cfgsStart path (bits v 0 3) (bits v 3 1) (bits v 4 12)
  | _ => if scheduleReg r && !s.scheduleOpen i then s else s.plainWrite r i b v.toNat
/-- Writes the bytes of a window write into a scratchpad row: the rest of the row as stored, its poison kept, its block-check entry
invalid (R45, R52, R53). -/
def State.spadWindow (s : State) (c off size v : Nat) : State :=
  if 8 * 2 ^ 20 ≤ off then s else s.putSpan c off size v false []
/-- A write of 4 B to a target. -/
def State.write4 (s : State) (path : Path) (off : Nat) (v : BitVec 32) : State :=
  let t := s.windowAt path off
  if !s.mayReach path t then s
  else match t with
    | .reg r i b => s.writeReg path r i b v
    | .area .buffer o => s.modMod (fun q => { q with buf := Memory.writeNat q.buf o 4 v.toNat })
    | .area (.spad c) o =>
      let w := s.wakeSpad c
      if w.2 then w.1.spadWindow c o 4 v.toNat else w.1
    | _ => s
/-- A write of a path's window: 8 B act as two writes of 4 B, the lower first (R509); another size, or a misaligned one, is ignored. -/
def State.windowWrite (s : State) (path : Path) (off size : Nat) (v : Word) : State :=
  let s := s.touch path
  if !sizeOk off size then s
  else
    let s := s.write4 path off (BitVec.ofNat 32 v.toNat)
    if size = 8 then s.write4 path (off + 4) (BitVec.ofNat 32 (v.toNat / 2 ^ 32)) else s
/-- Either, by whether the access carries data; a read's value leaves the module. -/
def State.windowAccess (s : State) (path : Path) (off size : Nat) (data : Option Word) : State :=
  match data with
  | some v => s.windowWrite path off size v
  | none =>
    let r := s.windowRead path off size
    r.1.emit (.read (pathIx path) off size r.2)

/-! ### The commands -/

/-- REGISTER_WRITE (R4, R509, R511). -/
def execRegisterWrite (path : Path) (off : BitVec 26) (size : Fin 9) (v : Word) (s : State) : Outcome State Fault Refusal :=
  .next (s.windowWrite path off.toNat size v)
/-- LATCHED_READ, and every other read of a window (R509 to R511). -/
def execLatchedRead (path : Path) (off : BitVec 26) (size : Fin 9) (s : State) : Outcome State Fault Refusal :=
  .next (s.windowAccess path off.toNat size none)
/-- APERTURE_ACCESS: the internal space at the path's own MOD.WIN_BASE (R505, R506). -/
def execApertureAccess (path : Path) (off : BitVec 24) (size : Fin 9) (data : Option Word) (s : State) : Outcome State Fault Refusal :=
  .next (match path with
    | .vf _ => s.touch path
    | _ => s.windowAccess path (0x3000000 + off.toNat) size data)
/-- SCRATCHPAD_WINDOW_ACCESS through the aperture: the row's errors are met as any read meets them (R43 to R45, R49). -/
def execScratchpadWindowAccess (path : Path) (off : BitVec 24) (size : Fin 9) (data : Option Word) (corrected bad : Bool) (s : State) :
    Outcome State Fault Refusal :=
  .next (match path with
    | .vf _ => s.touch path
    | _ =>
      let a := 0x3000000 + off.toNat
      let t := s.windowAt path a
      let s := match t with
        | .area (.spad c) o =>
          if s.mayReach path t && decide (s.getF F.vregPoint_state c ≠ vOff) && decide (o < 8 * 2 ^ 20) then
            let s := if s.rowPoison c (o / 64) then s else s.bumpF F.coreSpadEcc_corrected c corrected.toNat
            if bad then s.spadUe c [⟨o / 64 % 131072, Nat.mod_lt _ (by decide)⟩] else s
          else s
        | _ => s
      s.windowAccess path a size data)
/-- SCRATCHPAD_RETENTION_RETURN: 1 ms after the last access (R49). -/
def execScratchpadRetentionReturn (c : CoreIx) (s : State) : Outcome State Fault Refusal :=
  .next (s.modCore c (fun q => { q with woken := false }))

end Sys2Proof.Machine
end

