-- ==== Sys2Proof/Machine/Manage.lean ====
section
/-! DEFINITION. The management ports' datagrams, SMBus, the console, JTAG and the sideband pins (R438 to R446, R474, R520). -/
namespace Sys2Proof.Machine
open Host

/-! ### Datagrams (R438, R439) -/

/-- A datagram reaches the stewards: its magic and version hold, and while a session is open on the port it comes from the session's
source (R10, R439). -/
def State.heeds (s : State) (m : Fin 2) (src : Nat) (magic : BitVec 16) (ver : BitVec 8) : Bool :=
  let q := s.fn (68 + m)
  !s.mod.off && decide (magic = 0x474D#16) && decide (ver = 1#8) && (q.session.isNone || decide (q.peer = some src))
/-- MGMT_ORDER: an order entry, unless it repeats an outstanding one bit for bit (R439). -/
def execMgmtOrder (m : Fin 2) (src : Nat) (magic : BitVec 16) (ver : BitVec 8) (entry : Row) (s : State) : Outcome State Fault Refusal :=
  .next (
    let q := s.fn (68 + m)
    if !s.heeds m src magic ver || q.fetched.contains entry || q.orders.any (fun o => decide (o.words = entry)) then s
    else s.modFn (68 + m) (fun q => { q with fetched := q.fetched ++ [entry], srcs := (ordNat entry 2 2, src) :: q.srcs }))
/-- MGMT_REGISTER_READ: answered with a read reply; what the window does not admit reads zero (R438, R439, R507). -/
def execMgmtRegisterRead (m : Fin 2) (src : Nat) (magic : BitVec 16) (ver : BitVec 8) (seq : BitVec 32) (off : BitVec 26) (size : Fin 9)
    (s : State) : Outcome State Fault Refusal :=
  .next (
    if !s.heeds m src magic ver then s
    else
      let r := s.windowRead (.mgmt m) off.toNat size
      r.1.emit (.datagram (68 + m) 3 seq.toNat off.toNat r.2))
/-- MGMT_REGISTER_WRITE (R438, R439). -/
def execMgmtRegisterWrite (m : Fin 2) (src : Nat) (magic : BitVec 16) (ver : BitVec 8) (off : BitVec 26) (size : Fin 9) (v : Word)
    (s : State) : Outcome State Fault Refusal :=
  .next (if s.heeds m src magic ver then s.windowWrite (.mgmt m) off.toNat size v else s)
/-- MGMT_CHALLENGE: a nonce, and the reply that carries it (R367, R438). -/
def execMgmtChallenge (m : Fin 2) (src : Nat) (magic : BitVec 16) (ver : BitVec 8) (seq : BitVec 32) (s : State) : Outcome State Fault Refusal :=
  .next (
    if !s.heeds m src magic ver then s
    else
      let s := s.challenge (68 + m)
      s.emit (.datagram (68 + m) 6 seq.toNat 0 (s.fn (68 + m)).nonce.toNat))

/-! ### SMBus (R440, R474; the PMBus formats are log 31) -/

/-- Value of a PMBus linear format word: an 11-bit signed mantissa and the 5-bit signed exponent above it. -/
def linearValue (w : BitVec 16) : Int × Int := (sext 11 w.toNat, sext 5 (w.toNat / 2048))
/-- Whole watts of a linear format word, and whether it has a fraction below them. -/
def linearFloor (w : BitVec 16) : Int :=
  let (m, e) := linearValue w
  if 0 ≤ e then m * 2 ^ e.toNat else m.fdiv (2 ^ (-e).toNat)
/-- The linear format word of `num / den`, with the largest mantissa that fits, rounded down. -/
def linearWord (num den : Nat) : Nat :=
  let q (e : Nat) : Nat := if 16 ≤ e then num / (den * 2 ^ (e - 16)) else num * 2 ^ (16 - e) / den
  let e := ((rangeFrom 0 32).find? (fun e => decide (q e ≤ 1023))).getD 31
  min 1023 (q e) + (e + 16) % 32 * 2048
/-- Whether an SMBus target answers: the first always, the second while SB_GPIO0 and SB_GPIO1 are its bus (R444). -/
def State.smbusOn (s : State) (target : Fin 2) : Bool :=
  !s.mod.off && (decide (target = 0) || (decide (s.getF F.sbPinmux_gpio 0 % 16 = 5) && !s.mod.breaking.contains 0 && !s.mod.breaking.contains 1))
/-- An SMBus target's answer. -/
def State.answerSmbus (s : State) (target : Fin 2) (code value : Nat) : State :=
  if s.smbusOn target then s.emit (.smbus code value) else s
/-- POUT_MAX, read or written: a cap in range, or 0 for none; another value is ignored and sets CML (R440, R474). -/
def execPoutMax (target : Fin 2) (w : Option (BitVec 16)) (s : State) : Outcome State Fault Refusal :=
  .next (
    match w with
    | none => s.answerSmbus target 0x31 (linearWord s.mod.smbusCap 1)
    | some v =>
      let n := linearFloor v
      let (m, e) := linearValue v
      let above := decide (0 ≤ e) || decide (n * 2 ^ (-e).toNat = m)
      if !s.smbusOn target then s
      else if m = 0 ∨ (2400 ≤ n ∧ (n < 24000 ∨ (n = 24000 ∧ above))) then (s.modMod (fun q => { q with smbusCap := n.toNat })).recap
      else s.modMod (fun q => { q with cml := true }))
/-- STATUS_WORD: bit 1 CML, bit 2 temperature, bit 6 off, bit 12 leak, bit 14 output power (log 31). -/
def State.statusWord (s : State) : Nat :=
  let hot := s.mod.tripped || s.dies.any (fun e => e.2.hot)
  let limit := s.flagF F.pwrCapEff_limiting 0 || (rangeFrom 0 64).any (fun d => s.flagF F.tileStatus_distress d)
  s.mod.cml.toNat * 2 + hot.toNat * 4 + (decide (s.pwState = pwStandby)).toNat * 64 + (s.flagF F.pwrState_leak 0).toNat * 4096
    + limit.toNat * 16384
/-- STATUS_WORD (R440). -/
def execStatusWord (target : Fin 2) (s : State) : Outcome State Fault Refusal := .next (s.answerSmbus target 0x79 s.statusWord)
/-- READ_VIN: busbar voltage (R440). -/
def execReadVin (target : Fin 2) (s : State) : Outcome State Fault Refusal :=
  .next (s.answerSmbus target 0x88 (linearWord (s.getF F.pwrInput_mv 0) 1000))
/-- READ_IIN: busbar current (R440). -/
def execReadIin (target : Fin 2) (s : State) : Outcome State Fault Refusal :=
  .next (s.answerSmbus target 0x89 (linearWord (s.getF F.pwrInput_deciamps 0) 10))
/-- READ_TEMPERATURE_1: the inlet sensor's reading in °C (R440). -/
def execReadTemperature1 (target : Fin 2) (inlet : BitVec 8) (s : State) : Outcome State Fault Refusal :=
  .next (s.answerSmbus target 0x8D (linearWord inlet.toNat 1))
/-- READ_POUT: metered input power (R440). -/
def execReadPout (target : Fin 2) (s : State) : Outcome State Fault Refusal :=
  .next (s.answerSmbus target 0x96 (linearWord (s.getF F.pwrInput_watts 0) 1))
/-- ALERT_N is driven low: an event of class 13 or 14 pending at the module controller, or a STATUS_WORD bit (R442). -/
def State.alertN (s : State) : Bool :=
  (Ev.all.filter (fun e => e.atModule && (decide (e.cls = 13) || decide (e.cls = 14)))).any
      (fun e => decide (s.getF F.evtEvent_pending (64 * 512 + e.num) ≠ 0))
    || decide (s.statusWord ≠ 0)
/-- ALERT_RESPONSE: the module answers while it drives ALERT_N (R440). -/
def execAlertResponse (s : State) : Outcome State Fault Refusal := .next (if !s.mod.off && s.alertN then s.emit .alertResponse else s)

/-! ### The console and JTAG (R441) -/

/-- UART_COMMAND: until the admin password has been entered, a line is taken as a password; after it a command is accepted, and R441
gives the console no command with an effect. Safe mode takes no password (R369, R491). -/
def execUartCommand (line : List Byte) (s : State) : Outcome State Fault Refusal :=
  .next (
    if s.mod.console then s
    else
      let key := s.image.bind (fun im => im.adminPwKey)
      if !s.mod.off && decide (s.getF F.modState_state 0 ≠ mSafe)
          && key.any (fun k => pbkdf2 line (leBytes Config.salt.toNat 16) (s.getF F.partSessCfg_kdf_kiter 64 * 1000) == leBytes k.toNat 32)
        then s.modMod (fun q => { q with console := true })
      else s)
/-- BYPASS: the one-bit register, which captures 0 (IEEE 1149.1). -/
def execBypass (s : State) : Outcome State Fault Refusal := .next ((s.modMod (fun q => { q with jtag := 0 })).emit (.jtag 0))
/-- IDCODE: the identity code. -/
def execIdcode (s : State) : Outcome State Fault Refusal :=
  .next ((s.modMod (fun q => { q with jtag := 1 })).emit (.jtag Config.idcode.toNat))
/-- SAMPLE/PRELOAD: the pins as they stand leave the port, and the boundary register takes what is shifted in. -/
def execSamplePreload (pins load : Nat) (s : State) : Outcome State Fault Refusal :=
  .next ((s.modMod (fun q => { q with jtag := 2, boundary := load })).emit (.jtag pins))
/-- EXTEST: the boundary register drives the pins; refused unless MOD_RST_N is held. -/
def execExtest (pins load : Nat) (s : State) : Outcome State Fault Refusal :=
  .next (
    if s.flagF F.sbStat_reset_in 0 then (s.modMod (fun q => { q with jtag := 3, boundary := load })).emit (.jtag pins) else s)

/-! ### Sideband pins (R443 to R446) -/

/-- PWRCAP_WINDOW: a duty in thousandths. A window with a switch in it is discarded; a pin held high sets no cap (R443, R445, R520;
log 32). -/
def execPwrcapWindow (duty : Fin 1001) (s : State) : Outcome State Fault Refusal :=
  .next (
    if s.getF F.sbPinmux_pwrcap 0 ≠ 0 then s
    else if s.mod.spoiled then s.modMod (fun q => { q with spoiled := q.breaking.contains 12 })
    else
      let s := (s.setF F.sbStat_cap_duty 0 duty).modMod (fun q => { q with pinCap := if duty.val = 1000 then 0 else max 2400 (24 * duty.val) })
      s.recap)
/-- PWRCAP_LEVEL_CHANGE, debounced: low sets the image's low cap, high sets none (R443). -/
def execPwrcapLevelChange (high : Bool) (s : State) : Outcome State Fault Refusal :=
  .next (
    if s.getF F.sbPinmux_pwrcap 0 ≠ 1 then s
    else
      let low := (s.image.map (fun im => im.lowCap)).getD 0
      ((s.setB F.sbStat_cap_low 0 (!high)).modMod (fun q => { q with pinCap := if high then 0 else low })).recap)
/-- PINMUX_SWITCH: a write to SB.PINMUX (R444, R445). -/
def execPinmuxSwitch (path : Path) (v : BitVec 32) (s : State) : Outcome State Fault Refusal :=
  .next (s.ifAdmitted path fun s => s.pinmux v.toNat)
/-- PINMUX_SWITCH_END: 2 µs have passed for a pin, SB_GPIO0 to 11 or with 12 PWRCAP_IN (R445). -/
def execPinmuxSwitchEnd (pin : Fin 13) (s : State) : Outcome State Fault Refusal :=
  .next (s.modMod (fun q => { q with breaking := NSet.del pin q.breaking }))
/-- FLOW_TACH_PULSE: counted while SB_GPIO4 is the flow meter's; flow_hz holds the pulses of the last whole second (R444). -/
def execFlowTachPulse (s : State) : Outcome State Fault Refusal :=
  .next (
    if s.getF F.sbPinmux_gpio 0 / 256 % 4 ≠ 1 ∨ s.mod.breaking.contains 4 then s
    else if s.mod.flowAt = s.seconds then s.modMod (fun q => { q with flow := q.flow + 1 })
    else
      let last := if s.mod.flowAt + 1 = s.seconds then s.mod.flow else 0
      (s.setF F.sbStat_flow_hz 0 (min 65535 last)).modMod (fun q => { q with flow := 1, flowAt := s.seconds }))
/-- LED_TEST_PULSE: an on-time of at least 20 µs, the lengthened one among them, shows a lamp or an open (R446). -/
def execLedTestPulse (n : Fin 4) (low : Bool) (s : State) : Outcome State Fault Refusal :=
  .next (
    let s' := s.setB F.sbLed_open n low
    if low && !s.flagF F.sbLed_open n then s'.raise .ledOpenLoad stewardNode none 0 else s')

end Sys2Proof.Machine
end

