-- ==== Sys2Proof/Machine/Dispatch.lean ====
section
/-! DEFINITION. One arm per constructor of `Instr`, each a direct call of its meaning. -/
namespace Sys2Proof.Machine
open Host

/-- The effect of a command on everything but the queue. -/
def exec (i : Instr) (s : State) : Host.Outcome State Fault Refusal :=
  match i with
  | .powerOn b => Sys2Proof.Machine.execPowerOn b s
  | .inputLoss => Sys2Proof.Machine.execInputLoss s
  | .modRstNAssert held b => Sys2Proof.Machine.execModRstNAssert held b s
  | .warmRestart path b => Sys2Proof.Machine.execWarmRestart path b s
  | .fullReload path b => Sys2Proof.Machine.execFullReload path b s
  | .nop c w o => Sys2Proof.Machine.execNop c w o s
  | .endProgram c w o => Sys2Proof.Machine.execEnd c w o s
  | .waitCount c w o => Sys2Proof.Machine.execWaitCount c w o s
  | .barrierGroup c w o => Sys2Proof.Machine.execBarrierGroup c w o s
  | .barrierStep c w o => Sys2Proof.Machine.execBarrierStep c w o s
  | .forecast c w o => Sys2Proof.Machine.execForecast c w o s
  | .forecastMatures c => Sys2Proof.Machine.execForecastMatures c s
  | .chkptMark c w o => Sys2Proof.Machine.execChkptMark c w o s
  | .repeatBody c w o => Sys2Proof.Machine.execRepeat c w o s
  | .setr c w o => Sys2Proof.Machine.execSetr c w o s
  | .loadTile c w o => Sys2Proof.Machine.execLoadTile c w o s
  | .stream c w0 w1 o => Sys2Proof.Machine.execStream c w0 w1 o s
  | .proof c w o => Sys2Proof.Machine.execProof c w o s
  | .proofTokenSend c epoch => Sys2Proof.Machine.execProofTokenSend c epoch s
  | .vecAdd c w0 w1 o => Sys2Proof.Machine.execVecAdd c w0 w1 o s
  | .vecSub c w0 w1 o => Sys2Proof.Machine.execVecSub c w0 w1 o s
  | .vecMul c w0 w1 o => Sys2Proof.Machine.execVecMul c w0 w1 o s
  | .vecFma c w0 w1 o => Sys2Proof.Machine.execVecFma c w0 w1 o s
  | .vecMax c w0 w1 o => Sys2Proof.Machine.execVecMax c w0 w1 o s
  | .vecMin c w0 w1 o => Sys2Proof.Machine.execVecMin c w0 w1 o s
  | .vecCmpEq c w0 w1 o => Sys2Proof.Machine.execVecCmpEq c w0 w1 o s
  | .vecCmpLt c w0 w1 o => Sys2Proof.Machine.execVecCmpLt c w0 w1 o s
  | .vecCmpLe c w0 w1 o => Sys2Proof.Machine.execVecCmpLe c w0 w1 o s
  | .vecCvt c w0 w1 o => Sys2Proof.Machine.execVecCvt c w0 w1 o s
  | .vecExp c w0 w1 o => Sys2Proof.Machine.execVecExp c w0 w1 o s
  | .vecRecip c w0 w1 o => Sys2Proof.Machine.execVecRecip c w0 w1 o s
  | .vecRsqrt c w0 w1 o => Sys2Proof.Machine.execVecRsqrt c w0 w1 o s
  | .vecRsum c w0 w1 o => Sys2Proof.Machine.execVecRsum c w0 w1 o s
  | .vecRmax c w0 w1 o => Sys2Proof.Machine.execVecRmax c w0 w1 o s
  | .vecRange c w0 w1 o => Sys2Proof.Machine.execVecRange c w0 w1 o s
  | .vecBexp c w0 w1 o => Sys2Proof.Machine.execVecBexp c w0 w1 o s
  | .vecQgrid c w0 w1 o => Sys2Proof.Machine.execVecQgrid c w0 w1 o s
  | .vecMxscale c w0 w1 o => Sys2Proof.Machine.execVecMxscale c w0 w1 o s
  | .sparseTile c w0 w1 o => Sys2Proof.Machine.execSparseTile c w0 w1 o s
  | .dramRead c w0 w1 w2 w3 w4 o => Sys2Proof.Machine.execDramRead c w0 w1 w2 w3 w4 o s
  | .dramWrite c w0 w1 w2 w3 w4 o => Sys2Proof.Machine.execDramWrite c w0 w1 w2 w3 w4 o s
  | .corePush c w0 w1 w2 w3 w4 o => Sys2Proof.Machine.execCorePush c w0 w1 w2 w3 w4 o s
  | .reduceSendExponents c w0 w1 w2 w3 w4 o => Sys2Proof.Machine.execReduceSendExponents c w0 w1 w2 w3 w4 o s
  | .reduceSendValues c w0 w1 w2 w3 w4 o => Sys2Proof.Machine.execReduceSendValues c w0 w1 w2 w3 w4 o s
  | .dramCopy c w0 w1 w2 w3 w4 o => Sys2Proof.Machine.execDramCopy c w0 w1 w2 w3 w4 o s
  | .gather c w0 w1 w2 o => Sys2Proof.Machine.execGather c w0 w1 w2 o s
  | .mirror c w o => Sys2Proof.Machine.execMirror c w o s
  | .packetIssue c seq how => Sys2Proof.Machine.execPacketIssue c seq how s
  | .readRequest m k ok misreads => Sys2Proof.Machine.execReadRequest m k ok misreads s
  | .writeData m k ok => Sys2Proof.Machine.execWriteData m k ok s
  | .gatherRequest m k ok => Sys2Proof.Machine.execGatherRequest m k ok s
  | .streamReceive m k ok more misreads => Sys2Proof.Machine.execStreamReceive m k ok more misreads s
  | .groupPacketRead m g off misreads => Sys2Proof.Machine.execGroupPacketRead m g off misreads s
  | .groupWaitExpiry m g off => Sys2Proof.Machine.execGroupWaitExpiry m g off s
  | .readResponse c k ok fails o => Sys2Proof.Machine.execReadResponse c k ok fails o s
  | .acknowledgement c a => Sys2Proof.Machine.execAcknowledgement c a s
  | .fencedAcknowledgement c a => Sys2Proof.Machine.execFencedAcknowledgement c a s
  | .refusedAcknowledgement c a => Sys2Proof.Machine.execRefusedAcknowledgement c a s
  | .resendRequest n a => Sys2Proof.Machine.execResendRequest n a s
  | .corePushData c k ok fails o => Sys2Proof.Machine.execCorePushData c k ok fails o s
  | .mirrorData c k ok o => Sys2Proof.Machine.execMirrorData c k ok o s
  | .streamDelivery c k ok fails o => Sys2Proof.Machine.execStreamDelivery c k ok fails o s
  | .exponentContribution m k ok => Sys2Proof.Machine.execExponentContribution m k ok s
  | .agreedBytes c k ok o => Sys2Proof.Machine.execAgreedBytes c k ok o s
  | .contribution m k ok => Sys2Proof.Machine.execContribution m k ok s
  | .retraction m k ok => Sys2Proof.Machine.execRetraction m k ok s
  | .rawResend m k ok => Sys2Proof.Machine.execRawResend m k ok s
  | .treeContribution m k ok => Sys2Proof.Machine.execTreeContribution m k ok s
  | .tagTimeout c tag => Sys2Proof.Machine.execTagTimeout c tag s
  | .flitReplay c k => Sys2Proof.Machine.execFlitReplay c k s
  | .linkDegraded c k => Sys2Proof.Machine.execLinkDegraded c k s
  | .rateRecovery c cls => Sys2Proof.Machine.execRateRecovery c cls s
  | .congestionInterval c blocked marks => Sys2Proof.Machine.execCongestionInterval c blocked marks s
  | .congReport m => Sys2Proof.Machine.execCongReport m s
  | .barArrive p msgs nodes moves => Sys2Proof.Machine.execBarArrive p msgs nodes moves s
  | .groupResolved p g retired => Sys2Proof.Machine.execGroupResolved p g retired s
  | .barRelease c m => Sys2Proof.Machine.execBarRelease c m s
  | .checkpointSnapshot p => Sys2Proof.Machine.execCheckpointSnapshot p s
  | .proofToken m => Sys2Proof.Machine.execProofToken m s
  | .retractToken m => Sys2Proof.Machine.execRetractToken m s
  | .aliasUpdate c m => Sys2Proof.Machine.execAliasUpdate c m s
  | .forecastNote d m => Sys2Proof.Machine.execForecastNote d m s
  | .supplyDistress c m => Sys2Proof.Machine.execSupplyDistress c m s
  | .hold p m => Sys2Proof.Machine.execHold p m s
  | .groupDrop m c => Sys2Proof.Machine.execGroupDrop m c s
  | .resendRaw c ask => Sys2Proof.Machine.execResendRaw c ask s
  | .stewardOrder m c blocks misreads => Sys2Proof.Machine.execStewardOrder m c blocks misreads s
  | .eventRecord k e => Sys2Proof.Machine.execEventRecord k e s
  | .coalesceTimerExpiry k cls => Sys2Proof.Machine.execCoalesceTimerExpiry k cls s
  | .evtCompleteWrite path v => Sys2Proof.Machine.execEvtCompleteWrite path v s
  | .evtCommitWrite path v => Sys2Proof.Machine.execEvtCommitWrite path v s
  | .evtRqHeadWrite path v => Sys2Proof.Machine.execEvtRqHeadWrite path v s
  | .evtCtrlWrite path v => Sys2Proof.Machine.execEvtCtrlWrite path v s
  | .evtEventEnableWrite path n v => Sys2Proof.Machine.execEvtEventEnableWrite path n v s
  | .challenge path => Sys2Proof.Machine.execChallenge path s
  | .nonceExpiry path => Sys2Proof.Machine.execNonceExpiry path s
  | .lockoutEnd path => Sys2Proof.Machine.execLockoutEnd path s
  | .sessionTimeout path => Sys2Proof.Machine.execSessionTimeout path s
  | .oqTailWrite path v entries => Sys2Proof.Machine.execOqTailWrite path v entries s
  | .cqHeadWrite path v => Sys2Proof.Machine.execCqHeadWrite path v s
  | .queueCfgWrite path cq v => Sys2Proof.Machine.execQueueCfgWrite path cq v s
  | .arbitrationCycle a => Sys2Proof.Machine.execArbitrationCycle a s
  | .openSession path tag => Sys2Proof.Machine.execOpen path tag s
  | .closeSession path tag => Sys2Proof.Machine.execClose path tag s
  | .teardownDone p => Sys2Proof.Machine.execTeardownDone p s
  | .sharedExtentZeroing p => Sys2Proof.Machine.execSharedExtentZeroing p s
  | .loadCapsule path tag header rest body => Sys2Proof.Machine.execLoadCapsule path tag header rest body s
  | .start path tag => Sys2Proof.Machine.execStart path tag s
  | .pause path tag => Sys2Proof.Machine.execPause path tag s
  | .pauseExpired p => Sys2Proof.Machine.execPauseExpired p s
  | .resume path tag => Sys2Proof.Machine.execResume path tag s
  | .cancelKind0 path tag => Sys2Proof.Machine.execCancelKind0 path tag s
  | .cancelKind1 path tag => Sys2Proof.Machine.execCancelKind1 path tag s
  | .feed path tag => Sys2Proof.Machine.execFeed path tag s
  | .feedTransfer path tag data => Sys2Proof.Machine.execFeedTransfer path tag data s
  | .readOut path tag => Sys2Proof.Machine.execReadOut path tag s
  | .checkpoint path tag => Sys2Proof.Machine.execCheckpoint path tag s
  | .restore path tag valid => Sys2Proof.Machine.execRestore path tag valid s
  | .joinGroup path tag => Sys2Proof.Machine.execJoinGroup path tag s
  | .leaveGroup path tag => Sys2Proof.Machine.execLeaveGroup path tag s
  | .ustepOverrun c => Sys2Proof.Machine.execUstepOverrun c s
  | .epochAutoClose c => Sys2Proof.Machine.execEpochAutoClose c s
  | .coreHang c => Sys2Proof.Machine.execCoreHang c s
  | .faultRetryDone p repeats digest unit => Sys2Proof.Machine.execFaultRetryDone p repeats digest unit s
  | .recoveryDrainDone p => Sys2Proof.Machine.execRecoveryDrainDone p s
  | .mirrorRestoreDone p => Sys2Proof.Machine.execMirrorRestoreDone p s
  | .healthDecay unit => Sys2Proof.Machine.execHealthDecay unit s
  | .healthRecordWrite => Sys2Proof.Machine.execHealthRecordWrite s
  | .healthCleared path v => Sys2Proof.Machine.execHealthCleared path v s
  | .testSlice m ch repaired unrepairable misreads => Sys2Proof.Machine.execTestSlice m ch repaired unrepairable misreads s
  | .refresh m ch hot => Sys2Proof.Machine.execRefresh m ch hot s
  | .selfRefreshEntry m ch => Sys2Proof.Machine.execSelfRefreshEntry m ch s
  | .heartbeatSend p => Sys2Proof.Machine.execHeartbeatSend p s
  | .reduceMemberLost p rank => Sys2Proof.Machine.execReduceMemberLost p rank s
  | .hello sub f => Sys2Proof.Machine.execHello sub f s
  | .helloAck sub f => Sys2Proof.Machine.execHelloAck sub f s
  | .helloRetry sub peer => Sys2Proof.Machine.execHelloRetry sub peer s
  | .ack sub f ch => Sys2Proof.Machine.execAck sub f ch s
  | .heartbeat f => Sys2Proof.Machine.execHeartbeat f s
  | .expMax f => Sys2Proof.Machine.execExpMax f s
  | .moduleSum f => Sys2Proof.Machine.execModuleSum f s
  | .prepared f => Sys2Proof.Machine.execPrepared f s
  | .activation sub f => Sys2Proof.Machine.execActivation sub f s
  | .token f => Sys2Proof.Machine.execToken f s
  | .ckptData sub f => Sys2Proof.Machine.execCkptData sub f s
  | .ckptAck f => Sys2Proof.Machine.execCkptAck f s
  | .klRetransmitTimeout sub peer ch seq => Sys2Proof.Machine.execKlRetransmitTimeout sub peer ch seq s
  | .frameReceive sub r flow => Sys2Proof.Machine.execFrameReceive sub r flow s
  | .exceptionService e => Sys2Proof.Machine.execExceptionService e s
  | .pfcFrame sub l => Sys2Proof.Machine.execPfcFrame sub l s
  | .pfcPauseExpiry sub prio => Sys2Proof.Machine.execPfcPauseExpiry sub prio s
  | .linkUp port sub => Sys2Proof.Machine.execLinkUp port sub s
  | .linkDown port sub => Sys2Proof.Machine.execLinkDown port sub s
  | .flrVf p => Sys2Proof.Machine.execFlrVf p s
  | .flrPf h => Sys2Proof.Machine.execFlrPf h s
  | .hotReset h => Sys2Proof.Machine.execHotReset h s
  | .vfEnableClear h => Sys2Proof.Machine.execVfEnableClear h s
  | .hostLinkLost h => Sys2Proof.Machine.execHostLinkLost h s
  | .hostLinkRetrain h gen width => Sys2Proof.Machine.execHostLinkRetrain h gen width s
  | .stewardModeEntered => Sys2Proof.Machine.execStewardModeEntered s
  | .mgmtOrder m src magic ver entry => Sys2Proof.Machine.execMgmtOrder m src magic ver entry s
  | .mgmtRegisterRead m src magic ver seq off size => Sys2Proof.Machine.execMgmtRegisterRead m src magic ver seq off size s
  | .mgmtRegisterWrite m src magic ver off size v => Sys2Proof.Machine.execMgmtRegisterWrite m src magic ver off size v s
  | .mgmtChallenge m src magic ver seq => Sys2Proof.Machine.execMgmtChallenge m src magic ver seq s
  | .poutMax target w => Sys2Proof.Machine.execPoutMax target w s
  | .statusWord target => Sys2Proof.Machine.execStatusWord target s
  | .readVin target => Sys2Proof.Machine.execReadVin target s
  | .readIin target => Sys2Proof.Machine.execReadIin target s
  | .readTemperature1 target inlet => Sys2Proof.Machine.execReadTemperature1 target inlet s
  | .readPout target => Sys2Proof.Machine.execReadPout target s
  | .alertResponse => Sys2Proof.Machine.execAlertResponse s
  | .uartCommand line => Sys2Proof.Machine.execUartCommand line s
  | .bypass => Sys2Proof.Machine.execBypass s
  | .idcode => Sys2Proof.Machine.execIdcode s
  | .samplePreload pins load => Sys2Proof.Machine.execSamplePreload pins load s
  | .extest pins load => Sys2Proof.Machine.execExtest pins load s
  | .pwrcapWindow duty => Sys2Proof.Machine.execPwrcapWindow duty s
  | .pwrcapLevelChange high => Sys2Proof.Machine.execPwrcapLevelChange high s
  | .leakDetected src => Sys2Proof.Machine.execLeakDetected src s
  | .leakHoldEntry => Sys2Proof.Machine.execLeakHoldEntry s
  | .pinmuxSwitch path v => Sys2Proof.Machine.execPinmuxSwitch path v s
  | .pinmuxSwitchEnd pin => Sys2Proof.Machine.execPinmuxSwitchEnd pin s
  | .ledTestPulse n low => Sys2Proof.Machine.execLedTestPulse n low s
  | .refLossPrimary d => Sys2Proof.Machine.execRefLossPrimary d s
  | .refLossBoth d => Sys2Proof.Machine.execRefLossBoth d s
  | .phaseShed d k => Sys2Proof.Machine.execPhaseShed d k s
  | .supplyDistressOnset d => Sys2Proof.Machine.execSupplyDistressOnset d s
  | .distressPersists d => Sys2Proof.Machine.execDistressPersists d s
  | .distressEnd d => Sys2Proof.Machine.execDistressEnd d s
  | .droopStretch c ps => Sys2Proof.Machine.execDroopStretch c ps s
  | .droopRecovery c cycles => Sys2Proof.Machine.execDroopRecovery c cycles s
  | .thermalSample d temp => Sys2Proof.Machine.execThermalSample d temp s
  | .thermalStep d => Sys2Proof.Machine.execThermalStep d s
  | .thermalRecovery d => Sys2Proof.Machine.execThermalRecovery d s
  | .thermTrip d => Sys2Proof.Machine.execThermTrip d s
  | .capCheck m cores => Sys2Proof.Machine.execCapCheck m cores s
  | .capPause => Sys2Proof.Machine.execCapPause s
  | .capResume p => Sys2Proof.Machine.execCapResume p s
  | .capRampStep => Sys2Proof.Machine.execCapRampStep s
  | .pwrCapCommit path v => Sys2Proof.Machine.execPwrCapCommit path v s
  | .moduleActiveRequest path => Sys2Proof.Machine.execModuleActiveRequest path s
  | .moduleHoldRequest path => Sys2Proof.Machine.execModuleHoldRequest path s
  | .standbyRequest path => Sys2Proof.Machine.execStandbyRequest path s
  | .stewardSet path => Sys2Proof.Machine.execStewardSet path s
  | .stewardModeLeft path => Sys2Proof.Machine.execStewardModeLeft path s
  | .idleHoldEntry => Sys2Proof.Machine.execIdleHoldEntry s
  | .corePauseHold c => Sys2Proof.Machine.execCorePauseHold c s
  | .scratchpadWindowAccess path off size data corrected bad => Sys2Proof.Machine.execScratchpadWindowAccess path off size data corrected bad s
  | .scratchpadRetentionReturn c => Sys2Proof.Machine.execScratchpadRetentionReturn c s
  | .apertureAccess path off size data => Sys2Proof.Machine.execApertureAccess path off size data s
  | .latchedRead path off size => Sys2Proof.Machine.execLatchedRead path off size s
  | .erase path slot => Sys2Proof.Machine.execErase path slot s
  | .program path slot offset => Sys2Proof.Machine.execProgram path slot offset s
  | .commit path slot => Sys2Proof.Machine.execCommit path slot s
  | .sealKey path => Sys2Proof.Machine.execSeal path s
  | .cfgsOperationDone failed body => Sys2Proof.Machine.execCfgsOperationDone failed body s
  | .registerWrite path off size v => Sys2Proof.Machine.execRegisterWrite path off size v s
  | .programFetchResponse c failures cycles => Sys2Proof.Machine.execProgramFetchResponse c failures cycles s
  | .leakDetDeassert => Sys2Proof.Machine.execLeakDetDeassert s
  | .refReturn d primary => Sys2Proof.Machine.execRefReturn d primary s
  | .perstAssert h => Sys2Proof.Machine.execPerstAssert h s
  | .cxlMemCompletion p ok block read => Sys2Proof.Machine.execCxlMemCompletion p ok block read s
  | .capsuleLoadDone p => Sys2Proof.Machine.execCapsuleLoadDone p s
  | .restoreDone p blocks => Sys2Proof.Machine.execRestoreDone p blocks s
  | .moduleHoldExitDone => Sys2Proof.Machine.execModuleHoldExitDone s
  | .voltageReached c => Sys2Proof.Machine.execVoltageReached c s
  | .flowTachPulse => Sys2Proof.Machine.execFlowTachPulse s
  | .phaseFault d k => Sys2Proof.Machine.execPhaseFault d k s

end Sys2Proof.Machine
end

