-- ==== Sys2Proof/Safety.lean ====
section
/-! DEFINITION. What counts as a well-kept state and as a step that does not stop. -/
namespace Sys2Proof.Machine
open Host

/-- Numbers of a set rise strictly from `lo` on. -/
def setWfFrom : Nat → NSet → Bool
  | _, [] => true
  | lo, a :: t => decide (lo ≤ a) && setWfFrom (a + 1) t
/-- The canonical form of a set: strictly rising. -/
def setWf (s : NSet) : Bool := setWfFrom 0 s
/-- Scratchpads and DRAM are in the one canonical form of a memory, so that equal contents are equal data. -/
def State.memWf (s : State) : Prop := Memory.wf s.spad = true ∧ Memory.wf s.dram = true
/-- Poisoned rows are listed once each, rising. -/
def State.poisonWf (s : State) : Prop := setWf s.spadPoison = true
/-- The step answered a next state. -/
def isNext {σ φ ρ : Type} : Outcome σ φ ρ → Bool
  | .next _ => true
  | .fault _ => false
  | .refused _ => false

/-! ### Words the statements use -/
/-- A core's instruction may dispatch (R55, R74, R107): the core runs, and no other instruction waits; a set sync bit or an instruction that drains finds every
earlier instruction complete; an engine instruction finds no transfer active; no reserved opcode, bit 56 clear. -/
abbrev State.ready (s : State) (c : Nat) (w : Word) (engine drain : Bool) : Prop :=
  s.getF F.seqStatus_state c = stRunning ∧ ((s.core c).held = none ∨ (s.core c).held = some w) ∧ ((syncBit w || drain) = true → s.drained c = true) ∧
  (engine = true → s.spadActive c = false) ∧ badBit56 w = false ∧ reservedOp w = false
/-- Nothing differs but registers and what core `c` holds; of the registers, only core `c`'s instances of those listed. -/
def State.coreOnly (s t : State) (c : Nat) (rs : List Reg) : Prop :=
  t = { s with regs := t.regs, cores := t.cores } ∧ (∀ r i, t.reg r i = s.reg r i ∨ (i = c ∧ r ∈ rs)) ∧
  (∀ d, d ≠ c → t.core d = s.core d)
/-- Scratchpads, DRAM and their metadata are as before. -/
def State.sameMemory (s t : State) : Prop :=
  t.spad = s.spad ∧ t.spadPoison = s.spadPoison ∧ t.spadChk = s.spadChk ∧ t.dram = s.dram ∧ t.blk = s.blk ∧ t.recv = s.recv
/-- The sequencer has gone past an instruction of `n` words, leaving or repeating the bodies that end there (R91). -/
def State.movedOn (s t : State) (c n : Nat) : Prop :=
  t.getF F.seqPc_addr c = (closeLoops (s.getF F.seqPc_addr c + 8 * n) (s.core c).loops).1 % 2 ^ 48 ∧
  (t.core c).loops = (closeLoops (s.getF F.seqPc_addr c + 8 * n) (s.core c).loops).2
/-- Core `c` has stopped at an instruction fault: its status, its pc, the log where it was clear, and no memory (R107). -/
def State.faultedWith (s t : State) (c reason : Nat) : Prop :=
  t.getF F.seqStatus_state c = stStopped ∧ t.getF F.seqPc_addr c = s.getF F.seqPc_addr c ∧
  (s.getF F.seqFault_valid c = 0 → t.getF F.seqFault_valid c = 1 ∧ t.getF F.seqFault_reason c = reason ∧
    t.getF F.seqFault_pc c = s.getF F.seqPc_addr c) ∧
  (s.getF F.seqFault_valid c = 1 → t.reg .seqFault c = s.reg .seqFault c) ∧ s.sameMemory t
/-- Every scratchpad row but rows `r … r+n-1` of core `c` has its data and its poison. -/
def State.rowsBut (s t : State) (c r n : Nat) : Prop :=
  ∀ d k, k < 262144 → (d ≠ c ∨ k < r ∨ r + n ≤ k) → t.row d k = s.row d k ∧ t.rowPoison d k = s.rowPoison d k
/-- Nothing differs but registers, what cores hold, and scratchpads; of the registers, only core `c`'s instances of those listed. -/
def State.engineOnly (s t : State) (c : Nat) (rs : List Reg) : Prop :=
  t = { s with regs := t.regs, cores := t.cores, spad := t.spad, spadPoison := t.spadPoison, spadChk := t.spadChk } ∧
  (∀ r i, t.reg r i = s.reg r i ∨ (i = c ∧ r ∈ rs)) ∧ (∀ d, d ≠ c → t.core d = s.core d)
/-- Of the registers, only the instances listed may differ. -/
def State.regsBut (s t : State) (l : List (Reg × Nat)) : Prop := ∀ r i, (r, i) ∉ l → t.reg r i = s.reg r i
/-- Nothing differs but registers, and of those only the instances listed. -/
def State.onlyRegs (s t : State) (l : List (Reg × Nat)) : Prop := t = { s with regs := t.regs } ∧ s.regsBut t l
/-- One event has been raised: its record is on the way to one controller, behind those that were (R400, R410). -/
def State.announced (s t : State) (e : Ev) (src ctrl part detail : Nat) : Prop :=
  ∃ q, t.evNet = s.evNet ++ [(ctrl, ⟨e.num, src, q, part, s.now, detail % 2 ^ 128⟩)]
/-- Among the events raised is this one. -/
def State.raisedOne (s t : State) (e : Ev) (src ctrl part detail : Nat) : Prop :=
  ∃ q, (ctrl, (⟨e.num, src, q, part, s.now, detail % 2 ^ 128⟩ : EvRec)) ∈ t.evNet
/-- The cap in force is that of its sources: a decrease at once, an increase by the ramp (R474). -/
def State.recapped (s t : State) : Prop :=
  (t.lowestCap.1 ≤ s.getF F.pwrCapEff_watts 0 → t.getF F.pwrCapEff_watts 0 = t.lowestCap.1 ∧ t.getF F.pwrCapEff_ramping 0 = 0) ∧
  (s.getF F.pwrCapEff_watts 0 < t.lowestCap.1 →
    t.getF F.pwrCapEff_watts 0 = s.getF F.pwrCapEff_watts 0 ∧ t.getF F.pwrCapEff_ramping 0 = 1) ∧
  t.getF F.pwrCapEff_source 0 = t.lowestCap.2 % 8
/-- Every core that is not in OFF is in HOLD, and so is the module (R469, R471). -/
def State.allHeld (s t : State) : Prop :=
  t.pwState = pwHold ∧ t.mod.exiting = false ∧
  ∀ c < 4096, t.getF F.vregPoint_state c = if s.getF F.vregPoint_state c = vOff then vOff else vHold
/-- A completion goes out at the tail of its ring, or is held while it cannot (R374, R378, R435). -/
def State.gotAnswer (s t : State) (k : Nat) (c : Completion) : Prop :=
  (s.canPost k = true → Out.completion k (s.getF F.partQStat_cq_tail k) (s.getF F.partQStat_phase k) c ∈ t.out) ∧
  (s.canPost k = false → c ∈ (t.fn k).held)
/-- An order is complete with a code and a detail: answered on its path, and outstanding no more. -/
def State.doneOrder (s t : State) (o : OrderSt) (code detail : Nat) : Prop :=
  (∃ r, s.gotAnswer t (pathIx o.path) ⟨o.tag, code, o.opcode, o.part, detail, r⟩) ∧ t.order o.path o.tag = none
/-- An order is the next to act: outstanding on its path under its tag, ready, not overtaken, and its partition admits it (R379 to R383). -/
abbrev State.orderReady (s : State) (path : Path) (tag : Fin 4096) (op : Nat) (o : OrderSt) : Prop :=
  s.order path tag = some o ∧ o.path = path ∧ o.opcode = op ∧ o.stage = 1 ∧ s.blockedOrder o = false ∧
  (op ≠ opOpen → o.part < 64 ∧ admits op (s.pState o.part) (s.flagF F.partState_pause_pending o.part) = true)
/-- At most one admin session is open, on one physical function or management port (R366). -/
abbrev State.oneAdmin (s : State) : Prop :=
  ∀ j ∈ rangeFrom 64 6, ∀ k ∈ rangeFrom 64 6, (s.fn j).session.isSome = true → (s.fn k).session.isSome = true → j = k
/-- No pause of a partition is on its way. -/
abbrev State.noPauses (s : State) (p : Nat) : Prop := (s.part p).pauseAsked = [] ∧ (s.part p).pausePend = []
/-- Bring-up has ended with an image in force and nothing in memory (R494 to R497). -/
def State.upWith (t : State) (im : Image) : Prop :=
  t.getF F.modState_state 0 = mReady ∧ t.getF F.modState_lock_closed 0 = 1 ∧ t.image = some im ∧ t.mod.ready = true ∧ t.mod.off = false ∧
  t.spad = [] ∧ t.dram = [] ∧ ∀ p < 64, t.pState p = psEmpty
/-- The module is in safe mode with its locks closed (R481, R491). -/
def State.inSafeMode (t : State) : Prop :=
  t.getF F.modState_state 0 = mSafe ∧ t.getF F.modState_lock_closed 0 = 1 ∧ t.getF F.pwrState_steward_mode 0 = 1 ∧ t.image = none ∧
  t.spad = [] ∧ t.dram = []
/-- Two row ranges share no row. -/
abbrev rowsApart (r n r' n' : Nat) : Prop := r + n ≤ r' ∨ r' + n' ≤ r
/-- The element-wise operations of R84 with their operand counts and the exact value each gives before its one rounding. -/
def elemOps : List ((CoreIx → Word → Word → Obs → Instr) × Nat × LaneFn) :=
  [(.vecAdd, 2, fun a b _ => (vadd a b, none)), (.vecSub, 2, fun a b _ => (vadd a (vneg b), none)),
   (.vecMul, 2, fun a b _ => (vmul a b, none)), (.vecFma, 3, fun a b d => (vfma a b d, none)),
   (.vecMax, 2, fun a b _ => ((vmax a b, 0#5), none)), (.vecMin, 2, fun a b _ => ((vmin a b, 0#5), none)),
   (.vecCmpEq, 2, fun a b _ => truth (vcmp a b = some .eq)), (.vecCmpLt, 2, fun a b _ => truth (vcmp a b = some .lt)),
   (.vecCmpLe, 2, fun a b _ => truth (vcmp a b = some .lt || vcmp a b = some .eq)),
   (.vecExp, 1, fun a _ _ => ((vexp a, 0#5), none)), (.vecRecip, 1, fun a _ _ => (vrecip a, none)),
   (.vecRsqrt, 1, fun a _ _ => (vrsqrt a, none))]
/-- The code and the flags of element `i` of vector `v` of an element-wise operation on the operands as they stand in `u`. -/
def State.elemOut (u : State) (c : Nat) (f : VecF) (fi fo : Fmt) (nops : Nat) (g : LaneFn) (v i : Nat) : Nat × Flags :=
  let a := decode fi ((u.vecCodes c f.a fi v).getD i 0)
  let b := if 2 ≤ nops then decode fi ((u.vecCodes c f.b fi v).getD i 0) else a
  let d := if 3 ≤ nops then decode fi ((u.vecCodes c f.cc fi v).getD i 0) else a
  let e := encode fo f.ctx (u.srOut c v i) (g a b d).2 (g a b d).1.1
  (e.1, e.2 ||| (g a b d).1.2)
/-- The fields of an ordinary VEC are ones R84 and R112 allow. -/
abbrev VecF.plain (f : VecF) : Prop := f.resv = 0 ∧ f.rndOk = true ∧ f.scl = 0

end Sys2Proof.Machine
end

