-- ==== Sys2Proof/Certificates/Slice0/Obligations.lean ====
section
/-! DEFINITION. The statements: what each command does, what it leaves alone, and what every step keeps. -/
open Sys2Proof Sys2Proof.Machine

/-- A step takes the command at the front of the queue and carries it out with the queue's rest. With nothing commanded the time base counts one
tick of 10 ns, packets move along the carry lines, and nothing else changes (the model's choice, log 33). -/
def Obligations.StepRunsTheFrontCommand : Prop :=
  (∀ (i : Instr) (q : List Instr) (s : State), s.pending = i :: q → step s = exec i { s with pending := q }) ∧
  (∀ s : State, s.pending = [] →
    ∃ t, step s = .next t ∧ t = { s with now := s.now + 1, net := t.net, fab := { s.fab with taps := t.fab.taps } } ∧
      (s.fab.taps = [] → t = { s with now := s.now + 1 }))
/-- No-operations, marks and fetched program blocks complete and change nothing beyond the sequencer. REPEAT runs its body count times and skips
it with count zero; START's step count stands for a first instruction's (R70, R71, R76, R90, R91, R388). -/
def Obligations.ControlInstructionsComplete : Prop :=
  (∀ (c : CoreIx) (w : Word) (o : Obs) (s : State), s.ready c w false false →
     (bits w 0 56 = 0 → ∃ t, exec (.nop c w o) s = .next t ∧ s.movedOn t c 1 ∧ (s.taken c o).coreOnly t c [.seqPc]) ∧
     (bits w 0 40 = 0 → ∃ t, exec (.chkptMark c w o) s = .next t ∧ s.movedOn t c 1 ∧
       (t.core c).mark = some (bits w 40 16) ∧ (s.taken c o).coreOnly t c [.seqPc])) ∧
  (∀ (c : CoreIx) (n cycles : Nat) (s : State), n < 3 →
     ∃ t, exec (.programFetchResponse c n cycles) s = .next t ∧ s.coreOnly t c [.seqFetchStall] ∧
       t.getF F.seqFetchStall_cycles c = min (s.getF F.seqFetchStall_cycles c + cycles) (2 ^ 64 - 1) ∧
       (t.core c).ibuf.getLast? = some (match (s.core c).ibuf.getLast? with | some b => b + 1 | none => s.getF F.seqPc_addr c / 4096) ∧
       (t.core c).ibuf.length = min 16 ((s.core c).ibuf.length + 1)) ∧
  (∀ (c : CoreIx) (w : Word) (o : Obs) (s : State), s.ready c w false false → bits w 0 24 = 0 → bits w 24 16 ≠ 0 →
     (s.core c).loops.length < 4 → (∀ l, (s.core c).loops.head? = some l → s.getF F.seqPc_addr c + 8 + 8 * bits w 24 16 ≤ l.stop) →
     ∃ t, exec (.repeatBody c w o) s = .next t ∧ (s.taken c o).coreOnly t c [.seqPc] ∧
       (s.repeatCount c w = 0 → s.movedOn t c (1 + bits w 24 16)) ∧
       (s.repeatCount c w ≠ 0 → t.getF F.seqPc_addr c = (s.getF F.seqPc_addr c + 8) % 2 ^ 48 ∧
         (t.core c).loops = ⟨s.getF F.seqPc_addr c + 8, s.getF F.seqPc_addr c + 8 + 8 * bits w 24 16, s.repeatCount c w⟩ :: (s.core c).loops))
/-- WAIT_COUNT completes once its counter is at least the target, and not before: until then it waits at dispatch, nothing but that changes,
and its command comes again (R82). While an instruction waits no other of its core dispatches (R74). With a target of zero it completes at
dispatch and increments the counter it names by one (R77). -/
def Obligations.WaitCountWaits : Prop :=
  (∀ (c : CoreIx) (w : Word) (o : Obs) (s : State), s.ready c w false false → bits w 0 16 = 0 → bits w 48 8 < 64 →
    let u := s.taken c o
    let k := c * 64 + bits w 48 8
    let v := s.getF F.seqCount_value k
    (v < bits w 16 32 → ∃ t, exec (.waitCount c w o) s = .next t ∧ (t.core c).held = some w ∧ u.coreOnly t c []) ∧
    (bits w 16 32 ≤ v → bits w 16 32 ≠ 0 → ∃ t, exec (.waitCount c w o) s = .next t ∧ s.movedOn t c 1 ∧ u.coreOnly t c [.seqPc]) ∧
    (bits w 16 32 = 0 → ∃ t, exec (.waitCount c w o) s = .next t ∧ s.movedOn t c 1 ∧ t.getF F.seqCount_value k = min (v + 1) (2 ^ 32 - 1) ∧
      (∀ n, n ≠ k → t.getF F.seqCount_value n = s.getF F.seqCount_value n) ∧ s.sameMemory t ∧ t.net = s.net ∧ t.ctl = s.ctl)) ∧
  (∀ (c : CoreIx) (w w1 w2 w3 w4 h : Word) (o : Obs) (s : State), s.getF F.seqStatus_state c = stRunning → (s.core c).held = some h → h ≠ w →
     ∀ i ∈ [Instr.nop c w o, .waitCount c w o, .setr c w o, .barrierStep c w o, .endProgram c w o, .loadTile c w o, .stream c w w1 o,
         .vecAdd c w w1 o, .sparseTile c w w1 o, .dramRead c w w1 w2 w3 w4 o, .gather c w w1 w2 o, .mirror c w o],
       exec i s = .next s)
/-- SETR waits until every earlier instruction has completed, whatever its sync bit; it then writes bits 31 to 0 of a schedule-writable
register and changes no other register but SEQ.PC, and faults with reason 5 on any other. SEQ.TENSOR_ID is schedule-writable, and no
register of the sequencer besides (R92). -/
def Obligations.SetrWritesScheduleRegisters : Prop :=
  (∀ (c : CoreIx) (w : Word) (o : Obs) (s : State), s.getF F.seqStatus_state c = stRunning → ((s.core c).held = none ∨ (s.core c).held = some w) →
    s.drained c = false →
    ∃ t, exec (.setr c w o) s = .next t ∧ s.coreOnly t c [.seqFetchStall] ∧ t.core c = { s.core c with held := some w }) ∧
  (∀ (c : CoreIx) (w : Word) (o : Obs) (s : State), s.ready c w false true → bits w 32 11 = 0 →
    (∀ r, schedReg (8 * bits w 43 13) = some r → ∃ t, exec (.setr c w o) s = .next t ∧
      t.reg r c = BitVec.ofNat 64 (bits w 0 32 &&& r.mask) ∧ s.movedOn t c 1 ∧ (s.taken c o).coreOnly t c [.seqPc, r]) ∧
    (schedReg (8 * bits w 43 13) = none → ∃ t, exec (.setr c w o) s = .next t ∧ s.faultedWith t c 5)) ∧
  (∀ off < 0x1000, schedReg off = if off = 0x40 then some .seqTensorId else none)
/-- PROOF closes the epoch with its verdict, moves to the next epoch and counts where it names a counter; the automatic close does the same
and counts only itself. FORECAST announces its level and tells the power tile of its die; the level matures later, oldest first (R83, R335,
R88, R456). The model's choices it rests on: log 10. -/
def Obligations.EpochsAndForecasts : Prop :=
  (∀ (c : CoreIx) (w : Word) (o : Obs) (s : State),
     (s.ready c w false false → bits w 0 47 = 0 → bits w 48 8 < 64 → (bit w 47 = false → bits w 48 8 = 0) →
       ∃ t, exec (.proof c w o) s = .next t ∧ s.movedOn t c 1 ∧
         t.getF F.seqUstep_epoch c = (s.getF F.seqUstep_epoch c + 1) % 2 ^ 16 ∧
         t.getF F.seqUstep_number c = s.getF F.seqUstep_number c ∧
         (t.core c).verdicts = (s.core c).verdicts ++ [(s.getF F.seqUstep_epoch c, (s.core c).epochFail.isNone)] ∧
         (t.core c).epochFail = none ∧
         (bit w 47 = true → t.getF F.seqCount_value (c * 64 + bits w 48 8) =
           min (s.getF F.seqCount_value (c * 64 + bits w 48 8) + 1) (2 ^ 32 - 1)) ∧
         (∀ n, (bit w 47 = true → n ≠ c * 64 + bits w 48 8) → t.getF F.seqCount_value n = s.getF F.seqCount_value n) ∧
         s.sameMemory t) ∧
     (∃ t, exec (.epochAutoClose c) s = .next t ∧ t.getF F.seqUstep_epoch c = (s.getF F.seqUstep_epoch c + 1) % 2 ^ 16 ∧
       (t.core c).verdicts = (s.core c).verdicts ++ [(s.getF F.seqUstep_epoch c, (s.core c).epochFail.isNone)] ∧
       t.getF F.intEpoch_auto_closes c = min (s.getF F.intEpoch_auto_closes c + 1) (2 ^ 16 - 1) ∧
       s.coreOnly t c [.seqUstep, .intDigest, .intEpoch])) ∧
  (∀ (c : CoreIx) (w : Word) (o : Obs) (s : State),
     (s.ready c w false false → bits w 0 48 = 0 → bits w 55 1 = 0 → bits w 48 7 ≤ 64 →
       ∃ t, exec (.forecast c w o) s = .next t ∧ s.movedOn t c 1 ∧ t.getF F.seqForecast_pending c = bits w 48 7 ∧
         t.getF F.seqForecast_matured c = s.getF F.seqForecast_matured c ∧
         (t.core c).forecasts = (s.core c).forecasts ++ [bits w 48 7] ∧
         t.ctl = (s.send (.forecastNote (bits w 48 7)) ((s.ownerOf c).getD 255) (0x1100 + 8 * (c.val / 512) + c.val % 64 / 8) c).ctl ∧
         t.net = s.net ∧ s.sameMemory t) ∧
     (∀ l ls, (s.core c).forecasts = l :: ls → l ≤ 64 → ∃ t, exec (.forecastMatures c) s = .next t ∧
       t.getF F.seqForecast_matured c = l ∧ (t.core c).forecasts = ls ∧
       (ls ≠ [] → t.getF F.seqForecast_pending c = s.getF F.seqForecast_pending c) ∧ s.coreOnly t c [.seqForecast]))
/-- A core at a barrier stops dispatch and sends its arrival; at a STEP barrier it closes its epoch and measures the micro-step first (R93,
R94, R100). The model's choices it rests on: log 39. -/
def Obligations.BarriersArrive : Prop :=
  ∀ (c : CoreIx) (w : Word) (o : Obs) (s : State),
    (s.ready c w false false → bits w 0 46 = 0 →
      ∃ t, exec (.barrierGroup c w o) s = .next t ∧ t.getF F.seqStatus_state c = stWaiting ∧
        t.ctl = (s.send (.barArrive 0 1 false false (bits w 46 8) none) ((s.ownerOf c).getD 255) stewardNode c).ctl ∧
        t.getF F.seqUstep_number c = s.getF F.seqUstep_number c ∧ (∀ n, t.getF F.seqCount_value n = s.getF F.seqCount_value n) ∧
        s.sameMemory t) ∧
    (s.ready c w false true → bits w 0 30 = 0 → bits w 46 8 = 0 → (s.core c).tags = [] →
      let v := (s.taken c o).overrunCheck c
      ∃ t, exec (.barrierStep c w o) s = .next t ∧ t.getF F.seqStatus_state c = stWaiting ∧
        t.getF F.seqUstep_epoch c = (s.getF F.seqUstep_epoch c + 1) % 2 ^ 16 ∧
        t.getF F.seqUstepTime_longest c =
          max (s.getF F.seqUstepTime_longest c) (min ((s.now - (s.core c).releasedAt) / 100) (2 ^ 20 - 1)) ∧
        t.ctl = (v.send (.barArrive (bits w 30 16) 1 false true 0 (s.core c).mark) ((s.ownerOf c).getD 255) stewardNode c).ctl ∧
        s.sameMemory t)
/-- An instruction fault stops the sequencer before the instruction acts: SEQ.FAULT takes reason and pc where it is clear, the core is STOPPED
and its pc stays (R107). Here the faults of the control instructions. A reserved opcode or a set bit 56 is reason 1 for every instruction
row (R107); here one row of each unit. -/
def Obligations.InstructionFaultsStop : Prop :=
  (∀ (c : CoreIx) (w : Word) (o : Obs) (s : State),
     (s.ready c w false false → bits w 0 56 ≠ 0 → ∃ t, exec (.nop c w o) s = .next t ∧ s.faultedWith t c 1) ∧
     (s.ready c w false false → bits w 0 16 = 0 → 64 ≤ bits w 48 8 → ∃ t, exec (.waitCount c w o) s = .next t ∧ s.faultedWith t c 2) ∧
     (s.ready c w false true → bits w 32 11 = 0 → schedReg (8 * bits w 43 13) = none →
       ∃ t, exec (.setr c w o) s = .next t ∧ s.faultedWith t c 5) ∧
     (s.ready c w false false → bits w 0 56 = 0 → (s.core c).afterStep = false →
       ∃ t, exec (.endProgram c w o) s = .next t ∧ s.faultedWith t c 6) ∧
     (s.ready c w false true → bits w 0 30 = 0 → bits w 46 8 ≠ 0 → ∃ t, exec (.barrierStep c w o) s = .next t ∧ s.faultedWith t c 7) ∧
     (∀ n, 3 ≤ n → ∃ t, exec (.programFetchResponse c n 0) s = .next t ∧ s.faultedWith t c 8)) ∧
  (∀ (c : CoreIx) (w w1 w2 w3 w4 : Word) (o : Obs) (s : State), s.getF F.seqStatus_state c = stRunning →
     ((s.core c).held = none ∨ (s.core c).held = some w) → s.drained c = true → s.spadActive c = false → (badBit56 w = true ∨ reservedOp w = true) →
     ∀ i ∈ [Instr.nop c w o, .setr c w o, .loadTile c w o, .stream c w w1 o, .vecAdd c w w1 o, .sparseTile c w w1 o,
         .dramRead c w w1 w2 w3 w4 o, .gather c w w1 w2 o, .mirror c w o],
       ∃ t, exec i s = .next t ∧ s.faultedWith t c 1)
/-- Every element-wise VEC takes each vector's operands as they stand when the instruction begins (where no source range meets the result),
forms the exact value, rounds it once into the output format, and sets the sticky flags it meets (R84, R128, R135 to R138, R141, R150). Rows
outside the result and registers but SEQ.PC and FMT.FLAGS keep what the step's observations left. The model's choices it rests on: log 11.
-/
def Obligations.VectorElementResults : Prop :=
  ∀ (c : CoreIx) (w0 w1 : Word) (o : Obs) (s : State) (fi fo : Fmt), ∀ op ∈ elemOps, s.ready c w0 true false →
    let f := VecF.of w0 w1
    let u := (s.taken c o).observe c o
    f.plain → vecFmt f.ifc = some fi → vecFmt f.ofc = some fo → f.n ≠ 0 →
    rowsOk f.a (f.n * fi.pitch) = true → (2 ≤ op.2.1 → rowsOk f.b (f.n * fi.pitch) = true) →
    (3 ≤ op.2.1 → rowsOk f.cc (f.n * fi.pitch) = true) → rowsOk f.dst (f.n * fo.pitch) = true →
    ∃ t, exec (op.1 c w0 w1 o) s = .next t ∧ u.movedOn t c 2 ∧ u.engineOnly t c [.seqPc, .fmtFlags] ∧
      u.rowsBut t c f.dst (f.n * fo.pitch) ∧
      ((f.n = 1 ∨ (rowsApart f.a (f.n * fi.pitch) f.dst (f.n * fo.pitch) ∧
          (2 ≤ op.2.1 → rowsApart f.b (f.n * fi.pitch) f.dst (f.n * fo.pitch)) ∧
          (3 ≤ op.2.1 → rowsApart f.cc (f.n * fi.pitch) f.dst (f.n * fo.pitch)))) →
        (∀ v < f.n, t.vecCodes c f.dst fo v = (rangeFrom 0 64).map (fun i => (u.elemOut c f fi fo op.2.1 op.2.2 v i).1 % 2 ^ fo.width) ∧
          t.vecPoison c f.dst fo v = (u.vecPoison c f.a fi v || (decide (2 ≤ op.2.1) && u.vecPoison c f.b fi v)
            || (decide (3 ≤ op.2.1) && u.vecPoison c f.cc fi v))) ∧
        ∀ k < 5, bit (t.reg .fmtFlags c) k = (bit (u.reg .fmtFlags c) k || (rangeFrom 0 f.n).any (fun v => (rangeFrom 0 64).any (fun i =>
          (u.elemOut c f fi fo op.2.1 op.2.2 v i).2.getLsbD k))))
/-- A VEC of no vectors completes at once and only moves on. RANGE writes nothing: it fails the open epoch on a failing vector and leaves it
otherwise (R77, R336). -/
def Obligations.EmptyVectorsAndRangeCheck : Prop :=
  (∀ (c : CoreIx) (w0 w1 : Word) (o : Obs) (s : State), s.ready c w0 true false → (VecF.of w0 w1).plain → (VecF.of w0 w1).n = 0 →
     ((vecFmt (VecF.of w0 w1).ifc).isSome = true → (vecFmt (VecF.of w0 w1).ofc).isSome = true →
       ∀ i ∈ [Instr.vecAdd c w0 w1 o, .vecSub c w0 w1 o, .vecMul c w0 w1 o, .vecFma c w0 w1 o, .vecMax c w0 w1 o, .vecMin c w0 w1 o,
           .vecCmpEq c w0 w1 o, .vecCmpLt c w0 w1 o, .vecCmpLe c w0 w1 o, .vecExp c w0 w1 o, .vecRecip c w0 w1 o, .vecRsqrt c w0 w1 o,
           .vecCvt c w0 w1 o, .vecRsum c w0 w1 o, .vecRmax c w0 w1 o], ∃ t, exec i s = .next t ∧ s.movedOn t c 2 ∧ (s.taken c o).coreOnly t c [.seqPc]) ∧
     ((VecF.of w0 w1).ifc ≤ 3 → (VecF.of w0 w1).ofc = 12 → ∃ t, exec (.vecBexp c w0 w1 o) s = .next t ∧ s.movedOn t c 2 ∧ (s.taken c o).coreOnly t c [.seqPc]) ∧
     ((VecF.of w0 w1).ifc ≤ 3 → (VecF.of w0 w1).ofc = 13 → ∃ t, exec (.vecQgrid c w0 w1 o) s = .next t ∧ s.movedOn t c 2 ∧ (s.taken c o).coreOnly t c [.seqPc])) ∧
  (∀ (c : CoreIx) (w0 w1 : Word) (o : Obs) (s : State) (fi fo : Fmt), s.ready c w0 true false →
     let f := VecF.of w0 w1
     let u := (s.taken c o).observe c o
     f.plain → vecFmt f.ifc = some fi → vecFmt f.ofc = some fo → f.n ≠ 0 →
     rowsOk f.a (f.n * fi.pitch) = true → rowsOk f.b 1 = true →
     let fails := (rangeFrom 0 f.n).any fun v => rangeFails (u.row c f.b) ((u.vecCodes c f.a fi v).map (decode fi))
     ∃ t, exec (.vecRange c w0 w1 o) s = .next t ∧ u.movedOn t c 2 ∧ u.sameMemory t ∧
       (fails = false → u.coreOnly t c [.seqPc]) ∧
       (fails = true → t.getF F.intEpoch_range c = 1))
/-- RSUM writes the exact sum of each vector's 64 lanes, rounded once, and RMAX their maximum; results are packed 64 to an operand of ofmt
and the last is padded with zero. CVT rounds each element of its source into the output format; a GR32 source is read against its block
byte, and with scl 1 each element is divided by its block's MX scale first. BEXP writes the largest exponent of each 32-element block and
MXSCALE its MX scale, one byte a block, two blocks a vector; QGRID writes each element on its block's grid (R137, R141, R525, R112, R123,
R127, R124, R125). The model's choices it rests on: logs 11, 36, 38. -/
def Obligations.VectorReductionsAndConversions : Prop :=
  ((∀ (c : CoreIx) (w0 w1 : Word) (o : Obs) (s : State) (fi fo : Fmt) (sum : Bool), s.ready c w0 true false →
      let f := VecF.of w0 w1
      let u := (s.taken c o).observe c o
      f.plain → vecFmt f.ifc = some fi → vecFmt f.ofc = some fo → f.n ≠ 0 →
      rowsOk f.a (f.n * fi.pitch) = true → rowsOk f.dst (cdiv f.n 64 * fo.pitch) = true →
      ∃ t, exec (if sum then .vecRsum c w0 w1 o else .vecRmax c w0 w1 o) s = .next t ∧ u.movedOn t c 2 ∧
        u.engineOnly t c [.seqPc, .fmtFlags] ∧ u.rowsBut t c f.dst (cdiv f.n 64 * fo.pitch) ∧
        ∀ j < cdiv f.n 64 * 64,
          let xs := (u.vecCodes c f.a fi j).map (decode fi)
          let x := if sum then (xs.tail.foldl (fun a y => (vadd a y).1) (xs.headD .nan)) else xs.tail.foldl vmax (xs.headD .nan)
          (t.vecCodes c f.dst fo (j / 64)).getD (j % 64) 0 =
            if j < f.n then (encode fo f.ctx (u.srOut c j 0) none x).1 % 2 ^ fo.width else 0) ∧
   (∀ (c : CoreIx) (w0 w1 : Word) (o : Obs) (s : State) (fi fo : Fmt), s.ready c w0 true false →
      let f := VecF.of w0 w1
      let u := (s.taken c o).observe c o
      f.resv = 0 → f.rndOk = true → f.n ≠ 0 →
      (f.scl = 0 ∧ Fmt.ofCode f.ifc = some fi ∧ vecFmt f.ofc = some fo ∨
        f.scl = 1 ∧ f.ifc ≤ 3 ∧ Fmt.ofCode f.ifc = some fi ∧ 4 ≤ f.ofc ∧ f.ofc ≤ 9 ∧ Fmt.ofCode f.ofc = some fo) →
      rowsOk f.a (f.n * fi.pitch) = true → rowsOk f.dst (f.n * fo.pitch) = true →
      (fi ≠ .gr32 ∧ f.scl = 0 ∨ rowsOk f.b (cdiv (2 * f.n) 64) = true) →
      ∃ t, exec (.vecCvt c w0 w1 o) s = .next t ∧ u.movedOn t c 2 ∧ u.engineOnly t c [.seqPc, .fmtFlags] ∧
        u.rowsBut t c f.dst (f.n * fo.pitch) ∧
        ((f.n = 1 ∨ rowsApart f.a (f.n * fi.pitch) f.dst (f.n * fo.pitch) ∧
            (fi ≠ .gr32 ∧ f.scl = 0 ∨ rowsApart f.b (cdiv (2 * f.n) 64) f.dst (f.n * fo.pitch))) →
          ∀ v < f.n,
            let x := fun i : Nat => u.cvtIn c f fi v i ((u.vecCodes c f.a fi v).getD i 0)
            let y := fun i : Nat => if f.scl = 1 then mxQuot fo (u.byteAt c f.b (2 * v + i / 32)) (x i) else x i
            t.vecCodes c f.dst fo v =
              (rangeFrom 0 64).map (fun i => (encode fo f.ctx (u.srOut c v i) (y i).lsb (y i)).1 % 2 ^ fo.width)))) ∧
  (∀ (c : CoreIx) (w0 w1 : Word) (o : Obs) (s : State) (fi : Fmt), s.ready c w0 true false →
     let f := VecF.of w0 w1
     let u := (s.taken c o).observe c o
     f.plain → f.ifc ≤ 3 → Fmt.ofCode f.ifc = some fi → f.n ≠ 0 → rowsOk f.a (f.n * fi.pitch) = true →
     (f.ofc = 12 → rowsOk f.dst (cdiv (2 * f.n) 64) = true →
       ∃ t, exec (.vecBexp c w0 w1 o) s = .next t ∧ u.movedOn t c 2 ∧ u.engineOnly t c [.seqPc] ∧
         u.rowsBut t c f.dst (cdiv (2 * f.n) 64) ∧
         ∀ j < 2 * f.n, t.byteAt c f.dst j = bexp (u.blockVals c f fi (j / 2) (j % 2)) % 256) ∧
     (f.ofc = 12 → rowsOk f.dst (cdiv (2 * f.n) 64) = true → rowsOk f.b 1 = true →
       ∃ t, exec (.vecMxscale c w0 w1 o) s = .next t ∧ u.movedOn t c 2 ∧ u.engineOnly t c [.seqPc, .fmtFlags] ∧
         u.rowsBut t c f.dst (cdiv (2 * f.n) 64) ∧
         ∀ j < 2 * f.n, t.byteAt c f.dst j = match mxMax (bits (u.row c f.b) 0 4) with
           | some m => mxScale m (bexp (u.blockVals c f fi (j / 2) (j % 2))) % 256
           | none => 255) ∧
     (f.ofc = 13 → rowsOk f.dst (4 * f.n) = true → rowsOk f.b (cdiv (2 * f.n) 64) = true →
       ∃ t, exec (.vecQgrid c w0 w1 o) s = .next t ∧ u.movedOn t c 2 ∧ u.engineOnly t c [.seqPc, .fmtFlags] ∧
         u.rowsBut t c f.dst (4 * f.n) ∧
         ((f.n = 1 ∨ rowsApart f.a (f.n * fi.pitch) f.dst (4 * f.n) ∧ rowsApart f.b (cdiv (2 * f.n) 64) f.dst (4 * f.n)) →
           ∀ v < f.n, t.vecCodes c f.dst .gr32 v = (rangeFrom 0 64).map (fun i =>
             (qgrid (u.byteAt c f.b (2 * v + i / 32)) (decode fi ((u.vecCodes c f.a fi v).getD i 0))).1 % 2 ^ 32))))
/-- LOAD_TILE places the tile: the weight codes of rows 0 to k_m1, +0 beyond n_m1, the scale data, the poison of every row read;
ARR.STATUS shows it (R157 to R159). -/
def Obligations.LoadTilePlacesTheTile : Prop :=
  ∀ (c : CoreIx) (w : Word) (o : Obs) (s : State) (f : Fmt), s.ready c w true false →
    let src := bits w 38 18; let scale := bits w 32 2; let sc := bits w 14 18; let km1 := bits w 8 6; let nm1 := bits w 2 6
    let scRows := if scale = 0 then 0 else if scale = 2 ∧ 31 < km1 then 2 else 1
    let u := ((s.taken c o).dropTile c).observe c o
    bits w 34 4 ≤ 10 → Fmt.ofCode (bits w 34 4) = some f → bits w 0 2 = 0 → (scale = 0 → sc = 0) →
    (scale = 0 ∨ scale = 1 ∧ f.narrow = true ∨ scale = 2 ∧ (f.narrow = true ∨ f = .int8)) →
    rowsOk src (tileRows f (km1 + 1)) = true → rowsOk sc scRows = true →
    ∃ t tl, exec (.loadTile c w o) s = .next t ∧ (t.core c).tile = some tl ∧ tl.fmt = f ∧ tl.scale = scale ∧ tl.km1 = km1 ∧
      tl.nm1 = nm1 ∧ tl.more = [] ∧
      (∀ k ≤ km1, ∀ n < 64, tl.w.getD (64 * k + n) 0 =
        if nm1 < n then 0 else elem (u.rows c src (tileRows f (km1 + 1))) f.width (64 * k + n)) ∧
      (scale = 1 → tl.sw = bits (u.row c sc) 0 32) ∧
      (scale = 2 → ∀ b n, n < 64 → 64 * b + n < 64 * scRows → tl.blk.getD (64 * b + n) 0 = u.byteAt c sc (64 * b + n)) ∧
      tl.poison = (u.rowsPoison c src (tileRows f (km1 + 1)) || u.rowsPoison c sc scRows) ∧
      t.getF F.arrStatus_tile_valid c = 1 ∧ t.getF F.arrStatus_tile_poison c = (if tl.poison then 1 else 0) ∧
      t.getF F.arrStatus_fmt c = bits w 34 4 ∧ t.getF F.arrStatus_scale c = scale ∧ t.getF F.arrStatus_k_m1 c = km1 ∧
      t.getF F.arrStatus_n_m1 c = nm1 ∧ u.movedOn t c 1 ∧ u.coreOnly t c [.seqPc, .arrStatus]
/-- A plain write-out STREAM with no fault injected writes, for each output row and column, the rounded accumulator of that row's
inputs against the tile's column, and +0 beyond n_m1 (R161 to R163); nothing else in memory changes, and the tile stays. It logs the
collisions of its own accesses (R167). -/
def Obligations.StreamOutputs : Prop :=
  ∀ (c : CoreIx) (w0 w1 : Word) (o : Obs) (s : State) (xf fo : Fmt) (rnd : Rnd) (tl : Tile) (cls : Cls), s.ready c w0 true false →
    let src := bits w0 38 18; let dst := bits w0 20 18; let n := bits w1 0 32
    let x : StreamCtx := ⟨cls, tl, tl.fmt, xf, tl.w.map (arrVal tl.fmt), tl.more.map (fun e => (e.1, arrVal tl.fmt e.2))⟩
    let f : StreamF := ⟨src, dst, xf, fo, ⟨rnd, bit w0 9, bit w0 8⟩, false, 0, n, bits w1 32 8 + 1⟩
    let u := (s.taken c o).observe c (f.meets (s.convOf c) (rate2 tl.fmt xf) o)
    bits w0 16 4 ≤ 10 → Fmt.ofCode (bits w0 16 4) = some xf → outFmt (bits w0 12 4) = some fo → Rnd.ofCode (bits w0 10 2) = some rnd →
    bits w0 0 5 = 0 → bits w1 40 24 = 0 → bits w0 5 2 = 0 → bit w0 7 = false → s.getF F.arrInScale_mode c = 0 → n ≠ 0 →
    (s.core c).tile = some tl → pairClass tl.fmt xf tl.scale 0 = some cls → o.faults = [] →
    rowsOk src (n * xf.pitch) = true → rowsOk dst (n * fo.pitch) = true → rowsApart src (n * xf.pitch) dst (n * fo.pitch) →
    ∃ t, exec (.stream c w0 w1 o) s = .next t ∧ u.movedOn t c 2 ∧ (t.core c).tile = some tl ∧
      u.rowsBut t c dst (n * fo.pitch) ∧ t.dram = u.dram ∧ t.blk = u.blk ∧
      ∀ v < n,
        let xs := (rangeFrom 0 (tl.km1 + 1)).map (fun k => arrVal xf (elem (u.rows c (src + v * xf.pitch) xf.pitch) xf.width k))
        t.vecCodes c dst fo v = (rangeFrom 0 64).map (fun k =>
          if tl.nm1 < k then 0
          else (x.store f (u.srOut c v k) k (x.column xs (0x7F, 0x7F) (.fin false 0 0) k).1 0).1 % 2 ^ fo.width) ∧
        t.vecPoison c dst fo v = (u.vecPoison c src xf v || tl.poison)
/-- An INT8 tile, which LOAD_TILE gives one weight a position, and INT8 inputs give the exact matrix product, clamped to INT32, for every
input row and column of the tile (R144, R154, R161, R162). -/
def Obligations.IntegerStreamIsTheProduct : Prop :=
  ∀ (c : CoreIx) (w0 w1 : Word) (o : Obs) (s : State) (tl : Tile), s.ready c w0 true false →
    let src := bits w0 38 18; let dst := bits w0 20 18; let n := bits w1 0 32
    let f : StreamF := ⟨src, dst, .int8, .int32, ⟨.rn, bit w0 9, bit w0 8⟩, false, 0, n, bits w1 32 8 + 1⟩
    let u := (s.taken c o).observe c (f.meets (s.convOf c) (rate2 .int8 .int8) o)
    bits w0 16 4 = 9 → bits w0 12 4 = 11 → bits w0 10 2 = 0 → bits w0 0 5 = 0 → bits w1 40 24 = 0 → bits w0 5 2 = 0 →
    bit w0 7 = false → s.getF F.arrInScale_mode c = 0 → n ≠ 0 → (s.core c).tile = some tl → tl.fmt = .int8 → tl.scale = 0 → tl.more = [] →
    o.faults = [] → rowsOk src n = true → rowsOk dst (n * 4) = true → rowsApart src n dst (n * 4) →
    ∃ t, exec (.stream c w0 w1 o) s = .next t ∧
      ∀ v < n, ∀ j ≤ tl.nm1, j < 64 → (t.vecCodes c dst .int32 v).getD j 0 =
        ofInt 32 (max (-2 ^ 31) (min (2 ^ 31 - 1) (((rangeFrom 0 (tl.km1 + 1)).map (fun k =>
          sext 8 (elem (u.row c (src + v)).toNat 8 k) * sext 8 (tl.w.getD (64 * k + j) 0))).sum)))
/-- A STREAM with no tile loaded writes poisoned zero rows, raises ARRAY_NO_TILE and goes on; one with no rows only moves on. A SPARSE_TILE
whose header is poisoned or breaks its layout writes poisoned zero rows and counts the header (R77, R165, R190). -/
def Obligations.StreamsThatPlaceNothing : Prop :=
  (∀ (c : CoreIx) (w0 w1 : Word) (o : Obs) (s : State) (xf fo : Fmt) (rnd : Rnd), s.ready c w0 true false →
     let src := bits w0 38 18; let dst := bits w0 20 18; let n := bits w1 0 32
     let u := (s.taken c o).observe c o
     bits w0 16 4 ≤ 10 → Fmt.ofCode (bits w0 16 4) = some xf → outFmt (bits w0 12 4) = some fo → Rnd.ofCode (bits w0 10 2) = some rnd →
     bits w0 0 5 = 0 → bits w1 40 24 = 0 → bits w0 5 2 = 0 → bit w0 7 = false → s.getF F.arrInScale_mode c = 0 →
     (s.core c).tile = none → rowsOk src (n * xf.pitch) = true → rowsOk dst (n * fo.pitch) = true →
     ∃ t, exec (.stream c w0 w1 o) s = .next t ∧
       (n = 0 → s.movedOn t c 2 ∧ (s.taken c o).coreOnly t c [.seqPc]) ∧
       (n ≠ 0 → u.movedOn t c 2 ∧ u.rowsBut t c dst (n * fo.pitch) ∧
         ∀ r < n * fo.pitch, t.row c (dst + r) = 0 ∧ t.rowPoison c (dst + r) = true)) ∧
  (∀ (c : CoreIx) (w0 w1 : Word) (o : Obs) (s : State) (fo : Fmt), s.ready c w0 true false →
     let tile := bits w0 38 18; let dst := bits w0 2 18; let n := bits w1 0 32
     let h := Header.of (s.row c tile)
     let u := (s.taken c o).observe c o
     outFmt (bits w1 32 4) = some fo → bits w1 36 2 ≠ 3 → bits w0 0 2 = 0 → bits w1 42 22 = 0 → bits w1 38 2 ≠ 3 →
     rowsOk tile 1 = true → n ≠ 0 → h.valid = none → ¬ (h.magic = 0x5354 ∧ h.layout = 2) →
     ∃ t, exec (.sparseTile c w0 w1 o) s = .next t ∧ u.movedOn t c 2 ∧
       t.getF F.speMalformed_headers c = min (u.getF F.speMalformed_headers c + 1) (2 ^ 16 - 1) ∧
       (∀ r, r < n * fo.pitch → dst + r < spadRows → t.row c (dst + r) = 0 ∧ t.rowPoison c (dst + r) = true) ∧
       u.rowsBut t c dst (n * fo.pitch))
/-- A SPARSE_TILE with a valid header runs sparse or dense by its mode field and SPE.THRESHOLD, shows the run in SPE.STATUS and SPE.RUNS,
writes only its output rows, and a dense run leaves the array without a tile (R186, R190, R193, R208). The model's choices it rests on: log
8. -/
def Obligations.SparseTileRuns : Prop :=
  ∀ (c : CoreIx) (w0 w1 : Word) (o : Obs) (s : State) (wf xf fo : Fmt) (rnd : Rnd) (cls : Cls), s.ready c w0 true false →
    let tile := bits w0 38 18; let src := bits w0 20 18; let dst := bits w0 2 18; let n := bits w1 0 32; let mode := bits w1 38 2
    let h := Header.of (s.row c tile)
    let sparse : Bool := decide (mode = 1 ∨ mode = 0 ∧ h.nnz * 65536 < s.getF F.speThreshold_density c * ((h.km1 + 1) * (h.nm1 + 1)))
    let f : StreamF := ⟨src, dst, xf, fo, ⟨rnd, bit w1 40, bit w1 41⟩, false, 0, n, 256⟩
    let u := (s.taken c o).observe c (if sparse then o else f.meets (s.convOf c) (rate2 wf xf) o)
    outFmt (bits w1 32 4) = some fo → Rnd.ofCode (bits w1 36 2) = some rnd → bits w0 0 2 = 0 → bits w1 42 22 = 0 → mode ≠ 3 →
    rowsOk tile 1 = true → n ≠ 0 → h.valid = some (wf, xf, cls) → h.layout ≠ 2 → s.rowPoison c tile = false →
    rowsOk tile h.rc = true → rowsOk src (n * xf.pitch) = true → rowsOk dst (n * fo.pitch) = true →
    (¬ sparse → s.getF F.arrInScale_mode c < 2 ∧ (pairClass wf xf h.scale (s.getF F.arrInScale_mode c)).isSome = true) →
    ∃ t, exec (.sparseTile c w0 w1 o) s = .next t ∧ u.movedOn t c 2 ∧ u.rowsBut t c dst (n * fo.pitch) ∧ t.dram = u.dram ∧
      (sparse → t.getF F.speStatus_sparse c = 1 ∧ t.getF F.speRuns_sparse c = min (u.getF F.speRuns_sparse c + 1) (2 ^ 32 - 1) ∧
        t.getF F.speRuns_dense c = u.getF F.speRuns_dense c ∧ (t.core c).tile = (s.core c).tile) ∧
      (¬ sparse → t.getF F.speStatus_sparse c = 0 ∧ t.getF F.speRuns_dense c = min (u.getF F.speRuns_dense c + 1) (2 ^ 32 - 1) ∧
        t.getF F.speRuns_sparse c = u.getF F.speRuns_sparse c ∧ (t.core c).tile = none ∧ t.getF F.arrStatus_tile_valid c = 0)
/-- Every finite code of a floating format decodes to the value that rounds back to it, with no flag: rounding into a format is
exact on the format's own values (R113, R128). -/
def Obligations.FloatCodesRoundTrip : Prop :=
  ∀ f ∈ [Fmt.fp32, .bf16, .fp16, .e4m3, .e5m2, .e3m2, .e2m3, .e2m1], ∀ (code u : Nat) (ctx : RCtx) (lsb : Option Int) (neg : Bool) (m : Nat) (e : Int),
    code < 2 ^ f.width → ctx.ftz = false → decode f code = .fin neg m e → encode f ctx u lsb (.fin neg m e) = (code, 0#5)
/-- A DMA descriptor that R59 accepts goes in flight with the core's next sequence number; it moves no byte and sends no packet yet.
One of no bytes completes at once and counts (R57, R58, R63, R77). -/
def Obligations.DescriptorsIssue : Prop :=
  ∀ (c : CoreIx) (w0 w1 w2 w3 w4 : Word) (o : Obs) (s : State), s.ready c w0 false false → bits w0 0 56 = 0 →
    ∀ x ∈ [(Instr.dramRead c w0 w1 w2 w3 w4 o, w3, DKind.dramRead), (.dramWrite c w0 w1 w2 w3 w4 o, w3, .dramWrite),
        (.corePush c w0 w1 w2 w3 w4 o, w3, .corePush), (.reduceSendExponents c w0 w1 w2 w3 w4 o, setBits w3 31 1 1, .reduceSend),
        (.reduceSendValues c w0 w1 w2 w3 w4 o, setBits w3 31 1 0, .reduceSend), (.dramCopy c w0 w1 w2 w3 w4 o, w3, .dramCopy)],
      let d := DescF.of w1 w2 x.2.1 w4
      let u := (s.taken c o).observe c o
      u.descReason ((s.ownerOf c).getD 255) d x.2.2 = none → d.compress = false → (u.core c).suppress = none →
      ∃ t, exec x.1 s = .next t ∧ u.movedOn t c 5 ∧ u.sameMemory t ∧ t.net = u.net ∧
        (t.core c).nextSeq = ((u.core c).nextSeq + 1) % 65536 ∧
        (d.len ≠ 0 → (t.core c).descs = (u.core c).descs ++
            [{ d.desc x.2.2 with seq := (u.core c).nextSeq, epoch := u.getF F.seqUstep_epoch c }] ∧
          ∀ n, t.getF F.seqCount_value n = u.getF F.seqCount_value n) ∧
        (d.len = 0 → (t.core c).descs = (u.core c).descs ∧
          t.getF F.seqCount_value (c * 64 + d.ctr) = min (u.getF F.seqCount_value (c * 64 + d.ctr) + 1) (2 ^ 32 - 1))
/-- A rejected descriptor sends nothing: it poisons an inbound range, logs its reason and sequence number once, and its local counter, where
it exists, still counts. GATHER goes in flight with its index list; rows whose index word is poisoned are zero and poisoned (R86). MIRROR
with retention off or no buddy completes at dispatch and counts once; with a buddy it goes in flight (R59, R87). The model's choices it
rests on: log 40. -/
def Obligations.OtherDescriptors : Prop :=
  (∀ (c : CoreIx) (w0 w1 w2 w3 w4 : Word) (o : Obs) (s : State) (r : Nat), s.ready c w0 false false → bits w0 0 56 = 0 →
     ∀ x ∈ [(Instr.dramRead c w0 w1 w2 w3 w4 o, w3, DKind.dramRead), (.dramWrite c w0 w1 w2 w3 w4 o, w3, .dramWrite),
         (.corePush c w0 w1 w2 w3 w4 o, w3, .corePush), (.dramCopy c w0 w1 w2 w3 w4 o, w3, .dramCopy)],
       let d := DescF.of w1 w2 x.2.1 w4
       let u := (s.taken c o).observe c o
       u.descReason ((s.ownerOf c).getD 255) d x.2.2 = some r →
       ∃ t, exec x.1 s = .next t ∧ u.movedOn t c 5 ∧ t.net = u.net ∧ (t.core c).descs = (u.core c).descs ∧ t.spad = u.spad ∧
         t.dram = u.dram ∧
         (x.2.2 = .dramRead → ∀ k, d.loc / 64 ≤ k → k < d.loc / 64 + cdiv d.len 64 → k < spadRows → t.rowPoison c k = true) ∧
         (u.getF F.dmaDescError_valid c = 0 → t.getF F.dmaDescError_valid c = 1 ∧ t.getF F.dmaDescError_reason c = r ∧
           t.getF F.dmaDescError_seq c = (u.core c).nextSeq % 65536) ∧
         (d.ctr < 64 → t.getF F.seqCount_value (c * 64 + d.ctr) = min (u.getF F.seqCount_value (c * 64 + d.ctr) + 1) (2 ^ 32 - 1))) ∧
  (∀ (c : CoreIx) (w0 w1 w2 : Word) (o : Obs) (s : State), s.ready c w0 false false →
     let u := (s.taken c o).observe c o
     let p := (s.ownerOf c).getD 255
     (let list := bits w0 38 18; let dst := bits w0 20 18; let n := bits w1 0 17; let rl := bits w1 32 16
       n ≠ 0 → n ≤ 65536 → rl ≠ 0 → rowsOk list (cdiv n 16) = true → rowsOk dst (n * rl) = true →
       bits w0 0 12 + bits w1 17 15 + bits w1 48 16 + bits w2 48 16 = 0 → bits w0 12 8 < 64 → (u.core c).suppress = none →
       ∃ t d, exec (.gather c w0 w1 w2 o) s = .next t ∧ u.movedOn t c 3 ∧ t.net = u.net ∧ t.dram = u.dram ∧
         (t.core c).descs = (u.core c).descs ++ [d] ∧ d.kind = .gather ∧ d.len = 64 * n * rl ∧ d.remote = bits w2 0 48 ∧
         d.list = (rangeFrom 0 n).map (fun i => if u.rowPoison c (list + i / 16) then none else some (u.wordAt c list i)) ∧
         u.rowsBut t c dst (n * rl) ∧
         ∀ i < n, u.rowPoison c (list + i / 16) = true → ∀ k < rl, t.row c (dst + i * rl + k) = 0 ∧ t.rowPoison c (dst + i * rl + k) = true) ∧
     (let src := bits w0 38 18; let n := bits w0 20 18; let ctr := bits w0 12 8
       rowsOk src n = true → bits w0 0 12 = 0 → ctr < 64 →
       ∃ t, exec (.mirror c w0 o) s = .next t ∧ u.movedOn t c 1 ∧ t.net = u.net ∧ u.sameMemory t ∧
         (u.buddyOf p c = none ∨ n = 0 → (t.core c).descs = (u.core c).descs ∧
           t.getF F.seqCount_value (c * 64 + ctr) = min (u.getF F.seqCount_value (c * 64 + ctr) + 1) (2 ^ 32 - 1)) ∧
         (∀ b, u.buddyOf p c = some b → n ≠ 0 → (u.core c).suppress = none →
           ∃ d, (t.core c).descs = (u.core c).descs ++ [d] ∧ d.kind = .mirror ∧ d.len = 64 * n ∧ d.loc = 64 * src ∧ d.addr2 = b ∧
             d.ctr = some ctr ∧ d.remCtr = ctr)))
/-- A descriptor's next packet takes the lowest free tag and leaves for the node its address names, carrying source, tag, sequence number
and partition; with no tag free it waits. The last answer to a tag frees it, whatever the answer says; the last tag of the core's one open
descriptor completes it, and its local counter counts once. A RESEND request sends the tag's packet again with its resend count raised, to
at most 2, and keeps the tag; of a DRAM_COPY packet whose write data went in two parts, the part asked for. A tag held past its timeout is
released with its generation advanced modulo 16, counted and reported as lost (R62, R64, R282, R60, R63, R106, R292, R289). The model's
choices it rests on: log 91. -/
def Obligations.TagsComeAndGo : Prop :=
  (((∀ (c : CoreIx) (seq : BitVec 16) (cycles : Nat) (o : Obs) (s : State) (d : Desc) (x : Slice) (dst : Nat),
       let u := s.bumpF F.dmaTagStall_cycles c cycles
       let p := (s.ownerOf c).getD 255
       (s.core c).descs.find? (fun d => d.seq = seq.toNat) = some d → d.kind ≠ .gather → u.nextSlice p d = some x → u.routeOf p c d x = .inl dst →
       (∀ tag, freeTag (s.core c).tags = some tag → ∃ t k, exec (.packetIssue c seq ⟨cycles, o⟩) s = .next t ∧ t.net = s.net ++ [k] ∧
         k.src = c.val ∧ k.dst = dst ∧ k.part = p ∧ k.tag = tag ∧ k.gen = Tab.get (fun _ => 0) (s.core c).gens tag ∧ k.seq = d.seq ∧
         k.addr = x.addr ∧ k.len = x.len ∧ (t.core c).tags.map (·.num) = (s.core c).tags.map (·.num) ++ [tag] ∧
         (u.observeRows c o).sameMemory t) ∧
       (freeTag (s.core c).tags = none → exec (.packetIssue c seq ⟨cycles, o⟩) s = .next u)) ∧
    (∀ (c : CoreIx) (k : Pkt) (s : State) (tg : TagUse) (d : Desc) (n : Nat), (s.core c).state < 2 → some k.part = s.ownerOf c →
       s.tagOf c k = some tg → tg.acks ≤ 1 →
       (s.core c).descs = [d] → d.seq = tg.desc → d.sent = d.len → d.open_ = 1 → d.ctr = some n → n < 64 → d.again = false →
       ∀ i ∈ [Instr.fencedAcknowledgement c ⟨k, true⟩, .refusedAcknowledgement c ⟨k, true⟩] ++ (if k.poison = false then [Instr.acknowledgement c ⟨k, true⟩] else []),
         ∃ t, exec i s = .next t ∧ (t.core c).tags = (s.core c).tags.filter (fun u => u.num ≠ tg.num) ∧ (t.core c).descs = [] ∧
           t.net = dropPkt (s.seen k) s.net ∧ t.dram = s.dram ∧
           t.getF F.seqCount_value (c * 64 + n) = min (s.getF F.seqCount_value (c * 64 + n) + 1) (2 ^ 32 - 1) ∧
           (d.kind.inbound = false → s.sameMemory t))) ∧
   (∀ (n : NodeIx) (c : CoreIx) (k : Pkt) (s : State) (tg : TagUse), n.val = c.val → (s.core c).state < 2 → some k.part = s.ownerOf c →
      s.fab.copies = [] → s.tagOf c k = some tg →
      ∃ t, exec (.resendRequest n ⟨k, true⟩) s = .next t ∧
        (tg.pkt.kind ≠ .copyReq ∨ k.len = tg.pkt.len →
          t.net = dropPkt (s.seen k) s.net ++ [({ tg.pkt with resend := min 2 (tg.pkt.resend + 1) } : Pkt).sealed]) ∧
        (tg.pkt.kind = .copyReq → k.len ≠ tg.pkt.len →
          t.net = dropPkt (s.seen k) s.net ++ [({ tg.pkt with addr := tg.pkt.addr + (k.addr - tg.pkt.addr2), addr2 := k.addr, len := k.len
                                                              resend := min 2 (tg.pkt.resend + 1) } : Pkt).sealed]) ∧
        (t.core c).tags.map (·.num) = (s.core c).tags.map (·.num) ∧ (t.core c).descs = (s.core c).descs ∧ s.sameMemory t)) ∧
  (∀ (c : CoreIx) (tag : BitVec 8) (lost : Bool) (s : State) (tg : TagUse), (s.core c).tags.find? (fun t => t.num = tag.toNat) = some tg →
     ∃ t, exec (.tagTimeout c ⟨tag, lost⟩) s = .next t ∧ (t.core c).tags = (s.core c).tags.filter (fun u => u.num ≠ tag.toNat) ∧
       Tab.get (fun _ => 0) (t.core c).gens tag.toNat = (tg.pkt.gen + 1) % 16 ∧
       t.getF F.fabStat_lost 0 = min (s.getF F.fabStat_lost 0 + 1) (2 ^ F.fabStat_lost.len - 1) ∧
       t.net = (if lost then dropPkt tg.pkt s.net else s.net) ∧ t.dram = s.dram)
/-- Answer data lands at its place in the descriptor's scratchpad range, byte for byte, and frees its tag; no byte outside changes
but in the rows it touches (R45, R58, R63, R287). -/
def Obligations.AnswerDataLands : Prop :=
  ∀ (c : CoreIx) (k : Pkt) (o : Obs) (s : State) (tg : TagUse) (d : Desc) (stream : Bool),
    let v := (s.consume (s.seen k)).observe c o
    let a := d.loc + tg.off
    (s.core c).state < 2 → some k.part = s.ownerOf c → s.descOf c tg.desc = some d → a + k.len ≤ spadBytes → k.len ≠ 0 →
    (stream = false → s.tagOf c k = some tg) → (stream = true → s.wants c k = [tg]) →
    ∃ t, exec (if stream then .streamDelivery c k true 0 o else .readResponse c k true 0 o) s = .next t ∧
      t.span c a k.len = ofRows k.data % 2 ^ (8 * k.len) ∧ v.rowsBut t c (a / 64) (cdiv (a % 64 + k.len) 64) ∧
      (k.poison = true → ∀ r, a / 64 ≤ r → r < a / 64 + cdiv (a % 64 + k.len) 64 → t.rowPoison c r = true) ∧
      (∀ b, b < a % 64 → t.byteAt c (a / 64) b = v.byteAt c (a / 64) b) ∧
      (t.core c).tags = (s.core c).tags.filter (fun u => u.num ≠ tg.num) ∧ t.dram = s.dram
/-- A CORE_PUSH or MIRROR packet that a core takes lands in its scratchpad and is acknowledged; the last packet of its descriptor counts at
the remote counter. A fenced core answers FENCED and takes nothing. Agreed exponent bytes land one by one at the return row, and the pass 1
tag is freed (R63, R106, R291, R352, R247). The model's choices it rests on: log 48. -/
def Obligations.ReturnsLand : Prop :=
  (∀ (c : CoreIx) (k : Pkt) (ok : Bool) (o : Obs) (s : State) (mirror : Bool),
     let v := (s.consume (s.seen k)).observe c o
     let a := if mirror then 64 * s.mirrorRow k.part (1 - s.getF F.intMirror_committed_half c) + k.addr else k.addr
     let i := if mirror then Instr.mirrorData c k ok o else .corePushData c k ok 0 o
     (2 ≤ (s.core c).state → exec i s = .next ((s.consume k).inject (pktAnswer (s.seen k) .fenced c))) ∧
     ((s.core c).state < 2 → some k.part = s.ownerOf c → ok = true → (s.core c).suppress = none → a + k.len ≤ spadBytes → k.len ≠ 0 →
       k.total ≤ 1 → (s.core c).inbound = [] → k.remCtr < 64 →
       ∃ t, exec i s = .next t ∧ t.span c a k.len = ofRows k.data % 2 ^ (8 * k.len) ∧
         v.rowsBut t c (a / 64) (cdiv (a % 64 + k.len) 64) ∧ t.net = dropPkt (s.seen k) s.net ++ [(pktAnswer (s.seen k) .ack c).sealed] ∧ t.dram = s.dram ∧
         t.getF F.seqCount_value (c * 64 + k.remCtr) = min (s.getF F.seqCount_value (c * 64 + k.remCtr) + 1) (2 ^ 32 - 1) ∧
         (mirror = true → t.getF F.intMirror_pending c = 1))) ∧
  (∀ (c : CoreIx) (k : Pkt) (o : Obs) (s : State) (tg : TagUse), (s.core c).state < 2 → some k.part = s.ownerOf c → s.tagOf c k = some tg →
     k.addr + k.len ≤ spadBytes →
     ∃ t, exec (.agreedBytes c k true o) s = .next t ∧
       (∀ i < k.len, t.byteAt c 0 (k.addr + i) = elem (ofRows k.data) 8 i) ∧
       ((s.consume (s.seen k)).observe c o).rowsBut t c (k.addr / 64) (cdiv (k.addr % 64 + k.len) 64) ∧
       (t.core c).tags = (s.core c).tags.filter (fun u => u.num ≠ tg.num) ∧ t.dram = s.dram)
/-- A read request that the site accepts draws one response of its bytes, its block's poison added, and provisional where what it reads is; the
request leaves the fabric and no memory changes (R58, R212, R218, R339). A DRAM_COPY's read sends its bytes on as write data to the
destination's site. An accepted write changes the bytes it names and no other, takes away the block's held check, carries its poison, and is
acknowledged; a write to a block still to be copied that finds the copy buffer full is counted. A gather request draws a response for each
tag it holds, which pack its rows in list order (R214, R216, R218, R237, R234). The model's choices it rests on: logs 13, 42, 91, 99, 100. -/
def Obligations.ReadsAndWrites : Prop :=
  ((∀ (m : SiteIx) (k : Pkt) (misreads : Nat) (s : State) (x : Place), s.refusal m k.part k.addr false = none →
      s.place k.part k.addr = some x → k.bchk = false →
      (k.kind = .readReq → ∃ t r, exec (.readRequest m k true misreads) s = .next t ∧ t.net = dropPkt (s.seen k) s.net ++ [r] ∧
        r.prov = (s.provOf k.part [x.blk]).isSome ∧ r.kind = .readResp ∧ r.dst = k.src ∧ r.src = siteNode m ∧ r.tag = k.tag ∧ r.gen = k.gen ∧ r.seq = k.seq ∧
        r.data = toRows (Memory.readNat s.dram x.key k.len) (cdiv k.len 64) ∧ r.poison = ((s.blkMeta x.blk).poison || k.poison) ∧
        s.sameMemory t) ∧
      (∀ y, k.kind = .copyReq → k.addr2 % 4096 + k.len ≤ 4096 → s.place k.part k.addr2 = some y →
        ∃ t w, exec (.readRequest m k true misreads) s = .next t ∧ t.net = dropPkt (s.seen k) s.net ++ [w] ∧ w.kind = .writeData ∧
          w.dst = siteNode y.site ∧ w.src = k.src ∧ w.addr = k.addr2 ∧ w.len = k.len ∧
          w.data = toRows (Memory.readNat s.dram x.key k.len % 2 ^ (8 * k.len)) (cdiv k.len 64) ∧ s.sameMemory t)) ∧
   (∀ (m : SiteIx) (k : Pkt) (s : State) (x : Place),
      s.refusal m k.part k.addr true = none → s.place k.part k.addr = some x →
        s.sumAreaAt k.part k.addr k.len = none → k.bchk = false →
        ∃ t, exec (.writeData m k true) s = .next t ∧ t.net = dropPkt (s.seen k) s.net ++ [(pktAnswer (s.seen k) .ack (siteNode m)).sealed] ∧
          t.getF F.ldgCkptStat_write_waits m =
            min (s.getF F.ldgCkptStat_write_waits m + (if s.copyFull m k.part k.addr then 1 else 0)) (2 ^ 16 - 1) ∧
          Memory.readBytes t.dram x.key k.len = leBytes (ofRows k.data) k.len ∧
          (∀ a, a < x.key ∨ x.key + k.len ≤ a → Memory.read t.dram a = Memory.read s.dram a) ∧
          (t.blkMeta x.blk).held = false ∧ (k.poison = true → (t.blkMeta x.blk).poison = true) ∧
          (∀ b, b ≠ x.blk → t.blkMeta b = s.blkMeta b) ∧ t.spad = s.spad ∧ t.spadPoison = s.spadPoison)) ∧
  (∀ (m : SiteIx) (k : Pkt) (s : State) (ps : List Place),
     let addrs := (rangeFrom 0 k.addr2).map (fun i => k.addr + elem (ofRows k.data) 32 i * k.len * 64)
     (∀ a ∈ addrs, s.refusal m k.part a false = none) → addrs.map (s.place k.part) = ps.map some →
     ∃ t rs, exec (.gatherRequest m k true) s = .next t ∧ t.net = dropPkt (s.seen k) s.net ++ rs ∧ rs.length = k.merged.length + 1 ∧
       (∀ j (r : Pkt), rs[j]? = some r →
         let l := (ps.drop (rowsPerResponse k.len * j)).take (rowsPerResponse k.len)
         r.kind = .readResp ∧ (j = 0 → r.dst = k.src ∧ r.tag = k.tag) ∧
         (∀ e, j ≠ 0 → k.merged[j - 1]? = some e → r.dst = e.1 ∧ r.tag = e.2.1) ∧
         r.len = 64 * k.len * l.length ∧ r.data.length = k.len * l.length ∧
         (∀ i (x : Place), l[i]? = some x →
           elem (ofRows r.data) (512 * k.len) i = Memory.readNat s.dram x.key (k.len * 64) % 2 ^ (512 * k.len)) ∧
         r.poison = (k.poison || l.any (fun x => (s.blkMeta x.blk).poison))) ∧ s.sameMemory t)
/-- A request that R214 refuses is answered REFUSED, logged where the log is clear, and touches no memory. A reduction packet that R245 refuses
is answered REFUSED and logged where the log is clear, and no block changes. -/
def Obligations.RefusedPacketsTouchNothing : Prop :=
  (∀ (m : SiteIx) (k : Pkt) (misreads r : Nat) (s : State), k.part < 256 →
     ∀ x ∈ [(Instr.readRequest m k true misreads, false), (.writeData m k true, true)],
       s.refusal m k.part k.addr x.2 = some r →
       ∃ t, exec x.1 s = .next t ∧ t.net = dropPkt (s.seen k) s.net ++ (pktAnswers (s.seen k) .refused (siteNode m)).map Pkt.sealed ∧
         s.sameMemory t ∧
         (s.getF F.ldgRefuseLog_valid m = 0 → t.getF F.ldgRefuseLog_valid m = 1 ∧ t.getF F.ldgRefuseLog_reason m = r ∧
           t.getF F.ldgRefuseLog_partition m = k.part ∧ t.getF F.ldgRefuseLog_address m = k.addr % 2 ^ 48)) ∧
  (∀ (m : SiteIx) (k : Pkt) (h : RedHdr) (r : Nat) (s : State), k.red = some h → s.redRefusal m k h = some r → k.part < 256 →
     h.stream < 4096 → h.b0 < 2 ^ 19 →
     ∀ i ∈ [Instr.exponentContribution m k true, .contribution m k true, .retraction m k true, .rawResend m k true, .treeContribution m k true],
       ∃ t, exec i s = .next t ∧ t.net = dropPkt (s.seen k) s.net ++ (pktAnswers (s.seen k) .refused (siteNode m)).map Pkt.sealed ∧
         t.sites = s.sites ∧ s.sameMemory t ∧
         (s.getF F.ldgRedLog_valid m = 0 → t.getF F.ldgRedLog_valid m = 1 ∧ t.getF F.ldgRedLog_reason m = r ∧
           t.getF F.ldgRedLog_partition m = k.part ∧ t.getF F.ldgRedLog_stream m = h.stream ∧ t.getF F.ldgRedLog_block m = h.b0))
/-- A stream receive served alone reads its source once and sends one delivery to its requester (R217, R225, R228); a receive of an active
group member waits for the others. With a request of every active member, a group packet is read once and delivered to every requester
(R230); with one missing nothing is read. When the wait expires the missing members are dropped and counted, unless the limit is 0; a
GROUP_DROP takes a member out of a home's active set (R230, R229, R231, R241). The model's choices it rests on: logs 13, 14. -/
def Obligations.StreamReceivesAreServed : Prop :=
  (∀ (m : SiteIx) (k : Pkt) (misreads : Nat) (s : State) (x : StreamPkt) (bl : List (Nat × Nat)),
     s.judgeStream m k = .inr x → (s.site m).waits = [] →
     let n := k.addr / 2 ^ 36 % 256
     (n < 192 → s.blocksOf x.part (x.layer.src + (x.source k.len).1) (x.source k.len).2 = some bl →
       ∃ t d, exec (.streamReceive m k true false misreads) s = .next t ∧ t.net = dropPkt (s.seen k) s.net ++ [d] ∧ d.kind = .stream ∧
         d.dst = k.src ∧ d.addr = k.addr ∧ d.tag = k.tag ∧ d.mcast = false ∧
         ((x.layer.conv = 1 → misreads < 3 ∧ ∀ b ∈ bl, (s.blkMeta b.1).held = true → s.blkCrc b.1 = (s.blkMeta b.1).crc) →
           d.data = toRows (s.delivered x k.len).1 (cdiv k.len 64)) ∧
         t.getF F.ldgStreamStat_reads m = min (s.getF F.ldgStreamStat_reads m + 1) (2 ^ 32 - 1) ∧ t.dram = s.dram ∧ t.spad = s.spad) ∧
     (192 ≤ n → (s.activeAt m (n - 192)).contains k.part = true →
       ∃ t, exec (.streamReceive m k true false misreads) s = .next t ∧ t.net = dropPkt (s.seen k) s.net ∧ s.sameMemory t ∧
         ∃ w, (t.site m).waits = [w] ∧ w.group = some (n - 192) ∧ w.offset = k.addr % 2 ^ 44 ∧ w.layer = x.num ∧
           w.reqs.map (·.src) = [k.src])) ∧
  (∀ (m : SiteIx) (g : Fin 64) (off misreads : Nat) (s : State) (w : StreamWait),
     (s.site m).waits.find? (fun w => decide (w.group = some g.val) && decide (w.offset = off % 2 ^ 36 + (192 + g.val) * 2 ^ 36)) = some w →
     (s.missing m w ≠ [] → exec (.groupPacketRead m g off misreads) s = .next s) ∧
     (∀ k rest x bl, s.missing m w = [] → w.reqs = k :: rest → s.judgeStream m k = .inr x →
       s.blocksOf x.part (x.layer.src + (x.source k.len).1) (x.source k.len).2 = some bl →
       ∃ t, exec (.groupPacketRead m g off misreads) s = .next t ∧ t.dram = s.dram ∧
         (∀ r ∈ w.reqs, ∃ d ∈ t.net, d.kind = .stream ∧ d.dst = r.src ∧ d.src = siteNode m) ∧
         t.getF F.ldgStreamStat_reads m = min (s.getF F.ldgStreamStat_reads m + 1) (2 ^ 32 - 1) ∧
         t.getF F.ldgStreamStat_copies m = min (s.getF F.ldgStreamStat_copies m + rest.length) (2 ^ 24 - 1)) ∧
     (s.getF F.ldgGroupWait_limit m = 0 → exec (.groupWaitExpiry m g off) s = .next s) ∧
     (s.getF F.ldgGroupWait_limit m ≠ 0 → ∃ t, exec (.groupWaitExpiry m g off) s = .next t ∧
       (∀ p ∈ s.missing m w, (t.activeAt m g).contains p = false) ∧
       t.getF F.ldgStreamStat_drops m = min (s.getF F.ldgStreamStat_drops m + (s.missing m w).length) 255) ∧
     (∀ (c : Ctl) (p : Nat), c.msg = .groupDrop g p → c.high = true → ∃ t, exec (.groupDrop m c) s = .next t ∧
       (t.activeAt m g).contains p = false ∧ t.dram = s.dram ∧ t.spad = s.spad))
/-- A channel refreshes at half its interval while its stack is hot or it is derated; in module HOLD a channel enters self-refresh; a test
slice moves to the next window, verifies it and counts repaired rows, unless slices are off or the channel is out of service or in self-
refresh. A replay is counted at its router's input and in the interval; a link with more than 16 replays in an interval is LINK_DEGRADED and
a fault of its unit, one with fewer is not; at an interval's end a router reports and starts anew, and the fabric manager keeps the report,
complete with the last router's second half (R220 to R223, R281, R293, R294, R295, R349). The model's choices it rests on: log 23. -/
def Obligations.ChannelsAndLinksAreKept : Prop :=
  (∀ (m : SiteIx) (ch : Fin 32) (hot : Bool) (repaired : Nat) (misreads : List Nat) (s : State),
     (∃ t, exec (.refresh m ch hot) s = .next t ∧
       (t.site m).refreshHalf.testBit ch = (hot || decide (0 < s.unitState (unitChan m ch))) ∧ t = s.setSite m (t.site m)) ∧
     (s.getF F.pwrState_state 0 = 1 → s.chanBusy m ch = false → Tab.get (fun _ => 0) (s.site m).reqAt ch = 0 →
       ∃ t, exec (.selfRefreshEntry m ch) s = .next t ∧
       (t.getF F.ldgChState_self_refresh m).testBit ch = true ∧ s.sameMemory t) ∧
     (s.getF F.ldgSlice_interval m = 0 ∨ (s.getF F.ldgChState_self_refresh m).testBit ch = true ∨ s.chanOk m ch = false →
       exec (.testSlice m ch repaired false misreads) s = .next s) ∧
     (s.getF F.ldgSlice_interval m ≠ 0 → (s.getF F.ldgChState_self_refresh m).testBit ch = false → s.chanOk m ch = true →
       Tab.get (fun _ => 0) (s.site m).sliceTime ch = 0 →
       ∃ t, exec (.testSlice m ch repaired false misreads) s = .next t ∧ t.dram = s.dram ∧ t.net = s.net ∧
         Tab.get (fun _ => 0) (t.site m).sliceAt ch = (Tab.get (fun _ => 0) (s.site m).sliceAt ch + 1) % 16384 ∧
         Tab.get (fun _ => 0) (t.site m).sliceTime ch = s.now + 1 ∧
         t.getF F.ldgBlockStat_repaired m = min (s.getF F.ldgBlockStat_repaired m + repaired) (2 ^ 16 - 1))) ∧
  (∀ (c : CoreIx) (k : Fin 7) (s : State),
     (∃ t, exec (.flitReplay c k) s = .next t ∧ t.getF (linkField k) c = min (s.getF (linkField k) c + 1) (2 ^ 12 - 1) ∧
       Tab.get (fun _ => 0) (t.core c).replays k = Tab.get (fun _ => 0) (s.core c).replays k + 1 ∧ s.coreOnly t c [.rtrLinkErr]) ∧
     (Tab.get (fun _ => 0) (s.core c).replays k ≤ 16 → exec (.linkDegraded c k) s = .next s) ∧
     (16 < Tab.get (fun _ => 0) (s.core c).replays k → ∃ t, exec (.linkDegraded c k) s = .next t ∧
       s.raisedOne t .linkDegraded stewardNode 64 255 (linkUnit c k) ∧
       (t.healthOf (linkUnit c k)).count = min ((s.healthOf (linkUnit c k)).count + 1) (2 ^ 32 - 1) ∧
       (t.healthOf (linkUnit c k)).cause = 16 ∧ s.sameMemory t) ∧
     (∀ cls : Fin 3, ∃ t, exec (.rateRecovery c cls) s = .next t ∧
       t.getF (rateField cls) c = min 64 (s.getF (rateField cls) c + s.getF F.fabCcParam_ai 0) ∧ s.onlyRegs t [(.rtrRate, c)]) ∧
     (∀ (blocked : Vector (BitVec 8) 5) (marks : Nat), ∃ t q, exec (.congestionInterval c blocked marks) s = .next t ∧
       (t.core c).replays = [] ∧ t.ctl = s.ctl ++
         [⟨.congReport c 0 (blocked.toList.map (·.toNat)), false, 255, quadNode c, c, 0, q⟩,
          ⟨.congReport c 1 [min 4095 marks, min 255 ((s.core c).replays.map (·.2)).sum], false, 255, quadNode c, c, 0, (q + 1) % 65536⟩] ∧
       t = { s with cores := t.cores, ctl := t.ctl, fab := t.fab }) ∧
     (∀ (m : Ctl) (n half : Nat) (l : List Nat), m.msg = .congReport n half l → m.high = false →
       let heard := NSet.add (2 * (n % 4096) + min half 1) s.congHeard
       ∃ t, exec (.congReport m) s = .next t ∧
         Tab.get (fun _ => 0) t.congMap (n % 4096) = congWord (Tab.get (fun _ => 0) s.congMap (n % 4096)) half l ∧
         (∀ j, j ≠ n % 4096 → Tab.get (fun _ => 0) t.congMap j = Tab.get (fun _ => 0) s.congMap j) ∧ t.ctl = dropFirst m s.ctl ∧
         (heard.length ≠ 8192 → t.congHeard = heard ∧ t.getF F.fabCongGen_busy 0 = 1 ∧
           t.getF F.fabCongGen_count 0 = s.getF F.fabCongGen_count 0) ∧
         (heard.length = 8192 → t.congHeard = [] ∧ t.getF F.fabCongGen_busy 0 = 0 ∧
           t.getF F.fabCongGen_count 0 = (s.getF F.fabCongGen_count 0 + 1) % 2 ^ 31)))
/-- A GRID contribution that its home accepts adds its 32 elements to the block's sums and is counted; the last one, with every producer
proven, closes the block, and every packet that waits for it is acknowledged. An exponent contribution raises its blocks' running maxima and
is counted; with the last contribution of a block outside a domain the agreed byte goes back to the packet's sender, whose return row it
names (R252, R254, R246, R247). On a carry line a packet that passes a tap where one waits for the same home takes it up, where the two may
merge: equal streams, blocks, lengths and bytes, equal proof states, at most four producers; their elements are added, and the merged packet
goes on in place of both (R251, R300). The model's choices it rests on: logs 19, 33, 60. -/
def Obligations.ContributionsAddAndClose : Prop :=
  (∀ (m : SiteIx) (k : Pkt) (h : RedHdr) (st : Stream) (core epoch : Nat) (s : State), k.red = some h → s.redRefusal m k h = none → s.pastSum k.part st = false →
     s.stream k.part h.stream = some st → h.pass = 0 → h.kind = 0 → h.prov = [(core, epoch)] → k.len = 128 → k.prov = false →
     st.tree = false → st.domain = false →
     let r := s.redBlk m k.part h.stream h.b0
     let q := (rangeFrom 0 32).map (fun i => contribElem (elem (ofRows k.data) 32 i))
     r.reopen = false → r.rebuilt = [] → r.retracted = [] → r.closed = false →
     ∃ t, exec (.contribution m k true) s = .next t ∧
       let r' := t.redBlk m k.part h.stream h.b0
       r'.sums = (if r.sums.isEmpty then q else addSums r.sums q) ∧ r'.count = r.count + 1 ∧ r'.unproven = r.unproven ∧
       t.spad = s.spad ∧
       (r.count + 1 < st.n → r.waitV = [] → r'.closed = false ∧ t.net = dropPkt (s.seen k) s.net) ∧
       (r.count + 1 = st.n → r.unproven = 0 → r'.closed = true ∧
         t.getF F.ldgRedStat_closed m = min (s.getF F.ldgRedStat_closed m + 1) (2 ^ 32 - 1) ∧ (pktAnswer (s.seen k) .ack (siteNode m)).sealed ∈ t.net)) ∧
  (∀ (m : SiteIx) (k : Pkt) (h : RedHdr) (st : Stream) (core epoch : Nat) (s : State), k.red = some h → s.redRefusal m k h = none → s.pastSum k.part st = false →
     s.stream k.part h.stream = some st → h.pass = 1 → h.kind = 0 → h.prov = [(core, epoch)] → k.len = 1 → st.domain = false →
     let r := s.redBlk m k.part h.stream h.b0
     let e := max r.e (elem (ofRows k.data) 8 0)
     r.reopen = false → r.retracted = [] → r.waitE = [] → r.peerMax = [] → r.exps < st.n →
     ∃ t, exec (.exponentContribution m k true) s = .next t ∧ (t.redBlk m k.part h.stream h.b0).e = e ∧
       (t.redBlk m k.part h.stream h.b0).exps = r.exps + 1 ∧ t.spad = s.spad ∧
       (r.exps + 1 < st.n → t.net = dropPkt (s.seen k) s.net) ∧
       (r.exps + 1 = st.n → ∃ d ∈ t.net, d.kind = .reduction ∧ d.dst = k.src ∧ d.tag = k.tag ∧ d.len = 1 ∧ d.data = [BitVec.ofNat 512 (e % 256)] ∧
         d.addr = 64 * ((((s.contribs k.part st).find? (fun c => decide (c.core = core))).map (·.retRow)).getD 0) + h.b0)) ∧
  (∀ (x y : Tap) (g g' : Leg) (l : List Leg) (h h' : RedHdr) (s : State), s.pending = [] → s.fab.taps = [x, y] → x.ret = false → y.ret = false →
     x.legs = [g] → y.legs = g' :: l → g'.line = g.line → (between (lineCoord g.line g.frm) (lineCoord g.line g.to_)).contains (lineCoord g.line y.core) = true →
     x.pkt.red = some h → y.pkt.red = some h' → s.gridPkt x.pkt = true → h.pass = 0 → h'.pass = 0 → h.kind = 0 → h'.kind = 0 →
     x.pkt.part = y.pkt.part → x.pkt.dst = y.pkt.dst → x.pkt.len = y.pkt.len → x.pkt.data.length = y.pkt.data.length → h.stream = h'.stream → h.b0 = h'.b0 →
     x.pkt.resend = 0 → y.pkt.resend = 0 →
     (h.ebytes = h'.ebytes → x.pkt.prov = y.pkt.prov → h.prov.length + h'.prov.length ≤ 4 → ∃ t k hd, step s = .next t ∧ t.fab.taps = [] ∧
       t.net = dropFirst x.pkt (dropFirst y.pkt s.net) ++ [k] ∧ k.red = some hd ∧ hd.prov = h'.prov ++ h.prov ∧ hd.ebytes = h.ebytes ∧
       k.poison = (x.pkt.poison || y.pkt.poison) ∧ k.prov = x.pkt.prov ∧ k.dst = x.pkt.dst ∧ k.data.length = x.pkt.data.length ∧
       (y.pkt.src, y.pkt.tag, y.pkt.gen, y.pkt.seq) = (k.src, k.tag, k.gen, k.seq) ∧ k.merged.contains (x.pkt.src, x.pkt.tag, x.pkt.gen, x.pkt.seq) = true ∧
       ∀ i < 16 * x.pkt.data.length, elem (ofRows k.data) 32 i = mergeElem (elem (ofRows x.pkt.data) 32 i) (elem (ofRows y.pkt.data) 32 i)) ∧
     (h.ebytes ≠ h'.ebytes ∨ x.pkt.prov ≠ y.pkt.prov ∨ 4 < h.prov.length + h'.prov.length →
       ∃ t, step s = .next t ∧ t.fab.taps = [y] ∧ t.net = s.net))
/-- A retraction takes the producer's values out of the sums and out of the count, reopens a closed block for corrected values, is counted
and acknowledged; where the producer set the agreed byte the block is rebuilt from raw values. A raw resend for a block that is being
rebuilt is kept until every contributor's raw values are in; then the home forms the byte and the sums again and the block is open no longer
for rebuild. One for any other block is only acknowledged. A TREE contribution is kept in its producer's slot and counted; one core's raw
values leave on a RESEND_RAW request with a tag of their own, once the core has them and a tag is free (R258, R259, R260, R243, R257, R64).
The model's choices it rests on: logs 19, 101. -/
def Obligations.RetractionsAndRawValues : Prop :=
  ((∀ (m : SiteIx) (k : Pkt) (h : RedHdr) (st : Stream) (core epoch : Nat) (s : State), k.red = some h → s.redRefusal m k h = none → s.pastSum k.part st = false →
      s.stream k.part h.stream = some st → h.pass = 0 → h.kind = 1 → h.prov = [(core, epoch)] → k.len = 128 → st.tree = false →
      let r := s.redBlk m k.part h.stream h.b0
      let old := if s.agreed k.part st r then r.byte else r.e
      r.reopen = false →
      ∃ t, exec (.retraction m k true) s = .next t ∧
        let r' := t.redBlk m k.part h.stream h.b0
        r'.closed = false ∧ t.getF F.ldgRedStat_retractions m = min (s.getF F.ldgRedStat_retractions m + 1) (2 ^ 16 - 1) ∧
        (pktAnswer (s.seen k) .ack (siteNode m)).sealed ∈ t.net ∧ t.spad = s.spad ∧
        (h.ebytes.getD 0 0 ≠ old → old ≠ 255 → r'.reopen = false ∧ r'.vals = dropProducer core k.poison r.vals ∧
          (r.vals.any (fun v => v.prov.any (fun x => decide (x.1 = core))) = true →
            r'.sums = subSums r.sums ((rangeFrom 0 32).map (fun i => contribElem (elem (ofRows k.data) 32 i))))) ∧
        (h.ebytes.getD 0 0 = old → r'.reopen = true ∧ r'.sums = [] ∧ r'.e = 0 ∧
          t.getF F.ldgRedStat_reopens m = min (s.getF F.ldgRedStat_reopens m + 1) (2 ^ 16 - 1))) ∧
   (∀ (m : SiteIx) (k : Pkt) (h : RedHdr) (st : Stream) (core epoch : Nat) (s : State), k.red = some h → s.redRefusal m k h = none → s.pastSum k.part st = false →
      s.stream k.part h.stream = some st → h.pass = 0 → h.kind = 2 → h.prov = [(core, epoch)] → st.domain = false →
      let r := s.redBlk m k.part h.stream h.b0
      let n := (r.raws.filter (fun e => e.1 ≠ core)).length + 1
      let f := (Fmt.ofCode st.rawFmt).getD .fp32
      let raws := (r.raws.filter (fun e => e.1 ≠ core)).map (fun e => e.2.1.map (decode f)) ++
        [((rangeFrom 0 32).map (elem (ofRows k.data) f.width)).map (decode f)]
      ∃ t, exec (.rawResend m k true) s = .next t ∧ (pktAnswer (s.seen k) .ack (siteNode m)).sealed ∈ t.net ∧ t.spad = s.spad ∧
        let r' := t.redBlk m k.part h.stream h.b0
        (r.reopen = false → r' = r ∧ t.dram = s.dram) ∧
        (r.reopen = true → n < st.n → r'.reopen = true ∧ r'.raws.length = n ∧ r'.raws.any (fun e => decide (e.1 = core)) = true ∧ t.dram = s.dram) ∧
        (r.reopen = true → st.n ≤ n → r'.reopen = false ∧ r'.raws = [] ∧ r'.rebuilt.contains core = true ∧ r'.vals.length = n ∧
          r'.e = raws.foldl (fun a l => max a (bexp l)) 0 ∧
          r'.sums = raws.foldl (fun a l => addSums a (l.map (fun x => contribElem (qgrid r'.byte x).1))) (List.replicate 32 (some 0))))) ∧
  ((∀ (m : SiteIx) (k : Pkt) (h : RedHdr) (st : Stream) (core epoch : Nat) (s : State), k.red = some h → s.redRefusal m k h = none → s.pastSum k.part st = false →
     s.stream k.part h.stream = some st → h.pass = 0 → h.kind = 0 → h.prov = [(core, epoch)] → st.tree = true → st.tfmt = 1 → k.len = 128 →
     let r := s.redBlk m k.part h.stream h.b0
     ∃ t, exec (.treeContribution m k true) s = .next t ∧ t.spad = s.spad ∧
       let r' := t.redBlk m k.part h.stream h.b0
       r'.slots.find? (fun e => e.1 = s.slotOf k.part st core) =
         some (s.slotOf k.part st core, (rangeFrom 0 32).map (fun i => elem (ofRows k.data) 32 i)) ∧ r'.count = r.count + 1) ∧
   (∀ (c : CoreIx) (msg : Ctl) (cycles : Nat) (o : Obs) (i b n tag : Nat) (st : Stream) (e : Contributor) (s : State), msg.msg = .resendRaw i b → msg.high = false →
     s.stream msg.part i = some st → s.logicalOf msg.part c = some n → (s.contribs msg.part st).find? (fun e => e.core = n) = some e →
     let u := s.bumpF F.dmaTagStall_cycles c cycles
     let v := (u.takeCtl msg id).observeRows c o
     (freeTag (s.core c).tags = none ∨ s.rawReady c i b = false → exec (.resendRaw c ⟨msg, cycles, o⟩) s = .next u) ∧
     (freeTag (s.core c).tags = some tag → s.rawReady c i b = true →
     ∃ t k, exec (.resendRaw c ⟨msg, cycles, o⟩) s = .next t ∧ t.net = s.net ++ [k] ∧ k.kind = .reduction ∧ k.src = c.val ∧ k.tag = tag ∧
       k.dst = siteNode (streamHome st b) ∧ (∃ hd, k.red = some hd ∧ hd.stream = i ∧ hd.b0 = b ∧ hd.kind = 2) ∧
       t.ctl = v.ctl ∧ (o.bad = [] → o.clashes = [] → t.ctl = dropFirst msg s.ctl) ∧
       (t.core c).tags.map (·.num) = (s.core c).tags.map (·.num) ++ [tag] ∧ v.sameMemory t)))
/-- STEP arrivals add up at the root; the last one releases every active core when nothing withholds the release, and differing tags or
marks release none. A GROUP barrier releases its members with the last of them, and counts arrivals until then; another partition's
message is not counted (R95, R96, R306, R93). The model's choices it rests on: log 17. -/
def Obligations.BarriersRelease : Prop :=
  (∀ (p : PartIx) (m : Ctl) (tag merged g : Nat) (differ : Bool) (mark : Option Nat) (s : State), m.msg = .barArrive tag merged differ true g mark →
     m.high = true → m.part = p.val →
     let a := addArrival (s.part p).arrivals tag merged differ mark
     (a.count < (s.activeOf p).length → ∃ t, exec (.barArrive p [m] [] []) s = .next t ∧ (t.part p).arrivals = some a ∧
       t.ctl = dropFirst m s.ctl ∧ s.sameMemory t) ∧
     ((s.activeOf p).length ≤ a.count → a.differ = false → s.heldBack p = false → s.dueGroups p (s.microStep p) = [] →
       (s.part p).pausePend = [] → (s.part p).copy = none →
       ∃ t, exec (.barArrive p [m] [] []) s = .next t ∧ (t.part p).arrivals = none ∧
         ∀ n c, n ∈ s.activeOf p → s.physOf p n = some c →
           ∃ q, (⟨.barRelease (s.microStep p % 65536) true 0, true, p, c, stewardNode, 2, q⟩ : Ctl) ∈ t.ctl)) ∧
  (∀ (p : PartIx) (m : Ctl) (tag merged g : Nat) (differ : Bool) (mark : Option Nat) (s : State), m.msg = .barArrive tag merged differ false g mark →
     m.high = true → m.part = p.val →
     let old := ((s.part p).groupArr.find? (fun e => e.1 = g)).map (·.2)
     let n := (addArrival old tag merged differ mark).count
     ∃ t, exec (.barArrive p [m] [] []) s = .next t ∧ (t.part p).arrivals = (s.part p).arrivals ∧ s.sameMemory t ∧
       (n < (s.barMembers p g).length → t.ctl = dropFirst m s.ctl ∧
         ((t.part p).groupArr.find? (fun e => e.1 = g)).map (·.2) = some (addArrival old tag merged differ mark)) ∧
       ((s.barMembers p g).length ≤ n → (t.part p).groupArr.find? (fun e => e.1 = g) = none ∧
         ∀ k c, k ∈ s.barMembers p g → s.physOf p k = some c → ∃ q, (⟨.barRelease 0 false g, true, p, c, stewardNode, 2, q⟩ : Ctl) ∈ t.ctl)) ∧
  (∀ (p : PartIx) (m : Ctl) (s : State), m.part ≠ p.val → ∃ t, exec (.barArrive p [m] [] []) s = .next t ∧ t.ctl = s.ctl ∧
    (t.part p).arrivals = (s.part p).arrivals ∧ (t.part p).groupArr = (s.part p).groupArr ∧ s.sameMemory t)
/-- On a STEP release a core zeroes its 64 counters, moves to the next micro-step, goes past the barrier, drops its tile, records its
boundary state and runs; a GROUP release resets no counter and closes no micro-step; a release of another partition is ignored. A group whose verdict is formed and may resolve ends
with its outcome in PART.UPDATE and among those resolved at this barrier; a member of a domain is prepared once it says so (R81, R93, R95,
R153, R273, R275). The model's choices it rests on: logs 16, 22, 79. -/
def Obligations.ReleasesAndOutcomes : Prop :=
  (∀ (c : CoreIx) (m : Ctl) (tag g : Nat) (s : State), m.high = true →
     (∀ b, m.msg = .barRelease tag b g → s.ownerOf c ≠ some m.part → exec (.barRelease c m) s = .next { s with ctl := dropFirst m s.ctl }) ∧
     (m.msg = .barRelease tag true g → s.ownerOf c = some m.part → (s.part m.part).planMove = false →
       ∃ t, exec (.barRelease c m) s = .next t ∧ t.getF F.seqStatus_state c = stRunning ∧
         t.getF F.seqUstep_number c = (s.getF F.seqUstep_number c + 1) % 2 ^ 32 ∧ (∀ n < 64, t.getF F.seqCount_value (c * 64 + n) = 0) ∧
         s.movedOn t c 1 ∧ (t.core c).afterStep = true ∧ (t.core c).tile = none ∧ (t.core c).bound = t.boundaryOf c ∧
         (t.core c).mark = none ∧ (t.core c).deps = [] ∧ t.ctl = dropFirst m s.ctl ∧ t.dram = s.dram) ∧
     (m.msg = .barRelease tag false g → s.ownerOf c = some m.part →
       ∃ t, exec (.barRelease c m) s = .next t ∧ t.getF F.seqStatus_state c = stRunning ∧
         t.getF F.seqUstep_number c = s.getF F.seqUstep_number c ∧ (∀ n, t.getF F.seqCount_value n = s.getF F.seqCount_value n) ∧
         s.movedOn t c 1 ∧ (t.core c).atBar = none ∧ (t.core c).tile = (s.core c).tile ∧ t.ctl = dropFirst m s.ctl ∧ s.sameMemory t)) ∧
  ((∀ (p : PartIx) (g : BitVec 12) (v row0 : Nat) (u : UpdGroup) (s : State),
     (s.part p).resolving.find? (fun e => e.1 = g.toNat) = some (g.toNat, v, row0) →
     s.mayResolve p g.toNat v = true → s.groupOf p g.toNat = some u → (s.part p).arrivals = none → 1 ≤ v → v ≤ 4 →
     ∃ t, exec (.groupResolved p g []) s = .next t ∧ t.getF F.partUpdate_outcome p = v ∧ t.getF F.partUpdate_group p = g.toNat ∧
       (t.part p).resolved = (s.part p).resolved ++ [g.toNat] ∧ (t.part p).resolving.any (fun e => decide (e.1 = g.toNat)) = false ∧
       t.spad = s.spad) ∧
   (∀ (f : KlFrame) (g : Nat) (s : State), f.body = .prepared g → ∃ t, exec (.prepared f) s = .next t ∧
     (t.part f.part).prepared.contains (g, f.src) = true ∧ t.klRx = dropFirst f s.klRx ∧ s.sameMemory t))
/-- A proof token leaves for the root once its epoch's verdict is known and no provisional packet of it holds a tag (R342); the root keeps a
token it receives (R343) and so does a home (R258); a consuming core notes that the epoch is proven (R339; the model's reading, log 99). Control-net messages act where they arrive: an alias
update in the core's copy of the table, busy until the last of its partition's (R104, R105), a HOLD at the root (R97, R389), a forecast at
the power tile (R456); one whose priority disagrees with its type is discarded and counted (R342, R304). The model's choices it rests on:
log 66. -/
def Obligations.TokensAndMessages : Prop :=
  ((∀ (c : CoreIx) (epoch : BitVec 16) (pass : Bool) (s : State),
     (s.core c).verdicts.find? (fun v => decide (v.1 = epoch.toNat)) = some (epoch.toNat, pass) → (s.core c).tags = [] → (s.core c).consumers = [] →
     ∃ t, exec (.proofTokenSend c epoch) s = .next t ∧ (t.core c).verdicts = (s.core c).verdicts.filter (fun v => v.1 ≠ epoch.toNat) ∧
       t.ctl = (s.send (.proofToken ((s.logicalOf ((s.ownerOf c).getD 255) c).getD 0) epoch.toNat pass) ((s.ownerOf c).getD 255) stewardNode c).ctl ∧
       t.net = s.net ∧ s.sameMemory t) ∧
   (∀ (m : Ctl) (core e : Nat) (pass : Bool) (s : State), m.high = true →
     (m.msg = .proofToken core e pass → m.dst = stewardNode → (s.part m.part).arrivals = none →
       ∃ t, exec (.proofToken m) s = .next t ∧ (t.part m.part).tokens.contains (core, e, pass) = true ∧ t.ctl = dropFirst m s.ctl ∧ s.sameMemory t) ∧
     (∀ h < 40, m.msg = .proofToken core e pass → m.dst = siteNode h →
       ∃ t, exec (.proofToken m) s = .next t ∧ (t.site h).tokens.contains (m.part, core, e, pass) = true ∧ t.spad = s.spad) ∧
     (∀ d : CoreIx, m.msg = .proofToken core e pass → m.dst = d.val → ∃ t, exec (.proofToken m) s = .next t ∧
       t = { s with ctl := dropFirst m s.ctl, cores := t.cores } ∧
       (pass = true → s.ownerOf d = some m.part → (t.core d).proven.contains (core, e) = true) ∧
       (pass = false ∨ s.ownerOf d ≠ some m.part → t.cores = s.cores)) ∧
     (∀ h < 40, m.msg = .retractToken core e pass → m.dst = siteNode h →
       ∃ t, exec (.retractToken m) s = .next t ∧ (t.site h).tokens.contains (m.part, core, e, false) = true ∧ s.sameMemory t))) ∧
  ((∀ (c : CoreIx) (m : Ctl) (e new gen : Nat) (s : State), m.msg = .aliasUpdate e new gen → m.high = true →
     ∃ t, exec (.aliasUpdate c m) s = .next t ∧ Tab.get (fun _ => 0) (t.core c).xlat e = new ∧ t.ctl = dropFirst m s.ctl ∧
       ((dropFirst m s.ctl).all (fun k => decide (k.part ≠ m.part)) = true → t.getF F.partAliasGen_busy m.part = 0) ∧ s.sameMemory t) ∧
   (∀ (p : PartIx) (m : Ctl) (s : State), m.high = true →
     (m.msg = .hold 0 → (s.part p).arrivals = none → ∃ t, exec (.hold p m) s = .next t ∧ (t.part p).pausePend = (s.part p).pausePend ++ (s.part p).pauseAsked ∧
       (t.part p).pauseAsked = [] ∧ t.regs = s.regs ∧ s.sameMemory t) ∧
     (m.msg = .hold 1 → exec (.hold p m) s = .next { s with ctl := dropFirst m s.ctl })) ∧
   (∀ (c : CoreIx) (m : Ctl) (s : State), m.high = false → m.msg.isHigh = true → m.src < 4096 →
     ∀ i ∈ [Instr.aliasUpdate c m, .barRelease c m, .proofToken m, .retractToken m],
       ∃ t, exec i s = .next t ∧ t.ctl = dropFirst m s.ctl ∧ t.cores = s.cores ∧ t.parts = s.parts ∧
         t.getF F.rtrCnStat_dropped m.src = min (s.getF F.rtrCnStat_dropped m.src + 1) (2 ^ F.rtrCnStat_dropped.len - 1)))
/-- Array cycles stretch while a core's margin is short and until it recovers; a faster divisor is taken once its voltage is reached; a shed
phase is out of service and retired, another fault of a phase is counted; a root PLL takes the secondary reference, goes into holdover
without either, and returns (R449, R457, R458, R463). The model's choices it rests on: log 57. -/
def Obligations.SuppliesAndReferences : Prop :=
  (∀ (c : CoreIx) (ps : BitVec 8) (cycles : Nat) (s : State),
    (ps.toNat < 10 → ∃ t, exec (.droopStretch c ps) s = .next t ∧ (t.core c).stretch = true ∧ t.getF F.vregDroop_min_ps c = ps.toNat ∧
      s.coreOnly t c [.vregDroop]) ∧
    (10 ≤ ps.toNat → exec (.droopStretch c ps) s = .next s) ∧
    ((s.core c).stretch = true → ∃ t, exec (.droopRecovery c cycles) s = .next t ∧ (t.core c).stretch = false ∧
      t.getF F.vregDroop_stretches c = min (s.getF F.vregDroop_stretches c + cycles) (2 ^ 32 - 1) ∧ s.coreOnly t c [.vregDroop]) ∧
    ((s.core c).stretch = false → exec (.droopRecovery c cycles) s = .next s) ∧
    ((s.core c).rising = none → exec (.voltageReached c) s = .next s) ∧
    (∀ i < 5, (s.core c).rising = some i → ∃ t, exec (.voltageReached c) s = .next t ∧ (t.core c).rising = none ∧
      t.getF F.vregPoint_divisor c = i ∧ s.vCommand c i ≤ t.getF F.vregPoint_mv c ∧
      (∀ d, d ≠ c.val → t.getF F.vregPoint_divisor d = s.getF F.vregPoint_divisor d))) ∧
  (∀ (d : DieIx) (k : Fin 16) (s : State),
    (∃ t, exec (.phaseShed d k) s = .next t ∧ (t.getF F.tilePhases_in_service d).testBit k = false ∧ t.unitState (unitPhase d k) = 3 ∧
      ((s.getF F.tilePhases_in_service d).testBit k = true → t.getF F.tilePhases_shed d = min 15 (s.getF F.tilePhases_shed d + 1)) ∧
      s.sameMemory t) ∧
    (∃ t, exec (.phaseFault d k) s = .next t ∧
      (t.healthOf (unitPhase d k)).count = min ((s.healthOf (unitPhase d k)).count + 1) (2 ^ 32 - 1) ∧ s.sameMemory t)) ∧
  (∀ (d : DieIx) (s : State),
    (s.getF F.tileStatus_holdover d = 0 → ∃ t, exec (.refLossPrimary d) s = .next t ∧ t.getF F.tileStatus_ref_secondary d = 1 ∧
      t.getF F.tileStatus_holdover d = 0 ∧ s.onlyRegs t [(.tileStatus, d)]) ∧
    (∃ t, exec (.refLossBoth d) s = .next t ∧ t.getF F.tileStatus_ref_secondary d = 0 ∧ t.getF F.tileStatus_holdover d = 1 ∧
      s.onlyRegs t [(.tileStatus, d)]) ∧
    (∃ t, exec (.refReturn d true) s = .next t ∧ t.getF F.tileStatus_ref_secondary d = 0 ∧ t.getF F.tileStatus_holdover d = 0 ∧
      s.onlyRegs t [(.tileStatus, d)]) ∧
    (s.getF F.tileStatus_holdover d = 1 → ∃ t, exec (.refReturn d false) s = .next t ∧ t.getF F.tileStatus_ref_secondary d = 1 ∧
      t.getF F.tileStatus_holdover d = 0 ∧ s.onlyRegs t [(.tileStatus, d)]))
/-- A forecast's level is kept at its power tile (R456); supply distress is signalled to every core of its die, slows a RUN core or lowers
its ceiling, lowers the die ceiling while it lasts, and ends (R459, R460); a die over its thermal limit is slowed down to the clock floor,
then by its ceiling, until it has recovered (R467). The model's choices it rests on: log 51. -/
def Obligations.DistressAndHeatSlowCores : Prop :=
  (∀ (d : DieIx) (m : Ctl) (l : Nat) (s : State), m.msg = .forecastNote l → m.high = true →
    ∃ t, exec (.forecastNote d m) s = .next t ∧ Tab.get (fun _ => 0) (t.die d).levels m.src = l ∧
      t = { s with dies := t.dies, ctl := dropFirst m s.ctl }) ∧
  (∀ (d : DieIx) (s : State),
    (s.getF F.tileStatus_distress d = 0 → ∃ t, exec (.supplyDistressOnset d) s = .next t ∧ t.getF F.tileStatus_distress d = 1 ∧
      s.announced t .supplyDistress (tileNode d) 64 255 0 ∧ s.regsBut t [(.tileStatus, d)] ∧ s.sameMemory t ∧
      ∀ c ∈ dieCores d, ∃ q, (⟨.supplyDistress, true, s.ownerNum c, c, tileNode d, 0, q⟩ : Ctl) ∈ t.ctl) ∧
    (s.getF F.tileStatus_distress d = 1 → exec (.supplyDistressOnset d) s = .next s ∧
      ∃ t, exec (.distressPersists d) s = .next t ∧ (t.die d).distDrop = min 48 ((s.die d).distDrop + 8) ∧
        t.getF F.tileStatus_die_ceiling d = t.dieCeil d ∧ s.sameMemory t) ∧
    (∃ t, exec (.distressEnd d) s = .next t ∧ t.getF F.tileStatus_distress d = 0 ∧ s.onlyRegs t [(.tileStatus, d)])) ∧
  (∀ (c : CoreIx) (m : Ctl) (s : State), m.high = m.msg.isHigh →
    (s.getF F.vregPoint_state c ≠ vRun → exec (.supplyDistress c m) s = .next { s with ctl := dropFirst m s.ctl }) ∧
    (s.getF F.vregPoint_state c = vRun → ∃ t, exec (.supplyDistress c m) s = .next t ∧ t.ctl = dropFirst m s.ctl ∧ s.sameMemory t ∧
      (s.pointOf (s.ownerNum c) c = 4 → (s.core c).distSteps = 0 → (t.core c).distCeil = true ∧ t.getF F.vregPoint_ceiling c ≤ 32) ∧
      (s.pointOf (s.ownerNum c) c ≠ 4 ∨ (s.core c).distSteps ≠ 0 → (t.core c).distSteps = 1 ∧
        t.getF F.vregPoint_divisor c = max (s.getF F.vregPoint_divisor c) (t.pointOf (s.ownerNum c) c)))) ∧
  (∀ (d : DieIx) (temp : BitVec 8) (s : State),
    (∃ t, exec (.thermalSample d temp) s = .next t ∧ t.getF F.tileStatus_temp_c d = temp.toNat ∧ s.regsBut t [(.tileStatus, d)] ∧
      (t.overLimit d 0 = true → (t.die d).hot = true ∧ (t.die d).cooled = false) ∧ (t.overLimit d 0 = false → t.dies = s.dies)) ∧
    ((s.die d).hot = false ∨ s.overLimit d 0 = false → exec (.thermalStep d) s = .next s) ∧
    ((s.die d).hot = true → s.overLimit d 0 = true → ∃ t, exec (.thermalStep d) s = .next t ∧ (t.die d).told = true ∧ s.sameMemory t ∧
      ((s.die d).told = false → s.announced t .thermalStep (tileNode d) 64 255 0) ∧
      (∀ c ∈ dieCores d, s.getF F.vregPoint_state c = vRun → (t.core c).thermSteps = (s.core c).thermSteps +
        (if s.pointOf (s.ownerNum c) c < s.floorCode (s.ownerNum c) then 1 else 0)) ∧
      ((∀ c ∈ dieCores d, s.getF F.vregPoint_state c = vRun → s.floorCode (s.ownerNum c) ≤ s.pointOf (s.ownerNum c) c) →
        (t.die d).thermCeil = max 16 ((s.die d).thermCeil - 8))) ∧
    ((s.die d).hot = true → s.overLimit d 5 = false → ∃ t, exec (.thermalRecovery d) s = .next t ∧ (t.die d).hot = false ∧
      (t.die d).told = false ∧ (t.die d).cooled = true ∧ t = { s with dies := t.dies }))
/-- The module power states: HOLD on request or when idle while nothing runs, the way out of HOLD unless a leak holds it, refused requests,
the leak's pauses and hold, and steward mode with its events (R469, R471, R473, R481). The model's choices it rests on: log 28. -/
def Obligations.ModulePowerStates : Prop :=
  (∀ (path : Path) (s : State), s.admitted path = true →
    (s.pwState = pwHold → s.getF F.pwrState_leak 0 = 0 → ∃ t, exec (.moduleActiveRequest path) s = .next t ∧ t.mod.exiting = true ∧
      t = { s with fns := t.fns, mod := t.mod }) ∧
    (s.pwState = pwStandby ∨ s.pwState = pwHold ∧ s.getF F.pwrState_leak 0 = 1 → ∃ t, exec (.moduleActiveRequest path) s = .next t ∧
      t.getF F.pwrMode_error 0 = 1 ∧ t.mod = s.mod ∧ s.regsBut t [(.pwrMode, 0)]) ∧
    (s.anyRunning = false → s.pwState ≠ pwStandby → ∃ t, exec (.moduleHoldRequest path) s = .next t ∧ s.allHeld t ∧ s.sameMemory t) ∧
    (s.anyRunning = true ∨ s.pwState = pwStandby → ∃ t, exec (.moduleHoldRequest path) s = .next t ∧ t.getF F.pwrMode_error 0 = 1 ∧
      s.regsBut t [(.pwrMode, 0)]) ∧
    (∃ t, exec (.stewardSet path) s = .next t ∧ t.getF F.pwrState_steward_mode 0 = 1 ∧ s.regsBut t [(.pwrState, 0)] ∧
      (s.getF F.pwrState_steward_mode 0 = 0 → s.announced t .stewardModeEntered stewardNode 64 255 0)) ∧
    (∃ t, exec (.stewardModeLeft path) s = .next t ∧ t.getF F.pwrState_steward_mode 0 = 0 ∧ s.regsBut t [(.pwrState, 0)] ∧
      (s.getF F.pwrState_steward_mode 0 = 1 → s.announced t .stewardModeLeft stewardNode 64 255 0))) ∧
  (∀ (src : BitVec 3) (s : State),
    (s.anyRunning = false → s.getF F.pwrCfg_idle_hold_ms 0 ≠ 0 → s.pwState = pwActive →
      ∃ t, exec .idleHoldEntry s = .next t ∧ s.allHeld t ∧ s.sameMemory t) ∧
    (∃ t, exec (.leakDetected src) s = .next t ∧ t.getF F.sbStat_leak 0 = 1 ∧ t.getF F.pwrState_leak 0 = 1 ∧
      s.announced t .leakDetected stewardNode 64 255 src.toNat ∧ s.sameMemory t ∧
      ∀ p < 64, s.pState p = psRunning → t.getF F.partPower_cap_paused p = 1 ∧ t.getF F.partState_pause_pending p = 1 ∧
        (t.part p).pauseAsked = (s.part p).pauseAsked ++ [(none, 0)] ∧ ∃ q, (⟨.hold 0, true, p, stewardNode, stewardNode, 3, q⟩ : Ctl) ∈ t.ctl) ∧
    (s.getF F.pwrState_leak 0 = 1 → s.anyRunning = false → s.pwState ≠ pwStandby →
      ∃ t, exec .leakHoldEntry s = .next t ∧ s.allHeld t ∧ s.sameMemory t) ∧
    (s.anyRunning = true → exec .leakHoldEntry s = .next s ∧ exec .idleHoldEntry s = .next s) ∧
    (∃ t, exec .leakDetDeassert s = .next t ∧ t.getF F.sbStat_leak 0 = 0 ∧ s.onlyRegs t [(.sbStat, 0)]) ∧
    ((rangeFrom 0 4).all (fun h => decide (s.getF F.epdHost_mode h ≠ 1) || decide (s.getF F.epdHost_up h = 0)) = true →
      ∃ t, exec .stewardModeEntered s = .next t ∧ t.getF F.pwrState_steward_mode 0 = 1 ∧ s.regsBut t [(.pwrState, 0)])) ∧
  (∀ (c : CoreIx) (p : Nat) (s : State), s.ownerOf c = some p → s.pState p = psPaused → (s.core c).atBar.isSome = true →
    s.getF F.vregPoint_state c ≠ vOff →
    ∃ t, exec (.corePauseHold c) s = .next t ∧ t.getF F.vregPoint_state c = vHold ∧ s.onlyRegs t [(.vregPoint, c)])
/-- The cap in force is the lowest of its sources': the pin's, SMBus's, the management pair and the image's; a decrease acts at once and an
increase by the ramp; over the cap the governor lowers ceilings and then pauses the partition that most exceeds its budget, which goes on
once input power plus 1.1 times its watts fits; the dies report their currents (R440, R443, R474 to R477, R482, R520). The model's choices it
rests on: logs 32, 52, 57. -/
def Obligations.PowerCapFollowsItsSources : Prop :=
  (∀ s : State, (s.getF F.pwrCapEff_ramping 0 = 0 → exec .capRampStep s = .next s) ∧
    (s.getF F.pwrCapEff_ramping 0 = 1 → s.lowestCap.1 < 2 ^ 16 →
      let n := min s.lowestCap.1 (s.getF F.pwrCapEff_watts 0 + s.getF F.pwrCap_ramp_w_ms 0)
      ∃ t, exec .capRampStep s = .next t ∧ t.getF F.pwrCapEff_watts 0 = n ∧
        t.getF F.pwrCapEff_ramping 0 = (if n < s.lowestCap.1 then 1 else 0) ∧ s.onlyRegs t [(.pwrCapEff, 0)])) ∧
  (∀ (path : Path) (v : BitVec 32) (s : State), s.admitted path = true → v.getLsbD 0 = true →
    let cap := s.getF F.pwrCapShadow_cap_w 0
    let ramp := s.getF F.pwrCapShadow_ramp_w_ms 0
    let ok := (cap = 0 ∨ 2400 ≤ cap ∧ cap ≤ 24000) ∧ 1 ≤ ramp ∧ ramp ≤ 24000
    (ok → ∃ t, exec (.pwrCapCommit path v) s = .next t ∧ t.getF F.pwrCap_cap_w 0 = cap ∧ t.getF F.pwrCap_ramp_w_ms 0 = ramp ∧
      s.recapped t ∧ s.sameMemory t) ∧
    (¬ ok → ∃ t, exec (.pwrCapCommit path v) s = .next t ∧ t.getF F.pwrCapCommit_error 0 = 1 ∧ s.regsBut t [(.pwrCapCommit, 0)] ∧
      s.announced t .pairCommitRejected stewardNode 64 255 0)) ∧
  (∀ (duty : Fin 1001) (high : Bool) (s : State),
    (s.getF F.sbPinmux_pwrcap 0 = 0 → s.mod.spoiled = false → ∃ t, exec (.pwrcapWindow duty) s = .next t ∧
      t.getF F.sbStat_cap_duty 0 = duty ∧ t.mod.pinCap = (if duty.val = 1000 then 0 else max 2400 (24 * duty.val)) ∧ s.recapped t) ∧
    (s.getF F.sbPinmux_pwrcap 0 ≠ 0 → exec (.pwrcapWindow duty) s = .next s) ∧
    (s.getF F.sbPinmux_pwrcap 0 = 1 → ∃ t, exec (.pwrcapLevelChange high) s = .next t ∧
      t.getF F.sbStat_cap_low 0 = (if high then 0 else 1) ∧
      t.mod.pinCap = (if high then 0 else (s.image.map (fun im => im.lowCap)).getD 0) ∧ s.recapped t) ∧
    (s.getF F.sbPinmux_pwrcap 0 ≠ 1 → exec (.pwrcapLevelChange high) s = .next s)) ∧
  (∀ (m : Meter) (cores : List CoreIx) (s : State), cores.Nodup →
    ∃ t, exec (.capCheck m cores) s = .next t ∧ t.getF F.pwrInput_watts 0 = m.watts.toNat ∧
      t.getF F.pwrEnergy_value 0 = min (s.getF F.pwrEnergy_value 0 + (m.overhead + (m.parts.map (fun e => e.2.2)).sum)) (2 ^ 64 - 1) ∧
      (∀ c ∈ cores, (t.core c).capCeil = if s.getF F.pwrCapEff_watts 0 < m.watts.toNat then max 16 ((s.core c).capCeil - 8)
        else min 64 ((s.core c).capCeil + 8)) ∧
      ((m.currents.map (·.1)).Nodup → ∀ e ∈ m.currents, t.getF F.tileStatus_current e.1 = e.2.toNat) ∧ s.sameMemory t) ∧
  (∀ (p : PartIx) (s : State),
    (s.getF F.pwrInput_watts 0 ≤ s.getF F.pwrCapEff_watts 0 → exec .capPause s = .next s) ∧
    (s.getF F.pwrCapEff_watts 0 < s.getF F.pwrInput_watts 0 →
      (∀ c < 4096, s.getF F.vregPoint_state c = vRun → s.ceilOf c ≤ 16) → s.mostOver = some p.val →
      ∃ t, exec .capPause s = .next t ∧ t.getF F.partPower_cap_paused p = 1 ∧ t.getF F.partState_pause_pending p = 1 ∧
        (t.part p).pauseAsked = (s.part p).pauseAsked ++ [(none, 0)] ∧ t.getF F.pwrCapEff_limiting 0 = 1 ∧ s.sameMemory t) ∧
    (s.getF F.pwrState_leak 0 = 1 → exec (.capResume p) s = .next s) ∧
    (s.pState p = psPaused → 10 * s.getF F.pwrCapEff_watts 0 < 10 * s.getF F.pwrInput_watts 0 + 11 * (s.part p).pausedWatts →
      exec (.capResume p) s = .next s) ∧
    (s.getF F.partPower_cap_paused p = 1 → s.getF F.pwrState_leak 0 = 0 → (s.part p).arrivals = none → s.pState p ≠ psPaused →
      10 * s.getF F.pwrInput_watts 0 + 11 * s.getF F.partPower_watts p ≤ 10 * s.getF F.pwrCapEff_watts 0 →
      ∃ t, exec (.capResume p) s = .next t ∧ t.getF F.partPower_cap_paused p = 0 ∧ (∀ x ∈ (t.part p).pauseAsked, x.1.isSome = true) ∧
        s.sameMemory t) ∧
    (s.getF F.partPower_cap_paused p = 1 → s.getF F.pwrState_leak 0 = 0 → (s.part p).arrivals = none → s.pState p = psPaused →
      10 * s.getF F.pwrInput_watts 0 + 11 * (s.part p).pausedWatts ≤ 10 * s.getF F.pwrCapEff_watts 0 →
      s.pwState ≠ pwHold → ∃ t, exec (.capResume p) s = .next t ∧ t.getF F.partPower_cap_paused p = 0 ∧ t.pState p = psRunning ∧
        (t.part p).paused = none ∧ s.sameMemory t))
/-- A record that reaches its controller is counted and queued, or dropped and counted where the queue is full; an event whose class is due
is delivered while deliveries are enabled and not held; records of one source arrive in their order (R401, R404 to R406, R410 to R414). Writes to the controller's registers clear a
count, commit a coalescing pair or reject it, free records, and enable deliveries and events (R403, R404, R406 to R409, R411). The model's
choices it rests on: logs 59, 106. -/
def Obligations.EventControllersCountAndDeliver : Prop :=
  (∀ (k : CtrlIx) (e : EvRec) (s : State), s.overtakes k e = true → exec (.eventRecord k e) s = .next s) ∧
  (∀ (k : CtrlIx) (e x : EvRec) (l : List (Nat × EvRec)) (s : State), s.evNet = (k.val, x) :: l → x.src = e.src → x ≠ e →
    exec (.eventRecord k e) s = .next s) ∧
  (∀ (k : CtrlIx) (e : EvRec) (s : State), e.num < 511 → s.overtakes k e = false →
    let full := (s.getF F.evtRqTail_index k + 8192 - s.getF F.evtRqHead_index k) % 8192 = 4096
    let i := k.val * 512 + e.num
    ∃ t, exec (.eventRecord k e) s = .next t ∧ t.evNet = dropFirst (k.val, e) s.evNet ∧
      t.getF F.evtEvent_pending i = min (s.getF F.evtEvent_pending i + 1) 65535 ∧ s.sameMemory t ∧
      (¬ full → t.getF F.evtRqTail_index k = (s.getF F.evtRqTail_index k + 1) % 8192 ∧
        Tab.get (fun _ => none) (t.evc k).records (s.getF F.evtRqTail_index k % 4096) = some e) ∧
      (full → t.getF F.evtRqTail_index k = s.getF F.evtRqTail_index k ∧
        t.getF F.evtRqStat_dropped k = min (s.getF F.evtRqStat_dropped k + 1) 65535) ∧
      (¬ full → k.val < 64 → s.getF F.evtEvent_enable i = 1 → s.getF F.evtCtrl_enable k = 1 → s.getF F.evtCtrl_hold k = 0 →
        s.getF F.evtCoal_count (k * 16 + s.getF F.evtEvent_class i) = 0 → s.getF F.evtCoal_time_us (k * 16 + s.getF F.evtEvent_class i) = 0 →
        t.out = s.out ++ [.msix k] ∧ (t.evc k).due = [] ∧ t.evU k (s.getF F.evtEvent_class i) = 0)) ∧
  (∀ (k : CtrlIx) (cls : Fin 16) (s : State),
    (s.evU k cls = 0 ∨ s.getF F.evtCoal_time_us (k * 16 + cls) = 0 → exec (.coalesceTimerExpiry k cls) s = .next s) ∧
    (s.evU k cls ≠ 0 → s.getF F.evtCoal_time_us (k * 16 + cls) ≠ 0 → k.val < 64 → s.getF F.evtCtrl_enable k = 1 → s.getF F.evtCtrl_hold k = 0 →
      ∃ t, exec (.coalesceTimerExpiry k cls) s = .next t ∧ t.out = s.out ++ [.msix k] ∧ t.evU k cls = 0 ∧ t.regs = s.regs ∧ s.sameMemory t) ∧
    (s.evU k cls ≠ 0 → s.getF F.evtCoal_time_us (k * 16 + cls) ≠ 0 → s.getF F.evtCtrl_enable k = 0 ∨ s.getF F.evtCtrl_hold k = 1 →
      ∃ t, exec (.coalesceTimerExpiry k cls) s = .next t ∧ t.out = s.out ∧ (t.evc k).due = NSet.add cls (s.evc k).due ∧
        t.evU k cls = s.evU k cls)) ∧
  (∀ (path : Path) (v : BitVec 32) (s : State), s.admitted path = true →
    let k := ctrlOf path
    let i := k * 16 + bits v 0 4
    let legal := s.getF F.evtCoalShadow_count i ≤ 4096 ∧ s.getF F.evtCoalShadow_time_us i ≤ 60000 ∧
      ¬ (2 ≤ s.getF F.evtCoalShadow_count i ∧ s.getF F.evtCoalShadow_time_us i = 0)
    let h := s.getF F.evtRqHead_index k
    (∃ t, exec (.evtCompleteWrite path v) s = .next t ∧ t.getF F.evtEvent_pending (k * 512 + bits v 0 9) = 0 ∧
      s.regsBut t [(.evtEvent, k * 512 + bits v 0 9)] ∧ s.sameMemory t) ∧
    (v.getLsbD 4 = true → legal → ∃ t, exec (.evtCommitWrite path v) s = .next t ∧
      t.getF F.evtCoal_count i = s.getF F.evtCoalShadow_count i ∧ t.getF F.evtCoal_time_us i = s.getF F.evtCoalShadow_time_us i ∧
      s.regsBut t [(.evtCoal, i), (.evtCommit, k)]) ∧
    (v.getLsbD 4 = true → ¬ legal → ∃ t, exec (.evtCommitWrite path v) s = .next t ∧ t.getF F.evtCommit_error k = 1 ∧
      s.regsBut t [(.evtCommit, k)] ∧ s.announced t .pairCommitRejected stewardNode k (if k < 64 then k else 255) 0) ∧
    (v.getLsbD 4 = false → ∃ t, exec (.evtCommitWrite path v) s = .next t ∧ s.regsBut t [(.evtCommit, k)] ∧
      t.getF F.evtCommit_error k = if v.getLsbD 8 then 0 else s.getF F.evtCommit_error k) ∧
    ((bits v 0 13 + 8192 - h) % 8192 ≤ (s.getF F.evtRqTail_index k + 8192 - h) % 8192 →
      ∃ t, exec (.evtRqHeadWrite path v) s = .next t ∧ t.getF F.evtRqHead_index k = bits v 0 13 ∧ s.regsBut t [(.evtRqHead, k)]) ∧
    ((s.getF F.evtRqTail_index k + 8192 - h) % 8192 < (bits v 0 13 + 8192 - h) % 8192 →
      ∃ t, exec (.evtRqHeadWrite path v) s = .next t ∧ t.getF F.evtRqStat_head_error k = 1 ∧ s.regsBut t [(.evtRqStat, k)]) ∧
    (∃ t, exec (.evtCtrlWrite path v) s = .next t ∧ t.getF F.evtCtrl_enable k = (if v.getLsbD 0 then 1 else 0) ∧
      t.getF F.evtCtrl_hold k = (if v.getLsbD 1 then 1 else 0) ∧ s.regsBut t [(.evtCtrl, k)] ∧
      (v.getLsbD 0 = true → v.getLsbD 1 = false → (t.evc k).due = [])) ∧
    (∀ n : Fin 512, (Ev.ofNum (decide (k < 64)) n).isSome = true → ∃ t, exec (.evtEventEnableWrite path n v) s = .next t ∧
      t.getF F.evtEvent_enable (k * 512 + n) = (if v.getLsbD 16 then 1 else 0) ∧ s.regsBut t [(.evtEvent, k * 512 + n)] ∧
      (v.getLsbD 16 = true → s.getF F.evtEvent_enable (k * 512 + n) = 0 → s.getF F.evtEvent_pending (k * 512 + n) ≠ 0 →
        s.getF F.evtCtrl_enable k = 0 → t.evU k (s.getF F.evtEvent_class (k * 512 + n)) = s.evU k (s.getF F.evtEvent_class (k * 512 + n)) + 1)) ∧
    (∀ n : Fin 512, (Ev.ofNum (decide (k < 64)) n).isSome = false → exec (.evtEventEnableWrite path n v) s = .next (s.touch path)))
/-- A tail write hands over the entries up to the new tail, a head write frees completion slots, and a size is taken while the queue is
disabled; an index out of place or a size outside 6 to 12 is a queue error that changes nothing else (R374). The arbiter takes one entry of
the tenant, and one of the management plane: outstanding, or answered with REJECTED_FORMAT or REJECTED_AUTH (R377, R379, R380, R383). The
model's choices it rests on: logs 62, 63. -/
def Obligations.QueuesAreServed : Prop :=
  (∀ (path : Path) (v : BitVec 32) (entries : List Row) (s : State), s.queueReach path = true →
    let k := pathIx path
    let so := 2 ^ s.getF F.partOqCfg_log2_entries k
    let n := (bits v 0 12 + so - s.getF F.partOqTail_index k % so) % so
    let room := bits v 0 12 < so ∧ (s.getF F.partOqTail_index k + so - s.getF F.partQStat_oq_head k % so) % so + n < so
    let sc := 2 ^ s.getF F.partCqCfg_log2_entries k
    let frees := bits v 0 12 < sc ∧ (bits v 0 12 + sc - s.getF F.partCqHead_index k % sc) % sc ≤
      (s.getF F.partQStat_cq_tail k + sc - s.getF F.partCqHead_index k % sc) % sc
    (s.getF F.partOqCfg_enable k = 1 → room → ∃ t, exec (.oqTailWrite path v entries) s = .next t ∧
      t.getF F.partOqTail_index k = bits v 0 12 ∧ s.regsBut t [(.partOqTail, k)] ∧
      (t.fn k).fetched = (s.fn k).fetched ++ (rangeFrom 0 n).map (fun i => entries.getD i 0) ∧ t = { s with regs := t.regs, fns := t.fns }) ∧
    (s.getF F.partOqCfg_enable k = 1 → ¬ room → ∃ t, exec (.oqTailWrite path v entries) s = .next t ∧
      t.getF F.partQStat_queue_error k = 1 ∧ s.regsBut t [(.partQStat, k)] ∧ (t.fn k).fetched = (s.fn k).fetched) ∧
    (s.getF F.partOqCfg_enable k = 0 → exec (.oqTailWrite path v entries) s = .next (s.touch path)) ∧
    (s.getF F.partCqCfg_enable k = 1 → frees → ∃ t, exec (.cqHeadWrite path v) s = .next t ∧
      t.getF F.partCqHead_index k = bits v 0 12 ∧ ((s.fn k).held = [] → s.regsBut t [(.partCqHead, k)] ∧ t.out = s.out)) ∧
    (s.getF F.partCqCfg_enable k = 1 → ¬ frees → ∃ t, exec (.cqHeadWrite path v) s = .next t ∧
      t.getF F.partQStat_queue_error k = 1 ∧ s.regsBut t [(.partQStat, k)]) ∧
    (s.getF F.partOqCfg_enable k = 1 → v.getLsbD 4 = true → exec (.queueCfgWrite path false v) s = .next (s.touch path)) ∧
    (s.getF F.partOqCfg_enable k = 1 → v.getLsbD 4 = false → ∃ t, exec (.queueCfgWrite path false v) s = .next t ∧
      t.getF F.partOqCfg_enable k = 0 ∧ t.getF F.partOqTail_index k = 0 ∧ t.getF F.partQStat_oq_head k = 0 ∧ (t.fn k).fetched = []) ∧
    (∀ cq : Bool, (if cq then s.getF F.partCqCfg_enable k else s.getF F.partOqCfg_enable k) = 0 →
      (v.getLsbD 4 = true → bits v 0 4 < 6 ∨ 12 < bits v 0 4 → ∃ t, exec (.queueCfgWrite path cq v) s = .next t ∧
        t.getF F.partQStat_queue_error k = 1 ∧ s.regsBut t [(.partQStat, k)]) ∧
      (v.getLsbD 4 = true → 6 ≤ bits v 0 4 → bits v 0 4 ≤ 12 → ∃ t, exec (.queueCfgWrite path cq v) s = .next t ∧
        (if cq then t.getF F.partCqCfg_log2_entries k else t.getF F.partOqCfg_log2_entries k) = bits v 0 4 ∧
        (if cq then t.getF F.partCqCfg_enable k else t.getF F.partOqCfg_enable k) = 1))) ∧
  (∀ (a : Fin 65) (k : Nat) (w : Row) (rest : List Row) (s : State),
    (k = a.val ∧ a.val < 64 ∧ (∀ j ∈ rangeFrom 64 6, (s.fn j).fetched = []) ∨
      64 ≤ k ∧ k < 70 ∧ (a.val < 64 → (s.fn a).fetched = [] ∧ ordByte w 4 = a.val) ∧ (a.val = 64 → 64 ≤ ordByte w 4) ∧
        (∀ j ∈ rangeFrom 64 6, j ≠ k → (s.fn j).fetched = [])) →
    s.fetches k = true → (s.fn k).fetched = w :: rest →
    let may := (ordByte w 0 = opOpen ∨ (s.fn k).session.isSome = true) ∧ (64 ≤ k → mgmtMay (ordByte w 0) = true)
    let part := if k < 64 then k else ordByte w 4
    ∃ t, exec (.arbitrationCycle a) s = .next t ∧ (t.fn k).fetched = rest ∧ s.sameMemory t ∧
      (s.formatOk k w = true → may → t.out = s.out ∧ ∃ o, (t.fn k).orders.map (·.tag) = (s.fn k).orders.map (·.tag) ++ [o.tag] ∧
        (t.fn k).orders.getLast? = some o ∧ o.words = w ∧ o.path = pathOf k ∧ o.tag = ordNat w 2 2) ∧
      (s.formatOk k w = false → s.gotAnswer t k ⟨ordNat w 2 2 % 4096, ccFormat, ordByte w 0, part, 0, 0⟩ ∧
        (t.fn k).orders.map (·.tag) = (s.fn k).orders.map (·.tag)) ∧
      (s.formatOk k w = true → ¬ may → s.gotAnswer t k ⟨ordNat w 2 2 % 4096, ccAuth, ordByte w 0, part, 0, 0⟩ ∧
        (t.fn k).orders.map (·.tag) = (s.fn k).orders.map (·.tag)))
/-- A challenge gives a nonce and its expiry takes it away; an OPEN with the right response opens the session and the partition, a wrong one
is counted and the fifth locks the function until the lockout ends (R366 to R370, R384). An idle session times out, a CLOSE tears the
partition down, and teardown leaves its memory zero and the partition EMPTY, its shared extents when no other session uses them (R371 to
R373, R397). The model's choices it rests on: log 37. -/
def Obligations.SessionsOpenAndClose : Prop :=
  (∀ (path : Path) (s : State),
    let k := pathIx path
    (s.queueReach path = true → ∃ t, exec (.challenge path) s = .next t ∧ (t.fn k).nonceValid = true ∧
      (t.fn k).nonce = Config.nonce s.freeCtr ∧ (∀ j, j ≠ k → t.fn j = s.fn j) ∧ t = { s with fns := t.fns, freeCtr := s.freeCtr + 1 }) ∧
    (s.queueReach path = false → exec (.challenge path) s = .next (s.touch path)) ∧
    (∃ t, exec (.nonceExpiry path) s = .next t ∧ (t.fn k).nonceValid = false ∧ (∀ j, j ≠ k → t.fn j = s.fn j) ∧ t = { s with fns := t.fns }) ∧
    (s.getF F.partSessStat_locked k = 1 → ∃ t, exec (.lockoutEnd path) s = .next t ∧ t.getF F.partSessStat_locked k = 0 ∧
      t.getF F.partSessStat_failures k = 0 ∧ s.onlyRegs t [(.partSessStat, k)]) ∧
    (s.getF F.partSessStat_locked k = 0 → exec (.lockoutEnd path) s = .next s) ∧
    ((s.fn k).session.isNone = true → exec (.sessionTimeout path) s = .next s) ∧
    ((s.fn k).session.isSome = true → s.getF F.partSessCfg_idle_s k ≠ 0 → (s.fn k).orders = [] →
      (64 ≤ k → ∃ t, exec (.sessionTimeout path) s = .next t ∧ (t.fn k).session = none ∧ t.regs = s.regs ∧
        s.announced t .sessionTimeout stewardNode 64 255 0) ∧
      (k < 64 → s.pState k ≠ psRunning → s.pState k ≠ psPaused → s.ordersOn k = [] → ∃ t, exec (.sessionTimeout path) s = .next t ∧
        (t.fn k).session = none ∧ t.pState k = psZero))) ∧
  (∀ (p : PartIx) (tag : Fin 4096) (o : OrderSt) (s : State), s.orderReady (.vf p) tag opOpen o → o.part = p.val → ordByte o.words 16 = 0 →
    (s.fn p).session = none → s.pState p = psEmpty → s.getF F.partState_zero_pending p = 0 →
    let count := s.getF F.partSessCount_count p
    let right := ∃ key, s.keyFor p 0 = some key ∧ response key (s.fn p).nonce p count = leBytes (ordNat o.words 32 32) 32
    ∃ t, exec (.openSession (.vf p) tag) s = .next t ∧ (t.fn p).nonceValid = false ∧ s.sameMemory t ∧
      (s.getF F.partSessStat_locked p = 1 → s.doneOrder t o ccAuth 3 ∧ (t.fn p).session = none) ∧
      (s.getF F.partSessStat_locked p = 0 → (s.fn p).nonceValid = false → s.doneOrder t o ccAuth 2 ∧ (t.fn p).session = none) ∧
      (s.getF F.partSessStat_locked p = 0 → (s.fn p).nonceValid = true → right → s.doneOrder t o ccOk 0 ∧ (t.fn p).session = some 0 ∧
        t.pState p = psOpened ∧ t.getF F.partSessCount_count p = (count + 1) % 2 ^ 32 ∧ t.getF F.partSessStat_failures p = 0) ∧
      (s.getF F.partSessStat_locked p = 0 → (s.fn p).nonceValid = true → ¬ right → s.doneOrder t o ccAuth 1 ∧ (t.fn p).session = none ∧
        (s.getF F.partSessStat_failures p < 4 → t.getF F.partSessStat_failures p = s.getF F.partSessStat_failures p + 1 ∧
          t.getF F.partSessStat_locked p = 0) ∧
        (4 ≤ s.getF F.partSessStat_failures p → t.getF F.partSessStat_locked p = 1 ∧
          t.getF F.partSessStat_lock_left p = lockSeconds (min (s.getF F.partSessStat_lockouts p + 1) 15)))) ∧
  (∀ (p : PartIx) (s : State),
    (∀ (path : Path) (tag : Fin 4096) (o : OrderSt), s.orderReady path tag opClose o → o.part = p.val →
      ∃ t, exec (.closeSession path tag) s = .next t ∧ t.pState p = psZero ∧ (t.fn p).session = none ∧
        (t.part p).closing = some { o with stage := 2 }) ∧
    (s.pState p ≠ psZero → exec (.teardownDone p) s = .next s) ∧
    (s.pState p = psZero → ∃ t, exec (.teardownDone p) s = .next t ∧ t.pState p = psEmpty ∧
      t.part p = { PartSt.init with faults := s.openFaults p } ∧ (t.fn p).fetched = [] ∧
      (∀ o, (s.part p).closing = some o → ∃ r, s.gotAnswer t (pathIx o.path) ⟨o.tag, ccOk, o.opcode, o.part, 0, r⟩) ∧
      (∀ c ∈ s.coresOf p, ∀ r < 131072, t.row c r = 0 ∧ t.rowPoison c r = false) ∧
      (∀ e ∈ s.copyExtents p, e ∉ s.heldShared p → ∀ a, extHolds e a = true → Memory.read t.dram a = 0)) ∧
    (s.getF F.partState_zero_pending p = 1 → s.heldShared p = [] → ∃ t, exec (.sharedExtentZeroing p) s = .next t ∧
      t.getF F.partState_zero_pending p = 0 ∧ s.regsBut t [(.partState, p)] ∧ t.spad = s.spad ∧
      (∀ a, (∃ e ∈ s.ownShared p, extHolds e a = true) → Memory.read t.dram a = 0) ∧
      (∀ a, (∀ e ∈ s.ownShared p, extHolds e a = false) → Memory.read t.dram a = Memory.read s.dram a)) ∧
    (s.getF F.partState_zero_pending p = 0 ∨ s.heldShared p ≠ [] → exec (.sharedExtentZeroing p) s = .next s))
/-- The orders of a run. An order its partition does not admit is REJECTED_STATE. LOAD_CAPSULE is refused by its detail or loads the capsule
and leaves the partition LOADED; START begins the run, after the module's exit from HOLD; PAUSE withholds the next release and RESUME ends a
pause, as its hold time does; CANCEL ends the order it names, or the run; ready orders on one partition act in the order of the cycles in which
they became ready (R380 to R391, R471). The model's choices it rests on: logs 9, 22, 34, 49, 105. -/
def Obligations.RunOrdersAct : Prop :=
  (∀ (path : Path) (tag : Fin 4096) (o : OrderSt) (s : State) (hd : BitVec 2048) (rest : List Byte) (body : Capsule),
    ∀ x ∈ [(Instr.loadCapsule path tag hd rest body, opLoad), (.start path tag, opStart), (.pause path tag, opPause),
        (.resume path tag, opResume), (.cancelKind0 path tag, opCancel), (.cancelKind1 path tag, opCancel), (.feed path tag, opFeed),
        (.readOut path tag, opReadOut), (.checkpoint path tag, opCheckpoint), (.restore path tag true, opRestore),
        (.joinGroup path tag, opJoin), (.leaveGroup path tag, opLeave), (.closeSession path tag, opClose)],
      (s.order path tag = none → exec x.1 s = .next s) ∧
      (∀ m ∈ s.ordersOn o.part, s.order path tag = some o → m.stage = 1 → s.inTurn m = false → m.since < o.since → exec x.1 s = .next s) ∧
      (s.order path tag = some o → o.path = path → o.opcode = x.2 → o.stage = 1 → s.blockedOrder o = false → o.part < 64 →
        admits x.2 (s.pState o.part) (s.flagF F.partState_pause_pending o.part) = false →
        ∃ t, exec x.1 s = .next t ∧ s.doneOrder t o ccState (s.pState o.part) ∧ s.sameMemory t ∧ t.parts = s.parts ∧ s.regsBut t [(.partQStat, pathIx path)])) ∧
  (∀ (path : Path) (tag : Fin 4096) (o : OrderSt) (hd : BitVec 2048) (rest : List Byte) (body : Capsule) (s : State),
    s.orderReady path tag opLoad o → (s.part o.part).loading = none →
    let d := s.judgeCapsule o.part (ordNat o.words 24 8) hd rest (capsuleOf hd body)
    ∃ t, exec (.loadCapsule path tag hd rest body) s = .next t ∧ s.sameMemory t ∧
      (d ≠ 0 → s.doneOrder t o ccFormat (d % 65536) ∧ t.parts = s.parts) ∧
      (d = 0 → (t.part o.part).loading = some ({ o with stage := 2 }, capsuleOf hd body) ∧ t.regs = s.regs ∧ t.out = s.out)) ∧
  (∀ (p : PartIx) (s : State),
    ((s.part p).loading = none → exec (.capsuleLoadDone p) s = .next s) ∧
    (∀ o b, (s.part p).loading = some (o, b) → ∃ t, exec (.capsuleLoadDone p) s = .next t ∧ t.pState p = psLoaded ∧
      (t.part p).cap = some b ∧ (t.part p).loading = none ∧ t.getF F.partAliasGen_generation p = 0 ∧ s.doneOrder t o ccOk 0 ∧ t.spad = s.spad)) ∧
  (∀ (path : Path) (tag : Fin 4096) (o : OrderSt) (s : State), s.orderReady path tag opStart o →
    (s.getF F.partState_restore_incomplete o.part = 1 → ∃ t, exec (.start path tag) s = .next t ∧
      s.doneOrder t o ccState (s.pState o.part) ∧ t.parts = s.parts) ∧
    (s.getF F.partState_restore_incomplete o.part = 0 → s.pwState = pwHold → ∃ t, exec (.start path tag) s = .next t ∧
      t.mod.wakers = s.mod.wakers ++ [{ o with stage := 2 }] ∧ t.regs = s.regs ∧ (s.getF F.pwrState_leak 0 = 0 → t.mod.exiting = true)) ∧
    (s.getF F.partState_restore_incomplete o.part = 0 → s.pwState ≠ pwHold → s.feedsMissing o.part 0 = false →
      (∀ n c, n ∈ s.activeOf o.part → s.physOf o.part n = some c → (s.core c).state ≤ 1) →
      ∃ t, exec (.start path tag) s = .next t ∧ t.pState o.part = psRunning ∧ t.getF F.partRun_steps o.part = 0 ∧
        t.getF F.partRun_runs o.part = min (s.getF F.partRun_runs o.part + 1) (2 ^ 16 - 1) ∧
        (∀ e ∈ s.activePairs o.part, t.getF F.seqStatus_state e.2 = stRunning) ∧ s.sameMemory t)) ∧
  (∀ (path : Path) (tag : Fin 4096) (o : OrderSt) (s : State),
    let hold := ordNat o.words 16 4
    (s.orderReady path tag opPause o → s.pState o.part = psPaused → ∃ t, exec (.pause path tag) s = .next t ∧ s.doneOrder t o ccOk 0 ∧
      (t.part o.part).paused = some hold ∧ (t.part o.part).pausedAt = s.now) ∧
    (s.orderReady path tag opPause o → s.pState o.part ≠ psPaused → ∃ t, exec (.pause path tag) s = .next t ∧
      (t.part o.part).pauseAsked = (s.part o.part).pauseAsked ++ [(some { o with stage := 2 }, hold)] ∧
      t.getF F.partState_pause_pending o.part = 1 ∧ t.ctl = (s.send (.hold 0) o.part stewardNode stewardNode).ctl ∧ s.sameMemory t) ∧
    (s.orderReady path tag opResume o → o.isMgmt = false → s.getF F.partPower_cap_paused o.part = 1 →
      ∃ t, exec (.resume path tag) s = .next t ∧ s.doneOrder t o ccSuperseded 0 ∧ t.parts = s.parts) ∧
    (s.orderReady path tag opResume o → o.isMgmt = true ∨ s.getF F.partPower_cap_paused o.part = 0 → s.pwState ≠ pwHold →
      s.pState o.part = psPaused → s.noPauses o.part → (s.part o.part).arrivals = none →
      ∃ t, exec (.resume path tag) s = .next t ∧ s.doneOrder t o ccOk 0 ∧ t.pState o.part = psRunning ∧ (t.part o.part).paused = none ∧
        s.sameMemory t) ∧
    (s.orderReady path tag opCancel o → ordByte o.words 16 = 0 →
      (∀ x ∈ (s.fn (pathIx path)).orders, x.tag = ordNat o.words 18 2 → x.tag = o.tag) →
      ∃ t, exec (.cancelKind0 path tag) s = .next t ∧ s.doneOrder t o ccState 0xFF ∧ t.parts = s.parts) ∧
    (∀ x, s.orderReady path tag opCancel o → ordByte o.words 16 = 0 → s.order path (ordNat o.words 18 2) = some x → x.tag ≠ o.tag →
      x.path = path → x.stage < 2 → ∃ t, exec (.cancelKind0 path tag) s = .next t ∧ s.doneOrder t o ccOk 0 ∧ t.order path x.tag = none ∧
        t.parts = s.parts) ∧
    (s.orderReady path tag opCancel o → ordByte o.words 16 = 1 → ∃ t, exec (.cancelKind1 path tag) s = .next t ∧ t.order path o.tag = none ∧
      (s.pState o.part = psRunning ∨ s.pState o.part = psPaused ∨ s.pState o.part = psStopped → t.pState o.part = psLoaded ∧
        (∀ c ∈ s.coresOf o.part, t.getF F.seqStatus_state c = stStopped)))) ∧
  (∀ (p : PartIx) (s : State),
    ((s.part p).paused = none ∨ (s.part p).paused = some 0 → exec (.pauseExpired p) s = .next s) ∧
    (∀ h, (s.part p).paused = some (h + 1) → s.getF F.partPower_cap_paused p = 0 → s.pwState ≠ pwHold → s.noPauses p →
      (s.part p).arrivals = none → ∃ t, exec (.pauseExpired p) s = .next t ∧ t.pState p = psRunning ∧ (t.part p).paused = none ∧
        s.announced t .pauseExpired stewardNode p p 0 ∧ s.sameMemory t) ∧
    (s.mod.exiting = true → s.pwState = pwHold → s.mod.wakers = [] → (∀ q < 64, (s.part q).resumeDue = false) →
      ∃ t, exec .moduleHoldExitDone s = .next t ∧ t.pwState = pwActive ∧ t.mod.exiting = false ∧ s.sameMemory t ∧
        ∀ c < 4096, s.getF F.seqStatus_standby c = 1 → s.getF F.vregPoint_state c ≠ vOff → t.getF F.vregPoint_state c = vIdle) ∧
    (s.mod.exiting = false → exec .moduleHoldExitDone s = .next s))
/-- The orders on data. FEED waits for its transfer, which completes it; READ_OUT hands out the bytes it names, at a release while the
partition runs; CHECKPOINT takes its turn; RESTORE needs a valid header; a partition joins the groups it may and declared, and leaves them
(R229, R392 to R396). The model's choices it rests on: log 49. -/
def Obligations.DataOrdersAct : Prop :=
  ∀ (path : Path) (tag : Fin 4096) (o : OrderSt) (s : State),
    let p := o.part
    let n := ordNat o.words 32 4
    let g := ordByte o.words 16
    let permitted := ((s.image.map (·.groups)).getD []).any (fun d => decide (d.num = g) && d.members.contains p)
    let declared := (s.part p).cap.any (fun c => c.streamGroups.contains g)
    (s.orderReady path tag opFeed o →
      (s.feedBuf o = none → ∃ t, exec (.feed path tag) s = .next t ∧ s.doneOrder t o ccFormat 0 ∧ t.parts = s.parts) ∧
      (∀ b, s.feedBuf o = some b → b.size < feedLen o → ∃ t, exec (.feed path tag) s = .next t ∧ s.doneOrder t o ccFormat 0) ∧
      (∀ b, s.feedBuf o = some b → feedLen o ≤ b.size → s.stepBegun p (feedStep o) = true →
        ∃ t, exec (.feed path tag) s = .next t ∧ s.doneOrder t o ccState (s.pState p)) ∧
      (∀ b, s.feedBuf o = some b → feedLen o ≤ b.size → s.stepBegun p (feedStep o) = false →
        ∃ t, exec (.feed path tag) s = .next t ∧ t.order path tag = some { o with stage := 2 } ∧ t = { s with fns := t.fns })) ∧
    (∀ b data, s.order path tag = some o → o.path = path → o.opcode = opFeed → o.stage = 2 → s.feedBuf o = some b → feedStep o ≤ 1 →
      (s.part p).beginWait = false → (s.part p).arrivals = none →
      ∃ t, exec (.feedTransfer path tag data) s = .next t ∧ s.doneOrder t o ccOk 0 ∧
        (t.part p).fed = (s.part p).fed ++ [(b.num, feedStep o)] ∧ t.spad = s.spad) ∧
    (s.orderReady path tag opReadOut o →
      (s.blocksOf p (ordNat o.words 16 8) n = none → ∃ t, exec (.readOut path tag) s = .next t ∧ s.doneOrder t o ccFormat 0 ∧ s.sameMemory t) ∧
      (∀ bl, s.blocksOf p (ordNat o.words 16 8) n = some bl → s.pState p ≠ psRunning → ∃ t bad, exec (.readOut path tag) s = .next t ∧
        bad = (bl.filter (fun b => (s.blkMeta b.1).poison)).length ∧ s.doneOrder t o (if bad = 0 then ccOk else ccFaulted) (bad % 65536) ∧
        Out.hostData (pathIx path) (ordNat o.words 24 8) n (s.partRead p (ordNat o.words 16 8) n) ∈ t.out ∧ s.sameMemory t) ∧
      (∀ bl, s.blocksOf p (ordNat o.words 16 8) n = some bl → s.pState p = psRunning → n ≤ 16 * 2 ^ 20 →
        ∃ t, exec (.readOut path tag) s = .next t ∧ t.order path tag = some { o with stage := 2 } ∧ t = { s with fns := t.fns })) ∧
    (s.orderReady path tag opCheckpoint o →
      ((s.part p).copy.isSome = true → ∃ t, exec (.checkpoint path tag) s = .next t ∧
        (t.part p).copyQueue = (s.part p).copyQueue ++ [{ o with stage := 2 }] ∧ (t.part p).copy = (s.part p).copy ∧ s.sameMemory t) ∧
      ((s.part p).copy = none → s.pState p = psRunning → s.pastWindow p o = false → ∃ t c, exec (.checkpoint path tag) s = .next t ∧
        (t.part p).copy = some c ∧ c.order = { o with stage := 2 } ∧ c.slot = o.slot ∧ c.taken = false ∧ s.sameMemory t)) ∧
    (s.orderReady path tag opRestore o → (s.part p).restore = none →
      (∃ t, exec (.restore path tag false) s = .next t ∧ s.doneOrder t o ccFaulted 1 ∧ t.parts = s.parts ∧ s.sameMemory t) ∧
      (∃ t, exec (.restore path tag true) s = .next t ∧ (t.part p).restore = some ⟨{ o with stage := 2 }, 0⟩ ∧ s.sameMemory t)) ∧
    (s.orderReady path tag opJoin o →
      (permitted = false → ∃ t, exec (.joinGroup path tag) s = .next t ∧ s.doneOrder t o ccAuth 0 ∧ t.parts = s.parts) ∧
      (permitted = true → declared = false → ∃ t, exec (.joinGroup path tag) s = .next t ∧ s.doneOrder t o ccFormat 0 ∧ t.parts = s.parts) ∧
      (permitted = true → declared = true → s.isMember p g = false → ∃ t, exec (.joinGroup path tag) s = .next t ∧ s.doneOrder t o ccOk 0 ∧
        (t.part p).joined.contains g = true ∧ (∀ m < 40, (t.site m).joining.contains (g, p) = true) ∧ s.sameMemory t)) ∧
    (s.orderReady path tag opLeave o → s.isMember p g = true → (∀ m < 40, (s.site m).waits = []) →
      ∃ t, exec (.leaveGroup path tag) s = .next t ∧ s.doneOrder t o ccOk 0 ∧ s.sameMemory t ∧
        ∀ m < 40, (t.site m).active.contains (g, p) = false ∧ (t.site m).joining.contains (g, p) = false)
/-- A checkpoint copy lists each site's units at its snapshot, sends its blocks, and completes with the header's acknowledgement, or ends
FAULTED on a refusal; a permitted sender's blocks are kept; a restore writes blocks that pass their check and poisons the others (R235 to
R240, R394, R395, R437). The model's choices it rests on: logs 18, 20, 21, 47. -/
def Obligations.CheckpointsCopyAndRestore : Prop :=
  (∀ (p : PartIx) (s : State),
    ((s.part p).copy = none → exec (.checkpointSnapshot p) s = .next s) ∧
    (∀ c, (s.part p).copy = some c → c.taken = true → exec (.checkpointSnapshot p) s = .next s) ∧
    (∀ c, (s.part p).copy = some c → c.taken = false → s.pState p ≠ psRunning → ∃ t, exec (.checkpointSnapshot p) s = .next t ∧ s.sameMemory t ∧
      (t.part p).copy = some { c with taken := true, mark := (s.part p).markNow.getD 0 } ∧
      ∀ m < 40, s.siteUnits p m ≠ [] → t.getF F.ldgCkptStat_blocks m = 0 ∧
        (∃ q, (⟨.stewardOrder p c.order.slot, false, p, siteNode m, stewardNode, 0, q⟩ : Ctl) ∈ t.ctl) ∧
        (t.site m).copying = (s.site m).copying ++ [⟨p, c.order.slot, if c.order.incremental then (s.siteUnits p m).filter (fun u =>
          (s.site m).dirty.contains (dirtyKey p u c.order.slot)) else s.siteUnits p m, 0, []⟩])) ∧
  (∀ (m : SiteIx) (msg : Ctl) (p slot misreads base len : Nat) (c : Copy) (k : SiteCopy) (e : Nat × Nat × Nat × Bool × BitVec 32) (s : State),
    msg.msg = .stewardOrder p slot → msg.high = false → (s.part p).copy = some c → (s.site m).copying.find? (fun k => k.part = p) = some k →
    (s.site m).leaving.find? (fun e => e.1 = p) = none →
    (s.site m).ahead.find? (fun e => e.1 = p) = some e → c.order.toCxl = true → s.cxlWindow p c.order.buddy = some (base, len) →
    s.getF F.epdHost_up c.order.buddy = 1 →
    ∃ t, exec (.stewardOrder m msg 1 misreads) s = .next t ∧ t.out = s.out ++
        [.cxlWrite c.order.buddy (base + c.order.cxlAddr) c.order.slot false e.2.1 e.2.2.1 e.2.2.2.1 e.2.2.2.2] ∧
      (t.part p).copy = some { c with unacked := NSet.add e.2.1 c.unacked } ∧ (t.site m).ahead = dropFirst e (s.site m).ahead ∧
      t.getF F.ldgCkptStat_blocks m = min (s.getF F.ldgCkptStat_blocks m + 1) (2 ^ 32 - 1) ∧ msg ∈ t.ctl ∧ s.sameMemory t) ∧
  (∀ (f : KlFrame) (slot block : Nat) (header ok : Bool) (c : Copy) (s : State), f.body = .ckptAck slot header block ok →
    let b := if header then headerBlk else block
    (((s.part f.part).copy = none ∨ (s.part f.part).copy = some c ∧ c.unacked.contains b = false) →
      exec (.ckptAck f) s = .next (s.takeFrame f)) ∧
    ((s.part f.part).copy = some c → c.unacked.contains b = true → (s.part f.part).copyQueue = [] → c.header = true → ok = true →
      ∃ t, exec (.ckptAck f) s = .next t ∧ (t.part f.part).copy = none ∧ s.doneOrder t c.order ccOk 0 ∧
        s.raisedOne t .checkpointDone stewardNode f.part f.part 0 ∧ s.sameMemory t) ∧
    ((s.part f.part).copy = some c → c.unacked.contains b = true → (s.part f.part).copyQueue = [] → c.taken = false → ok = false →
      ∃ t, exec (.ckptAck f) s = .next t ∧ (t.part f.part).copy = none ∧ s.doneOrder t c.order ccFaulted 0 ∧
        s.raisedOne t .checkpointFailed stewardNode f.part f.part 0 ∧ s.sameMemory t)) ∧
  (∀ (sub : Fin 256) (f : KlFrame) (p slot block data : Nat) (header : Bool) (crc : BitVec 32) (s : State),
    f.body = .ckptData p slot header block data crc →
    let allowed := decide (s.getF F.ldgRecv_frame_count 0 ≠ 0) && ((s.image.map (·.ckptSenders)).getD []).any (fun e => decide (e.1 = f.src) && decide (e.2.1 = p))
    let key := recvKey f.src (p % 64) (slot % 2) (if header then headerBlk else block % headerBlk)
    ∃ t, exec (.ckptData sub f) s = .next t ∧ t.dram = s.dram ∧ t.spad = s.spad ∧
      (allowed = true → Tab.get (fun _ => none) t.recv key = some ⟨data % 2 ^ 32768, f.poison, crc⟩ ∧
        ∀ j, j ≠ key → Tab.get (fun _ => none) t.recv j = Tab.get (fun _ => none) s.recv j) ∧
      (allowed = false → t.recv = s.recv ∧
        t.getF F.epdStat_isolation (sub.val / 32) = min (s.getF F.epdStat_isolation (sub.val / 32) + 1) 1023)) ∧
  (∀ (p : PartIx) (r : Restore) (s : State), (s.part p).restore = some r →
    (∃ t, exec (.restoreDone p []) s = .next t ∧ (t.part p).restore = none ∧ t.getF F.partState_restore_incomplete p = 0 ∧
      (r.bad = 0 → s.doneOrder t r.order ccOk 0) ∧ (r.bad ≠ 0 → s.doneOrder t r.order ccFaulted 2) ∧ s.sameMemory t) ∧
    (∀ (block : Nat) (b : RestoreBlk) (x : Place), translate (s.copyExtents p) (b.block * 4096) = some x →
      s.place p (b.block * 4096) = some x →
      let good := crc32c (leBytes b.data blockBytes) = b.crc
      (∃ t, exec (.cxlMemCompletion p true block (some b)) s = .next t ∧ t.blkData x.blk = b.data % 2 ^ 32768 ∧
        (t.blkMeta x.blk).poison = (b.poison || !decide good) ∧ (∀ j, j ≠ x.blk → t.blkMeta j = s.blkMeta j) ∧
        (t.part p).restore = some { r with bad := r.bad + if good then 0 else 1 } ∧ t.spad = s.spad) ∧
      (∃ t, exec (.cxlMemCompletion p false block (some b)) s = .next t ∧ (t.blkMeta x.blk).poison = true ∧
        (∀ j, j ≠ x.blk → t.blkMeta j = s.blkMeta j) ∧ (t.part p).restore = some { r with bad := r.bad + 1 } ∧ t.spad = s.spad))) ∧
  (∀ (p : PartIx) (blocks : List RestoreBlk) (s : State), (s.part p).restore = none → exec (.restoreDone p blocks) s = .next s)
/-- What ends a run badly: a micro-step over its limit is reported once, a hung core is a fault that stops or recovers its partition; the
retry fences a core whose fault repeats and returns one whose fault does not; the drain needs every tag free and a standby, which then takes
the failed core's number and is reported, else the partition is held; a second fault before the drain is drained with the first, each core to a
standby of its own; the replay restores the mirror and lets the held cores go (R100, R105, R334, R345, R346, R354, R358, R360 to R362). The
model's choices it rests on: logs 18, 48, 50, 104. -/
def Obligations.RecoveryProceeds : Prop :=
  (∀ (c : CoreIx) (p : Nat) (s : State), s.ownerOf c = some p →
    ((s.core c).overrun = true → exec (.ustepOverrun c) s = .next s) ∧
    (s.now - (s.core c).releasedAt ≤ 100 * s.getF F.seqUstepLimit_limit c → exec (.ustepOverrun c) s = .next s) ∧
    ((s.core c).overrun = false → 100 * s.getF F.seqUstepLimit_limit c < s.now - (s.core c).releasedAt →
      ∃ t, exec (.ustepOverrun c) s = .next t ∧ (t.core c).overrun = true ∧ s.raisedOne t .ustepOverrun c p p 0 ∧ s.sameMemory t) ∧
    (∃ t, exec (.coreHang c) s = .next t ∧ s.raisedOne t .coreHang c p p 0 ∧ s.sameMemory t ∧
      (bits (s.reg .partFaultPolicy p) 6 2 = 1 → (t.part p).stopHold = true ∧ (s.pState p = psRunning → t.pState p = psStopped)) ∧
      (bits (s.reg .partFaultPolicy p) 6 2 = 2 → (s.core c).state ≤ 1 → (t.core c).state = 2 ∧
        (s.logicalOf p c = none → (t.part p).recov = (s.part p).recov ∧ ∀ k, t.getF F.seqStatus_state k = s.getF F.seqStatus_state k) ∧
        (∀ n, s.logicalOf p c = some n →
          ((∀ r, (s.part p).recov = some r → 2 ≤ r.stage) →
            ∃ r, (t.part p).recov = some r ∧ r.logical = n ∧ r.phys = c.val ∧ r.stage = 0) ∧
          (∀ r, (s.part p).recov = some r → r.stage < 2 → (t.part p).recov = some r ∧
            ∃ x, (t.part p).faults = (s.part p).faults ++ [x] ∧ x.logical = n ∧ x.phys = c.val ∧ x.stage = 0) ∧
          (∀ k ∈ s.coresOf p, s.getF F.seqStatus_state k = stRunning → t.getF F.seqStatus_state k = stHeld))) ∧
      (bits (s.reg .partFaultPolicy p) 6 2 = 2 → 2 ≤ (s.core c).state → (t.core c).state = (s.core c).state ∧ t.parts = s.parts))) ∧
  (∀ (p : PartIx) (repeats : Bool) (digest : BitVec 32) (unit : BitVec 16) (r : Recovery) (s : State), (s.part p).recov = some r →
    ((s.core r.phys).state ≠ 2 → (s.part p).faults = [] → exec (.faultRetryDone p repeats digest unit) s = .next s) ∧
    (r.phys < 4096 → r.logical < 65536 → (s.core r.phys).state = 2 → r.ev = Ev.coreHang.num → r.stage = 0 →
      (repeats = true → ∃ t, exec (.faultRetryDone p repeats digest unit) s = .next t ∧ (t.core r.phys).state = 4 ∧
        t.getF F.partRecovery_fences p = min (s.getF F.partRecovery_fences p + 1) 4095 ∧ t.unitState (unitCore r.phys) = 3 ∧
        s.raisedOne t .coreFenced stewardNode p p r.phys ∧ s.sameMemory t) ∧
      (repeats = false → (s.healthOf r.phys).state = 0 → (s.healthOf r.phys).times = [] →
        ∃ t, exec (.faultRetryDone p repeats digest unit) s = .next t ∧ (t.core r.phys).state = 0 ∧
          (t.part p).returned = (s.part p).returned ++ [r.phys] ∧ s.sameMemory t)) ∧
    (∀ c ∈ s.coresOf p, (s.core c).tags ≠ [] → exec (.recoveryDrainDone p) s = .next s) ∧
    (r.stage = 1 → r.logical < 65536 → (s.part p).faults = [] → (∀ c ∈ s.coresOf p, (s.core c).tags = []) →
      (s.part p).failedStep.contains r.logical = true ∨ s.standbys p = [] →
      ∃ t, exec (.recoveryDrainDone p) s = .next t ∧ t.pState p = psHeld ∧ t.getF F.partRecovery_held p = 1 ∧ (t.part p).recov = none ∧
        s.raisedOne t .partitionFaultedHold stewardNode p p 0) ∧
    (∀ r' sb sb' l, r.stage = 1 → r.logical < 65536 → (s.part p).faults = [r'] → r'.stage = 1 → r'.logical < 65536 → r'.logical ≠ r.logical →
      (∀ c ∈ s.coresOf p, (s.core c).tags = []) → (s.part p).failedStep.contains r.logical = false → (s.part p).failedStep.contains r'.logical = false →
      s.standbys p = sb :: sb' :: l → sb.1 ≠ r.logical → sb.1 ≠ r'.logical → sb'.1 ≠ r.logical → sb'.1 ≠ r'.logical →
      ∃ t, exec (.recoveryDrainDone p) s = .next t ∧ Tab.get (fun _ => 0) (t.part p).aliasTab r.logical = entryOf sb.2 1 ∧
        Tab.get (fun _ => 0) (t.part p).aliasTab r'.logical = entryOf sb'.2 1 ∧ (t.part p).failedStep.contains r.logical = true ∧
        (t.part p).failedStep.contains r'.logical = true) ∧
    (∀ sb l, r.stage = 1 → r.logical < 65536 → (s.part p).faults = [] → (∀ c ∈ s.coresOf p, (s.core c).tags = []) →
      (s.part p).failedStep.contains r.logical = false →
      s.standbys p = sb :: l → sb.1 ≠ r.logical → ∃ t, exec (.recoveryDrainDone p) s = .next t ∧
        Tab.get (fun _ => 0) (t.part p).aliasTab r.logical = entryOf sb.2 1 ∧ (t.part p).failedStep.contains r.logical = true ∧
        s.raisedOne t .placementSwitched stewardNode p p r.logical ∧
        ((t.part p).recov = none ∧ s.raisedOne t .stepReplayed stewardNode p p 0 ∨
          ∃ x, (t.part p).recov = some { r with stage := 2, replay := x })) ∧
    (r.stage ≠ 2 → exec (.mirrorRestoreDone p) s = .next s) ∧
    (∀ c, r.stage = 2 → r.replay = [] → (s.part p).moved = [r.logical] → s.physOf p r.logical = some c → (s.loadMirror p r.logical c).2 = true → (s.part p).arrivals = none →
      ∃ t, exec (.mirrorRestoreDone p) s = .next t ∧ (t.part p).recov = some { r with stage := 3 } ∧
        (∀ k ∈ s.coresOf p, s.getF F.seqStatus_state k = stHeld → t.getF F.seqStatus_state k = stRunning) ∧
        t.spad = (s.loadMirror p r.logical c).1.spad ∧ t.dram = s.dram)) ∧
  (∀ (p : PartIx) (repeats : Bool) (digest : BitVec 32) (unit : BitVec 16) (s : State), (s.part p).recov = none → (s.part p).faults = [] →
    ∀ i ∈ [Instr.faultRetryDone p repeats digest unit, .recoveryDrainDone p, .mirrorRestoreDone p], exec i s = .next s)
/-- The health record: a derated unit without a fault for 168 hours returns one state; a clear by an admin returns a unit to OK with no
history; the stewards write the entries that are due, at once for a retirement and else at most once a minute, each as a record at the log's next place
in both devices (R349, R351, R363, R484). The model's choices it rests on: log 12. -/
def Obligations.HealthRecordIsKept : Prop :=
  (∀ (unit : BitVec 16) (s : State),
    let u := unit.toNat
    let h := s.healthOf u
    let due := (h.state = 1 ∨ h.state = 2) ∧ max (h.times.headD 0) h.changed + 168 * 3600 ≤ s.seconds ∧ unitOk u = true
    (due → ∃ t, exec (.healthDecay unit) s = .next t ∧ t.unitState u = h.state - 1 ∧ (t.healthOf u).due = true ∧ s.sameMemory t) ∧
    (¬ due → exec (.healthDecay unit) s = .next s)) ∧
  (∀ (path : Path) (v : BitVec 32) (s : State), s.admitted path = true →
    let u := bits v 0 16
    (v.getLsbD 16 = true → unitOk u = true → ∃ t, exec (.healthCleared path v) s = .next t ∧ t.unitState u = 0 ∧
      (t.healthOf u).count = 0 ∧ (t.healthOf u).times = [] ∧ (t.healthOf u).due = true ∧
      s.raisedOne t .healthCleared stewardNode 64 255 u ∧ (∀ j, j ≠ u → t.healthOf j = s.healthOf j) ∧ s.sameMemory t) ∧
    (v.getLsbD 16 = false ∨ unitOk u = false → exec (.healthCleared path v) s = .next (s.touch path))) ∧
  (∀ s : State, (∀ e ∈ s.health, s.healthOf e.1 = e.2) → ∃ t, exec .healthRecordWrite s = .next t ∧ t.regs = s.regs ∧ s.sameMemory t ∧
    (∀ u, t.unitState u = s.unitState u ∧ (t.healthOf u).count = (s.healthOf u).count) ∧
    (∀ u, s.writesNow (s.healthOf u) = true → (t.healthOf u).due = false ∧ (t.healthOf u).wroteAt = some s.now)) ∧
  (∀ (u : Nat) (h : Health) (s : State), s.health = [(u, h)] → s.writesNow h = true → s.mod.logPos + 1 < halfRecords → s.mod.logHalf ≤ 1 →
    ∃ t, exec .healthRecordWrite s = .next t ∧ t.mod.logPos = s.mod.logPos + 1 ∧ t.mod.logSeq = s.mod.logSeq + 1 ∧
      ∀ d : Fin 2, let k := logBase + 64 * (s.mod.logHalf * halfRecords + s.mod.logPos)
        (∀ i < 64, t.flashByte d (k + i) = (logRecord u h s.mod.logSeq).getD i 0) ∧
        (∀ a < 2 ^ 28, a < k ∨ k + 64 ≤ a → t.flashByte d a = s.flashByte d a))
/-- Connections: HELLO is answered, HELLO_ACK opens the connection at version 1 or, with no version in common, leaves it refused and
reported; an unanswered HELLO goes out again (R427). An acknowledgement frees the frames it covers, an unacknowledged frame is sent again up
to the retry limit, and then the connection closes (R422, R426). The model's choices it rests on: log 24. -/
def Obligations.ConnectionsOpenAndRetry : Prop :=
  (∀ (sub : Fin 256) (f : KlFrame) (hi bm sender crc : Nat) (s : State),
    let u := s.takeFrame f
    (f.body = .hello hi bm sender crc →
      (s.knowsPeer f.src = false → exec (.hello sub f) s = .next u) ∧
      (s.knowsPeer f.src = true → bm.testBit 1 = true → ∃ t, exec (.hello sub f) s = .next t ∧
        t.out = s.out ++ [.frame sub (s.bare sub f.src (.helloAck 1 2 s.moduleId s.linkCrc))] ∧ (t.conn sub f.src).gotHello = true ∧
        (t.conn sub f.src).status = (s.conn sub f.src).status ∧ t.regs = s.regs ∧ s.sameMemory t)) ∧
    (f.body = .helloAck hi bm sender crc →
      (s.knowsPeer f.src = false → exec (.helloAck sub f) s = .next u) ∧
      (s.knowsPeer f.src = true → bm.testBit 1 = true → ∃ t, exec (.helloAck sub f) s = .next t ∧ (t.conn sub f.src).status = 1 ∧
        ((s.conn sub f.src).status ≠ 1 → (t.conn sub f.src).ver = 1 ∧ (t.conn sub f.src).chans = [.init, .init, .init]) ∧
        t.regs = s.regs ∧ s.sameMemory t) ∧
      (s.knowsPeer f.src = true → bm.testBit 1 = false → ∃ t, exec (.helloAck sub f) s = .next t ∧ (t.conn sub f.src).status = 2 ∧
        ((s.conn sub f.src).status ≠ 2 → s.announced t .klVersionRefused (edgeNode (sub / 32)) 64 255 f.src)))) ∧
  (∀ (sub : Fin 256) (peer : BitVec 14) (s : State),
    ((s.conn sub peer.toNat).status = 1 ∨ s.knowsPeer peer.toNat = false → exec (.helloRetry sub peer) s = .next s) ∧
    ((s.conn sub peer.toNat).status ≠ 1 → s.knowsPeer peer.toNat = true → ∃ t, exec (.helloRetry sub peer) s = .next t ∧
      (t.conn sub peer.toNat).status = 0 ∧ t.out = s.out ++ [.frame sub (s.bare sub peer.toNat (.hello 1 2 s.moduleId s.linkCrc))])) ∧
  (∀ (sub : Fin 256) (f : KlFrame) (ch : Fin 3) (s : State), (s.conn sub f.src).chans.length = 3 →
    ((s.conn sub f.src).chans.getD ch .init).backlog = [] →
    ∃ t, exec (.ack sub f ch) s = .next t ∧ t.klRx = dropFirst f s.klRx ∧ t.regs = s.regs ∧ s.sameMemory t ∧
      ((t.conn sub f.src).chans.getD ch .init).unacked = ((s.conn sub f.src).chans.getD ch .init).unacked.filter
        (fun e => decide (2 ^ 31 ≤ (f.cum + 2 ^ 32 - e.1.seq) % 2 ^ 32))) ∧
  (∀ (sub : Fin 256) (peer : BitVec 14) (ch : Fin 3) (seq : BitVec 32) (f : KlFrame) (n : Nat) (s : State),
    let c := s.conn sub peer.toNat
    let q := c.chans.getD ch .init
    (q.unacked.find? (fun e => e.1.seq = seq.toNat) = none → exec (.klRetransmitTimeout sub peer ch seq) s = .next s) ∧
    (q.unacked.find? (fun e => e.1.seq = seq.toNat) = some (f, n) → s.pfcPaused sub ch = true → exec (.klRetransmitTimeout sub peer ch seq) s = .next s) ∧
    (q.unacked.find? (fun e => e.1.seq = seq.toNat) = some (f, n) → s.pfcPaused sub ch = false → c.status = 1 →
      n < s.getF F.epdKlCfg_retries (sub / 32) → ∃ t, exec (.klRetransmitTimeout sub peer ch seq) s = .next t ∧
        t.out = s.out ++ [.frame sub { f with retx := true }] ∧ t.regs = s.regs ∧ s.sameMemory t) ∧
    (q.unacked.find? (fun e => e.1.seq = seq.toNat) = some (f, n) → s.pfcPaused sub ch = false → c.status = 1 →
      s.getF F.epdKlCfg_retries (sub / 32) ≤ n → s.conns = [c] → (∀ x ∈ c.chans, x.backlog = [] ∧ ∀ e ∈ x.unacked, ∃ g, e.1.body = .prepared g) →
      ∃ t, exec (.klRetransmitTimeout sub peer ch seq) s = .next t ∧ t.conns = [Conn.init sub peer.toNat] ∧ t.regs = s.regs ∧ s.sameMemory t))
/-- What arrives at a port: link states of the sub-ports its mode has, with their events (R417, R419); frames that the MAC, the parser, the
lengths, the check, the version or the owner stop are counted, one by one; the others are taken, in order within a channel (R418, R420, R426
to R430), their fields read at the header's places (R424); exceptions are served oldest first (R429); PFC pauses a priority for its quanta
(R421). The model's choices it rests on: log 24. -/
def Obligations.PortsTakeFrames : Prop :=
  (∀ (port : Fin 34) (sub : Fin 8) (s : State),
    let src := if port.val < 32 then edgeNode (port / 4) else stewardNode
    let there := sub.val < s.subPorts port
    (there → (port.val < 32 → s.portServes port = true) →
      ∃ t, exec (.linkUp port sub) s = .next t ∧ s.announced t .linkUp src 64 255 (linkDetail port sub) ∧
      (port.val < 32 → t.getF F.epdLink_up port = s.getF F.epdLink_up port ||| 2 ^ sub.val) ∧
      (port.val < 32 → s.regsBut t [(.epdLink, port)]) ∧ (32 ≤ port.val → t.regs = s.regs) ∧ s.sameMemory t) ∧
    (there → ∃ t, exec (.linkDown port sub) s = .next t ∧ s.announced t .linkDown src 64 255 (linkDetail port sub) ∧
      (port.val < 32 → t.getF F.epdLink_up port = s.getF F.epdLink_up port &&& (255 - 2 ^ sub.val) ∧ s.regsBut t [(.epdLink, port)]) ∧
      (32 ≤ port.val → t.regs = s.regs) ∧ s.sameMemory t) ∧
    (¬ there → exec (.linkUp port sub) s = .next s ∧ exec (.linkDown port sub) s = .next s) ∧
    (port.val < 32 → s.portServes port = false → exec (.linkUp port sub) s = .next s)) ∧
  (∀ (sub : Fin 256) (r : RxFrame) (s : State),
    let e := sub.val / 32
    let port := sub.val / 8
    let f := r.frame
    let fine := r.macDrops = false ∧ r.pause = false ∧ withinStructure r = true ∧ badLengths r = false ∧ r.klOk = true ∧ f.dst = s.moduleId ∧ isReserved f = false
    let versionOk := f.ver = if isHello f then 1 else (s.conn sub f.src).ver
    let ownerOk := f.part = s.subOwner sub ∧ (isCkptData f = true → ((s.image.map (·.ckptPorts)).getD []).contains sub.val = true)
    ∃ t, exec (.frameReceive sub r []) s = .next t ∧ s.sameMemory t ∧
      t.getF F.epdLink_fec_uncorr port = min (s.getF F.epdLink_fec_uncorr port + r.fecBad) 65535 ∧
      (r.macDrops = true → t.getF F.epdLink_fcs_drops port = min (s.getF F.epdLink_fcs_drops port + 1) (2 ^ 24 - 1) ∧ t.klRx = s.klRx) ∧
      (r.macDrops = false → r.pause = true → t.getF F.epdLink_pause_drops port = min (s.getF F.epdLink_pause_drops port + 1) 65535 ∧ t.klRx = s.klRx) ∧
      (r.macDrops = false → r.pause = false → withinStructure r = false → t.klRx = s.klRx ∧
        t.getF F.epdStat_exceptions e = min (s.getF F.epdStat_exceptions e + 1) 65535 ∧
        (t.edge e).exceptions = if 256 ≤ (s.edge e).exceptions.length then (s.edge e).exceptions else (s.edge e).exceptions ++ [r]) ∧
      (r.macDrops = false → r.pause = false → withinStructure r = true → badLengths r = true → t.klRx = s.klRx ∧
        t.getF F.epdStat_length e = min (s.getF F.epdStat_length e + 1) 65535) ∧
      (r.macDrops = false → r.pause = false → withinStructure r = true → badLengths r = false → r.klOk = false → t.klRx = s.klRx ∧
        t.getF F.epdStat_kl_check e = min (s.getF F.epdStat_kl_check e + 1) 4095) ∧
      (isReserved f = true → t.klRx = s.klRx) ∧
      (fine → ¬ versionOk → t.klRx = s.klRx ∧ t.getF F.epdStat_version e = min (s.getF F.epdStat_version e + 1) 1023) ∧
      (fine → versionOk → ¬ ownerOk → t.klRx = s.klRx ∧ t.getF F.epdStat_isolation e = min (s.getF F.epdStat_isolation e + 1) 1023) ∧
      (fine → versionOk → ownerOk → (isHello f = true ∨ (s.conn sub f.src).status = 1 ∧ f.body.chan = 3) → t.klRx = s.klRx ++ [f]) ∧
      (fine → versionOk → ownerOk → (s.conn sub f.src).status = 1 → f.body.chan ≠ 3 → (s.conn sub f.src).chans.length = 3 →
        ((s.conn sub f.src).chans.getD f.body.chan .init).backlog = [] → ((s.conn sub f.src).chans.getD f.body.chan .init).early = [] →
        f.seq = ((s.conn sub f.src).chans.getD f.body.chan .init).expect → f.seq < 2 ^ 32 → t.klRx = s.klRx ++ [f] ∧
          ((t.conn sub f.src).chans.getD f.body.chan .init).expect = (f.seq + 1) % 2 ^ 32 ∧
          (∃ g, t.out = s.out ++ [.frame sub g] ∧ g.body = .ack ∧ g.dst = f.src ∧ g.cum = f.seq))) ∧
  (∀ (f : KlFrame) (len : Nat), f.ver < 8 → f.body.type < 32 → f.dst < 2 ^ 14 → f.src < 2 ^ 14 →
    f.part < 256 → f.seq < 2 ^ 32 → f.cum < 2 ^ 32 → len < 2 ^ 16 →
    KlFrame.ofHeader (f.header len) f.body = f ∧ bits (f.header len) 3 5 = f.body.type ∧ bits (f.header len) 56 2 = f.body.chan ∧
      bits (f.header len) 128 16 = len) ∧
  (∀ (e : EdgeIx) (s : State),
    ((s.edge e).exceptions = [] → exec (.exceptionService e) s = .next s) ∧
    (∀ r l, (s.edge e).exceptions = r :: l → ∃ t, exec (.exceptionService e) s = .next t ∧ (t.edge e).exceptions = l ∧
      t.out = s.out ++ (if r.answerable then [.answer e r] else []) ∧ t.regs = s.regs)) ∧
  (∀ (sub : Fin 256) (prio : Fin 8) (quanta : BitVec 16) (s : State),
    (s.getF F.epdPortCfg_pfc_en (sub / 8) = 0 → ∃ t, exec (.pfcFrame sub [(prio, quanta)]) s = .next t ∧
      t.getF F.epdLink_pause_drops (sub / 8) = min (s.getF F.epdLink_pause_drops (sub / 8) + 1) 65535 ∧ t.edges = s.edges) ∧
    (s.getF F.epdPortCfg_pfc_en (sub / 8) = 1 → (s.getF F.epdPortCfg_pfc_mask (sub / 8)).testBit prio = true →
      ∃ t, exec (.pfcFrame sub [(prio, quanta)]) s = .next t ∧ t.regs = s.regs ∧
        Tab.get (fun _ => 0) (t.edge (sub / 32)).paused (sub * 8 + prio) = quanta.toNat) ∧
    (∃ t, exec (.pfcPauseExpiry sub prio) s = .next t ∧ t.regs = s.regs ∧
      Tab.get (fun _ => 0) (t.edge (sub / 32)).paused (sub * 8 + prio) = 0))
/-- What frames bring: an activation's packet goes on into the fabric, a passing token ends the wait for it and a failing one starts a
replay (R319, R341, R344); in a reduction domain a peer's maximum and sum are kept by rank, heartbeats tell that members live, and one
silent for 100 µs is lost (R255, R274). The model's choices it rests on: log 66. -/
def Obligations.FramesReachTheirModule : Prop :=
  (∀ (sub : Fin 256) (f : KlFrame) (k : Pkt) (s : State), f.body = .activation k → ∃ t d, exec (.activation sub f) s = .next t ∧
    t.net = s.net ++ [d] ∧ d.src = edgeNode (sub / 32) ∧ d.part = f.part ∧ d.dst = k.dst ∧ d.data = k.data ∧ d.prov = f.prov ∧
    d.poison = f.poison ∧ d.prod.1 = 65536 + k.prod.1 % 65536 ∧ t.klRx = dropFirst f s.klRx ∧ s.sameMemory t ∧
    (f.prov = true → (t.part f.part).foreign.contains (k.prod.1 % 65536, k.prod.2.1) = true)) ∧
  (∀ (f : KlFrame) (core epoch : Nat) (pass retract : Bool) (s : State), f.body = .token core epoch pass retract →
    ∃ t, exec (.token f) s = .next t ∧ t.klRx = dropFirst f s.klRx ∧
      (retract = true → t = s.takeFrame f) ∧
      (retract = false → pass = true → (s.part f.part).arrivals = none → (t.part f.part).foreign = (s.part f.part).foreign.filter (fun x => x ≠ (core, epoch)) ∧
        s.sameMemory t) ∧
      (retract = false → pass = false → ((∀ r, (s.part f.part).recov = some r → 2 ≤ r.stage) →
          ∃ r, (t.part f.part).recov = some r ∧ r.logical = 65536 + core ∧ r.stage = 1) ∧
        (∀ r, (s.part f.part).recov = some r → r.stage < 2 → (t.part f.part).recov = some r ∧
          ∃ x, (t.part f.part).faults = (s.part f.part).faults ++ [x] ∧ x.logical = 65536 + core ∧ x.stage = 1) ∧
        (∀ c ∈ s.coresOf f.part, s.getF F.seqStatus_state c = stRunning → t.getF F.seqStatus_state c = stHeld) ∧ s.sameMemory t)) ∧
  (∀ (f : KlFrame) (i b e rank : Nat) (sums : List (Option Int)) (st : Stream) (s : State), s.rankOf f.part f.src = some rank →
    s.stream f.part i = some st → b < st.blocks →
    let m := streamHome st b
    let r := s.redBlk m f.part i b
    (f.body = .expMax i b [e] → r.waitE = [] → s.agreed f.part st r = false → ∃ t, exec (.expMax f) s = .next t ∧
      (t.redBlk m f.part i b).peerMax = r.peerMax.filter (fun x => x.1 ≠ rank) ++ [(rank, e)] ∧
      (t.redBlk m f.part i b).peerPoison = (r.peerPoison || f.poison) ∧ t.spad = s.spad) ∧
    (f.body = .moduleSum i b false sums → r.count < st.n → ∃ t, exec (.moduleSum f) s = .next t ∧
      (t.redBlk m f.part i b).peerSum = r.peerSum.filter (fun x => x.1 ≠ rank) ++ [(rank, sums)] ∧ t.spad = s.spad)) ∧
  (∀ (f : KlFrame) (s : State), ∃ t, exec (.heartbeat f) s = .next t ∧ t.klRx = dropFirst f s.klRx ∧
    Tab.get (fun _ => 0) t.heard (f.part * 2 ^ 16 + f.src) = s.now + 1 ∧
    (∀ j, j ≠ f.part * 2 ^ 16 + f.src → Tab.get (fun _ => 0) t.heard j = Tab.get (fun _ => 0) s.heard j) ∧ t = { s with klRx := t.klRx, heard := t.heard }) ∧
  (∀ (p : PartIx) (rank : BitVec 14) (peer : Nat) (s : State),
    (s.openDomain p = false → exec (.heartbeatSend p) s = .next s) ∧
    (∀ c, s.openDomain p = true → s.peersOf p = [(rank.toNat, peer)] → s.route p peer = some c → ∃ t f, exec (.heartbeatSend p) s = .next t ∧
      t.out = s.out ++ [.frame c.sub f] ∧ f.body = .heartbeat ∧ f.dst = peer ∧ f.part = p.val ∧ t = { s with out := t.out }) ∧
    (∀ x, (s.peersOf p).find? (fun e => e.1 = rank.toNat) = some x →
      (s.now < Tab.get (fun _ => 0) s.heard (p * 2 ^ 16 + x.2) + 9999 → exec (.reduceMemberLost p rank) s = .next s) ∧
      (s.openDomain p = false → exec (.reduceMemberLost p rank) s = .next s) ∧
      (s.openDomain p = true → Tab.get (fun _ => 0) s.heard (p * 2 ^ 16 + x.2) + 9999 ≤ s.now →
        ∃ t, exec (.reduceMemberLost p rank) s = .next t ∧ t.getF F.partDomain_lost p = 1 ∧
          t.getF F.partDomain_lost_rank p = (if s.getF F.partDomain_lost p = 1 then s.getF F.partDomain_lost_rank p else rank.toNat) ∧
          (t.part p).memberLost = true ∧ s.raisedOne t .reduceMemberLost stewardNode p p rank.toNat ∧ t.spad = s.spad)))
/-- Host ports: a function level reset, a hot reset or a cleared VF Enable ends the sessions and orders of its functions without completions
and starts their teardown; a lost link is reported and keeps everything, and a retrained one serves again and ends steward mode (R431 to
R435, R481). The model's choices it rests on: logs 25, 26. -/
def Obligations.HostPortsResetAndRetrain : Prop :=
  (∀ (p : PartIx) (s : State),
    (s.declared p = false → exec (.flrVf p) s = .next s) ∧
    (s.declared p = true → s.pState p ≠ psEmpty → s.pState p ≠ psZero → (∀ k ∈ fnsFor p, ∀ o ∈ (s.fn k).orders, pathIx o.path = k) →
      ∃ t, exec (.flrVf p) s = .next t ∧ t.pState p = psZero ∧ (t.fn p).session = none ∧ (t.fn p).orders = [] ∧ (t.fn p).fetched = [] ∧
        (∀ k n ph c, Out.completion k n ph c ∈ t.out → Out.completion k n ph c ∈ s.out) ∧
        ∀ r, queueReg r = true → t.reg r p = r.resetWord p)) ∧
  (∀ (h : HostIx) (s : State), (∀ p ∈ s.vfsOf h, p < 64) →
    (∀ i ∈ [Instr.flrPf h, .hotReset h, .perstAssert h], ∃ t, exec i s = .next t ∧ (t.fn (64 + h)).session = none ∧
      (t.fn (64 + h)).orders = [] ∧ ∀ p ∈ s.vfsOf h, s.pState p ≠ psEmpty → t.pState p = psZero) ∧
    (∃ t, exec (.vfEnableClear h) s = .next t ∧ (t.fn (64 + h)).session = (s.fn (64 + h)).session ∧
      ∀ p ∈ s.vfsOf h, s.pState p ≠ psEmpty → t.pState p = psZero) ∧
    (s.getF F.epdHost_up h = 0 → exec (.hostLinkLost h) s = .next s) ∧
    (s.getF F.epdHost_up h = 1 → ∃ t, exec (.hostLinkLost h) s = .next t ∧ t.getF F.epdHost_up h = 0 ∧ t.getF F.epdHost_gen h = 0 ∧
      t.getF F.epdHost_width h = 0 ∧ t.fns = s.fns ∧ s.regsBut t [(.epdHost, h)] ∧ s.announced t .hostLinkLost (hostNode h) 64 255 0 ∧
      s.sameMemory t) ∧
    (∀ (gen : Fin 3) (width : Fin 4),
      (s.getF F.epdHost_mode h = 0 ∨ s.unitState (unitLink (32 + h)) = 3 ∨ s.unitState (unitPort (32 + h)) = 3 →
        exec (.hostLinkRetrain h gen width) s = .next s) ∧
      (s.getF F.epdHost_mode h ≠ 0 → s.unitState (unitLink (32 + h)) ≠ 3 → s.unitState (unitPort (32 + h)) ≠ 3 →
        ∃ t, exec (.hostLinkRetrain h gen width) s = .next t ∧ t.getF F.epdHost_up h = 1 ∧ t.getF F.epdHost_gen h = gen + 1 ∧
          t.getF F.epdHost_width h = laneCount width ∧ t.getF F.pwrState_steward_mode 0 = 0 ∧ s.sameMemory t)))
/-- The management ports: a datagram that heeds R439 hands over an order, reads or writes as a window access does, or draws a challenge; any other
does nothing. SMBus answers while it is on, POUT_MAX sets the cap or the CML bit, and the alert is answered while it is driven (R438 to
R442, R474). The formats of the PMBus words are the model's choice (log 31). -/
def Obligations.ManagementPortsAnswer : Prop :=
  (∀ (m : Fin 2) (src : Nat) (magic : BitVec 16) (ver : BitVec 8) (seq : BitVec 32) (off : BitVec 26) (size : Fin 9) (v : Word) (entry : Row)
    (s : State),
    let q := s.fn (68 + m)
    (s.heeds m src magic ver = false → ∀ i ∈ [Instr.mgmtOrder m src magic ver entry, .mgmtRegisterRead m src magic ver seq off size,
      .mgmtRegisterWrite m src magic ver off size v, .mgmtChallenge m src magic ver seq], exec i s = .next s) ∧
    (s.heeds m src magic ver = true →
      (q.fetched.contains entry = true ∨ (∃ o ∈ q.orders, o.words = entry) → exec (.mgmtOrder m src magic ver entry) s = .next s) ∧
      (q.fetched.contains entry = false → (∀ o ∈ q.orders, o.words ≠ entry) → ∃ t, exec (.mgmtOrder m src magic ver entry) s = .next t ∧
        (t.fn (68 + m)).fetched = q.fetched ++ [entry] ∧ (t.fn (68 + m)).orders = q.orders ∧ t = { s with fns := t.fns }) ∧
      (∃ t, exec (.mgmtRegisterRead m src magic ver seq off size) s = .next t ∧ t.regs = (s.windowRead (.mgmt m) off.toNat size).1.regs ∧
        t.out = s.out ++ [.datagram (68 + m) 3 seq.toNat off.toNat (s.windowRead (.mgmt m) off.toNat size).2]) ∧
      (∃ t, exec (.mgmtRegisterWrite m src magic ver off size v) s = .next t ∧ exec (.registerWrite (.mgmt m) off size v) s = .next t) ∧
      (∃ t, exec (.mgmtChallenge m src magic ver seq) s = .next t ∧ (t.fn (68 + m)).nonceValid = true ∧ t.freeCtr = s.freeCtr + 1 ∧
        t.out = s.out ++ [.datagram (68 + m) 6 seq.toNat 0 (t.fn (68 + m)).nonce.toNat] ∧ t.regs = s.regs))) ∧
  (∀ (target : Fin 2) (w : BitVec 16) (inlet : BitVec 8) (s : State),
    (s.smbusOn target = false → ∀ i ∈ [Instr.poutMax target none, .poutMax target (some w), .statusWord target, .readVin target, .readIin target,
      .readTemperature1 target inlet, .readPout target], exec i s = .next s) ∧
    (s.smbusOn target = true →
      (∀ x ∈ [(Instr.poutMax target none, Out.smbus 0x31 (linearWord s.mod.smbusCap 1)), (.statusWord target, .smbus 0x79 s.statusWord),
          (.readVin target, .smbus 0x88 (linearWord (s.getF F.pwrInput_mv 0) 1000)),
          (.readIin target, .smbus 0x89 (linearWord (s.getF F.pwrInput_deciamps 0) 10)),
          (.readTemperature1 target inlet, .smbus 0x8D (linearWord inlet.toNat 1)),
          (.readPout target, .smbus 0x96 (linearWord (s.getF F.pwrInput_watts 0) 1))],
        ∃ t, exec x.1 s = .next t ∧ t = { s with out := s.out ++ [x.2] }) ∧
      ((linearValue w).1 = 0 ∨ 2400 ≤ linearFloor w ∧ linearFloor w < 24000 → ∃ t, exec (.poutMax target (some w)) s = .next t ∧
        t.mod.smbusCap = (linearFloor w).toNat ∧ t.mod.cml = s.mod.cml ∧ s.recapped t) ∧
      ((linearValue w).1 ≠ 0 → linearFloor w < 2400 ∨ 24000 < linearFloor w → ∃ t, exec (.poutMax target (some w)) s = .next t ∧
        t.mod.cml = true ∧ t = { s with mod := t.mod } ∧ t.mod.smbusCap = s.mod.smbusCap))) ∧
  (∀ s : State, (s.mod.off = false → s.alertN = true → ∃ t, exec .alertResponse s = .next t ∧ t = { s with out := s.out ++ [.alertResponse] }) ∧
    (s.mod.off = true ∨ s.alertN = false → exec .alertResponse s = .next s))
/-- The console takes the admin password and JTAG its four instructions (R441); the sideband pins switch with a break of 2 µs, the flow
meter counts pulses by the second, and a lamp that opens is reported (R444 to R446). The model's choices it rests on: logs 29, 30. -/
def Obligations.ConsoleTestAndSidebandPins : Prop :=
  (∀ (line : List Byte) (s : State),
    (s.mod.console = true → exec (.uartCommand line) s = .next s) ∧
    (∀ im key, s.mod.console = false → s.mod.off = false → s.getF F.modState_state 0 ≠ mSafe → s.image = some im → im.adminPwKey = some key →
      let right := pbkdf2 line (leBytes Config.salt.toNat 16) (s.getF F.partSessCfg_kdf_kiter 64 * 1000) = leBytes key.toNat 32
      (right → ∃ t, exec (.uartCommand line) s = .next t ∧ t.mod.console = true ∧ t = { s with mod := t.mod }) ∧
      (¬ right → exec (.uartCommand line) s = .next s))) ∧
  (∀ (pins load : Nat) (s : State),
    (∃ t, exec .bypass s = .next t ∧ t.mod.jtag = 0 ∧ t.out = s.out ++ [.jtag 0] ∧ t.regs = s.regs) ∧
    (∃ t, exec .idcode s = .next t ∧ t.mod.jtag = 1 ∧ t.out = s.out ++ [.jtag Config.idcode.toNat] ∧ t.regs = s.regs) ∧
    (∃ t, exec (.samplePreload pins load) s = .next t ∧ t.mod.jtag = 2 ∧ t.mod.boundary = load ∧ t.out = s.out ++ [.jtag pins] ∧ t.regs = s.regs) ∧
    (s.getF F.sbStat_reset_in 0 = 1 → ∃ t, exec (.extest pins load) s = .next t ∧ t.mod.jtag = 3 ∧ t.mod.boundary = load ∧
      t.out = s.out ++ [.jtag pins] ∧ t.regs = s.regs) ∧
    (s.getF F.sbStat_reset_in 0 = 0 → exec (.extest pins load) s = .next s)) ∧
  (∀ (path : Path) (v : BitVec 32) (pin : Fin 13) (n : Fin 4) (low : Bool) (s : State),
    (s.admitted path = true → ∃ t, exec (.pinmuxSwitch path v) s = .next t ∧ s.regsBut t [(.sbPinmux, 0)] ∧
      ∀ m < 13, let old := bits (s.reg .sbPinmux 0) (2 * m) 2
        let new := v.toNat >>> (2 * m) % 4
        (pinFnOk m new = true → bits (t.reg .sbPinmux 0) (2 * m) 2 = new ∧ (new ≠ old → t.mod.breaking.contains m = true)) ∧
        (pinFnOk m new = false → bits (t.reg .sbPinmux 0) (2 * m) 2 = old)) ∧
    (∃ t, exec (.pinmuxSwitchEnd pin) s = .next t ∧ t.mod.breaking.contains pin.val = false ∧ t = { s with mod := t.mod }) ∧
    (s.getF F.sbPinmux_gpio 0 / 256 % 4 ≠ 1 ∨ s.mod.breaking.contains 4 = true → exec .flowTachPulse s = .next s) ∧
    (s.getF F.sbPinmux_gpio 0 / 256 % 4 = 1 → s.mod.breaking.contains 4 = false →
      (s.mod.flowAt = s.seconds → ∃ t, exec .flowTachPulse s = .next t ∧ t.mod.flow = s.mod.flow + 1 ∧ t.regs = s.regs) ∧
      (s.mod.flowAt ≠ s.seconds → ∃ t, exec .flowTachPulse s = .next t ∧ t.mod.flow = 1 ∧ t.mod.flowAt = s.seconds ∧
        t.getF F.sbStat_flow_hz 0 = if s.mod.flowAt + 1 = s.seconds then min 65535 s.mod.flow else 0)) ∧
    (∃ t, exec (.ledTestPulse n low) s = .next t ∧ t.getF F.sbLed_open n = (if low then 1 else 0) ∧ s.regsBut t [(.sbLed, n)] ∧
      (low = true → s.getF F.sbLed_open n = 0 → s.announced t .ledOpenLoad stewardNode 64 255 0)))
/-- Power and resets. Power on, a released MOD_RST_N and a full reload bring the module up with the image of a valid slot, or into safe mode
with none; a warm restart keeps the image in use; loss of power, a held reset, a thermal trip and STANDBY leave nothing in memory (R7, R441,
R470 to R472, R489 to R500, R514). The model's choices it rests on: logs 9, 27, 28. -/
def Obligations.PowerAndResets : Prop :=
  (∀ (b : BringUp) (im : Image) (held : Bool) (path : Path) (d : DieIx) (s : State),
    let unread := b.readA = false ∧ b.readB = false
    let good := b.readA = true ∧ b.bodyA = some im ∧ s.slotDetail 0 b.bodyA = 0 ∧ b.leak = 0#3
    let may := s.cfgsMay path = true ∧ s.getF F.cfgsStatus_busy 0 = 0
    (s.mod.off = false → exec (.powerOn b) s = .next s) ∧
    (s.mod.off = true → unread → ∃ t, exec (.powerOn b) s = .next t ∧ t.inSafeMode ∧ t.flash = s.flash) ∧
    (s.mod.off = true → good → ∃ t, exec (.powerOn b) s = .next t ∧ t.upWith im ∧ t.flash = s.flash) ∧
    (∃ t, exec .inputLoss s = .next t ∧ t.mod.off = true ∧ t.mod.ready = false ∧ t.regs = [] ∧ t.spad = [] ∧ t.dram = [] ∧ t.fns = [] ∧
      t.flash = s.flash ∧ t.now = s.now) ∧
    (s.mod.off = true → exec (.modRstNAssert held b) s = .next s) ∧
    (s.mod.off = false → held = true → ∃ t, exec (.modRstNAssert held b) s = .next t ∧ t.getF F.sbStat_reset_in 0 = 1 ∧ t.image = none ∧
      t.spad = [] ∧ t.dram = [] ∧ t.fns = [] ∧ t.flash = s.flash) ∧
    (s.mod.off = false → held = false → unread → ∃ t, exec (.modRstNAssert held b) s = .next t ∧ t.inSafeMode) ∧
    (s.mod.off = false → held = false → good → ∃ t, exec (.modRstNAssert held b) s = .next t ∧ t.upWith im) ∧
    (s.cfgsMay path = false → exec (.warmRestart path b) s = .next (s.touch path) ∧ exec (.fullReload path b) s = .next (s.touch path)) ∧
    (s.cfgsMay path = true → s.getF F.cfgsStatus_busy 0 = 1 → ∀ i ∈ [Instr.warmRestart path b, .fullReload path b],
      ∃ t, exec i s = .next t ∧ t.getF F.modReset_error 0 = 1 ∧ s.regsBut t [(.modReset, 0)] ∧ s.sameMemory t) ∧
    (may → s.getF F.modState_state 0 = mReady → s.image = some im → b.leak = 0#3 → ∃ t, exec (.warmRestart path b) s = .next t ∧
      t.getF F.modState_state 0 = mReady ∧ t.getF F.modState_warm 0 = 1 ∧ t.image = some im ∧ t.spad = [] ∧ t.dram = []) ∧
    (may → s.getF F.modState_state 0 = mReady ∨ s.getF F.modState_state 0 = mSafe → unread →
      ∃ t, exec (.fullReload path b) s = .next t ∧ t.inSafeMode) ∧
    (may → s.getF F.modState_state 0 = mReady ∨ s.getF F.modState_state 0 = mSafe → good →
      ∃ t, exec (.fullReload path b) s = .next t ∧ t.upWith im) ∧
    (∃ t, exec (.thermTrip d) s = .next t ∧ t.pwState = pwStandby ∧ t.getF F.pwrState_trip 0 = 1 ∧ t.mod.tripped = true ∧ t.spad = [] ∧
      t.dram = [] ∧ (∀ c < 4096, t.getF F.vregPoint_state c = vOff) ∧ s.raisedOne t .thermTrip stewardNode 64 255 0) ∧
    (s.admitted path = true → s.pwState ≠ pwStandby → (∀ p < 64, s.pState p = psEmpty) → ∃ t, exec (.standbyRequest path) s = .next t ∧
      t.pwState = pwStandby ∧ t.spad = [] ∧ t.dram = [] ∧ (∀ c < 4096, t.getF F.vregPoint_state c = vOff)) ∧
    (∀ p < 64, s.admitted path = true → s.pwState ≠ pwStandby → s.pState p ≠ psEmpty → ∃ t, exec (.standbyRequest path) s = .next t ∧
      t.getF F.pwrMode_error 0 = 1 ∧ s.regsBut t [(.pwrMode, 0)] ∧ s.sameMemory t))
/-- The Configuration Store: an operation starts where none is under way; ERASE invalidates its slot, PROGRAM writes a chunk and holds the
first one back, COMMIT shows the detail and makes a valid image stand, SEAL answers with a record of R488; a failed operation is an error
(R483, R488, R492, R493). The model's choices it rests on: log 75. -/
def Obligations.ConfigurationStoreOperations : Prop :=
  (∀ (path : Path) (slot : Fin 2) (offset : BitVec 12) (s : State),
    let ops := [Instr.erase path slot, .program path slot offset, .commit path slot, .sealKey path]
    (s.cfgsMay path = false → ∀ i ∈ ops, exec i s = .next (s.touch path)) ∧
    (s.cfgsMay path = true → s.getF F.cfgsStatus_busy 0 = 1 → ∀ i ∈ ops, ∃ t, exec i s = .next t ∧ t.getF F.cfgsStatus_error 0 = 1 ∧
      s.regsBut t [(.cfgsStatus, 0)] ∧ t.flash = s.flash ∧ t.mod = s.mod) ∧
    (s.cfgsMay path = true → s.getF F.cfgsStatus_busy 0 = 0 →
      (∃ t, exec (.erase path slot) s = .next t ∧ t.getF F.cfgsStatus_busy 0 = 1 ∧ t.mod.op = some (1, slot.val, 0) ∧
        t.getF (slotField slot) 0 = 0 ∧ (∀ k < 65536, t.flashByte slot k = 0xFF) ∧ s.regsBut t [(.cfgsStatus, 0)]) ∧
      (offset.toNat ≤ 3839 → ∃ t, exec (.program path slot offset) s = .next t ∧ t.getF F.cfgsStatus_busy 0 = 1 ∧
        t.mod.op = some (2, slot.val, offset.toNat) ∧ t.flash = s.flash ∧ s.regsBut t [(.cfgsStatus, 0)]) ∧
      (3839 < offset.toNat → ∃ t, exec (.program path slot offset) s = .next t ∧ t.getF F.cfgsStatus_error 0 = 1 ∧ t.mod = s.mod ∧
        t.flash = s.flash) ∧
      (∀ x ∈ [(Instr.commit path slot, (3, slot.val, 0)), (.sealKey path, (4, 0, 0))], ∃ t, exec x.1 s = .next t ∧
        t.getF F.cfgsStatus_busy 0 = 1 ∧ t.mod.op = some x.2 ∧ t.flash = s.flash ∧ s.regsBut t [(.cfgsStatus, 0)]))) ∧
  (∀ (slot : Fin 2) (offset : Nat) (body : Option Image) (s : State),
    let apart (t : State) : Prop := ∀ j : Fin 2, j ≠ slot → ∀ k < 2 ^ 28, t.flashByte j k = s.flashByte j k
    (s.mod.op = none → ∀ failed, exec (.cfgsOperationDone failed body) s = .next s) ∧
    (s.mod.op.isSome = true → ∃ t, exec (.cfgsOperationDone true body) s = .next t ∧ t.getF F.cfgsStatus_busy 0 = 0 ∧
      t.getF F.cfgsStatus_error 0 = 1 ∧ t.mod.op = none ∧ t.flash = s.flash) ∧
    (s.mod.op = some (1, slot.val, 0) → ∃ t, exec (.cfgsOperationDone false body) s = .next t ∧ t.getF F.cfgsStatus_busy 0 = 0 ∧
      (∀ k < slotSize, t.flashByte slot k = 0xFF) ∧ apart t) ∧
    (s.mod.op = some (2, slot.val, offset) → 0 < offset → offset ≤ 3839 → ∃ t, exec (.cfgsOperationDone false body) s = .next t ∧
      (∀ k < 65536, t.flashByte slot (offset * 65536 + k) = Memory.read s.mod.buf k) ∧
      (∀ k < 2 ^ 28, k < offset * 65536 ∨ offset * 65536 + 65536 ≤ k → t.flashByte slot k = s.flashByte slot k) ∧ apart t) ∧
    (s.mod.op = some (2, slot.val, 0) → ∃ t, exec (.cfgsOperationDone false body) s = .next t ∧ t.flash = s.flash ∧
      t.mod.heldFor.contains slot.val = true ∧ t.getF F.cfgsStatus_busy 0 = 0) ∧
    (s.mod.op = some (3, slot.val, 0) →
      let d := s.commitDetail slot body
      ∃ t, exec (.cfgsOperationDone false body) s = .next t ∧ t.getF F.cfgsStatus_result 0 = d % 16 ∧
        s.announced t .imageWritten stewardNode 64 255 0 ∧ apart t ∧
        (d = 0 → t.getF (slotField slot) 0 = 1 ∧ ∀ k < 65536, t.flashByte slot k = Memory.read s.mod.held (slot * 65536 + k)) ∧
        (d ≠ 0 → t.getF (slotField slot) 0 = s.getF (slotField slot) 0 ∧ t.flash = s.flash)) ∧
    (s.mod.op = some (4, 0, 0) →
      let role := Memory.readNat s.mod.buf 0 1
      let part := Memory.readNat s.mod.buf 1 1
      (role ≤ 2 → (role = 0 → part < 64) → ∃ t, exec (.cfgsOperationDone false body) s = .next t ∧ t.freeCtr = s.freeCtr + 1 ∧
        Memory.readNat t.mod.buf 0 1 = role ∧ (∀ k, 64 ≤ k → Memory.read t.mod.buf k = 0) ∧ t.flash = s.flash) ∧
      (2 < role ∨ role = 0 ∧ 64 ≤ part → ∃ t, exec (.cfgsOperationDone false body) s = .next t ∧ t.getF F.cfgsStatus_error 0 = 1 ∧
        t.mod.buf = s.mod.buf)))
/-- Window accesses. A write reaches a register's RW bits, clears its RW1C bits and leaves the rest; what the path may not reach is not
written and reads zero; a 4 B read of a register's lower half holds its upper half for the next read of it; the aperture reaches the
internal space at the path's base; a scratchpad is read and written through it, woken from HOLD, and refused in OFF. A write of a path that
is not admitted changes nothing but the path's latched read (R4 to R6, R9, R45, R49, R505 to R512, R365, R507, R510). The model's choices it
rests on: logs 3, 70, 77. -/
def Obligations.WindowsReadAndWrite : Prop :=
  ((∀ (path : Path) (off : BitVec 26) (r : Reg) (i b : Nat) (v : Word) (s : State), off.toNat % 4 = 0 →
     s.windowAt path off.toNat = .reg r i b → b % 4 = 0 → b + 4 ≤ 8 →
     (s.mayReach path (.reg r i b) = false → exec (.registerWrite path off 4 v) s = .next (s.touch path) ∧
       ∃ t, exec (.latchedRead path off 4) s = .next t ∧ t.out = s.out ++ [.read (pathIx path) off.toNat 4 0]) ∧
     (s.mayReach path (.reg r i b) = true →
       r ∉ [Reg.partSessCtrl, .partOqTail, .partOqCfg, .partCqCfg, .partCqHead, .partOqBase, .partCqBase, .evtCtrl, .evtComplete, .evtCommit,
         .evtRqHead, .evtEvent, .hlthCtrl, .pwrCapCommit, .pwrMode, .pwrState, .sbPinmux, .cfgsCtrl, .modReset] →
       (scheduleReg r = true → s.scheduleOpen i = false → exec (.registerWrite path off 4 v) s = .next (s.touch path)) ∧
       ((scheduleReg r = false ∨ s.scheduleOpen i = true) → ∃ t, exec (.registerWrite path off 4 v) s = .next t ∧ s.regsBut t [(r, i)] ∧
         ∀ j < 64, let inHalf := 8 * b ≤ j ∧ j < 8 * b + 32
           let new := v.getLsbD (j - 8 * b)
           let rw := (accMask r (fun a => a == .rw || a == .rws || (a == .lck && !s.flagF F.modState_lock_closed 0))).testBit j
           let rw1c := (accMask r (· == .rw1c)).testBit j
           (inHalf → rw = true → rw1c = false → (t.reg r i).getLsbD j = new) ∧
           (inHalf → rw = false → rw1c = true → (t.reg r i).getLsbD j = ((s.reg r i).getLsbD j && !new)) ∧
           (¬ inHalf ∨ (rw = false ∧ rw1c = false) → (t.reg r i).getLsbD j = (s.reg r i).getLsbD j))) ∧
     (∀ size : Fin 9, sizeOk off.toNat size = false → exec (.registerWrite path off size v) s = .next (s.touch path))) ∧
   (∀ (path : Path) (off : BitVec 26) (r : Reg) (i : Nat) (s : State), off.toNat % 8 = 0 → r.width = 64 →
     (∀ k < 8, s.windowAt path (off.toNat + k) = .reg r i k ∧ s.mayReach path (.reg r i k) = true) →
     let lo := (s.shown r i).toNat &&& readMask r
     (∃ t, exec (.latchedRead path off 4) s = .next t ∧ t.out = s.out ++ [.read (pathIx path) off.toNat 4 (lo % 2 ^ 32)] ∧
       (t.fn (pathIx path)).latch = some (r.key i, lo / 2 ^ 32) ∧ t.regs = s.regs) ∧
     (∃ t, exec (.latchedRead path off 8) s = .next t ∧ t.out = s.out ++ [.read (pathIx path) off.toNat 8 lo] ∧ t.regs = s.regs) ∧
     (∀ v, (s.fn (pathIx path)).latch = some (r.key i, v) → ∃ t, exec (.latchedRead path (off + 4) 4) s = .next t ∧
       t.out = s.out ++ [.read (pathIx path) (off.toNat + 4) 4 v] ∧ (t.fn (pathIx path)).latch = none)) ∧
   (∀ (off : BitVec 24) (size : Fin 9) (data : Word) (m : Fin 2) (s : State),
     (∀ p : PartIx, exec (.apertureAccess (.vf p) off size none) s = .next (s.touch (.vf p)) ∧
       exec (.scratchpadWindowAccess (.vf p) off size none false false) s = .next (s.touch (.vf p))) ∧
     (∃ t, exec (.apertureAccess (.mgmt m) off size (some data)) s = .next t ∧
       exec (.registerWrite (.mgmt m) (BitVec.ofNat 26 (0x3000000 + off.toNat)) size data) s = .next t) ∧
     (∃ t, exec (.apertureAccess (.mgmt m) off size none) s = .next t ∧
       exec (.latchedRead (.mgmt m) (BitVec.ofNat 26 (0x3000000 + off.toNat)) size) s = .next t)) ∧
   (∀ (m : Fin 2) (off : BitVec 24) (data : Word) (c : CoreIx) (o : Nat) (s : State), off.toNat % 4 = 0 →
     (∀ k < 4, s.windowAt (.mgmt m) (0x3000000 + off.toNat + k) = .area (.spad c) (o + k)) → o % 4 = 0 → o + 4 ≤ 8 * 2 ^ 20 →
     s.mayReach (.mgmt m) (.area (.spad c) o) = true → (∀ k < 4, s.mayReach (.mgmt m) (.area (.spad c) (o + k)) = true) →
     (s.getF F.vregPoint_state c = vOff → ∃ t, exec (.scratchpadWindowAccess (.mgmt m) off 4 (some data) false false) s = .next t ∧
       t.getF F.corePhase_win_refused c = 1 ∧ s.sameMemory t) ∧
     (s.getF F.vregPoint_state c ≠ vOff →
       (∃ t, exec (.scratchpadWindowAccess (.mgmt m) off 4 none false false) s = .next t ∧ s.sameMemory t ∧
         t.out = s.out ++ [.read (68 + m) (0x3000000 + off.toNat) 4 (Memory.readNat s.spad (spadKey c o) 4)] ∧
         (s.getF F.vregPoint_state c = vHold → (t.core c).woken = true)) ∧
       (∃ t, exec (.scratchpadWindowAccess (.mgmt m) off 4 (some data) false false) s = .next t ∧
         Memory.readNat t.spad (spadKey c o) 4 = data.toNat % 2 ^ 32 ∧ t.rowPoison c (o / 64) = s.rowPoison c (o / 64) ∧
         s.rowsBut t c (o / 64) 1 ∧ t.dram = s.dram))) ∧
   (∀ (c : CoreIx) (s : State), ∃ t, exec (.scratchpadRetentionReturn c) s = .next t ∧ (t.core c).woken = false ∧ t.regs = s.regs ∧ s.sameMemory t)) ∧
  (∀ (path : Path) (v : BitVec 32) (n : Fin 512) (s : State), s.admitted path = false →
     ∀ i ∈ [Instr.moduleActiveRequest path, .moduleHoldRequest path, .standbyRequest path, .stewardSet path, .stewardModeLeft path,
         .pwrCapCommit path v, .evtCompleteWrite path v, .evtCommitWrite path v, .evtRqHeadWrite path v, .evtCtrlWrite path v,
         .evtEventEnableWrite path n v, .healthCleared path v, .pinmuxSwitch path v],
       ∃ t, exec i s = .next t ∧ t = { s with fns := t.fns } ∧ (∀ k, t.fn k = { s.fn k with latch := (t.fn k).latch }))
/-- Right after reset every register reads its reset value, among them those that differ by unit, the module is BOOTING, every partition
EMPTY, every core STOPPED, nothing is under way, and memory lists nothing (R7, R25, R40, R108, R205, R382, R415, R494). The model's choices
it rests on: logs 1, 2. -/
def Obligations.ResetValues : Prop :=
  (∀ r i, State.reset.reg r i = r.resetWord i) ∧ State.reset.getF F.modState_state 0 = mBooting ∧
  (∀ p < 64, State.reset.pState p = psEmpty ∧ State.reset.part p = .init) ∧
  (∀ c < 4096, State.reset.getF F.coreId_x c = c % 64 ∧ State.reset.getF F.coreId_y c = c / 64 ∧
    State.reset.getF F.seqStatus_state c = stStopped ∧ State.reset.getF F.speThreshold_density c = 0x6666 ∧ State.reset.core c = .init) ∧
  (∀ k < 65, State.reset.getF F.evtCoal_count (16 * k) = 32 ∧ State.reset.getF F.evtCoal_time_us (16 * k) = 20) ∧
  State.reset.net = [] ∧ State.reset.ctl = [] ∧ State.reset.out = [] ∧ State.reset.pending = [] ∧ State.reset.memWf
/-- Every step keeps scratchpads and DRAM in their canonical form, whatever the command. The model's choices it rests on: log 2. -/
def Obligations.MemoryStaysCanonical : Prop :=
  ∀ s t : State, s.memWf → step s = .next t → t.memWf
/-- Arrivals at a STEP barrier with different tags, or with different checkpoint marks, are released by none: BARRIER_MISMATCH is raised
and the partition's policy applies, which STOP turns into a hold at the root and FAULT_STOPPED (R96). -/
def Obligations.MismatchedArrivalsAreNotReleased : Prop :=
  ∀ (p : PartIx) (m : Ctl) (tag merged g : Nat) (differ : Bool) (mark : Option Nat) (b : Arrivals) (s : State),
    m.msg = .barArrive tag merged differ true g mark → m.high = true → m.part = p.val → (s.part p).arrivals = some b →
    b.tag ≠ tag ∨ b.mark ≠ mark ∨ b.differ = true ∨ differ = true → (s.activeOf p).length ≤ b.count + merged →
    ∃ t, exec (.barArrive p [m] [] []) s = .next t ∧ (t.part p).arrivals.isSome = true ∧
      (∀ c tag' q, (⟨.barRelease tag' true 0, true, p, c, stewardNode, 2, q⟩ : Ctl) ∈ t.ctl →
        (⟨.barRelease tag' true 0, true, p, c, stewardNode, 2, q⟩ : Ctl) ∈ s.ctl) ∧
      s.raisedOne t .barrierMismatch stewardNode p p 0 ∧
      (bits (s.reg .partFaultPolicy p) 18 2 = 1 → (t.part p).stopHold = true ∧
        (s.pState p = psRunning → t.pState p = psStopped ∧ s.raisedOne t .partitionStopped stewardNode p p 0)) ∧
      s.sameMemory t
/-- END faults with reason 6 unless it stands directly after a STEP barrier; else the core's program has finished and the core is IDLE, and
the partition's run ends with the last active core's END and not before (R101). -/
def Obligations.EndEndsTheRun : Prop :=
  ∀ (c : CoreIx) (w : Word) (o : Obs) (s : State), s.ready c w false false → bits w 0 56 = 0 →
    ((s.core c).afterStep = false → ∃ t, exec (.endProgram c w o) s = .next t ∧ s.faultedWith t c 6) ∧
    ((s.core c).afterStep = true → ∃ t, exec (.endProgram c w o) s = .next t ∧ (t.core c).ended = true ∧
      t.getF F.seqStatus_state c = stStopped ∧
      ∀ p, s.ownerOf c = some p →
        let all := ∀ n ∈ s.activeOf p, ∃ k, s.physOf p n = some k ∧ (k = c.val ∨ (s.core k).ended = true)
        (all → t.pState p = psLoaded) ∧
        (¬ all → t.pState p = s.pState p ∧ (s.getF F.vregPoint_state c ≠ vOff → t.getF F.vregPoint_state c = vIdle)))
/-- A descriptor of length zero that R59 accepts completes at once: its local counter counts, it takes no tag, sends no packet and is never
scratchpad-active; its other fields are checked as any descriptor's are (R61). -/
def Obligations.ZeroLengthDescriptors : Prop :=
  ∀ (c : CoreIx) (w0 w1 w2 w3 w4 : Word) (o : Obs) (s : State), s.ready c w0 false false → bits w0 0 56 = 0 →
    ∀ x ∈ [(Instr.dramRead c w0 w1 w2 w3 w4 o, w3, DKind.dramRead), (.dramWrite c w0 w1 w2 w3 w4 o, w3, .dramWrite),
        (.corePush c w0 w1 w2 w3 w4 o, w3, .corePush), (.reduceSendExponents c w0 w1 w2 w3 w4 o, setBits w3 31 1 1, .reduceSend),
        (.reduceSendValues c w0 w1 w2 w3 w4 o, setBits w3 31 1 0, .reduceSend), (.dramCopy c w0 w1 w2 w3 w4 o, w3, .dramCopy)],
      let d := DescF.of w1 w2 x.2.1 w4
      let u := (s.taken c o).observe c o
      d.len = 0 →
      (u.descReason ((s.ownerOf c).getD 255) d x.2.2 = none → ∃ t, exec x.1 s = .next t ∧ u.movedOn t c 5 ∧ u.sameMemory t ∧ t.net = u.net ∧
        (t.core c).descs = (u.core c).descs ∧ (t.core c).tags = (u.core c).tags ∧ t.spadActive c = u.spadActive c ∧
        t.getF F.seqCount_value (c * 64 + d.ctr) = min (u.getF F.seqCount_value (c * 64 + d.ctr) + 1) (2 ^ 32 - 1)) ∧
      (∀ r, u.descReason ((s.ownerOf c).getD 255) d x.2.2 = some r → ∃ t, exec x.1 s = .next t ∧ t.net = u.net ∧
        (t.core c).descs = (u.core c).descs ∧ (u.getF F.dmaDescError_valid c = 0 → t.getF F.dmaDescError_reason c = r))
/-- An event's pending count takes every occurrence and saturates; EVT.CLAIM shows the highest enabled number with a count and its
read changes nothing; EVT.COMPLETE clears a count, and an occurrence that comes then is not lost; a record that meets a full queue is
dropped and counted, as an EVT_OVERFLOW and in EVT.RQ_STAT (R401, R402, R403, R412). -/
def Obligations.CountsClaimsAndOverflows : Prop :=
  (∀ (k : CtrlIx) (e : EvRec) (s : State), e.num < 511 → s.overtakes k e = false →
    let full := (s.getF F.evtRqTail_index k + 8192 - s.getF F.evtRqHead_index k) % 8192 = 4096
    ∃ t, exec (.eventRecord k e) s = .next t ∧
      t.getF F.evtEvent_pending (k * 512 + e.num) = min (s.getF F.evtEvent_pending (k * 512 + e.num) + 1) 65535 ∧
      (∀ n, n < 511 → n ≠ e.num → t.getF F.evtEvent_pending (k * 512 + n) = s.getF F.evtEvent_pending (k * 512 + n)) ∧
      (¬ full → t.getF F.evtEvent_pending (k * 512 + 511) = s.getF F.evtEvent_pending (k * 512 + 511)) ∧
      (full → t.getF F.evtEvent_pending (k * 512 + 511) = min (s.getF F.evtEvent_pending (k * 512 + 511) + 1) 65535 ∧
        t.getF F.evtRqStat_dropped k = min (s.getF F.evtRqStat_dropped k + 1) 65535 ∧
        t.getF F.evtRqTail_index k = s.getF F.evtRqTail_index k ∧ (t.evc k).records = (s.evc k).records ∧
        (s.getF F.evtEvent_enable (k * 512 + 511) = 1 → s.getF F.evtEvent_class (k * 512 + 511) = 15 → s.getF F.evtCtrl_enable k = 0 →
          s.getF F.evtEvent_enable (k * 512 + e.num) = 0 → t.evU k 15 = s.evU k 15 + 1))) ∧
  (∀ (path : Path) (v : BitVec 32) (s : State), s.admitted path = true →
    let k := ctrlOf path
    ∃ t, exec (.evtCompleteWrite path v) s = .next t ∧ t.getF F.evtEvent_pending (k * 512 + bits v 0 9) = 0 ∧
      ∀ (c : CtrlIx) (e : EvRec), c.val = k → e.num = bits v 0 9 → e.num < 511 → s.overtakes c e = false →
        ∃ u, exec (.eventRecord c e) t = .next u ∧ u.getF F.evtEvent_pending (k * 512 + e.num) = 1) ∧
  (∀ (path : Path) (off : BitVec 26) (k : Nat) (s : State), off.toNat % 4 = 0 →
    (∀ j < 4, s.windowAt path (off.toNat + j) = .reg .evtClaim k j ∧ s.mayReach path (.reg .evtClaim k j) = true) →
    let claimable (n : Nat) := n < 512 ∧ s.getF F.evtEvent_pending (k * 512 + n) ≠ 0 ∧ s.getF F.evtEvent_enable (k * 512 + n) = 1
    ∃ t n, exec (.latchedRead path off 4) s = .next t ∧ t.out = s.out ++ [.read (pathIx path) off.toNat 4 n] ∧
      t = { s with fns := t.fns, out := t.out } ∧
      ((n = 0xFFFF ∧ ∀ j, ¬ claimable j) ∨ (claimable n ∧ ∀ j, claimable j → j ≤ n)))
/-- An exact zero sum of operands with opposite signs is +0 and of two −0 is −0, whatever the rounding mode; a product's sign is the exclusive
OR of its operands'. A comparison with NaN is false, +0 and −0 compare equal, and its result is written as an exact 1 or 0 with no flag
(R136, R138). -/
def Obligations.SignsOfZeroAndComparisons : Prop :=
  (∀ (s s' : Bool) (m m' : Nat) (e e' : Int),
    (s ≠ s' → m * 2 ^ (e - e').toNat = m' * 2 ^ (e' - e).toNat → ∃ k, (vadd (.fin s m e) (.fin s' m' e')).1 = .fin false 0 k) ∧
    (∃ k, (vadd (.fin true 0 e) (.fin true 0 e')).1 = .fin true 0 k) ∧
    (∃ k, (vmul (.fin s m e) (.fin s' m' e')).1 = .fin (s != s') (m * m') k) ∧
    (vmul (.inf s) (.inf s')).1 = .inf (s != s') ∧ (m' ≠ 0 → (vmul (.inf s) (.fin s' m' e')).1 = .inf (s != s')) ∧
    (m ≠ 0 → (vmul (.fin s m e) (.inf s')).1 = .inf (s != s')) ∧ vcmp (.fin s 0 e) (.fin s' 0 e') = some .eq) ∧
  (∀ v : Val, vcmp .nan v = none ∧ vcmp v .nan = none) ∧
  (∀ f ∈ [Fmt.fp32, .f19, .bf16, .fp16, .e4m3, .e5m2, .e3m2, .e2m3, .e2m1], ∀ (ctx : RCtx) (u : Nat) (neg : Bool) (e : Int),
    encode f ctx u none (.fin neg 0 e) = (if neg then 2 ^ (f.width - 1) else 0, 0#5)) ∧
  (∀ x ∈ [(Fmt.fp32, 0x3F800000), (.f19, 0x3F800000), (.bf16, 0x3F80), (.fp16, 0x3C00), (.e4m3, 0x38), (.e5m2, 0x3C), (.e3m2, 0x0C),
      (.e2m3, 0x08), (.e2m1, 0x02), (.int8, 1), (.int4, 1), (.int32, 1), (.ul8, 128)], ∀ (ctx : RCtx) (u : Nat) (b : Bool),
    (truth b).1.2 = 0#5 ∧ encode x.1 ctx u none (truth b).1.1 = (if b then x.2 else 0, 0#5))
/-- An OPEN on a function whose session is open is REJECTED_STATE, and so is an admin's while another admin session is open anywhere; whatever
the command, at most one admin session stays open. A partition's function holds at most one session by its type (R366). -/
def Obligations.SessionsStaySingle : Prop :=
  (∀ s t : State, s.oneAdmin → step s = .next t → t.oneAdmin) ∧
  (∀ (path : Path) (tag : Fin 4096) (o : OrderSt) (s : State), s.orderReady path tag opOpen o →
    (s.fn (pathIx path)).session.isSome = true ∨ 64 ≤ pathIx path ∧ (∃ j ∈ rangeFrom 64 6, (s.fn j).session.isSome = true) →
    ∃ t d, exec (.openSession path tag) s = .next t ∧ s.doneOrder t o ccState d ∧ (∀ k, (t.fn k).session = (s.fn k).session) ∧ s.sameMemory t)
/-- The integer formats hold exactly the integers of their spans, with no NaN, Inf or subnormal; an E8M0 code is a power of two or NaN
(R119, R120). -/
def Obligations.IntegerAndScaleCodes : Prop :=
  (∀ x ∈ [(Fmt.int8, 8), (.int4, 4), (.int32, 32)],
    (∀ code, code < 2 ^ x.2 → ∃ i : Int, -2 ^ (x.2 - 1) ≤ i ∧ i < 2 ^ (x.2 - 1) ∧ decode x.1 code = .fin (decide (i < 0)) i.natAbs 0) ∧
    (∀ i : Int, -2 ^ (x.2 - 1) ≤ i → i < 2 ^ (x.2 - 1) → ∃ code < 2 ^ x.2, decode x.1 code = .fin (decide (i < 0)) i.natAbs 0)) ∧
  decode .int8 0x80 = .fin true 128 0 ∧ decode .int8 0x7F = .fin false 127 0 ∧ decode .int4 8 = .fin true 8 0 ∧ decode .int4 7 = .fin false 7 0 ∧
  decode .int32 0x80000000 = .fin true 2147483648 0 ∧ decode .int32 0x7FFFFFFF = .fin false 2147483647 0 ∧
  (∀ code < 255, decode .e8m0 code = .fin false 1 ((code : Int) - 127)) ∧ decode .e8m0 255 = .nan
end

