-- ==== Sys2Proof/Laws/Tab.lean ====
section
/-! SUPPORT. Laws of the sparse tables, sets, memories and bit fields: what is read after a write, and the canonical form. -/
namespace Sys2Proof

namespace Tab
variable {α : Type}
theorem get_ins_same (d : Nat → α) (k : Nat) (v : α) (t : Tab α) (h : ∀ e ∈ t, e.1 ≠ k) : get d (ins k v t) k = v := by
  induction t with
  | nil => simp [ins, get]
  | cons e t ih =>
    have he := h e (by simp)
    have ht := ih (fun x hx => h x (by simp [hx]))
    unfold ins; split
    · simp [get]
    · simp [get, Ne.symm he, ht]
theorem get_ins_ne (d : Nat → α) {k j : Nat} (v : α) (t : Tab α) (h : j ≠ k) : get d (ins k v t) j = get d t j := by
  induction t with
  | nil => simp [ins, get, h]
  | cons e t ih =>
    unfold ins; split
    · simp [get, h]
    · simp [get, ih]
theorem get_del_same (d : Nat → α) (k : Nat) (t : Tab α) : get d (del k t) k = d k := by
  induction t with
  | nil => rfl
  | cons e t ih =>
    by_cases he : e.1 = k
    · simpa [del, he] using ih
    · simpa [del, he, get, Ne.symm he] using ih
theorem get_del_ne (d : Nat → α) {k j : Nat} (t : Tab α) (h : j ≠ k) : get d (del k t) j = get d t j := by
  induction t with
  | nil => rfl
  | cons e t ih =>
    by_cases he : e.1 = k
    · have hd : del k (e :: t) = del k t := by simp [del, he]
      have hj : j ≠ e.1 := by omega
      rw [hd, ih]; simp [get, hj]
    · have hd : del k (e :: t) = e :: del k t := by simp [del, he]
      rw [hd]; simp [get, ih]
variable [DecidableEq α]
/-- A stored value is read back. -/
@[simp] theorem get_put_same (d : Nat → α) (k : Nat) (v : α) (t : Tab α) : get d (put d k v t) k = v := by
  unfold put; split
  · rw [get_del_same]; simp_all
  · exact get_ins_same d k v _ (by simp [del])
/-- A store leaves every other key alone. -/
@[simp] theorem get_put_ne (d : Nat → α) {k j : Nat} (v : α) (t : Tab α) (h : j ≠ k) : get d (put d k v t) j = get d t j := by
  unfold put; split
  · exact get_del_ne d t h
  · rw [get_ins_ne d v _ h, get_del_ne d t h]
theorem get_put (d : Nat → α) (k j : Nat) (v : α) (t : Tab α) : get d (put d k v t) j = if j = k then v else get d t j := by
  by_cases h : j = k
  · subst h; simp
  · simp [h]
omit [DecidableEq α] in
/-- Clearing returns the chosen keys to their default. -/
theorem get_clear (d : Nat → α) (p : Nat → Bool) (t : Tab α) (k : Nat) :
    get d (clear p t) k = if p k then d k else get d t k := by
  induction t with
  | nil => simp [clear, get]
  | cons e t ih =>
    simp only [clear] at ih
    by_cases he : p e.1
    · by_cases hk : k = e.1
      · subst hk; simp_all [clear]
      · simp_all [clear, get]
    · by_cases hk : k = e.1
      · subst hk; simp_all [clear, get]
      · simp_all [clear, get]

theorem wfFrom_mono (d : Nat → α) {lo lo' : Nat} (t : Tab α) (h : lo' ≤ lo) (w : wfFrom d lo t = true) : wfFrom d lo' t = true := by
  cases t with
  | nil => rfl
  | cons e t => simp [wfFrom] at w ⊢; exact ⟨⟨by omega, w.1.2⟩, w.2⟩
theorem wfFrom_filter (d : Nat → α) (p : Nat × α → Bool) (lo : Nat) (t : Tab α) (w : wfFrom d lo t = true) :
    wfFrom d lo (t.filter p) = true := by
  induction t generalizing lo with
  | nil => rfl
  | cons e t ih =>
    simp [wfFrom] at w
    by_cases he : p e = true
    · simp [he, wfFrom, w.1, ih (e.1 + 1) w.2]
    · simp [he]; exact wfFrom_mono d _ (by omega) (ih (e.1 + 1) w.2)
theorem wfFrom_ins (d : Nat → α) (k : Nat) (v : α) (hv : v ≠ d k) (lo : Nat) (t : Tab α) (hlo : lo ≤ k)
    (hk : ∀ e ∈ t, e.1 ≠ k) (w : wfFrom d lo t = true) : wfFrom d lo (ins k v t) = true := by
  induction t generalizing lo with
  | nil => simp [ins, wfFrom, hv, hlo]
  | cons e t ih =>
    have he := hk e (by simp)
    simp [wfFrom] at w
    unfold ins; split
    · simp [wfFrom, hlo, hv, w.1, w.2]; omega
    · simp [wfFrom, w.1]
      exact ih (e.1 + 1) (by omega) (fun x hx => hk x (by simp [hx])) w.2
/-- A store keeps the canonical form. -/
theorem wf_put (d : Nat → α) (k : Nat) (v : α) (t : Tab α) (w : wf d t = true) : wf d (put d k v t) = true := by
  unfold put wf at *; split
  · exact wfFrom_filter d _ 0 t w
  · exact wfFrom_ins d k v ‹_› 0 _ (by omega) (by simp [del]) (wfFrom_filter d _ 0 t w)
/-- Clearing keeps the canonical form. -/
theorem wf_clear (d : Nat → α) (p : Nat → Bool) (t : Tab α) (w : wf d t = true) : wf d (clear p t) = true :=
  wfFrom_filter d _ 0 t w
end Tab

namespace NSet
@[simp] theorem contains_add_same (k : Nat) (s : NSet) : (add k s).contains k = true := by
  induction s with
  | nil => simp [add]
  | cons a t ih =>
    unfold add; split
    · simp
    · split
      · simp_all
      · simp at ih; simp [ih]
theorem contains_add (k j : Nat) (s : NSet) : (add k s).contains j = (decide (j = k) || s.contains j) := by
  induction s with
  | nil => simp [add]
  | cons a t ih =>
    unfold add; split
    · simp
    · split
      · rename_i h; subst h; simp
      · simp at ih; simp [ih]
        by_cases h1 : j = a <;> by_cases h2 : j = k <;> simp [h1, h2]
theorem contains_del (k j : Nat) (s : NSet) : (del k s).contains j = (decide (j ≠ k) && s.contains j) := by
  by_cases h : j = k
  · subst h; simp [del]
  · by_cases h2 : j ∈ s <;> simp [del, h, h2]
end NSet

namespace Machine
theorem setWf_mono {lo lo' : Nat} (s : NSet) (h : lo' ≤ lo) (w : setWfFrom lo s = true) : setWfFrom lo' s = true := by
  cases s with
  | nil => rfl
  | cons a t => simp [setWfFrom] at w ⊢; exact ⟨by omega, w.2⟩
theorem setWf_filter (p : Nat → Bool) (lo : Nat) (s : NSet) (w : setWfFrom lo s = true) : setWfFrom lo (s.filter p) = true := by
  induction s generalizing lo with
  | nil => rfl
  | cons a t ih =>
    simp [setWfFrom] at w
    by_cases ha : p a = true
    · simp [ha, setWfFrom, w.1, ih (a + 1) w.2]
    · simp [ha]; exact setWf_mono _ (by omega) (ih (a + 1) w.2)
theorem setWfFrom_add (k lo : Nat) (s : NSet) (h : lo ≤ k) (w : setWfFrom lo s = true) : setWfFrom lo (NSet.add k s) = true := by
  induction s generalizing lo with
  | nil => simp [NSet.add, setWfFrom, h]
  | cons a t ih =>
    simp [setWfFrom] at w
    unfold NSet.add; split
    · simp [setWfFrom, h, w.2]; omega
    · split
      · simp [setWfFrom, w.1, w.2]
      · simp [setWfFrom, w.1]; exact ih (a + 1) (by omega) w.2
/-- Adding a number keeps a set's canonical form. -/
theorem setWf_add (k : Nat) (s : NSet) (w : setWf s = true) : setWf (NSet.add k s) = true := setWfFrom_add k 0 s (by omega) w
/-- So does taking one away. -/
theorem setWf_del (k : Nat) (s : NSet) (w : setWf s = true) : setWf (NSet.del k s) = true := setWf_filter _ 0 s w
end Machine

namespace Memory
@[simp] theorem read_write_same (m : Memory) (a : Nat) (b : Byte) : read (write m a b) a = b := by simp [read, write]
@[simp] theorem read_write_ne (m : Memory) {a c : Nat} (b : Byte) (h : c ≠ a) : read (write m a b) c = read m c := by
  simp [read, write, h]
/-- A run of stores leaves every byte outside it alone. -/
theorem read_writeBytes_out (l : List Byte) (m : Memory) (a c : Nat) (h : c < a ∨ a + l.length ≤ c) :
    read (writeBytes m a l) c = read m c := by
  induction l generalizing m a with
  | nil => rfl
  | cons b t ih =>
    simp only [writeBytes, List.length_cons] at *
    rw [ih (write m a b) (a + 1) (by omega), read_write_ne]; omega
/-- Inside it the byte stored is read back. -/
theorem read_writeBytes_in (l : List Byte) (m : Memory) (a i : Nat) (h : i < l.length) :
    read (writeBytes m a l) (a + i) = l[i] := by
  induction l generalizing m a i with
  | nil => simp at h
  | cons b t ih =>
    cases i with
    | zero => simp only [writeBytes]; rw [read_writeBytes_out _ _ _ _ (by omega)]; simp
    | succ i =>
      simp only [writeBytes, List.getElem_cons_succ]
      have := ih (write m a b) (a + 1) i (by simpa using h)
      rwa [show a + 1 + i = a + (i + 1) by omega] at this
theorem wf_write (m : Memory) (a : Nat) (b : Byte) (w : m.wf = true) : (write m a b).wf = true := Tab.wf_put _ _ _ _ w
theorem wf_writeBytes (l : List Byte) (m : Memory) (a : Nat) (w : m.wf = true) : (writeBytes m a l).wf = true := by
  induction l generalizing m a with
  | nil => exact w
  | cons b t ih => exact ih _ _ (wf_write m a b w)
theorem wf_writeNat (m : Memory) (a n v : Nat) (w : m.wf = true) : (writeNat m a n v).wf = true := wf_writeBytes _ _ _ w
theorem wf_writeRow (m : Memory) (a : Nat) (r : Row) (w : m.wf = true) : (writeRow m a r).wf = true := wf_writeBytes _ _ _ w
theorem wf_zero (m : Memory) (a n : Nat) (w : m.wf = true) : (zero m a n).wf = true := Tab.wf_clear _ _ _ w
theorem wf_clear (p : Nat → Bool) (m : Memory) (w : m.wf = true) : wf (Tab.clear p m) = true := Tab.wf_clear _ _ _ w
@[simp] theorem readBytes_length (m : Memory) (a n : Nat) : (readBytes m a n).length = n := by
  induction n generalizing a with
  | zero => rfl
  | succ n ih => simp [readBytes, ih]
end Memory

@[simp] theorem leBytes_length (v n : Nat) : (leBytes v n).length = n := by
  induction n generalizing v with
  | zero => rfl
  | succ n ih => simp [leBytes, ih]
@[simp] theorem rowBytes_length (r : Row) : (rowBytes r).length = 64 := by simp [rowBytes]
theorem ofLe_leBytes (n : Nat) : ∀ v, v < 256 ^ n → ofLe (leBytes v n) = v := by
  induction n with
  | zero => intro v h; simp at h; simp [leBytes, ofLe, h]
  | succ n ih =>
    intro v h
    have : v / 256 < 256 ^ n := by rw [Nat.div_lt_iff_lt_mul (by omega)]; rw [pow_succ] at h; omega
    simp [leBytes, ofLe, ih _ this]; omega
/-- What bytes are read after a run of stores at the same place. -/
theorem Memory.readBytes_writeBytes (l : List Byte) (m : Memory) (a : Nat) : readBytes (writeBytes m a l) a l.length = l := by
  induction l generalizing m a with
  | nil => rfl
  | cons b t ih =>
    simp only [writeBytes, List.length_cons, readBytes, List.cons.injEq]
    refine ⟨?_, ih _ _⟩
    rw [read_writeBytes_out _ _ _ _ (by omega)]; simp
/-- A row stored is the row read. -/
@[simp] theorem Memory.readRow_writeRow (m : Memory) (a : Nat) (r : Row) : readRow (writeRow m a r) a = r := by
  have h : readBytes (writeRow m a r) a 64 = rowBytes r := by
    have := readBytes_writeBytes (rowBytes r) m a
    rwa [rowBytes_length] at this
  unfold readRow readNat; rw [h]
  unfold rowBytes; rw [ofLe_leBytes]
  · simp
  · have h2 : (256 : Nat) ^ 64 = 2 ^ 512 := by rw [show (256 : Nat) = 2 ^ 8 by rfl, ← pow_mul]
    exact Nat.lt_of_lt_of_eq r.isLt h2.symm
theorem Memory.readBytes_congr (m m' : Memory) (a n : Nat) (h : ∀ c, a ≤ c → c < a + n → read m c = read m' c) :
    readBytes m a n = readBytes m' a n := by
  induction n generalizing a with
  | zero => rfl
  | succ n ih =>
    simp only [readBytes, List.cons.injEq]
    exact ⟨h a (by omega) (by omega), ih _ (fun c h1 h2 => h c (by omega) (by omega))⟩
/-- A row elsewhere is untouched. -/
theorem Memory.readRow_writeRow_ne (m : Memory) (a b : Nat) (r : Row) (h : b + 64 ≤ a ∨ a + 64 ≤ b) :
    readRow (writeRow m a r) b = readRow m b := by
  unfold readRow readNat writeRow
  rw [readBytes_congr (writeBytes m a (rowBytes r)) m b 64 (fun c h1 h2 => read_writeBytes_out _ _ _ _ (by simp; omega))]

/-! ### Bit fields -/
/-- A word is its field, what lies below it and what lies above it. -/
theorem bits_split {n : Nat} (w : BitVec n) (lo len : Nat) :
    w.toNat = w.toNat % 2 ^ lo + 2 ^ lo * (bits w lo len + 2 ^ len * (w.toNat / 2 ^ (lo + len))) := by
  simp only [bits, Nat.shiftRight_eq_div_pow]
  rw [pow_add, ← Nat.div_div_eq_div_mul, Nat.mod_add_div, Nat.mod_add_div]
theorem setBits_toNat {n : Nat} (w : BitVec n) (lo len v : Nat) (h : lo + len ≤ n) :
    (setBits w lo len v).toNat = w.toNat % 2 ^ lo + 2 ^ lo * (v % 2 ^ len + 2 ^ len * (w.toNat / 2 ^ (lo + len))) := by
  unfold setBits
  have hs := bits_split w lo len
  have e : w.toNat - bits w lo len * 2 ^ lo + v % 2 ^ len * 2 ^ lo
      = w.toNat % 2 ^ lo + 2 ^ lo * (v % 2 ^ len + 2 ^ len * (w.toNat / 2 ^ (lo + len))) := by
    rw [Nat.mul_add] at hs ⊢
    rw [Nat.mul_comm (bits w lo len), Nat.mul_comm (v % 2 ^ len)]; omega
  rw [BitVec.toNat_ofNat, e, Nat.mod_eq_of_lt]
  have hr : w.toNat % 2 ^ lo < 2 ^ lo := Nat.mod_lt _ (by positivity)
  have hv : v % 2 ^ len < 2 ^ len := Nat.mod_lt _ (by positivity)
  have hq : w.toNat / 2 ^ (lo + len) < 2 ^ (n - (lo + len)) := by
    refine Nat.div_lt_of_lt_mul ?_
    rw [← pow_add, show lo + len + (n - (lo + len)) = n by omega]; exact w.isLt
  calc w.toNat % 2 ^ lo + 2 ^ lo * (v % 2 ^ len + 2 ^ len * (w.toNat / 2 ^ (lo + len)))
      < 2 ^ lo + 2 ^ lo * (v % 2 ^ len + 2 ^ len * (w.toNat / 2 ^ (lo + len))) := by omega
    _ = 2 ^ lo * (v % 2 ^ len + 1 + 2 ^ len * (w.toNat / 2 ^ (lo + len))) := by ring
    _ ≤ 2 ^ lo * (2 ^ len + 2 ^ len * (w.toNat / 2 ^ (lo + len))) := Nat.mul_le_mul_left _ (by omega)
    _ = 2 ^ lo * 2 ^ len * (w.toNat / 2 ^ (lo + len) + 1) := by ring
    _ ≤ 2 ^ lo * 2 ^ len * 2 ^ (n - (lo + len)) := Nat.mul_le_mul_left _ hq
    _ = 2 ^ n := by rw [← pow_add, ← pow_add]; congr 1; omega
/-- A field reads what was put into it. -/
theorem bits_setBits_same {n : Nat} (w : BitVec n) (lo len v : Nat) (h : lo + len ≤ n) :
    bits (setBits w lo len v) lo len = v % 2 ^ len := by
  conv_lhs => unfold bits
  rw [setBits_toNat w lo len v h, Nat.shiftRight_eq_div_pow, Nat.add_mul_div_left _ _ (by positivity),
    Nat.div_eq_of_lt (Nat.mod_lt _ (by positivity)), Nat.zero_add, Nat.add_mul_mod_self_left, Nat.mod_mod]
/-- Fields beside it keep their value. -/
theorem bits_setBits_ne {n : Nat} (w : BitVec n) (lo len v lo' len' : Nat) (h : lo + len ≤ n)
    (hd : lo' + len' ≤ lo ∨ lo + len ≤ lo') : bits (setBits w lo len v) lo' len' = bits w lo' len' := by
  have key : ∀ x y : Nat, (∀ i, lo' ≤ i → i < lo' + len' → x.testBit i = y.testBit i) →
      (x >>> lo') % 2 ^ len' = (y >>> lo') % 2 ^ len' := by
    intro x y hxy
    apply Nat.eq_of_testBit_eq; intro i
    rw [Nat.testBit_mod_two_pow, Nat.testBit_mod_two_pow, Nat.testBit_shiftRight, Nat.testBit_shiftRight]
    by_cases hi : i < len'
    · rw [hxy (lo' + i) (by omega) (by omega)]
    · simp [hi]
  unfold bits; apply key
  intro i h1 h2
  rw [setBits_toNat w lo len v h]
  rcases hd with hd | hd
  · rw [Nat.add_comm, Nat.testBit_two_pow_mul_add _ (Nat.mod_lt _ (by positivity)), if_pos (by omega), Nat.testBit_mod_two_pow]
    simp; omega
  · rw [Nat.add_comm, Nat.testBit_two_pow_mul_add _ (Nat.mod_lt _ (by positivity)), if_neg (by omega), Nat.add_comm,
      Nat.testBit_two_pow_mul_add _ (Nat.mod_lt _ (by positivity)), if_neg (by omega), Nat.testBit_div_two_pow]
    congr 1; omega
end Sys2Proof
end

