-- ==== Sys2Proof/Laws/State.lean ====
section
/-! SUPPORT. What each update of `State` leaves alone, by field, and what registers, units and scratchpad rows read after one. -/
namespace Sys2Proof.Machine
namespace State
@[simp] theorem setReg_cores (s : State) (r : Reg) (i : Nat) (v : Word) : (s.setReg r i v).cores = s.cores := rfl
@[simp] theorem setReg_parts (s : State) (r : Reg) (i : Nat) (v : Word) : (s.setReg r i v).parts = s.parts := rfl
@[simp] theorem setReg_sites (s : State) (r : Reg) (i : Nat) (v : Word) : (s.setReg r i v).sites = s.sites := rfl
@[simp] theorem setReg_fns (s : State) (r : Reg) (i : Nat) (v : Word) : (s.setReg r i v).fns = s.fns := rfl
@[simp] theorem setReg_evcs (s : State) (r : Reg) (i : Nat) (v : Word) : (s.setReg r i v).evcs = s.evcs := rfl
@[simp] theorem setReg_dies (s : State) (r : Reg) (i : Nat) (v : Word) : (s.setReg r i v).dies = s.dies := rfl
@[simp] theorem setReg_edges (s : State) (r : Reg) (i : Nat) (v : Word) : (s.setReg r i v).edges = s.edges := rfl
@[simp] theorem setReg_mod (s : State) (r : Reg) (i : Nat) (v : Word) : (s.setReg r i v).mod = s.mod := rfl
@[simp] theorem setReg_flash (s : State) (r : Reg) (i : Nat) (v : Word) : (s.setReg r i v).flash = s.flash := rfl
@[simp] theorem setReg_congMap (s : State) (r : Reg) (i : Nat) (v : Word) : (s.setReg r i v).congMap = s.congMap := rfl
@[simp] theorem setReg_congHeard (s : State) (r : Reg) (i : Nat) (v : Word) : (s.setReg r i v).congHeard = s.congHeard := rfl
@[simp] theorem setReg_spad (s : State) (r : Reg) (i : Nat) (v : Word) : (s.setReg r i v).spad = s.spad := rfl
@[simp] theorem setReg_spadPoison (s : State) (r : Reg) (i : Nat) (v : Word) : (s.setReg r i v).spadPoison = s.spadPoison := rfl
@[simp] theorem setReg_spadChk (s : State) (r : Reg) (i : Nat) (v : Word) : (s.setReg r i v).spadChk = s.spadChk := rfl
@[simp] theorem setReg_dram (s : State) (r : Reg) (i : Nat) (v : Word) : (s.setReg r i v).dram = s.dram := rfl
@[simp] theorem setReg_blk (s : State) (r : Reg) (i : Nat) (v : Word) : (s.setReg r i v).blk = s.blk := rfl
@[simp] theorem setReg_recv (s : State) (r : Reg) (i : Nat) (v : Word) : (s.setReg r i v).recv = s.recv := rfl
@[simp] theorem setReg_image (s : State) (r : Reg) (i : Nat) (v : Word) : (s.setReg r i v).image = s.image := rfl
@[simp] theorem setReg_health (s : State) (r : Reg) (i : Nat) (v : Word) : (s.setReg r i v).health = s.health := rfl
@[simp] theorem setReg_net (s : State) (r : Reg) (i : Nat) (v : Word) : (s.setReg r i v).net = s.net := rfl
@[simp] theorem setReg_ctl (s : State) (r : Reg) (i : Nat) (v : Word) : (s.setReg r i v).ctl = s.ctl := rfl
@[simp] theorem setReg_evNet (s : State) (r : Reg) (i : Nat) (v : Word) : (s.setReg r i v).evNet = s.evNet := rfl
@[simp] theorem setReg_evSeq (s : State) (r : Reg) (i : Nat) (v : Word) : (s.setReg r i v).evSeq = s.evSeq := rfl
@[simp] theorem setReg_conns (s : State) (r : Reg) (i : Nat) (v : Word) : (s.setReg r i v).conns = s.conns := rfl
@[simp] theorem setReg_klRx (s : State) (r : Reg) (i : Nat) (v : Word) : (s.setReg r i v).klRx = s.klRx := rfl
@[simp] theorem setReg_heard (s : State) (r : Reg) (i : Nat) (v : Word) : (s.setReg r i v).heard = s.heard := rfl
@[simp] theorem setReg_fab (s : State) (r : Reg) (i : Nat) (v : Word) : (s.setReg r i v).fab = s.fab := rfl
@[simp] theorem setReg_out (s : State) (r : Reg) (i : Nat) (v : Word) : (s.setReg r i v).out = s.out := rfl
@[simp] theorem setReg_now (s : State) (r : Reg) (i : Nat) (v : Word) : (s.setReg r i v).now = s.now := rfl
@[simp] theorem setReg_freeCtr (s : State) (r : Reg) (i : Nat) (v : Word) : (s.setReg r i v).freeCtr = s.freeCtr := rfl
@[simp] theorem setReg_pending (s : State) (r : Reg) (i : Nat) (v : Word) : (s.setReg r i v).pending = s.pending := rfl
@[simp] theorem setReg_core (s : State) (r : Reg) (i : Nat) (v : Word) (j : Nat) : (s.setReg r i v).core j = s.core j := rfl
@[simp] theorem setReg_part (s : State) (r : Reg) (i : Nat) (v : Word) (j : Nat) : (s.setReg r i v).part j = s.part j := rfl
@[simp] theorem setReg_site (s : State) (r : Reg) (i : Nat) (v : Word) (j : Nat) : (s.setReg r i v).site j = s.site j := rfl
@[simp] theorem setReg_fn (s : State) (r : Reg) (i : Nat) (v : Word) (j : Nat) : (s.setReg r i v).fn j = s.fn j := rfl
@[simp] theorem setReg_evc (s : State) (r : Reg) (i : Nat) (v : Word) (j : Nat) : (s.setReg r i v).evc j = s.evc j := rfl
@[simp] theorem setReg_die (s : State) (r : Reg) (i : Nat) (v : Word) (j : Nat) : (s.setReg r i v).die j = s.die j := rfl
@[simp] theorem setReg_edge (s : State) (r : Reg) (i : Nat) (v : Word) (j : Nat) : (s.setReg r i v).edge j = s.edge j := rfl
@[simp] theorem setReg_ownerOf (s : State) (r : Reg) (i : Nat) (v : Word) (c' : Nat) : (s.setReg r i v).ownerOf c' = s.ownerOf c' := rfl
@[simp] theorem setReg_coresOf (s : State) (r : Reg) (i : Nat) (v : Word) (p' : Nat) : (s.setReg r i v).coresOf p' = s.coresOf p' := rfl
@[simp] theorem setReg_extents (s : State) (r : Reg) (i : Nat) (v : Word) (p' : Nat) : (s.setReg r i v).extents p' = s.extents p' := rfl
@[simp] theorem setReg_row (s : State) (r : Reg) (i : Nat) (v : Word) (c' r' : Nat) : (s.setReg r i v).row c' r' = s.row c' r' := rfl
@[simp] theorem setReg_rowPoison (s : State) (r : Reg) (i : Nat) (v : Word) (c' r' : Nat) : (s.setReg r i v).rowPoison c' r' = s.rowPoison c' r' := rfl
@[simp] theorem setF_cores (s : State) (f : RF) (i v : Nat) : (s.setF f i v).cores = s.cores := rfl
@[simp] theorem setF_parts (s : State) (f : RF) (i v : Nat) : (s.setF f i v).parts = s.parts := rfl
@[simp] theorem setF_sites (s : State) (f : RF) (i v : Nat) : (s.setF f i v).sites = s.sites := rfl
@[simp] theorem setF_fns (s : State) (f : RF) (i v : Nat) : (s.setF f i v).fns = s.fns := rfl
@[simp] theorem setF_evcs (s : State) (f : RF) (i v : Nat) : (s.setF f i v).evcs = s.evcs := rfl
@[simp] theorem setF_dies (s : State) (f : RF) (i v : Nat) : (s.setF f i v).dies = s.dies := rfl
@[simp] theorem setF_edges (s : State) (f : RF) (i v : Nat) : (s.setF f i v).edges = s.edges := rfl
@[simp] theorem setF_mod (s : State) (f : RF) (i v : Nat) : (s.setF f i v).mod = s.mod := rfl
@[simp] theorem setF_flash (s : State) (f : RF) (i v : Nat) : (s.setF f i v).flash = s.flash := rfl
@[simp] theorem setF_congMap (s : State) (f : RF) (i v : Nat) : (s.setF f i v).congMap = s.congMap := rfl
@[simp] theorem setF_congHeard (s : State) (f : RF) (i v : Nat) : (s.setF f i v).congHeard = s.congHeard := rfl
@[simp] theorem setF_spad (s : State) (f : RF) (i v : Nat) : (s.setF f i v).spad = s.spad := rfl
@[simp] theorem setF_spadPoison (s : State) (f : RF) (i v : Nat) : (s.setF f i v).spadPoison = s.spadPoison := rfl
@[simp] theorem setF_spadChk (s : State) (f : RF) (i v : Nat) : (s.setF f i v).spadChk = s.spadChk := rfl
@[simp] theorem setF_dram (s : State) (f : RF) (i v : Nat) : (s.setF f i v).dram = s.dram := rfl
@[simp] theorem setF_blk (s : State) (f : RF) (i v : Nat) : (s.setF f i v).blk = s.blk := rfl
@[simp] theorem setF_recv (s : State) (f : RF) (i v : Nat) : (s.setF f i v).recv = s.recv := rfl
@[simp] theorem setF_image (s : State) (f : RF) (i v : Nat) : (s.setF f i v).image = s.image := rfl
@[simp] theorem setF_health (s : State) (f : RF) (i v : Nat) : (s.setF f i v).health = s.health := rfl
@[simp] theorem setF_net (s : State) (f : RF) (i v : Nat) : (s.setF f i v).net = s.net := rfl
@[simp] theorem setF_ctl (s : State) (f : RF) (i v : Nat) : (s.setF f i v).ctl = s.ctl := rfl
@[simp] theorem setF_evNet (s : State) (f : RF) (i v : Nat) : (s.setF f i v).evNet = s.evNet := rfl
@[simp] theorem setF_evSeq (s : State) (f : RF) (i v : Nat) : (s.setF f i v).evSeq = s.evSeq := rfl
@[simp] theorem setF_conns (s : State) (f : RF) (i v : Nat) : (s.setF f i v).conns = s.conns := rfl
@[simp] theorem setF_klRx (s : State) (f : RF) (i v : Nat) : (s.setF f i v).klRx = s.klRx := rfl
@[simp] theorem setF_heard (s : State) (f : RF) (i v : Nat) : (s.setF f i v).heard = s.heard := rfl
@[simp] theorem setF_fab (s : State) (f : RF) (i v : Nat) : (s.setF f i v).fab = s.fab := rfl
@[simp] theorem setF_out (s : State) (f : RF) (i v : Nat) : (s.setF f i v).out = s.out := rfl
@[simp] theorem setF_now (s : State) (f : RF) (i v : Nat) : (s.setF f i v).now = s.now := rfl
@[simp] theorem setF_freeCtr (s : State) (f : RF) (i v : Nat) : (s.setF f i v).freeCtr = s.freeCtr := rfl
@[simp] theorem setF_pending (s : State) (f : RF) (i v : Nat) : (s.setF f i v).pending = s.pending := rfl
@[simp] theorem setF_core (s : State) (f : RF) (i v : Nat) (j : Nat) : (s.setF f i v).core j = s.core j := rfl
@[simp] theorem setF_part (s : State) (f : RF) (i v : Nat) (j : Nat) : (s.setF f i v).part j = s.part j := rfl
@[simp] theorem setF_site (s : State) (f : RF) (i v : Nat) (j : Nat) : (s.setF f i v).site j = s.site j := rfl
@[simp] theorem setF_fn (s : State) (f : RF) (i v : Nat) (j : Nat) : (s.setF f i v).fn j = s.fn j := rfl
@[simp] theorem setF_evc (s : State) (f : RF) (i v : Nat) (j : Nat) : (s.setF f i v).evc j = s.evc j := rfl
@[simp] theorem setF_die (s : State) (f : RF) (i v : Nat) (j : Nat) : (s.setF f i v).die j = s.die j := rfl
@[simp] theorem setF_edge (s : State) (f : RF) (i v : Nat) (j : Nat) : (s.setF f i v).edge j = s.edge j := rfl
@[simp] theorem setF_ownerOf (s : State) (f : RF) (i v : Nat) (c' : Nat) : (s.setF f i v).ownerOf c' = s.ownerOf c' := rfl
@[simp] theorem setF_coresOf (s : State) (f : RF) (i v : Nat) (p' : Nat) : (s.setF f i v).coresOf p' = s.coresOf p' := rfl
@[simp] theorem setF_extents (s : State) (f : RF) (i v : Nat) (p' : Nat) : (s.setF f i v).extents p' = s.extents p' := rfl
@[simp] theorem setF_row (s : State) (f : RF) (i v : Nat) (c' r' : Nat) : (s.setF f i v).row c' r' = s.row c' r' := rfl
@[simp] theorem setF_rowPoison (s : State) (f : RF) (i v : Nat) (c' r' : Nat) : (s.setF f i v).rowPoison c' r' = s.rowPoison c' r' := rfl
@[simp] theorem bumpF_cores (s : State) (f : RF) (i n : Nat) : (s.bumpF f i n).cores = s.cores := rfl
@[simp] theorem bumpF_parts (s : State) (f : RF) (i n : Nat) : (s.bumpF f i n).parts = s.parts := rfl
@[simp] theorem bumpF_sites (s : State) (f : RF) (i n : Nat) : (s.bumpF f i n).sites = s.sites := rfl
@[simp] theorem bumpF_fns (s : State) (f : RF) (i n : Nat) : (s.bumpF f i n).fns = s.fns := rfl
@[simp] theorem bumpF_evcs (s : State) (f : RF) (i n : Nat) : (s.bumpF f i n).evcs = s.evcs := rfl
@[simp] theorem bumpF_dies (s : State) (f : RF) (i n : Nat) : (s.bumpF f i n).dies = s.dies := rfl
@[simp] theorem bumpF_edges (s : State) (f : RF) (i n : Nat) : (s.bumpF f i n).edges = s.edges := rfl
@[simp] theorem bumpF_mod (s : State) (f : RF) (i n : Nat) : (s.bumpF f i n).mod = s.mod := rfl
@[simp] theorem bumpF_flash (s : State) (f : RF) (i n : Nat) : (s.bumpF f i n).flash = s.flash := rfl
@[simp] theorem bumpF_congMap (s : State) (f : RF) (i n : Nat) : (s.bumpF f i n).congMap = s.congMap := rfl
@[simp] theorem bumpF_congHeard (s : State) (f : RF) (i n : Nat) : (s.bumpF f i n).congHeard = s.congHeard := rfl
@[simp] theorem bumpF_spad (s : State) (f : RF) (i n : Nat) : (s.bumpF f i n).spad = s.spad := rfl
@[simp] theorem bumpF_spadPoison (s : State) (f : RF) (i n : Nat) : (s.bumpF f i n).spadPoison = s.spadPoison := rfl
@[simp] theorem bumpF_spadChk (s : State) (f : RF) (i n : Nat) : (s.bumpF f i n).spadChk = s.spadChk := rfl
@[simp] theorem bumpF_dram (s : State) (f : RF) (i n : Nat) : (s.bumpF f i n).dram = s.dram := rfl
@[simp] theorem bumpF_blk (s : State) (f : RF) (i n : Nat) : (s.bumpF f i n).blk = s.blk := rfl
@[simp] theorem bumpF_recv (s : State) (f : RF) (i n : Nat) : (s.bumpF f i n).recv = s.recv := rfl
@[simp] theorem bumpF_image (s : State) (f : RF) (i n : Nat) : (s.bumpF f i n).image = s.image := rfl
@[simp] theorem bumpF_health (s : State) (f : RF) (i n : Nat) : (s.bumpF f i n).health = s.health := rfl
@[simp] theorem bumpF_net (s : State) (f : RF) (i n : Nat) : (s.bumpF f i n).net = s.net := rfl
@[simp] theorem bumpF_ctl (s : State) (f : RF) (i n : Nat) : (s.bumpF f i n).ctl = s.ctl := rfl
@[simp] theorem bumpF_evNet (s : State) (f : RF) (i n : Nat) : (s.bumpF f i n).evNet = s.evNet := rfl
@[simp] theorem bumpF_evSeq (s : State) (f : RF) (i n : Nat) : (s.bumpF f i n).evSeq = s.evSeq := rfl
@[simp] theorem bumpF_conns (s : State) (f : RF) (i n : Nat) : (s.bumpF f i n).conns = s.conns := rfl
@[simp] theorem bumpF_klRx (s : State) (f : RF) (i n : Nat) : (s.bumpF f i n).klRx = s.klRx := rfl
@[simp] theorem bumpF_heard (s : State) (f : RF) (i n : Nat) : (s.bumpF f i n).heard = s.heard := rfl
@[simp] theorem bumpF_fab (s : State) (f : RF) (i n : Nat) : (s.bumpF f i n).fab = s.fab := rfl
@[simp] theorem bumpF_out (s : State) (f : RF) (i n : Nat) : (s.bumpF f i n).out = s.out := rfl
@[simp] theorem bumpF_now (s : State) (f : RF) (i n : Nat) : (s.bumpF f i n).now = s.now := rfl
@[simp] theorem bumpF_freeCtr (s : State) (f : RF) (i n : Nat) : (s.bumpF f i n).freeCtr = s.freeCtr := rfl
@[simp] theorem bumpF_pending (s : State) (f : RF) (i n : Nat) : (s.bumpF f i n).pending = s.pending := rfl
@[simp] theorem bumpF_core (s : State) (f : RF) (i n : Nat) (j : Nat) : (s.bumpF f i n).core j = s.core j := rfl
@[simp] theorem bumpF_part (s : State) (f : RF) (i n : Nat) (j : Nat) : (s.bumpF f i n).part j = s.part j := rfl
@[simp] theorem bumpF_site (s : State) (f : RF) (i n : Nat) (j : Nat) : (s.bumpF f i n).site j = s.site j := rfl
@[simp] theorem bumpF_fn (s : State) (f : RF) (i n : Nat) (j : Nat) : (s.bumpF f i n).fn j = s.fn j := rfl
@[simp] theorem bumpF_evc (s : State) (f : RF) (i n : Nat) (j : Nat) : (s.bumpF f i n).evc j = s.evc j := rfl
@[simp] theorem bumpF_die (s : State) (f : RF) (i n : Nat) (j : Nat) : (s.bumpF f i n).die j = s.die j := rfl
@[simp] theorem bumpF_edge (s : State) (f : RF) (i n : Nat) (j : Nat) : (s.bumpF f i n).edge j = s.edge j := rfl
@[simp] theorem bumpF_ownerOf (s : State) (f : RF) (i n : Nat) (c' : Nat) : (s.bumpF f i n).ownerOf c' = s.ownerOf c' := rfl
@[simp] theorem bumpF_coresOf (s : State) (f : RF) (i n : Nat) (p' : Nat) : (s.bumpF f i n).coresOf p' = s.coresOf p' := rfl
@[simp] theorem bumpF_extents (s : State) (f : RF) (i n : Nat) (p' : Nat) : (s.bumpF f i n).extents p' = s.extents p' := rfl
@[simp] theorem bumpF_row (s : State) (f : RF) (i n : Nat) (c' r' : Nat) : (s.bumpF f i n).row c' r' = s.row c' r' := rfl
@[simp] theorem bumpF_rowPoison (s : State) (f : RF) (i n : Nat) (c' r' : Nat) : (s.bumpF f i n).rowPoison c' r' = s.rowPoison c' r' := rfl
@[simp] theorem setB_cores (s : State) (f : RF) (i : Nat) (b : Bool) : (s.setB f i b).cores = s.cores := rfl
@[simp] theorem setB_parts (s : State) (f : RF) (i : Nat) (b : Bool) : (s.setB f i b).parts = s.parts := rfl
@[simp] theorem setB_sites (s : State) (f : RF) (i : Nat) (b : Bool) : (s.setB f i b).sites = s.sites := rfl
@[simp] theorem setB_fns (s : State) (f : RF) (i : Nat) (b : Bool) : (s.setB f i b).fns = s.fns := rfl
@[simp] theorem setB_evcs (s : State) (f : RF) (i : Nat) (b : Bool) : (s.setB f i b).evcs = s.evcs := rfl
@[simp] theorem setB_dies (s : State) (f : RF) (i : Nat) (b : Bool) : (s.setB f i b).dies = s.dies := rfl
@[simp] theorem setB_edges (s : State) (f : RF) (i : Nat) (b : Bool) : (s.setB f i b).edges = s.edges := rfl
@[simp] theorem setB_mod (s : State) (f : RF) (i : Nat) (b : Bool) : (s.setB f i b).mod = s.mod := rfl
@[simp] theorem setB_flash (s : State) (f : RF) (i : Nat) (b : Bool) : (s.setB f i b).flash = s.flash := rfl
@[simp] theorem setB_congMap (s : State) (f : RF) (i : Nat) (b : Bool) : (s.setB f i b).congMap = s.congMap := rfl
@[simp] theorem setB_congHeard (s : State) (f : RF) (i : Nat) (b : Bool) : (s.setB f i b).congHeard = s.congHeard := rfl
@[simp] theorem setB_spad (s : State) (f : RF) (i : Nat) (b : Bool) : (s.setB f i b).spad = s.spad := rfl
@[simp] theorem setB_spadPoison (s : State) (f : RF) (i : Nat) (b : Bool) : (s.setB f i b).spadPoison = s.spadPoison := rfl
@[simp] theorem setB_spadChk (s : State) (f : RF) (i : Nat) (b : Bool) : (s.setB f i b).spadChk = s.spadChk := rfl
@[simp] theorem setB_dram (s : State) (f : RF) (i : Nat) (b : Bool) : (s.setB f i b).dram = s.dram := rfl
@[simp] theorem setB_blk (s : State) (f : RF) (i : Nat) (b : Bool) : (s.setB f i b).blk = s.blk := rfl
@[simp] theorem setB_recv (s : State) (f : RF) (i : Nat) (b : Bool) : (s.setB f i b).recv = s.recv := rfl
@[simp] theorem setB_image (s : State) (f : RF) (i : Nat) (b : Bool) : (s.setB f i b).image = s.image := rfl
@[simp] theorem setB_health (s : State) (f : RF) (i : Nat) (b : Bool) : (s.setB f i b).health = s.health := rfl
@[simp] theorem setB_net (s : State) (f : RF) (i : Nat) (b : Bool) : (s.setB f i b).net = s.net := rfl
@[simp] theorem setB_ctl (s : State) (f : RF) (i : Nat) (b : Bool) : (s.setB f i b).ctl = s.ctl := rfl
@[simp] theorem setB_evNet (s : State) (f : RF) (i : Nat) (b : Bool) : (s.setB f i b).evNet = s.evNet := rfl
@[simp] theorem setB_evSeq (s : State) (f : RF) (i : Nat) (b : Bool) : (s.setB f i b).evSeq = s.evSeq := rfl
@[simp] theorem setB_conns (s : State) (f : RF) (i : Nat) (b : Bool) : (s.setB f i b).conns = s.conns := rfl
@[simp] theorem setB_klRx (s : State) (f : RF) (i : Nat) (b : Bool) : (s.setB f i b).klRx = s.klRx := rfl
@[simp] theorem setB_heard (s : State) (f : RF) (i : Nat) (b : Bool) : (s.setB f i b).heard = s.heard := rfl
@[simp] theorem setB_fab (s : State) (f : RF) (i : Nat) (b : Bool) : (s.setB f i b).fab = s.fab := rfl
@[simp] theorem setB_out (s : State) (f : RF) (i : Nat) (b : Bool) : (s.setB f i b).out = s.out := rfl
@[simp] theorem setB_now (s : State) (f : RF) (i : Nat) (b : Bool) : (s.setB f i b).now = s.now := rfl
@[simp] theorem setB_freeCtr (s : State) (f : RF) (i : Nat) (b : Bool) : (s.setB f i b).freeCtr = s.freeCtr := rfl
@[simp] theorem setB_pending (s : State) (f : RF) (i : Nat) (b : Bool) : (s.setB f i b).pending = s.pending := rfl
@[simp] theorem setB_core (s : State) (f : RF) (i : Nat) (b : Bool) (j : Nat) : (s.setB f i b).core j = s.core j := rfl
@[simp] theorem setB_part (s : State) (f : RF) (i : Nat) (b : Bool) (j : Nat) : (s.setB f i b).part j = s.part j := rfl
@[simp] theorem setB_site (s : State) (f : RF) (i : Nat) (b : Bool) (j : Nat) : (s.setB f i b).site j = s.site j := rfl
@[simp] theorem setB_fn (s : State) (f : RF) (i : Nat) (b : Bool) (j : Nat) : (s.setB f i b).fn j = s.fn j := rfl
@[simp] theorem setB_evc (s : State) (f : RF) (i : Nat) (b : Bool) (j : Nat) : (s.setB f i b).evc j = s.evc j := rfl
@[simp] theorem setB_die (s : State) (f : RF) (i : Nat) (b : Bool) (j : Nat) : (s.setB f i b).die j = s.die j := rfl
@[simp] theorem setB_edge (s : State) (f : RF) (i : Nat) (b : Bool) (j : Nat) : (s.setB f i b).edge j = s.edge j := rfl
@[simp] theorem setB_ownerOf (s : State) (f : RF) (i : Nat) (b : Bool) (c' : Nat) : (s.setB f i b).ownerOf c' = s.ownerOf c' := rfl
@[simp] theorem setB_coresOf (s : State) (f : RF) (i : Nat) (b : Bool) (p' : Nat) : (s.setB f i b).coresOf p' = s.coresOf p' := rfl
@[simp] theorem setB_extents (s : State) (f : RF) (i : Nat) (b : Bool) (p' : Nat) : (s.setB f i b).extents p' = s.extents p' := rfl
@[simp] theorem setB_row (s : State) (f : RF) (i : Nat) (b : Bool) (c' r' : Nat) : (s.setB f i b).row c' r' = s.row c' r' := rfl
@[simp] theorem setB_rowPoison (s : State) (f : RF) (i : Nat) (b : Bool) (c' r' : Nat) : (s.setB f i b).rowPoison c' r' = s.rowPoison c' r' := rfl
@[simp] theorem setCore_regs (s : State) (k : Nat) (v : CoreSt) : (s.setCore k v).regs = s.regs := rfl
@[simp] theorem setCore_parts (s : State) (k : Nat) (v : CoreSt) : (s.setCore k v).parts = s.parts := rfl
@[simp] theorem setCore_sites (s : State) (k : Nat) (v : CoreSt) : (s.setCore k v).sites = s.sites := rfl
@[simp] theorem setCore_fns (s : State) (k : Nat) (v : CoreSt) : (s.setCore k v).fns = s.fns := rfl
@[simp] theorem setCore_evcs (s : State) (k : Nat) (v : CoreSt) : (s.setCore k v).evcs = s.evcs := rfl
@[simp] theorem setCore_dies (s : State) (k : Nat) (v : CoreSt) : (s.setCore k v).dies = s.dies := rfl
@[simp] theorem setCore_edges (s : State) (k : Nat) (v : CoreSt) : (s.setCore k v).edges = s.edges := rfl
@[simp] theorem setCore_mod (s : State) (k : Nat) (v : CoreSt) : (s.setCore k v).mod = s.mod := rfl
@[simp] theorem setCore_flash (s : State) (k : Nat) (v : CoreSt) : (s.setCore k v).flash = s.flash := rfl
@[simp] theorem setCore_congMap (s : State) (k : Nat) (v : CoreSt) : (s.setCore k v).congMap = s.congMap := rfl
@[simp] theorem setCore_congHeard (s : State) (k : Nat) (v : CoreSt) : (s.setCore k v).congHeard = s.congHeard := rfl
@[simp] theorem setCore_spad (s : State) (k : Nat) (v : CoreSt) : (s.setCore k v).spad = s.spad := rfl
@[simp] theorem setCore_spadPoison (s : State) (k : Nat) (v : CoreSt) : (s.setCore k v).spadPoison = s.spadPoison := rfl
@[simp] theorem setCore_spadChk (s : State) (k : Nat) (v : CoreSt) : (s.setCore k v).spadChk = s.spadChk := rfl
@[simp] theorem setCore_dram (s : State) (k : Nat) (v : CoreSt) : (s.setCore k v).dram = s.dram := rfl
@[simp] theorem setCore_blk (s : State) (k : Nat) (v : CoreSt) : (s.setCore k v).blk = s.blk := rfl
@[simp] theorem setCore_recv (s : State) (k : Nat) (v : CoreSt) : (s.setCore k v).recv = s.recv := rfl
@[simp] theorem setCore_image (s : State) (k : Nat) (v : CoreSt) : (s.setCore k v).image = s.image := rfl
@[simp] theorem setCore_health (s : State) (k : Nat) (v : CoreSt) : (s.setCore k v).health = s.health := rfl
@[simp] theorem setCore_net (s : State) (k : Nat) (v : CoreSt) : (s.setCore k v).net = s.net := rfl
@[simp] theorem setCore_ctl (s : State) (k : Nat) (v : CoreSt) : (s.setCore k v).ctl = s.ctl := rfl
@[simp] theorem setCore_evNet (s : State) (k : Nat) (v : CoreSt) : (s.setCore k v).evNet = s.evNet := rfl
@[simp] theorem setCore_evSeq (s : State) (k : Nat) (v : CoreSt) : (s.setCore k v).evSeq = s.evSeq := rfl
@[simp] theorem setCore_conns (s : State) (k : Nat) (v : CoreSt) : (s.setCore k v).conns = s.conns := rfl
@[simp] theorem setCore_klRx (s : State) (k : Nat) (v : CoreSt) : (s.setCore k v).klRx = s.klRx := rfl
@[simp] theorem setCore_heard (s : State) (k : Nat) (v : CoreSt) : (s.setCore k v).heard = s.heard := rfl
@[simp] theorem setCore_fab (s : State) (k : Nat) (v : CoreSt) : (s.setCore k v).fab = s.fab := rfl
@[simp] theorem setCore_out (s : State) (k : Nat) (v : CoreSt) : (s.setCore k v).out = s.out := rfl
@[simp] theorem setCore_now (s : State) (k : Nat) (v : CoreSt) : (s.setCore k v).now = s.now := rfl
@[simp] theorem setCore_freeCtr (s : State) (k : Nat) (v : CoreSt) : (s.setCore k v).freeCtr = s.freeCtr := rfl
@[simp] theorem setCore_pending (s : State) (k : Nat) (v : CoreSt) : (s.setCore k v).pending = s.pending := rfl
@[simp] theorem setCore_reg (s : State) (k : Nat) (v : CoreSt) (r' : Reg) (i' : Nat) : (s.setCore k v).reg r' i' = s.reg r' i' := rfl
@[simp] theorem setCore_getF (s : State) (k : Nat) (v : CoreSt) (g : RF) (i' : Nat) : (s.setCore k v).getF g i' = s.getF g i' := rfl
@[simp] theorem setCore_part (s : State) (k : Nat) (v : CoreSt) (j : Nat) : (s.setCore k v).part j = s.part j := rfl
@[simp] theorem setCore_site (s : State) (k : Nat) (v : CoreSt) (j : Nat) : (s.setCore k v).site j = s.site j := rfl
@[simp] theorem setCore_fn (s : State) (k : Nat) (v : CoreSt) (j : Nat) : (s.setCore k v).fn j = s.fn j := rfl
@[simp] theorem setCore_evc (s : State) (k : Nat) (v : CoreSt) (j : Nat) : (s.setCore k v).evc j = s.evc j := rfl
@[simp] theorem setCore_die (s : State) (k : Nat) (v : CoreSt) (j : Nat) : (s.setCore k v).die j = s.die j := rfl
@[simp] theorem setCore_edge (s : State) (k : Nat) (v : CoreSt) (j : Nat) : (s.setCore k v).edge j = s.edge j := rfl
@[simp] theorem setCore_ownerOf (s : State) (k : Nat) (v : CoreSt) (c' : Nat) : (s.setCore k v).ownerOf c' = s.ownerOf c' := rfl
@[simp] theorem setCore_coresOf (s : State) (k : Nat) (v : CoreSt) (p' : Nat) : (s.setCore k v).coresOf p' = s.coresOf p' := rfl
@[simp] theorem setCore_extents (s : State) (k : Nat) (v : CoreSt) (p' : Nat) : (s.setCore k v).extents p' = s.extents p' := rfl
@[simp] theorem setCore_row (s : State) (k : Nat) (v : CoreSt) (c' r' : Nat) : (s.setCore k v).row c' r' = s.row c' r' := rfl
@[simp] theorem setCore_rowPoison (s : State) (k : Nat) (v : CoreSt) (c' r' : Nat) : (s.setCore k v).rowPoison c' r' = s.rowPoison c' r' := rfl
@[simp] theorem modCore_regs (s : State) (k : Nat) (f : CoreSt → CoreSt) : (s.modCore k f).regs = s.regs := rfl
@[simp] theorem modCore_parts (s : State) (k : Nat) (f : CoreSt → CoreSt) : (s.modCore k f).parts = s.parts := rfl
@[simp] theorem modCore_sites (s : State) (k : Nat) (f : CoreSt → CoreSt) : (s.modCore k f).sites = s.sites := rfl
@[simp] theorem modCore_fns (s : State) (k : Nat) (f : CoreSt → CoreSt) : (s.modCore k f).fns = s.fns := rfl
@[simp] theorem modCore_evcs (s : State) (k : Nat) (f : CoreSt → CoreSt) : (s.modCore k f).evcs = s.evcs := rfl
@[simp] theorem modCore_dies (s : State) (k : Nat) (f : CoreSt → CoreSt) : (s.modCore k f).dies = s.dies := rfl
@[simp] theorem modCore_edges (s : State) (k : Nat) (f : CoreSt → CoreSt) : (s.modCore k f).edges = s.edges := rfl
@[simp] theorem modCore_mod (s : State) (k : Nat) (f : CoreSt → CoreSt) : (s.modCore k f).mod = s.mod := rfl
@[simp] theorem modCore_flash (s : State) (k : Nat) (f : CoreSt → CoreSt) : (s.modCore k f).flash = s.flash := rfl
@[simp] theorem modCore_congMap (s : State) (k : Nat) (f : CoreSt → CoreSt) : (s.modCore k f).congMap = s.congMap := rfl
@[simp] theorem modCore_congHeard (s : State) (k : Nat) (f : CoreSt → CoreSt) : (s.modCore k f).congHeard = s.congHeard := rfl
@[simp] theorem modCore_spad (s : State) (k : Nat) (f : CoreSt → CoreSt) : (s.modCore k f).spad = s.spad := rfl
@[simp] theorem modCore_spadPoison (s : State) (k : Nat) (f : CoreSt → CoreSt) : (s.modCore k f).spadPoison = s.spadPoison := rfl
@[simp] theorem modCore_spadChk (s : State) (k : Nat) (f : CoreSt → CoreSt) : (s.modCore k f).spadChk = s.spadChk := rfl
@[simp] theorem modCore_dram (s : State) (k : Nat) (f : CoreSt → CoreSt) : (s.modCore k f).dram = s.dram := rfl
@[simp] theorem modCore_blk (s : State) (k : Nat) (f : CoreSt → CoreSt) : (s.modCore k f).blk = s.blk := rfl
@[simp] theorem modCore_recv (s : State) (k : Nat) (f : CoreSt → CoreSt) : (s.modCore k f).recv = s.recv := rfl
@[simp] theorem modCore_image (s : State) (k : Nat) (f : CoreSt → CoreSt) : (s.modCore k f).image = s.image := rfl
@[simp] theorem modCore_health (s : State) (k : Nat) (f : CoreSt → CoreSt) : (s.modCore k f).health = s.health := rfl
@[simp] theorem modCore_net (s : State) (k : Nat) (f : CoreSt → CoreSt) : (s.modCore k f).net = s.net := rfl
@[simp] theorem modCore_ctl (s : State) (k : Nat) (f : CoreSt → CoreSt) : (s.modCore k f).ctl = s.ctl := rfl
@[simp] theorem modCore_evNet (s : State) (k : Nat) (f : CoreSt → CoreSt) : (s.modCore k f).evNet = s.evNet := rfl
@[simp] theorem modCore_evSeq (s : State) (k : Nat) (f : CoreSt → CoreSt) : (s.modCore k f).evSeq = s.evSeq := rfl
@[simp] theorem modCore_conns (s : State) (k : Nat) (f : CoreSt → CoreSt) : (s.modCore k f).conns = s.conns := rfl
@[simp] theorem modCore_klRx (s : State) (k : Nat) (f : CoreSt → CoreSt) : (s.modCore k f).klRx = s.klRx := rfl
@[simp] theorem modCore_heard (s : State) (k : Nat) (f : CoreSt → CoreSt) : (s.modCore k f).heard = s.heard := rfl
@[simp] theorem modCore_fab (s : State) (k : Nat) (f : CoreSt → CoreSt) : (s.modCore k f).fab = s.fab := rfl
@[simp] theorem modCore_out (s : State) (k : Nat) (f : CoreSt → CoreSt) : (s.modCore k f).out = s.out := rfl
@[simp] theorem modCore_now (s : State) (k : Nat) (f : CoreSt → CoreSt) : (s.modCore k f).now = s.now := rfl
@[simp] theorem modCore_freeCtr (s : State) (k : Nat) (f : CoreSt → CoreSt) : (s.modCore k f).freeCtr = s.freeCtr := rfl
@[simp] theorem modCore_pending (s : State) (k : Nat) (f : CoreSt → CoreSt) : (s.modCore k f).pending = s.pending := rfl
@[simp] theorem modCore_reg (s : State) (k : Nat) (f : CoreSt → CoreSt) (r' : Reg) (i' : Nat) : (s.modCore k f).reg r' i' = s.reg r' i' := rfl
@[simp] theorem modCore_getF (s : State) (k : Nat) (f : CoreSt → CoreSt) (g : RF) (i' : Nat) : (s.modCore k f).getF g i' = s.getF g i' := rfl
@[simp] theorem modCore_part (s : State) (k : Nat) (f : CoreSt → CoreSt) (j : Nat) : (s.modCore k f).part j = s.part j := rfl
@[simp] theorem modCore_site (s : State) (k : Nat) (f : CoreSt → CoreSt) (j : Nat) : (s.modCore k f).site j = s.site j := rfl
@[simp] theorem modCore_fn (s : State) (k : Nat) (f : CoreSt → CoreSt) (j : Nat) : (s.modCore k f).fn j = s.fn j := rfl
@[simp] theorem modCore_evc (s : State) (k : Nat) (f : CoreSt → CoreSt) (j : Nat) : (s.modCore k f).evc j = s.evc j := rfl
@[simp] theorem modCore_die (s : State) (k : Nat) (f : CoreSt → CoreSt) (j : Nat) : (s.modCore k f).die j = s.die j := rfl
@[simp] theorem modCore_edge (s : State) (k : Nat) (f : CoreSt → CoreSt) (j : Nat) : (s.modCore k f).edge j = s.edge j := rfl
@[simp] theorem modCore_ownerOf (s : State) (k : Nat) (f : CoreSt → CoreSt) (c' : Nat) : (s.modCore k f).ownerOf c' = s.ownerOf c' := rfl
@[simp] theorem modCore_coresOf (s : State) (k : Nat) (f : CoreSt → CoreSt) (p' : Nat) : (s.modCore k f).coresOf p' = s.coresOf p' := rfl
@[simp] theorem modCore_extents (s : State) (k : Nat) (f : CoreSt → CoreSt) (p' : Nat) : (s.modCore k f).extents p' = s.extents p' := rfl
@[simp] theorem modCore_row (s : State) (k : Nat) (f : CoreSt → CoreSt) (c' r' : Nat) : (s.modCore k f).row c' r' = s.row c' r' := rfl
@[simp] theorem modCore_rowPoison (s : State) (k : Nat) (f : CoreSt → CoreSt) (c' r' : Nat) : (s.modCore k f).rowPoison c' r' = s.rowPoison c' r' := rfl
@[simp] theorem setPart_regs (s : State) (k : Nat) (v : PartSt) : (s.setPart k v).regs = s.regs := rfl
@[simp] theorem setPart_cores (s : State) (k : Nat) (v : PartSt) : (s.setPart k v).cores = s.cores := rfl
@[simp] theorem setPart_sites (s : State) (k : Nat) (v : PartSt) : (s.setPart k v).sites = s.sites := rfl
@[simp] theorem setPart_fns (s : State) (k : Nat) (v : PartSt) : (s.setPart k v).fns = s.fns := rfl
@[simp] theorem setPart_evcs (s : State) (k : Nat) (v : PartSt) : (s.setPart k v).evcs = s.evcs := rfl
@[simp] theorem setPart_dies (s : State) (k : Nat) (v : PartSt) : (s.setPart k v).dies = s.dies := rfl
@[simp] theorem setPart_edges (s : State) (k : Nat) (v : PartSt) : (s.setPart k v).edges = s.edges := rfl
@[simp] theorem setPart_mod (s : State) (k : Nat) (v : PartSt) : (s.setPart k v).mod = s.mod := rfl
@[simp] theorem setPart_flash (s : State) (k : Nat) (v : PartSt) : (s.setPart k v).flash = s.flash := rfl
@[simp] theorem setPart_congMap (s : State) (k : Nat) (v : PartSt) : (s.setPart k v).congMap = s.congMap := rfl
@[simp] theorem setPart_congHeard (s : State) (k : Nat) (v : PartSt) : (s.setPart k v).congHeard = s.congHeard := rfl
@[simp] theorem setPart_spad (s : State) (k : Nat) (v : PartSt) : (s.setPart k v).spad = s.spad := rfl
@[simp] theorem setPart_spadPoison (s : State) (k : Nat) (v : PartSt) : (s.setPart k v).spadPoison = s.spadPoison := rfl
@[simp] theorem setPart_spadChk (s : State) (k : Nat) (v : PartSt) : (s.setPart k v).spadChk = s.spadChk := rfl
@[simp] theorem setPart_dram (s : State) (k : Nat) (v : PartSt) : (s.setPart k v).dram = s.dram := rfl
@[simp] theorem setPart_blk (s : State) (k : Nat) (v : PartSt) : (s.setPart k v).blk = s.blk := rfl
@[simp] theorem setPart_recv (s : State) (k : Nat) (v : PartSt) : (s.setPart k v).recv = s.recv := rfl
@[simp] theorem setPart_image (s : State) (k : Nat) (v : PartSt) : (s.setPart k v).image = s.image := rfl
@[simp] theorem setPart_health (s : State) (k : Nat) (v : PartSt) : (s.setPart k v).health = s.health := rfl
@[simp] theorem setPart_net (s : State) (k : Nat) (v : PartSt) : (s.setPart k v).net = s.net := rfl
@[simp] theorem setPart_ctl (s : State) (k : Nat) (v : PartSt) : (s.setPart k v).ctl = s.ctl := rfl
@[simp] theorem setPart_evNet (s : State) (k : Nat) (v : PartSt) : (s.setPart k v).evNet = s.evNet := rfl
@[simp] theorem setPart_evSeq (s : State) (k : Nat) (v : PartSt) : (s.setPart k v).evSeq = s.evSeq := rfl
@[simp] theorem setPart_conns (s : State) (k : Nat) (v : PartSt) : (s.setPart k v).conns = s.conns := rfl
@[simp] theorem setPart_klRx (s : State) (k : Nat) (v : PartSt) : (s.setPart k v).klRx = s.klRx := rfl
@[simp] theorem setPart_heard (s : State) (k : Nat) (v : PartSt) : (s.setPart k v).heard = s.heard := rfl
@[simp] theorem setPart_fab (s : State) (k : Nat) (v : PartSt) : (s.setPart k v).fab = s.fab := rfl
@[simp] theorem setPart_out (s : State) (k : Nat) (v : PartSt) : (s.setPart k v).out = s.out := rfl
@[simp] theorem setPart_now (s : State) (k : Nat) (v : PartSt) : (s.setPart k v).now = s.now := rfl
@[simp] theorem setPart_freeCtr (s : State) (k : Nat) (v : PartSt) : (s.setPart k v).freeCtr = s.freeCtr := rfl
@[simp] theorem setPart_pending (s : State) (k : Nat) (v : PartSt) : (s.setPart k v).pending = s.pending := rfl
@[simp] theorem setPart_reg (s : State) (k : Nat) (v : PartSt) (r' : Reg) (i' : Nat) : (s.setPart k v).reg r' i' = s.reg r' i' := rfl
@[simp] theorem setPart_getF (s : State) (k : Nat) (v : PartSt) (g : RF) (i' : Nat) : (s.setPart k v).getF g i' = s.getF g i' := rfl
@[simp] theorem setPart_core (s : State) (k : Nat) (v : PartSt) (j : Nat) : (s.setPart k v).core j = s.core j := rfl
@[simp] theorem setPart_site (s : State) (k : Nat) (v : PartSt) (j : Nat) : (s.setPart k v).site j = s.site j := rfl
@[simp] theorem setPart_fn (s : State) (k : Nat) (v : PartSt) (j : Nat) : (s.setPart k v).fn j = s.fn j := rfl
@[simp] theorem setPart_evc (s : State) (k : Nat) (v : PartSt) (j : Nat) : (s.setPart k v).evc j = s.evc j := rfl
@[simp] theorem setPart_die (s : State) (k : Nat) (v : PartSt) (j : Nat) : (s.setPart k v).die j = s.die j := rfl
@[simp] theorem setPart_edge (s : State) (k : Nat) (v : PartSt) (j : Nat) : (s.setPart k v).edge j = s.edge j := rfl
@[simp] theorem setPart_ownerOf (s : State) (k : Nat) (v : PartSt) (c' : Nat) : (s.setPart k v).ownerOf c' = s.ownerOf c' := rfl
@[simp] theorem setPart_coresOf (s : State) (k : Nat) (v : PartSt) (p' : Nat) : (s.setPart k v).coresOf p' = s.coresOf p' := rfl
@[simp] theorem setPart_extents (s : State) (k : Nat) (v : PartSt) (p' : Nat) : (s.setPart k v).extents p' = s.extents p' := rfl
@[simp] theorem setPart_row (s : State) (k : Nat) (v : PartSt) (c' r' : Nat) : (s.setPart k v).row c' r' = s.row c' r' := rfl
@[simp] theorem setPart_rowPoison (s : State) (k : Nat) (v : PartSt) (c' r' : Nat) : (s.setPart k v).rowPoison c' r' = s.rowPoison c' r' := rfl
@[simp] theorem modPart_regs (s : State) (k : Nat) (f : PartSt → PartSt) : (s.modPart k f).regs = s.regs := rfl
@[simp] theorem modPart_cores (s : State) (k : Nat) (f : PartSt → PartSt) : (s.modPart k f).cores = s.cores := rfl
@[simp] theorem modPart_sites (s : State) (k : Nat) (f : PartSt → PartSt) : (s.modPart k f).sites = s.sites := rfl
@[simp] theorem modPart_fns (s : State) (k : Nat) (f : PartSt → PartSt) : (s.modPart k f).fns = s.fns := rfl
@[simp] theorem modPart_evcs (s : State) (k : Nat) (f : PartSt → PartSt) : (s.modPart k f).evcs = s.evcs := rfl
@[simp] theorem modPart_dies (s : State) (k : Nat) (f : PartSt → PartSt) : (s.modPart k f).dies = s.dies := rfl
@[simp] theorem modPart_edges (s : State) (k : Nat) (f : PartSt → PartSt) : (s.modPart k f).edges = s.edges := rfl
@[simp] theorem modPart_mod (s : State) (k : Nat) (f : PartSt → PartSt) : (s.modPart k f).mod = s.mod := rfl
@[simp] theorem modPart_flash (s : State) (k : Nat) (f : PartSt → PartSt) : (s.modPart k f).flash = s.flash := rfl
@[simp] theorem modPart_congMap (s : State) (k : Nat) (f : PartSt → PartSt) : (s.modPart k f).congMap = s.congMap := rfl
@[simp] theorem modPart_congHeard (s : State) (k : Nat) (f : PartSt → PartSt) : (s.modPart k f).congHeard = s.congHeard := rfl
@[simp] theorem modPart_spad (s : State) (k : Nat) (f : PartSt → PartSt) : (s.modPart k f).spad = s.spad := rfl
@[simp] theorem modPart_spadPoison (s : State) (k : Nat) (f : PartSt → PartSt) : (s.modPart k f).spadPoison = s.spadPoison := rfl
@[simp] theorem modPart_spadChk (s : State) (k : Nat) (f : PartSt → PartSt) : (s.modPart k f).spadChk = s.spadChk := rfl
@[simp] theorem modPart_dram (s : State) (k : Nat) (f : PartSt → PartSt) : (s.modPart k f).dram = s.dram := rfl
@[simp] theorem modPart_blk (s : State) (k : Nat) (f : PartSt → PartSt) : (s.modPart k f).blk = s.blk := rfl
@[simp] theorem modPart_recv (s : State) (k : Nat) (f : PartSt → PartSt) : (s.modPart k f).recv = s.recv := rfl
@[simp] theorem modPart_image (s : State) (k : Nat) (f : PartSt → PartSt) : (s.modPart k f).image = s.image := rfl
@[simp] theorem modPart_health (s : State) (k : Nat) (f : PartSt → PartSt) : (s.modPart k f).health = s.health := rfl
@[simp] theorem modPart_net (s : State) (k : Nat) (f : PartSt → PartSt) : (s.modPart k f).net = s.net := rfl
@[simp] theorem modPart_ctl (s : State) (k : Nat) (f : PartSt → PartSt) : (s.modPart k f).ctl = s.ctl := rfl
@[simp] theorem modPart_evNet (s : State) (k : Nat) (f : PartSt → PartSt) : (s.modPart k f).evNet = s.evNet := rfl
@[simp] theorem modPart_evSeq (s : State) (k : Nat) (f : PartSt → PartSt) : (s.modPart k f).evSeq = s.evSeq := rfl
@[simp] theorem modPart_conns (s : State) (k : Nat) (f : PartSt → PartSt) : (s.modPart k f).conns = s.conns := rfl
@[simp] theorem modPart_klRx (s : State) (k : Nat) (f : PartSt → PartSt) : (s.modPart k f).klRx = s.klRx := rfl
@[simp] theorem modPart_heard (s : State) (k : Nat) (f : PartSt → PartSt) : (s.modPart k f).heard = s.heard := rfl
@[simp] theorem modPart_fab (s : State) (k : Nat) (f : PartSt → PartSt) : (s.modPart k f).fab = s.fab := rfl
@[simp] theorem modPart_out (s : State) (k : Nat) (f : PartSt → PartSt) : (s.modPart k f).out = s.out := rfl
@[simp] theorem modPart_now (s : State) (k : Nat) (f : PartSt → PartSt) : (s.modPart k f).now = s.now := rfl
@[simp] theorem modPart_freeCtr (s : State) (k : Nat) (f : PartSt → PartSt) : (s.modPart k f).freeCtr = s.freeCtr := rfl
@[simp] theorem modPart_pending (s : State) (k : Nat) (f : PartSt → PartSt) : (s.modPart k f).pending = s.pending := rfl
@[simp] theorem modPart_reg (s : State) (k : Nat) (f : PartSt → PartSt) (r' : Reg) (i' : Nat) : (s.modPart k f).reg r' i' = s.reg r' i' := rfl
@[simp] theorem modPart_getF (s : State) (k : Nat) (f : PartSt → PartSt) (g : RF) (i' : Nat) : (s.modPart k f).getF g i' = s.getF g i' := rfl
@[simp] theorem modPart_core (s : State) (k : Nat) (f : PartSt → PartSt) (j : Nat) : (s.modPart k f).core j = s.core j := rfl
@[simp] theorem modPart_site (s : State) (k : Nat) (f : PartSt → PartSt) (j : Nat) : (s.modPart k f).site j = s.site j := rfl
@[simp] theorem modPart_fn (s : State) (k : Nat) (f : PartSt → PartSt) (j : Nat) : (s.modPart k f).fn j = s.fn j := rfl
@[simp] theorem modPart_evc (s : State) (k : Nat) (f : PartSt → PartSt) (j : Nat) : (s.modPart k f).evc j = s.evc j := rfl
@[simp] theorem modPart_die (s : State) (k : Nat) (f : PartSt → PartSt) (j : Nat) : (s.modPart k f).die j = s.die j := rfl
@[simp] theorem modPart_edge (s : State) (k : Nat) (f : PartSt → PartSt) (j : Nat) : (s.modPart k f).edge j = s.edge j := rfl
@[simp] theorem modPart_ownerOf (s : State) (k : Nat) (f : PartSt → PartSt) (c' : Nat) : (s.modPart k f).ownerOf c' = s.ownerOf c' := rfl
@[simp] theorem modPart_coresOf (s : State) (k : Nat) (f : PartSt → PartSt) (p' : Nat) : (s.modPart k f).coresOf p' = s.coresOf p' := rfl
@[simp] theorem modPart_extents (s : State) (k : Nat) (f : PartSt → PartSt) (p' : Nat) : (s.modPart k f).extents p' = s.extents p' := rfl
@[simp] theorem modPart_row (s : State) (k : Nat) (f : PartSt → PartSt) (c' r' : Nat) : (s.modPart k f).row c' r' = s.row c' r' := rfl
@[simp] theorem modPart_rowPoison (s : State) (k : Nat) (f : PartSt → PartSt) (c' r' : Nat) : (s.modPart k f).rowPoison c' r' = s.rowPoison c' r' := rfl
@[simp] theorem setSite_regs (s : State) (k : Nat) (v : SiteSt) : (s.setSite k v).regs = s.regs := rfl
@[simp] theorem setSite_cores (s : State) (k : Nat) (v : SiteSt) : (s.setSite k v).cores = s.cores := rfl
@[simp] theorem setSite_parts (s : State) (k : Nat) (v : SiteSt) : (s.setSite k v).parts = s.parts := rfl
@[simp] theorem setSite_fns (s : State) (k : Nat) (v : SiteSt) : (s.setSite k v).fns = s.fns := rfl
@[simp] theorem setSite_evcs (s : State) (k : Nat) (v : SiteSt) : (s.setSite k v).evcs = s.evcs := rfl
@[simp] theorem setSite_dies (s : State) (k : Nat) (v : SiteSt) : (s.setSite k v).dies = s.dies := rfl
@[simp] theorem setSite_edges (s : State) (k : Nat) (v : SiteSt) : (s.setSite k v).edges = s.edges := rfl
@[simp] theorem setSite_mod (s : State) (k : Nat) (v : SiteSt) : (s.setSite k v).mod = s.mod := rfl
@[simp] theorem setSite_flash (s : State) (k : Nat) (v : SiteSt) : (s.setSite k v).flash = s.flash := rfl
@[simp] theorem setSite_congMap (s : State) (k : Nat) (v : SiteSt) : (s.setSite k v).congMap = s.congMap := rfl
@[simp] theorem setSite_congHeard (s : State) (k : Nat) (v : SiteSt) : (s.setSite k v).congHeard = s.congHeard := rfl
@[simp] theorem setSite_spad (s : State) (k : Nat) (v : SiteSt) : (s.setSite k v).spad = s.spad := rfl
@[simp] theorem setSite_spadPoison (s : State) (k : Nat) (v : SiteSt) : (s.setSite k v).spadPoison = s.spadPoison := rfl
@[simp] theorem setSite_spadChk (s : State) (k : Nat) (v : SiteSt) : (s.setSite k v).spadChk = s.spadChk := rfl
@[simp] theorem setSite_dram (s : State) (k : Nat) (v : SiteSt) : (s.setSite k v).dram = s.dram := rfl
@[simp] theorem setSite_blk (s : State) (k : Nat) (v : SiteSt) : (s.setSite k v).blk = s.blk := rfl
@[simp] theorem setSite_recv (s : State) (k : Nat) (v : SiteSt) : (s.setSite k v).recv = s.recv := rfl
@[simp] theorem setSite_image (s : State) (k : Nat) (v : SiteSt) : (s.setSite k v).image = s.image := rfl
@[simp] theorem setSite_health (s : State) (k : Nat) (v : SiteSt) : (s.setSite k v).health = s.health := rfl
@[simp] theorem setSite_net (s : State) (k : Nat) (v : SiteSt) : (s.setSite k v).net = s.net := rfl
@[simp] theorem setSite_ctl (s : State) (k : Nat) (v : SiteSt) : (s.setSite k v).ctl = s.ctl := rfl
@[simp] theorem setSite_evNet (s : State) (k : Nat) (v : SiteSt) : (s.setSite k v).evNet = s.evNet := rfl
@[simp] theorem setSite_evSeq (s : State) (k : Nat) (v : SiteSt) : (s.setSite k v).evSeq = s.evSeq := rfl
@[simp] theorem setSite_conns (s : State) (k : Nat) (v : SiteSt) : (s.setSite k v).conns = s.conns := rfl
@[simp] theorem setSite_klRx (s : State) (k : Nat) (v : SiteSt) : (s.setSite k v).klRx = s.klRx := rfl
@[simp] theorem setSite_heard (s : State) (k : Nat) (v : SiteSt) : (s.setSite k v).heard = s.heard := rfl
@[simp] theorem setSite_fab (s : State) (k : Nat) (v : SiteSt) : (s.setSite k v).fab = s.fab := rfl
@[simp] theorem setSite_out (s : State) (k : Nat) (v : SiteSt) : (s.setSite k v).out = s.out := rfl
@[simp] theorem setSite_now (s : State) (k : Nat) (v : SiteSt) : (s.setSite k v).now = s.now := rfl
@[simp] theorem setSite_freeCtr (s : State) (k : Nat) (v : SiteSt) : (s.setSite k v).freeCtr = s.freeCtr := rfl
@[simp] theorem setSite_pending (s : State) (k : Nat) (v : SiteSt) : (s.setSite k v).pending = s.pending := rfl
@[simp] theorem setSite_reg (s : State) (k : Nat) (v : SiteSt) (r' : Reg) (i' : Nat) : (s.setSite k v).reg r' i' = s.reg r' i' := rfl
@[simp] theorem setSite_getF (s : State) (k : Nat) (v : SiteSt) (g : RF) (i' : Nat) : (s.setSite k v).getF g i' = s.getF g i' := rfl
@[simp] theorem setSite_core (s : State) (k : Nat) (v : SiteSt) (j : Nat) : (s.setSite k v).core j = s.core j := rfl
@[simp] theorem setSite_part (s : State) (k : Nat) (v : SiteSt) (j : Nat) : (s.setSite k v).part j = s.part j := rfl
@[simp] theorem setSite_fn (s : State) (k : Nat) (v : SiteSt) (j : Nat) : (s.setSite k v).fn j = s.fn j := rfl
@[simp] theorem setSite_evc (s : State) (k : Nat) (v : SiteSt) (j : Nat) : (s.setSite k v).evc j = s.evc j := rfl
@[simp] theorem setSite_die (s : State) (k : Nat) (v : SiteSt) (j : Nat) : (s.setSite k v).die j = s.die j := rfl
@[simp] theorem setSite_edge (s : State) (k : Nat) (v : SiteSt) (j : Nat) : (s.setSite k v).edge j = s.edge j := rfl
@[simp] theorem setSite_ownerOf (s : State) (k : Nat) (v : SiteSt) (c' : Nat) : (s.setSite k v).ownerOf c' = s.ownerOf c' := rfl
@[simp] theorem setSite_coresOf (s : State) (k : Nat) (v : SiteSt) (p' : Nat) : (s.setSite k v).coresOf p' = s.coresOf p' := rfl
@[simp] theorem setSite_extents (s : State) (k : Nat) (v : SiteSt) (p' : Nat) : (s.setSite k v).extents p' = s.extents p' := rfl
@[simp] theorem setSite_row (s : State) (k : Nat) (v : SiteSt) (c' r' : Nat) : (s.setSite k v).row c' r' = s.row c' r' := rfl
@[simp] theorem setSite_rowPoison (s : State) (k : Nat) (v : SiteSt) (c' r' : Nat) : (s.setSite k v).rowPoison c' r' = s.rowPoison c' r' := rfl
@[simp] theorem modSite_regs (s : State) (k : Nat) (f : SiteSt → SiteSt) : (s.modSite k f).regs = s.regs := rfl
@[simp] theorem modSite_cores (s : State) (k : Nat) (f : SiteSt → SiteSt) : (s.modSite k f).cores = s.cores := rfl
@[simp] theorem modSite_parts (s : State) (k : Nat) (f : SiteSt → SiteSt) : (s.modSite k f).parts = s.parts := rfl
@[simp] theorem modSite_fns (s : State) (k : Nat) (f : SiteSt → SiteSt) : (s.modSite k f).fns = s.fns := rfl
@[simp] theorem modSite_evcs (s : State) (k : Nat) (f : SiteSt → SiteSt) : (s.modSite k f).evcs = s.evcs := rfl
@[simp] theorem modSite_dies (s : State) (k : Nat) (f : SiteSt → SiteSt) : (s.modSite k f).dies = s.dies := rfl
@[simp] theorem modSite_edges (s : State) (k : Nat) (f : SiteSt → SiteSt) : (s.modSite k f).edges = s.edges := rfl
@[simp] theorem modSite_mod (s : State) (k : Nat) (f : SiteSt → SiteSt) : (s.modSite k f).mod = s.mod := rfl
@[simp] theorem modSite_flash (s : State) (k : Nat) (f : SiteSt → SiteSt) : (s.modSite k f).flash = s.flash := rfl
@[simp] theorem modSite_congMap (s : State) (k : Nat) (f : SiteSt → SiteSt) : (s.modSite k f).congMap = s.congMap := rfl
@[simp] theorem modSite_congHeard (s : State) (k : Nat) (f : SiteSt → SiteSt) : (s.modSite k f).congHeard = s.congHeard := rfl
@[simp] theorem modSite_spad (s : State) (k : Nat) (f : SiteSt → SiteSt) : (s.modSite k f).spad = s.spad := rfl
@[simp] theorem modSite_spadPoison (s : State) (k : Nat) (f : SiteSt → SiteSt) : (s.modSite k f).spadPoison = s.spadPoison := rfl
@[simp] theorem modSite_spadChk (s : State) (k : Nat) (f : SiteSt → SiteSt) : (s.modSite k f).spadChk = s.spadChk := rfl
@[simp] theorem modSite_dram (s : State) (k : Nat) (f : SiteSt → SiteSt) : (s.modSite k f).dram = s.dram := rfl
@[simp] theorem modSite_blk (s : State) (k : Nat) (f : SiteSt → SiteSt) : (s.modSite k f).blk = s.blk := rfl
@[simp] theorem modSite_recv (s : State) (k : Nat) (f : SiteSt → SiteSt) : (s.modSite k f).recv = s.recv := rfl
@[simp] theorem modSite_image (s : State) (k : Nat) (f : SiteSt → SiteSt) : (s.modSite k f).image = s.image := rfl
@[simp] theorem modSite_health (s : State) (k : Nat) (f : SiteSt → SiteSt) : (s.modSite k f).health = s.health := rfl
@[simp] theorem modSite_net (s : State) (k : Nat) (f : SiteSt → SiteSt) : (s.modSite k f).net = s.net := rfl
@[simp] theorem modSite_ctl (s : State) (k : Nat) (f : SiteSt → SiteSt) : (s.modSite k f).ctl = s.ctl := rfl
@[simp] theorem modSite_evNet (s : State) (k : Nat) (f : SiteSt → SiteSt) : (s.modSite k f).evNet = s.evNet := rfl
@[simp] theorem modSite_evSeq (s : State) (k : Nat) (f : SiteSt → SiteSt) : (s.modSite k f).evSeq = s.evSeq := rfl
@[simp] theorem modSite_conns (s : State) (k : Nat) (f : SiteSt → SiteSt) : (s.modSite k f).conns = s.conns := rfl
@[simp] theorem modSite_klRx (s : State) (k : Nat) (f : SiteSt → SiteSt) : (s.modSite k f).klRx = s.klRx := rfl
@[simp] theorem modSite_heard (s : State) (k : Nat) (f : SiteSt → SiteSt) : (s.modSite k f).heard = s.heard := rfl
@[simp] theorem modSite_fab (s : State) (k : Nat) (f : SiteSt → SiteSt) : (s.modSite k f).fab = s.fab := rfl
@[simp] theorem modSite_out (s : State) (k : Nat) (f : SiteSt → SiteSt) : (s.modSite k f).out = s.out := rfl
@[simp] theorem modSite_now (s : State) (k : Nat) (f : SiteSt → SiteSt) : (s.modSite k f).now = s.now := rfl
@[simp] theorem modSite_freeCtr (s : State) (k : Nat) (f : SiteSt → SiteSt) : (s.modSite k f).freeCtr = s.freeCtr := rfl
@[simp] theorem modSite_pending (s : State) (k : Nat) (f : SiteSt → SiteSt) : (s.modSite k f).pending = s.pending := rfl
@[simp] theorem modSite_reg (s : State) (k : Nat) (f : SiteSt → SiteSt) (r' : Reg) (i' : Nat) : (s.modSite k f).reg r' i' = s.reg r' i' := rfl
@[simp] theorem modSite_getF (s : State) (k : Nat) (f : SiteSt → SiteSt) (g : RF) (i' : Nat) : (s.modSite k f).getF g i' = s.getF g i' := rfl
@[simp] theorem modSite_core (s : State) (k : Nat) (f : SiteSt → SiteSt) (j : Nat) : (s.modSite k f).core j = s.core j := rfl
@[simp] theorem modSite_part (s : State) (k : Nat) (f : SiteSt → SiteSt) (j : Nat) : (s.modSite k f).part j = s.part j := rfl
@[simp] theorem modSite_fn (s : State) (k : Nat) (f : SiteSt → SiteSt) (j : Nat) : (s.modSite k f).fn j = s.fn j := rfl
@[simp] theorem modSite_evc (s : State) (k : Nat) (f : SiteSt → SiteSt) (j : Nat) : (s.modSite k f).evc j = s.evc j := rfl
@[simp] theorem modSite_die (s : State) (k : Nat) (f : SiteSt → SiteSt) (j : Nat) : (s.modSite k f).die j = s.die j := rfl
@[simp] theorem modSite_edge (s : State) (k : Nat) (f : SiteSt → SiteSt) (j : Nat) : (s.modSite k f).edge j = s.edge j := rfl
@[simp] theorem modSite_ownerOf (s : State) (k : Nat) (f : SiteSt → SiteSt) (c' : Nat) : (s.modSite k f).ownerOf c' = s.ownerOf c' := rfl
@[simp] theorem modSite_coresOf (s : State) (k : Nat) (f : SiteSt → SiteSt) (p' : Nat) : (s.modSite k f).coresOf p' = s.coresOf p' := rfl
@[simp] theorem modSite_extents (s : State) (k : Nat) (f : SiteSt → SiteSt) (p' : Nat) : (s.modSite k f).extents p' = s.extents p' := rfl
@[simp] theorem modSite_row (s : State) (k : Nat) (f : SiteSt → SiteSt) (c' r' : Nat) : (s.modSite k f).row c' r' = s.row c' r' := rfl
@[simp] theorem modSite_rowPoison (s : State) (k : Nat) (f : SiteSt → SiteSt) (c' r' : Nat) : (s.modSite k f).rowPoison c' r' = s.rowPoison c' r' := rfl
@[simp] theorem setFn_regs (s : State) (k : Nat) (v : FnSt) : (s.setFn k v).regs = s.regs := rfl
@[simp] theorem setFn_cores (s : State) (k : Nat) (v : FnSt) : (s.setFn k v).cores = s.cores := rfl
@[simp] theorem setFn_parts (s : State) (k : Nat) (v : FnSt) : (s.setFn k v).parts = s.parts := rfl
@[simp] theorem setFn_sites (s : State) (k : Nat) (v : FnSt) : (s.setFn k v).sites = s.sites := rfl
@[simp] theorem setFn_evcs (s : State) (k : Nat) (v : FnSt) : (s.setFn k v).evcs = s.evcs := rfl
@[simp] theorem setFn_dies (s : State) (k : Nat) (v : FnSt) : (s.setFn k v).dies = s.dies := rfl
@[simp] theorem setFn_edges (s : State) (k : Nat) (v : FnSt) : (s.setFn k v).edges = s.edges := rfl
@[simp] theorem setFn_mod (s : State) (k : Nat) (v : FnSt) : (s.setFn k v).mod = s.mod := rfl
@[simp] theorem setFn_flash (s : State) (k : Nat) (v : FnSt) : (s.setFn k v).flash = s.flash := rfl
@[simp] theorem setFn_congMap (s : State) (k : Nat) (v : FnSt) : (s.setFn k v).congMap = s.congMap := rfl
@[simp] theorem setFn_congHeard (s : State) (k : Nat) (v : FnSt) : (s.setFn k v).congHeard = s.congHeard := rfl
@[simp] theorem setFn_spad (s : State) (k : Nat) (v : FnSt) : (s.setFn k v).spad = s.spad := rfl
@[simp] theorem setFn_spadPoison (s : State) (k : Nat) (v : FnSt) : (s.setFn k v).spadPoison = s.spadPoison := rfl
@[simp] theorem setFn_spadChk (s : State) (k : Nat) (v : FnSt) : (s.setFn k v).spadChk = s.spadChk := rfl
@[simp] theorem setFn_dram (s : State) (k : Nat) (v : FnSt) : (s.setFn k v).dram = s.dram := rfl
@[simp] theorem setFn_blk (s : State) (k : Nat) (v : FnSt) : (s.setFn k v).blk = s.blk := rfl
@[simp] theorem setFn_recv (s : State) (k : Nat) (v : FnSt) : (s.setFn k v).recv = s.recv := rfl
@[simp] theorem setFn_image (s : State) (k : Nat) (v : FnSt) : (s.setFn k v).image = s.image := rfl
@[simp] theorem setFn_health (s : State) (k : Nat) (v : FnSt) : (s.setFn k v).health = s.health := rfl
@[simp] theorem setFn_net (s : State) (k : Nat) (v : FnSt) : (s.setFn k v).net = s.net := rfl
@[simp] theorem setFn_ctl (s : State) (k : Nat) (v : FnSt) : (s.setFn k v).ctl = s.ctl := rfl
@[simp] theorem setFn_evNet (s : State) (k : Nat) (v : FnSt) : (s.setFn k v).evNet = s.evNet := rfl
@[simp] theorem setFn_evSeq (s : State) (k : Nat) (v : FnSt) : (s.setFn k v).evSeq = s.evSeq := rfl
@[simp] theorem setFn_conns (s : State) (k : Nat) (v : FnSt) : (s.setFn k v).conns = s.conns := rfl
@[simp] theorem setFn_klRx (s : State) (k : Nat) (v : FnSt) : (s.setFn k v).klRx = s.klRx := rfl
@[simp] theorem setFn_heard (s : State) (k : Nat) (v : FnSt) : (s.setFn k v).heard = s.heard := rfl
@[simp] theorem setFn_fab (s : State) (k : Nat) (v : FnSt) : (s.setFn k v).fab = s.fab := rfl
@[simp] theorem setFn_out (s : State) (k : Nat) (v : FnSt) : (s.setFn k v).out = s.out := rfl
@[simp] theorem setFn_now (s : State) (k : Nat) (v : FnSt) : (s.setFn k v).now = s.now := rfl
@[simp] theorem setFn_freeCtr (s : State) (k : Nat) (v : FnSt) : (s.setFn k v).freeCtr = s.freeCtr := rfl
@[simp] theorem setFn_pending (s : State) (k : Nat) (v : FnSt) : (s.setFn k v).pending = s.pending := rfl
@[simp] theorem setFn_reg (s : State) (k : Nat) (v : FnSt) (r' : Reg) (i' : Nat) : (s.setFn k v).reg r' i' = s.reg r' i' := rfl
@[simp] theorem setFn_getF (s : State) (k : Nat) (v : FnSt) (g : RF) (i' : Nat) : (s.setFn k v).getF g i' = s.getF g i' := rfl
@[simp] theorem setFn_core (s : State) (k : Nat) (v : FnSt) (j : Nat) : (s.setFn k v).core j = s.core j := rfl
@[simp] theorem setFn_part (s : State) (k : Nat) (v : FnSt) (j : Nat) : (s.setFn k v).part j = s.part j := rfl
@[simp] theorem setFn_site (s : State) (k : Nat) (v : FnSt) (j : Nat) : (s.setFn k v).site j = s.site j := rfl
@[simp] theorem setFn_evc (s : State) (k : Nat) (v : FnSt) (j : Nat) : (s.setFn k v).evc j = s.evc j := rfl
@[simp] theorem setFn_die (s : State) (k : Nat) (v : FnSt) (j : Nat) : (s.setFn k v).die j = s.die j := rfl
@[simp] theorem setFn_edge (s : State) (k : Nat) (v : FnSt) (j : Nat) : (s.setFn k v).edge j = s.edge j := rfl
@[simp] theorem setFn_ownerOf (s : State) (k : Nat) (v : FnSt) (c' : Nat) : (s.setFn k v).ownerOf c' = s.ownerOf c' := rfl
@[simp] theorem setFn_coresOf (s : State) (k : Nat) (v : FnSt) (p' : Nat) : (s.setFn k v).coresOf p' = s.coresOf p' := rfl
@[simp] theorem setFn_extents (s : State) (k : Nat) (v : FnSt) (p' : Nat) : (s.setFn k v).extents p' = s.extents p' := rfl
@[simp] theorem setFn_row (s : State) (k : Nat) (v : FnSt) (c' r' : Nat) : (s.setFn k v).row c' r' = s.row c' r' := rfl
@[simp] theorem setFn_rowPoison (s : State) (k : Nat) (v : FnSt) (c' r' : Nat) : (s.setFn k v).rowPoison c' r' = s.rowPoison c' r' := rfl
@[simp] theorem modFn_regs (s : State) (k : Nat) (f : FnSt → FnSt) : (s.modFn k f).regs = s.regs := rfl
@[simp] theorem modFn_cores (s : State) (k : Nat) (f : FnSt → FnSt) : (s.modFn k f).cores = s.cores := rfl
@[simp] theorem modFn_parts (s : State) (k : Nat) (f : FnSt → FnSt) : (s.modFn k f).parts = s.parts := rfl
@[simp] theorem modFn_sites (s : State) (k : Nat) (f : FnSt → FnSt) : (s.modFn k f).sites = s.sites := rfl
@[simp] theorem modFn_evcs (s : State) (k : Nat) (f : FnSt → FnSt) : (s.modFn k f).evcs = s.evcs := rfl
@[simp] theorem modFn_dies (s : State) (k : Nat) (f : FnSt → FnSt) : (s.modFn k f).dies = s.dies := rfl
@[simp] theorem modFn_edges (s : State) (k : Nat) (f : FnSt → FnSt) : (s.modFn k f).edges = s.edges := rfl
@[simp] theorem modFn_mod (s : State) (k : Nat) (f : FnSt → FnSt) : (s.modFn k f).mod = s.mod := rfl
@[simp] theorem modFn_flash (s : State) (k : Nat) (f : FnSt → FnSt) : (s.modFn k f).flash = s.flash := rfl
@[simp] theorem modFn_congMap (s : State) (k : Nat) (f : FnSt → FnSt) : (s.modFn k f).congMap = s.congMap := rfl
@[simp] theorem modFn_congHeard (s : State) (k : Nat) (f : FnSt → FnSt) : (s.modFn k f).congHeard = s.congHeard := rfl
@[simp] theorem modFn_spad (s : State) (k : Nat) (f : FnSt → FnSt) : (s.modFn k f).spad = s.spad := rfl
@[simp] theorem modFn_spadPoison (s : State) (k : Nat) (f : FnSt → FnSt) : (s.modFn k f).spadPoison = s.spadPoison := rfl
@[simp] theorem modFn_spadChk (s : State) (k : Nat) (f : FnSt → FnSt) : (s.modFn k f).spadChk = s.spadChk := rfl
@[simp] theorem modFn_dram (s : State) (k : Nat) (f : FnSt → FnSt) : (s.modFn k f).dram = s.dram := rfl
@[simp] theorem modFn_blk (s : State) (k : Nat) (f : FnSt → FnSt) : (s.modFn k f).blk = s.blk := rfl
@[simp] theorem modFn_recv (s : State) (k : Nat) (f : FnSt → FnSt) : (s.modFn k f).recv = s.recv := rfl
@[simp] theorem modFn_image (s : State) (k : Nat) (f : FnSt → FnSt) : (s.modFn k f).image = s.image := rfl
@[simp] theorem modFn_health (s : State) (k : Nat) (f : FnSt → FnSt) : (s.modFn k f).health = s.health := rfl
@[simp] theorem modFn_net (s : State) (k : Nat) (f : FnSt → FnSt) : (s.modFn k f).net = s.net := rfl
@[simp] theorem modFn_ctl (s : State) (k : Nat) (f : FnSt → FnSt) : (s.modFn k f).ctl = s.ctl := rfl
@[simp] theorem modFn_evNet (s : State) (k : Nat) (f : FnSt → FnSt) : (s.modFn k f).evNet = s.evNet := rfl
@[simp] theorem modFn_evSeq (s : State) (k : Nat) (f : FnSt → FnSt) : (s.modFn k f).evSeq = s.evSeq := rfl
@[simp] theorem modFn_conns (s : State) (k : Nat) (f : FnSt → FnSt) : (s.modFn k f).conns = s.conns := rfl
@[simp] theorem modFn_klRx (s : State) (k : Nat) (f : FnSt → FnSt) : (s.modFn k f).klRx = s.klRx := rfl
@[simp] theorem modFn_heard (s : State) (k : Nat) (f : FnSt → FnSt) : (s.modFn k f).heard = s.heard := rfl
@[simp] theorem modFn_fab (s : State) (k : Nat) (f : FnSt → FnSt) : (s.modFn k f).fab = s.fab := rfl
@[simp] theorem modFn_out (s : State) (k : Nat) (f : FnSt → FnSt) : (s.modFn k f).out = s.out := rfl
@[simp] theorem modFn_now (s : State) (k : Nat) (f : FnSt → FnSt) : (s.modFn k f).now = s.now := rfl
@[simp] theorem modFn_freeCtr (s : State) (k : Nat) (f : FnSt → FnSt) : (s.modFn k f).freeCtr = s.freeCtr := rfl
@[simp] theorem modFn_pending (s : State) (k : Nat) (f : FnSt → FnSt) : (s.modFn k f).pending = s.pending := rfl
@[simp] theorem modFn_reg (s : State) (k : Nat) (f : FnSt → FnSt) (r' : Reg) (i' : Nat) : (s.modFn k f).reg r' i' = s.reg r' i' := rfl
@[simp] theorem modFn_getF (s : State) (k : Nat) (f : FnSt → FnSt) (g : RF) (i' : Nat) : (s.modFn k f).getF g i' = s.getF g i' := rfl
@[simp] theorem modFn_core (s : State) (k : Nat) (f : FnSt → FnSt) (j : Nat) : (s.modFn k f).core j = s.core j := rfl
@[simp] theorem modFn_part (s : State) (k : Nat) (f : FnSt → FnSt) (j : Nat) : (s.modFn k f).part j = s.part j := rfl
@[simp] theorem modFn_site (s : State) (k : Nat) (f : FnSt → FnSt) (j : Nat) : (s.modFn k f).site j = s.site j := rfl
@[simp] theorem modFn_evc (s : State) (k : Nat) (f : FnSt → FnSt) (j : Nat) : (s.modFn k f).evc j = s.evc j := rfl
@[simp] theorem modFn_die (s : State) (k : Nat) (f : FnSt → FnSt) (j : Nat) : (s.modFn k f).die j = s.die j := rfl
@[simp] theorem modFn_edge (s : State) (k : Nat) (f : FnSt → FnSt) (j : Nat) : (s.modFn k f).edge j = s.edge j := rfl
@[simp] theorem modFn_ownerOf (s : State) (k : Nat) (f : FnSt → FnSt) (c' : Nat) : (s.modFn k f).ownerOf c' = s.ownerOf c' := rfl
@[simp] theorem modFn_coresOf (s : State) (k : Nat) (f : FnSt → FnSt) (p' : Nat) : (s.modFn k f).coresOf p' = s.coresOf p' := rfl
@[simp] theorem modFn_extents (s : State) (k : Nat) (f : FnSt → FnSt) (p' : Nat) : (s.modFn k f).extents p' = s.extents p' := rfl
@[simp] theorem modFn_row (s : State) (k : Nat) (f : FnSt → FnSt) (c' r' : Nat) : (s.modFn k f).row c' r' = s.row c' r' := rfl
@[simp] theorem modFn_rowPoison (s : State) (k : Nat) (f : FnSt → FnSt) (c' r' : Nat) : (s.modFn k f).rowPoison c' r' = s.rowPoison c' r' := rfl
@[simp] theorem setEvc_regs (s : State) (k : Nat) (v : EvcSt) : (s.setEvc k v).regs = s.regs := rfl
@[simp] theorem setEvc_cores (s : State) (k : Nat) (v : EvcSt) : (s.setEvc k v).cores = s.cores := rfl
@[simp] theorem setEvc_parts (s : State) (k : Nat) (v : EvcSt) : (s.setEvc k v).parts = s.parts := rfl
@[simp] theorem setEvc_sites (s : State) (k : Nat) (v : EvcSt) : (s.setEvc k v).sites = s.sites := rfl
@[simp] theorem setEvc_fns (s : State) (k : Nat) (v : EvcSt) : (s.setEvc k v).fns = s.fns := rfl
@[simp] theorem setEvc_dies (s : State) (k : Nat) (v : EvcSt) : (s.setEvc k v).dies = s.dies := rfl
@[simp] theorem setEvc_edges (s : State) (k : Nat) (v : EvcSt) : (s.setEvc k v).edges = s.edges := rfl
@[simp] theorem setEvc_mod (s : State) (k : Nat) (v : EvcSt) : (s.setEvc k v).mod = s.mod := rfl
@[simp] theorem setEvc_flash (s : State) (k : Nat) (v : EvcSt) : (s.setEvc k v).flash = s.flash := rfl
@[simp] theorem setEvc_congMap (s : State) (k : Nat) (v : EvcSt) : (s.setEvc k v).congMap = s.congMap := rfl
@[simp] theorem setEvc_congHeard (s : State) (k : Nat) (v : EvcSt) : (s.setEvc k v).congHeard = s.congHeard := rfl
@[simp] theorem setEvc_spad (s : State) (k : Nat) (v : EvcSt) : (s.setEvc k v).spad = s.spad := rfl
@[simp] theorem setEvc_spadPoison (s : State) (k : Nat) (v : EvcSt) : (s.setEvc k v).spadPoison = s.spadPoison := rfl
@[simp] theorem setEvc_spadChk (s : State) (k : Nat) (v : EvcSt) : (s.setEvc k v).spadChk = s.spadChk := rfl
@[simp] theorem setEvc_dram (s : State) (k : Nat) (v : EvcSt) : (s.setEvc k v).dram = s.dram := rfl
@[simp] theorem setEvc_blk (s : State) (k : Nat) (v : EvcSt) : (s.setEvc k v).blk = s.blk := rfl
@[simp] theorem setEvc_recv (s : State) (k : Nat) (v : EvcSt) : (s.setEvc k v).recv = s.recv := rfl
@[simp] theorem setEvc_image (s : State) (k : Nat) (v : EvcSt) : (s.setEvc k v).image = s.image := rfl
@[simp] theorem setEvc_health (s : State) (k : Nat) (v : EvcSt) : (s.setEvc k v).health = s.health := rfl
@[simp] theorem setEvc_net (s : State) (k : Nat) (v : EvcSt) : (s.setEvc k v).net = s.net := rfl
@[simp] theorem setEvc_ctl (s : State) (k : Nat) (v : EvcSt) : (s.setEvc k v).ctl = s.ctl := rfl
@[simp] theorem setEvc_evNet (s : State) (k : Nat) (v : EvcSt) : (s.setEvc k v).evNet = s.evNet := rfl
@[simp] theorem setEvc_evSeq (s : State) (k : Nat) (v : EvcSt) : (s.setEvc k v).evSeq = s.evSeq := rfl
@[simp] theorem setEvc_conns (s : State) (k : Nat) (v : EvcSt) : (s.setEvc k v).conns = s.conns := rfl
@[simp] theorem setEvc_klRx (s : State) (k : Nat) (v : EvcSt) : (s.setEvc k v).klRx = s.klRx := rfl
@[simp] theorem setEvc_heard (s : State) (k : Nat) (v : EvcSt) : (s.setEvc k v).heard = s.heard := rfl
@[simp] theorem setEvc_fab (s : State) (k : Nat) (v : EvcSt) : (s.setEvc k v).fab = s.fab := rfl
@[simp] theorem setEvc_out (s : State) (k : Nat) (v : EvcSt) : (s.setEvc k v).out = s.out := rfl
@[simp] theorem setEvc_now (s : State) (k : Nat) (v : EvcSt) : (s.setEvc k v).now = s.now := rfl
@[simp] theorem setEvc_freeCtr (s : State) (k : Nat) (v : EvcSt) : (s.setEvc k v).freeCtr = s.freeCtr := rfl
@[simp] theorem setEvc_pending (s : State) (k : Nat) (v : EvcSt) : (s.setEvc k v).pending = s.pending := rfl
@[simp] theorem setEvc_reg (s : State) (k : Nat) (v : EvcSt) (r' : Reg) (i' : Nat) : (s.setEvc k v).reg r' i' = s.reg r' i' := rfl
@[simp] theorem setEvc_getF (s : State) (k : Nat) (v : EvcSt) (g : RF) (i' : Nat) : (s.setEvc k v).getF g i' = s.getF g i' := rfl
@[simp] theorem setEvc_core (s : State) (k : Nat) (v : EvcSt) (j : Nat) : (s.setEvc k v).core j = s.core j := rfl
@[simp] theorem setEvc_part (s : State) (k : Nat) (v : EvcSt) (j : Nat) : (s.setEvc k v).part j = s.part j := rfl
@[simp] theorem setEvc_site (s : State) (k : Nat) (v : EvcSt) (j : Nat) : (s.setEvc k v).site j = s.site j := rfl
@[simp] theorem setEvc_fn (s : State) (k : Nat) (v : EvcSt) (j : Nat) : (s.setEvc k v).fn j = s.fn j := rfl
@[simp] theorem setEvc_die (s : State) (k : Nat) (v : EvcSt) (j : Nat) : (s.setEvc k v).die j = s.die j := rfl
@[simp] theorem setEvc_edge (s : State) (k : Nat) (v : EvcSt) (j : Nat) : (s.setEvc k v).edge j = s.edge j := rfl
@[simp] theorem setEvc_ownerOf (s : State) (k : Nat) (v : EvcSt) (c' : Nat) : (s.setEvc k v).ownerOf c' = s.ownerOf c' := rfl
@[simp] theorem setEvc_coresOf (s : State) (k : Nat) (v : EvcSt) (p' : Nat) : (s.setEvc k v).coresOf p' = s.coresOf p' := rfl
@[simp] theorem setEvc_extents (s : State) (k : Nat) (v : EvcSt) (p' : Nat) : (s.setEvc k v).extents p' = s.extents p' := rfl
@[simp] theorem setEvc_row (s : State) (k : Nat) (v : EvcSt) (c' r' : Nat) : (s.setEvc k v).row c' r' = s.row c' r' := rfl
@[simp] theorem setEvc_rowPoison (s : State) (k : Nat) (v : EvcSt) (c' r' : Nat) : (s.setEvc k v).rowPoison c' r' = s.rowPoison c' r' := rfl
@[simp] theorem modEvc_regs (s : State) (k : Nat) (f : EvcSt → EvcSt) : (s.modEvc k f).regs = s.regs := rfl
@[simp] theorem modEvc_cores (s : State) (k : Nat) (f : EvcSt → EvcSt) : (s.modEvc k f).cores = s.cores := rfl
@[simp] theorem modEvc_parts (s : State) (k : Nat) (f : EvcSt → EvcSt) : (s.modEvc k f).parts = s.parts := rfl
@[simp] theorem modEvc_sites (s : State) (k : Nat) (f : EvcSt → EvcSt) : (s.modEvc k f).sites = s.sites := rfl
@[simp] theorem modEvc_fns (s : State) (k : Nat) (f : EvcSt → EvcSt) : (s.modEvc k f).fns = s.fns := rfl
@[simp] theorem modEvc_dies (s : State) (k : Nat) (f : EvcSt → EvcSt) : (s.modEvc k f).dies = s.dies := rfl
@[simp] theorem modEvc_edges (s : State) (k : Nat) (f : EvcSt → EvcSt) : (s.modEvc k f).edges = s.edges := rfl
@[simp] theorem modEvc_mod (s : State) (k : Nat) (f : EvcSt → EvcSt) : (s.modEvc k f).mod = s.mod := rfl
@[simp] theorem modEvc_flash (s : State) (k : Nat) (f : EvcSt → EvcSt) : (s.modEvc k f).flash = s.flash := rfl
@[simp] theorem modEvc_congMap (s : State) (k : Nat) (f : EvcSt → EvcSt) : (s.modEvc k f).congMap = s.congMap := rfl
@[simp] theorem modEvc_congHeard (s : State) (k : Nat) (f : EvcSt → EvcSt) : (s.modEvc k f).congHeard = s.congHeard := rfl
@[simp] theorem modEvc_spad (s : State) (k : Nat) (f : EvcSt → EvcSt) : (s.modEvc k f).spad = s.spad := rfl
@[simp] theorem modEvc_spadPoison (s : State) (k : Nat) (f : EvcSt → EvcSt) : (s.modEvc k f).spadPoison = s.spadPoison := rfl
@[simp] theorem modEvc_spadChk (s : State) (k : Nat) (f : EvcSt → EvcSt) : (s.modEvc k f).spadChk = s.spadChk := rfl
@[simp] theorem modEvc_dram (s : State) (k : Nat) (f : EvcSt → EvcSt) : (s.modEvc k f).dram = s.dram := rfl
@[simp] theorem modEvc_blk (s : State) (k : Nat) (f : EvcSt → EvcSt) : (s.modEvc k f).blk = s.blk := rfl
@[simp] theorem modEvc_recv (s : State) (k : Nat) (f : EvcSt → EvcSt) : (s.modEvc k f).recv = s.recv := rfl
@[simp] theorem modEvc_image (s : State) (k : Nat) (f : EvcSt → EvcSt) : (s.modEvc k f).image = s.image := rfl
@[simp] theorem modEvc_health (s : State) (k : Nat) (f : EvcSt → EvcSt) : (s.modEvc k f).health = s.health := rfl
@[simp] theorem modEvc_net (s : State) (k : Nat) (f : EvcSt → EvcSt) : (s.modEvc k f).net = s.net := rfl
@[simp] theorem modEvc_ctl (s : State) (k : Nat) (f : EvcSt → EvcSt) : (s.modEvc k f).ctl = s.ctl := rfl
@[simp] theorem modEvc_evNet (s : State) (k : Nat) (f : EvcSt → EvcSt) : (s.modEvc k f).evNet = s.evNet := rfl
@[simp] theorem modEvc_evSeq (s : State) (k : Nat) (f : EvcSt → EvcSt) : (s.modEvc k f).evSeq = s.evSeq := rfl
@[simp] theorem modEvc_conns (s : State) (k : Nat) (f : EvcSt → EvcSt) : (s.modEvc k f).conns = s.conns := rfl
@[simp] theorem modEvc_klRx (s : State) (k : Nat) (f : EvcSt → EvcSt) : (s.modEvc k f).klRx = s.klRx := rfl
@[simp] theorem modEvc_heard (s : State) (k : Nat) (f : EvcSt → EvcSt) : (s.modEvc k f).heard = s.heard := rfl
@[simp] theorem modEvc_fab (s : State) (k : Nat) (f : EvcSt → EvcSt) : (s.modEvc k f).fab = s.fab := rfl
@[simp] theorem modEvc_out (s : State) (k : Nat) (f : EvcSt → EvcSt) : (s.modEvc k f).out = s.out := rfl
@[simp] theorem modEvc_now (s : State) (k : Nat) (f : EvcSt → EvcSt) : (s.modEvc k f).now = s.now := rfl
@[simp] theorem modEvc_freeCtr (s : State) (k : Nat) (f : EvcSt → EvcSt) : (s.modEvc k f).freeCtr = s.freeCtr := rfl
@[simp] theorem modEvc_pending (s : State) (k : Nat) (f : EvcSt → EvcSt) : (s.modEvc k f).pending = s.pending := rfl
@[simp] theorem modEvc_reg (s : State) (k : Nat) (f : EvcSt → EvcSt) (r' : Reg) (i' : Nat) : (s.modEvc k f).reg r' i' = s.reg r' i' := rfl
@[simp] theorem modEvc_getF (s : State) (k : Nat) (f : EvcSt → EvcSt) (g : RF) (i' : Nat) : (s.modEvc k f).getF g i' = s.getF g i' := rfl
@[simp] theorem modEvc_core (s : State) (k : Nat) (f : EvcSt → EvcSt) (j : Nat) : (s.modEvc k f).core j = s.core j := rfl
@[simp] theorem modEvc_part (s : State) (k : Nat) (f : EvcSt → EvcSt) (j : Nat) : (s.modEvc k f).part j = s.part j := rfl
@[simp] theorem modEvc_site (s : State) (k : Nat) (f : EvcSt → EvcSt) (j : Nat) : (s.modEvc k f).site j = s.site j := rfl
@[simp] theorem modEvc_fn (s : State) (k : Nat) (f : EvcSt → EvcSt) (j : Nat) : (s.modEvc k f).fn j = s.fn j := rfl
@[simp] theorem modEvc_die (s : State) (k : Nat) (f : EvcSt → EvcSt) (j : Nat) : (s.modEvc k f).die j = s.die j := rfl
@[simp] theorem modEvc_edge (s : State) (k : Nat) (f : EvcSt → EvcSt) (j : Nat) : (s.modEvc k f).edge j = s.edge j := rfl
@[simp] theorem modEvc_ownerOf (s : State) (k : Nat) (f : EvcSt → EvcSt) (c' : Nat) : (s.modEvc k f).ownerOf c' = s.ownerOf c' := rfl
@[simp] theorem modEvc_coresOf (s : State) (k : Nat) (f : EvcSt → EvcSt) (p' : Nat) : (s.modEvc k f).coresOf p' = s.coresOf p' := rfl
@[simp] theorem modEvc_extents (s : State) (k : Nat) (f : EvcSt → EvcSt) (p' : Nat) : (s.modEvc k f).extents p' = s.extents p' := rfl
@[simp] theorem modEvc_row (s : State) (k : Nat) (f : EvcSt → EvcSt) (c' r' : Nat) : (s.modEvc k f).row c' r' = s.row c' r' := rfl
@[simp] theorem modEvc_rowPoison (s : State) (k : Nat) (f : EvcSt → EvcSt) (c' r' : Nat) : (s.modEvc k f).rowPoison c' r' = s.rowPoison c' r' := rfl
@[simp] theorem setDie_regs (s : State) (k : Nat) (v : DieSt) : (s.setDie k v).regs = s.regs := rfl
@[simp] theorem setDie_cores (s : State) (k : Nat) (v : DieSt) : (s.setDie k v).cores = s.cores := rfl
@[simp] theorem setDie_parts (s : State) (k : Nat) (v : DieSt) : (s.setDie k v).parts = s.parts := rfl
@[simp] theorem setDie_sites (s : State) (k : Nat) (v : DieSt) : (s.setDie k v).sites = s.sites := rfl
@[simp] theorem setDie_fns (s : State) (k : Nat) (v : DieSt) : (s.setDie k v).fns = s.fns := rfl
@[simp] theorem setDie_evcs (s : State) (k : Nat) (v : DieSt) : (s.setDie k v).evcs = s.evcs := rfl
@[simp] theorem setDie_edges (s : State) (k : Nat) (v : DieSt) : (s.setDie k v).edges = s.edges := rfl
@[simp] theorem setDie_mod (s : State) (k : Nat) (v : DieSt) : (s.setDie k v).mod = s.mod := rfl
@[simp] theorem setDie_flash (s : State) (k : Nat) (v : DieSt) : (s.setDie k v).flash = s.flash := rfl
@[simp] theorem setDie_congMap (s : State) (k : Nat) (v : DieSt) : (s.setDie k v).congMap = s.congMap := rfl
@[simp] theorem setDie_congHeard (s : State) (k : Nat) (v : DieSt) : (s.setDie k v).congHeard = s.congHeard := rfl
@[simp] theorem setDie_spad (s : State) (k : Nat) (v : DieSt) : (s.setDie k v).spad = s.spad := rfl
@[simp] theorem setDie_spadPoison (s : State) (k : Nat) (v : DieSt) : (s.setDie k v).spadPoison = s.spadPoison := rfl
@[simp] theorem setDie_spadChk (s : State) (k : Nat) (v : DieSt) : (s.setDie k v).spadChk = s.spadChk := rfl
@[simp] theorem setDie_dram (s : State) (k : Nat) (v : DieSt) : (s.setDie k v).dram = s.dram := rfl
@[simp] theorem setDie_blk (s : State) (k : Nat) (v : DieSt) : (s.setDie k v).blk = s.blk := rfl
@[simp] theorem setDie_recv (s : State) (k : Nat) (v : DieSt) : (s.setDie k v).recv = s.recv := rfl
@[simp] theorem setDie_image (s : State) (k : Nat) (v : DieSt) : (s.setDie k v).image = s.image := rfl
@[simp] theorem setDie_health (s : State) (k : Nat) (v : DieSt) : (s.setDie k v).health = s.health := rfl
@[simp] theorem setDie_net (s : State) (k : Nat) (v : DieSt) : (s.setDie k v).net = s.net := rfl
@[simp] theorem setDie_ctl (s : State) (k : Nat) (v : DieSt) : (s.setDie k v).ctl = s.ctl := rfl
@[simp] theorem setDie_evNet (s : State) (k : Nat) (v : DieSt) : (s.setDie k v).evNet = s.evNet := rfl
@[simp] theorem setDie_evSeq (s : State) (k : Nat) (v : DieSt) : (s.setDie k v).evSeq = s.evSeq := rfl
@[simp] theorem setDie_conns (s : State) (k : Nat) (v : DieSt) : (s.setDie k v).conns = s.conns := rfl
@[simp] theorem setDie_klRx (s : State) (k : Nat) (v : DieSt) : (s.setDie k v).klRx = s.klRx := rfl
@[simp] theorem setDie_heard (s : State) (k : Nat) (v : DieSt) : (s.setDie k v).heard = s.heard := rfl
@[simp] theorem setDie_fab (s : State) (k : Nat) (v : DieSt) : (s.setDie k v).fab = s.fab := rfl
@[simp] theorem setDie_out (s : State) (k : Nat) (v : DieSt) : (s.setDie k v).out = s.out := rfl
@[simp] theorem setDie_now (s : State) (k : Nat) (v : DieSt) : (s.setDie k v).now = s.now := rfl
@[simp] theorem setDie_freeCtr (s : State) (k : Nat) (v : DieSt) : (s.setDie k v).freeCtr = s.freeCtr := rfl
@[simp] theorem setDie_pending (s : State) (k : Nat) (v : DieSt) : (s.setDie k v).pending = s.pending := rfl
@[simp] theorem setDie_reg (s : State) (k : Nat) (v : DieSt) (r' : Reg) (i' : Nat) : (s.setDie k v).reg r' i' = s.reg r' i' := rfl
@[simp] theorem setDie_getF (s : State) (k : Nat) (v : DieSt) (g : RF) (i' : Nat) : (s.setDie k v).getF g i' = s.getF g i' := rfl
@[simp] theorem setDie_core (s : State) (k : Nat) (v : DieSt) (j : Nat) : (s.setDie k v).core j = s.core j := rfl
@[simp] theorem setDie_part (s : State) (k : Nat) (v : DieSt) (j : Nat) : (s.setDie k v).part j = s.part j := rfl
@[simp] theorem setDie_site (s : State) (k : Nat) (v : DieSt) (j : Nat) : (s.setDie k v).site j = s.site j := rfl
@[simp] theorem setDie_fn (s : State) (k : Nat) (v : DieSt) (j : Nat) : (s.setDie k v).fn j = s.fn j := rfl
@[simp] theorem setDie_evc (s : State) (k : Nat) (v : DieSt) (j : Nat) : (s.setDie k v).evc j = s.evc j := rfl
@[simp] theorem setDie_edge (s : State) (k : Nat) (v : DieSt) (j : Nat) : (s.setDie k v).edge j = s.edge j := rfl
@[simp] theorem setDie_ownerOf (s : State) (k : Nat) (v : DieSt) (c' : Nat) : (s.setDie k v).ownerOf c' = s.ownerOf c' := rfl
@[simp] theorem setDie_coresOf (s : State) (k : Nat) (v : DieSt) (p' : Nat) : (s.setDie k v).coresOf p' = s.coresOf p' := rfl
@[simp] theorem setDie_extents (s : State) (k : Nat) (v : DieSt) (p' : Nat) : (s.setDie k v).extents p' = s.extents p' := rfl
@[simp] theorem setDie_row (s : State) (k : Nat) (v : DieSt) (c' r' : Nat) : (s.setDie k v).row c' r' = s.row c' r' := rfl
@[simp] theorem setDie_rowPoison (s : State) (k : Nat) (v : DieSt) (c' r' : Nat) : (s.setDie k v).rowPoison c' r' = s.rowPoison c' r' := rfl
@[simp] theorem modDie_regs (s : State) (k : Nat) (f : DieSt → DieSt) : (s.modDie k f).regs = s.regs := rfl
@[simp] theorem modDie_cores (s : State) (k : Nat) (f : DieSt → DieSt) : (s.modDie k f).cores = s.cores := rfl
@[simp] theorem modDie_parts (s : State) (k : Nat) (f : DieSt → DieSt) : (s.modDie k f).parts = s.parts := rfl
@[simp] theorem modDie_sites (s : State) (k : Nat) (f : DieSt → DieSt) : (s.modDie k f).sites = s.sites := rfl
@[simp] theorem modDie_fns (s : State) (k : Nat) (f : DieSt → DieSt) : (s.modDie k f).fns = s.fns := rfl
@[simp] theorem modDie_evcs (s : State) (k : Nat) (f : DieSt → DieSt) : (s.modDie k f).evcs = s.evcs := rfl
@[simp] theorem modDie_edges (s : State) (k : Nat) (f : DieSt → DieSt) : (s.modDie k f).edges = s.edges := rfl
@[simp] theorem modDie_mod (s : State) (k : Nat) (f : DieSt → DieSt) : (s.modDie k f).mod = s.mod := rfl
@[simp] theorem modDie_flash (s : State) (k : Nat) (f : DieSt → DieSt) : (s.modDie k f).flash = s.flash := rfl
@[simp] theorem modDie_congMap (s : State) (k : Nat) (f : DieSt → DieSt) : (s.modDie k f).congMap = s.congMap := rfl
@[simp] theorem modDie_congHeard (s : State) (k : Nat) (f : DieSt → DieSt) : (s.modDie k f).congHeard = s.congHeard := rfl
@[simp] theorem modDie_spad (s : State) (k : Nat) (f : DieSt → DieSt) : (s.modDie k f).spad = s.spad := rfl
@[simp] theorem modDie_spadPoison (s : State) (k : Nat) (f : DieSt → DieSt) : (s.modDie k f).spadPoison = s.spadPoison := rfl
@[simp] theorem modDie_spadChk (s : State) (k : Nat) (f : DieSt → DieSt) : (s.modDie k f).spadChk = s.spadChk := rfl
@[simp] theorem modDie_dram (s : State) (k : Nat) (f : DieSt → DieSt) : (s.modDie k f).dram = s.dram := rfl
@[simp] theorem modDie_blk (s : State) (k : Nat) (f : DieSt → DieSt) : (s.modDie k f).blk = s.blk := rfl
@[simp] theorem modDie_recv (s : State) (k : Nat) (f : DieSt → DieSt) : (s.modDie k f).recv = s.recv := rfl
@[simp] theorem modDie_image (s : State) (k : Nat) (f : DieSt → DieSt) : (s.modDie k f).image = s.image := rfl
@[simp] theorem modDie_health (s : State) (k : Nat) (f : DieSt → DieSt) : (s.modDie k f).health = s.health := rfl
@[simp] theorem modDie_net (s : State) (k : Nat) (f : DieSt → DieSt) : (s.modDie k f).net = s.net := rfl
@[simp] theorem modDie_ctl (s : State) (k : Nat) (f : DieSt → DieSt) : (s.modDie k f).ctl = s.ctl := rfl
@[simp] theorem modDie_evNet (s : State) (k : Nat) (f : DieSt → DieSt) : (s.modDie k f).evNet = s.evNet := rfl
@[simp] theorem modDie_evSeq (s : State) (k : Nat) (f : DieSt → DieSt) : (s.modDie k f).evSeq = s.evSeq := rfl
@[simp] theorem modDie_conns (s : State) (k : Nat) (f : DieSt → DieSt) : (s.modDie k f).conns = s.conns := rfl
@[simp] theorem modDie_klRx (s : State) (k : Nat) (f : DieSt → DieSt) : (s.modDie k f).klRx = s.klRx := rfl
@[simp] theorem modDie_heard (s : State) (k : Nat) (f : DieSt → DieSt) : (s.modDie k f).heard = s.heard := rfl
@[simp] theorem modDie_fab (s : State) (k : Nat) (f : DieSt → DieSt) : (s.modDie k f).fab = s.fab := rfl
@[simp] theorem modDie_out (s : State) (k : Nat) (f : DieSt → DieSt) : (s.modDie k f).out = s.out := rfl
@[simp] theorem modDie_now (s : State) (k : Nat) (f : DieSt → DieSt) : (s.modDie k f).now = s.now := rfl
@[simp] theorem modDie_freeCtr (s : State) (k : Nat) (f : DieSt → DieSt) : (s.modDie k f).freeCtr = s.freeCtr := rfl
@[simp] theorem modDie_pending (s : State) (k : Nat) (f : DieSt → DieSt) : (s.modDie k f).pending = s.pending := rfl
@[simp] theorem modDie_reg (s : State) (k : Nat) (f : DieSt → DieSt) (r' : Reg) (i' : Nat) : (s.modDie k f).reg r' i' = s.reg r' i' := rfl
@[simp] theorem modDie_getF (s : State) (k : Nat) (f : DieSt → DieSt) (g : RF) (i' : Nat) : (s.modDie k f).getF g i' = s.getF g i' := rfl
@[simp] theorem modDie_core (s : State) (k : Nat) (f : DieSt → DieSt) (j : Nat) : (s.modDie k f).core j = s.core j := rfl
@[simp] theorem modDie_part (s : State) (k : Nat) (f : DieSt → DieSt) (j : Nat) : (s.modDie k f).part j = s.part j := rfl
@[simp] theorem modDie_site (s : State) (k : Nat) (f : DieSt → DieSt) (j : Nat) : (s.modDie k f).site j = s.site j := rfl
@[simp] theorem modDie_fn (s : State) (k : Nat) (f : DieSt → DieSt) (j : Nat) : (s.modDie k f).fn j = s.fn j := rfl
@[simp] theorem modDie_evc (s : State) (k : Nat) (f : DieSt → DieSt) (j : Nat) : (s.modDie k f).evc j = s.evc j := rfl
@[simp] theorem modDie_edge (s : State) (k : Nat) (f : DieSt → DieSt) (j : Nat) : (s.modDie k f).edge j = s.edge j := rfl
@[simp] theorem modDie_ownerOf (s : State) (k : Nat) (f : DieSt → DieSt) (c' : Nat) : (s.modDie k f).ownerOf c' = s.ownerOf c' := rfl
@[simp] theorem modDie_coresOf (s : State) (k : Nat) (f : DieSt → DieSt) (p' : Nat) : (s.modDie k f).coresOf p' = s.coresOf p' := rfl
@[simp] theorem modDie_extents (s : State) (k : Nat) (f : DieSt → DieSt) (p' : Nat) : (s.modDie k f).extents p' = s.extents p' := rfl
@[simp] theorem modDie_row (s : State) (k : Nat) (f : DieSt → DieSt) (c' r' : Nat) : (s.modDie k f).row c' r' = s.row c' r' := rfl
@[simp] theorem modDie_rowPoison (s : State) (k : Nat) (f : DieSt → DieSt) (c' r' : Nat) : (s.modDie k f).rowPoison c' r' = s.rowPoison c' r' := rfl
@[simp] theorem setEdge_regs (s : State) (k : Nat) (v : EdgeSt) : (s.setEdge k v).regs = s.regs := rfl
@[simp] theorem setEdge_cores (s : State) (k : Nat) (v : EdgeSt) : (s.setEdge k v).cores = s.cores := rfl
@[simp] theorem setEdge_parts (s : State) (k : Nat) (v : EdgeSt) : (s.setEdge k v).parts = s.parts := rfl
@[simp] theorem setEdge_sites (s : State) (k : Nat) (v : EdgeSt) : (s.setEdge k v).sites = s.sites := rfl
@[simp] theorem setEdge_fns (s : State) (k : Nat) (v : EdgeSt) : (s.setEdge k v).fns = s.fns := rfl
@[simp] theorem setEdge_evcs (s : State) (k : Nat) (v : EdgeSt) : (s.setEdge k v).evcs = s.evcs := rfl
@[simp] theorem setEdge_dies (s : State) (k : Nat) (v : EdgeSt) : (s.setEdge k v).dies = s.dies := rfl
@[simp] theorem setEdge_mod (s : State) (k : Nat) (v : EdgeSt) : (s.setEdge k v).mod = s.mod := rfl
@[simp] theorem setEdge_flash (s : State) (k : Nat) (v : EdgeSt) : (s.setEdge k v).flash = s.flash := rfl
@[simp] theorem setEdge_congMap (s : State) (k : Nat) (v : EdgeSt) : (s.setEdge k v).congMap = s.congMap := rfl
@[simp] theorem setEdge_congHeard (s : State) (k : Nat) (v : EdgeSt) : (s.setEdge k v).congHeard = s.congHeard := rfl
@[simp] theorem setEdge_spad (s : State) (k : Nat) (v : EdgeSt) : (s.setEdge k v).spad = s.spad := rfl
@[simp] theorem setEdge_spadPoison (s : State) (k : Nat) (v : EdgeSt) : (s.setEdge k v).spadPoison = s.spadPoison := rfl
@[simp] theorem setEdge_spadChk (s : State) (k : Nat) (v : EdgeSt) : (s.setEdge k v).spadChk = s.spadChk := rfl
@[simp] theorem setEdge_dram (s : State) (k : Nat) (v : EdgeSt) : (s.setEdge k v).dram = s.dram := rfl
@[simp] theorem setEdge_blk (s : State) (k : Nat) (v : EdgeSt) : (s.setEdge k v).blk = s.blk := rfl
@[simp] theorem setEdge_recv (s : State) (k : Nat) (v : EdgeSt) : (s.setEdge k v).recv = s.recv := rfl
@[simp] theorem setEdge_image (s : State) (k : Nat) (v : EdgeSt) : (s.setEdge k v).image = s.image := rfl
@[simp] theorem setEdge_health (s : State) (k : Nat) (v : EdgeSt) : (s.setEdge k v).health = s.health := rfl
@[simp] theorem setEdge_net (s : State) (k : Nat) (v : EdgeSt) : (s.setEdge k v).net = s.net := rfl
@[simp] theorem setEdge_ctl (s : State) (k : Nat) (v : EdgeSt) : (s.setEdge k v).ctl = s.ctl := rfl
@[simp] theorem setEdge_evNet (s : State) (k : Nat) (v : EdgeSt) : (s.setEdge k v).evNet = s.evNet := rfl
@[simp] theorem setEdge_evSeq (s : State) (k : Nat) (v : EdgeSt) : (s.setEdge k v).evSeq = s.evSeq := rfl
@[simp] theorem setEdge_conns (s : State) (k : Nat) (v : EdgeSt) : (s.setEdge k v).conns = s.conns := rfl
@[simp] theorem setEdge_klRx (s : State) (k : Nat) (v : EdgeSt) : (s.setEdge k v).klRx = s.klRx := rfl
@[simp] theorem setEdge_heard (s : State) (k : Nat) (v : EdgeSt) : (s.setEdge k v).heard = s.heard := rfl
@[simp] theorem setEdge_fab (s : State) (k : Nat) (v : EdgeSt) : (s.setEdge k v).fab = s.fab := rfl
@[simp] theorem setEdge_out (s : State) (k : Nat) (v : EdgeSt) : (s.setEdge k v).out = s.out := rfl
@[simp] theorem setEdge_now (s : State) (k : Nat) (v : EdgeSt) : (s.setEdge k v).now = s.now := rfl
@[simp] theorem setEdge_freeCtr (s : State) (k : Nat) (v : EdgeSt) : (s.setEdge k v).freeCtr = s.freeCtr := rfl
@[simp] theorem setEdge_pending (s : State) (k : Nat) (v : EdgeSt) : (s.setEdge k v).pending = s.pending := rfl
@[simp] theorem setEdge_reg (s : State) (k : Nat) (v : EdgeSt) (r' : Reg) (i' : Nat) : (s.setEdge k v).reg r' i' = s.reg r' i' := rfl
@[simp] theorem setEdge_getF (s : State) (k : Nat) (v : EdgeSt) (g : RF) (i' : Nat) : (s.setEdge k v).getF g i' = s.getF g i' := rfl
@[simp] theorem setEdge_core (s : State) (k : Nat) (v : EdgeSt) (j : Nat) : (s.setEdge k v).core j = s.core j := rfl
@[simp] theorem setEdge_part (s : State) (k : Nat) (v : EdgeSt) (j : Nat) : (s.setEdge k v).part j = s.part j := rfl
@[simp] theorem setEdge_site (s : State) (k : Nat) (v : EdgeSt) (j : Nat) : (s.setEdge k v).site j = s.site j := rfl
@[simp] theorem setEdge_fn (s : State) (k : Nat) (v : EdgeSt) (j : Nat) : (s.setEdge k v).fn j = s.fn j := rfl
@[simp] theorem setEdge_evc (s : State) (k : Nat) (v : EdgeSt) (j : Nat) : (s.setEdge k v).evc j = s.evc j := rfl
@[simp] theorem setEdge_die (s : State) (k : Nat) (v : EdgeSt) (j : Nat) : (s.setEdge k v).die j = s.die j := rfl
@[simp] theorem setEdge_ownerOf (s : State) (k : Nat) (v : EdgeSt) (c' : Nat) : (s.setEdge k v).ownerOf c' = s.ownerOf c' := rfl
@[simp] theorem setEdge_coresOf (s : State) (k : Nat) (v : EdgeSt) (p' : Nat) : (s.setEdge k v).coresOf p' = s.coresOf p' := rfl
@[simp] theorem setEdge_extents (s : State) (k : Nat) (v : EdgeSt) (p' : Nat) : (s.setEdge k v).extents p' = s.extents p' := rfl
@[simp] theorem setEdge_row (s : State) (k : Nat) (v : EdgeSt) (c' r' : Nat) : (s.setEdge k v).row c' r' = s.row c' r' := rfl
@[simp] theorem setEdge_rowPoison (s : State) (k : Nat) (v : EdgeSt) (c' r' : Nat) : (s.setEdge k v).rowPoison c' r' = s.rowPoison c' r' := rfl
@[simp] theorem modEdge_regs (s : State) (k : Nat) (f : EdgeSt → EdgeSt) : (s.modEdge k f).regs = s.regs := rfl
@[simp] theorem modEdge_cores (s : State) (k : Nat) (f : EdgeSt → EdgeSt) : (s.modEdge k f).cores = s.cores := rfl
@[simp] theorem modEdge_parts (s : State) (k : Nat) (f : EdgeSt → EdgeSt) : (s.modEdge k f).parts = s.parts := rfl
@[simp] theorem modEdge_sites (s : State) (k : Nat) (f : EdgeSt → EdgeSt) : (s.modEdge k f).sites = s.sites := rfl
@[simp] theorem modEdge_fns (s : State) (k : Nat) (f : EdgeSt → EdgeSt) : (s.modEdge k f).fns = s.fns := rfl
@[simp] theorem modEdge_evcs (s : State) (k : Nat) (f : EdgeSt → EdgeSt) : (s.modEdge k f).evcs = s.evcs := rfl
@[simp] theorem modEdge_dies (s : State) (k : Nat) (f : EdgeSt → EdgeSt) : (s.modEdge k f).dies = s.dies := rfl
@[simp] theorem modEdge_mod (s : State) (k : Nat) (f : EdgeSt → EdgeSt) : (s.modEdge k f).mod = s.mod := rfl
@[simp] theorem modEdge_flash (s : State) (k : Nat) (f : EdgeSt → EdgeSt) : (s.modEdge k f).flash = s.flash := rfl
@[simp] theorem modEdge_congMap (s : State) (k : Nat) (f : EdgeSt → EdgeSt) : (s.modEdge k f).congMap = s.congMap := rfl
@[simp] theorem modEdge_congHeard (s : State) (k : Nat) (f : EdgeSt → EdgeSt) : (s.modEdge k f).congHeard = s.congHeard := rfl
@[simp] theorem modEdge_spad (s : State) (k : Nat) (f : EdgeSt → EdgeSt) : (s.modEdge k f).spad = s.spad := rfl
@[simp] theorem modEdge_spadPoison (s : State) (k : Nat) (f : EdgeSt → EdgeSt) : (s.modEdge k f).spadPoison = s.spadPoison := rfl
@[simp] theorem modEdge_spadChk (s : State) (k : Nat) (f : EdgeSt → EdgeSt) : (s.modEdge k f).spadChk = s.spadChk := rfl
@[simp] theorem modEdge_dram (s : State) (k : Nat) (f : EdgeSt → EdgeSt) : (s.modEdge k f).dram = s.dram := rfl
@[simp] theorem modEdge_blk (s : State) (k : Nat) (f : EdgeSt → EdgeSt) : (s.modEdge k f).blk = s.blk := rfl
@[simp] theorem modEdge_recv (s : State) (k : Nat) (f : EdgeSt → EdgeSt) : (s.modEdge k f).recv = s.recv := rfl
@[simp] theorem modEdge_image (s : State) (k : Nat) (f : EdgeSt → EdgeSt) : (s.modEdge k f).image = s.image := rfl
@[simp] theorem modEdge_health (s : State) (k : Nat) (f : EdgeSt → EdgeSt) : (s.modEdge k f).health = s.health := rfl
@[simp] theorem modEdge_net (s : State) (k : Nat) (f : EdgeSt → EdgeSt) : (s.modEdge k f).net = s.net := rfl
@[simp] theorem modEdge_ctl (s : State) (k : Nat) (f : EdgeSt → EdgeSt) : (s.modEdge k f).ctl = s.ctl := rfl
@[simp] theorem modEdge_evNet (s : State) (k : Nat) (f : EdgeSt → EdgeSt) : (s.modEdge k f).evNet = s.evNet := rfl
@[simp] theorem modEdge_evSeq (s : State) (k : Nat) (f : EdgeSt → EdgeSt) : (s.modEdge k f).evSeq = s.evSeq := rfl
@[simp] theorem modEdge_conns (s : State) (k : Nat) (f : EdgeSt → EdgeSt) : (s.modEdge k f).conns = s.conns := rfl
@[simp] theorem modEdge_klRx (s : State) (k : Nat) (f : EdgeSt → EdgeSt) : (s.modEdge k f).klRx = s.klRx := rfl
@[simp] theorem modEdge_heard (s : State) (k : Nat) (f : EdgeSt → EdgeSt) : (s.modEdge k f).heard = s.heard := rfl
@[simp] theorem modEdge_fab (s : State) (k : Nat) (f : EdgeSt → EdgeSt) : (s.modEdge k f).fab = s.fab := rfl
@[simp] theorem modEdge_out (s : State) (k : Nat) (f : EdgeSt → EdgeSt) : (s.modEdge k f).out = s.out := rfl
@[simp] theorem modEdge_now (s : State) (k : Nat) (f : EdgeSt → EdgeSt) : (s.modEdge k f).now = s.now := rfl
@[simp] theorem modEdge_freeCtr (s : State) (k : Nat) (f : EdgeSt → EdgeSt) : (s.modEdge k f).freeCtr = s.freeCtr := rfl
@[simp] theorem modEdge_pending (s : State) (k : Nat) (f : EdgeSt → EdgeSt) : (s.modEdge k f).pending = s.pending := rfl
@[simp] theorem modEdge_reg (s : State) (k : Nat) (f : EdgeSt → EdgeSt) (r' : Reg) (i' : Nat) : (s.modEdge k f).reg r' i' = s.reg r' i' := rfl
@[simp] theorem modEdge_getF (s : State) (k : Nat) (f : EdgeSt → EdgeSt) (g : RF) (i' : Nat) : (s.modEdge k f).getF g i' = s.getF g i' := rfl
@[simp] theorem modEdge_core (s : State) (k : Nat) (f : EdgeSt → EdgeSt) (j : Nat) : (s.modEdge k f).core j = s.core j := rfl
@[simp] theorem modEdge_part (s : State) (k : Nat) (f : EdgeSt → EdgeSt) (j : Nat) : (s.modEdge k f).part j = s.part j := rfl
@[simp] theorem modEdge_site (s : State) (k : Nat) (f : EdgeSt → EdgeSt) (j : Nat) : (s.modEdge k f).site j = s.site j := rfl
@[simp] theorem modEdge_fn (s : State) (k : Nat) (f : EdgeSt → EdgeSt) (j : Nat) : (s.modEdge k f).fn j = s.fn j := rfl
@[simp] theorem modEdge_evc (s : State) (k : Nat) (f : EdgeSt → EdgeSt) (j : Nat) : (s.modEdge k f).evc j = s.evc j := rfl
@[simp] theorem modEdge_die (s : State) (k : Nat) (f : EdgeSt → EdgeSt) (j : Nat) : (s.modEdge k f).die j = s.die j := rfl
@[simp] theorem modEdge_ownerOf (s : State) (k : Nat) (f : EdgeSt → EdgeSt) (c' : Nat) : (s.modEdge k f).ownerOf c' = s.ownerOf c' := rfl
@[simp] theorem modEdge_coresOf (s : State) (k : Nat) (f : EdgeSt → EdgeSt) (p' : Nat) : (s.modEdge k f).coresOf p' = s.coresOf p' := rfl
@[simp] theorem modEdge_extents (s : State) (k : Nat) (f : EdgeSt → EdgeSt) (p' : Nat) : (s.modEdge k f).extents p' = s.extents p' := rfl
@[simp] theorem modEdge_row (s : State) (k : Nat) (f : EdgeSt → EdgeSt) (c' r' : Nat) : (s.modEdge k f).row c' r' = s.row c' r' := rfl
@[simp] theorem modEdge_rowPoison (s : State) (k : Nat) (f : EdgeSt → EdgeSt) (c' r' : Nat) : (s.modEdge k f).rowPoison c' r' = s.rowPoison c' r' := rfl
@[simp] theorem modMod_regs (s : State) (f : ModSt → ModSt) : (s.modMod f).regs = s.regs := rfl
@[simp] theorem modMod_cores (s : State) (f : ModSt → ModSt) : (s.modMod f).cores = s.cores := rfl
@[simp] theorem modMod_parts (s : State) (f : ModSt → ModSt) : (s.modMod f).parts = s.parts := rfl
@[simp] theorem modMod_sites (s : State) (f : ModSt → ModSt) : (s.modMod f).sites = s.sites := rfl
@[simp] theorem modMod_fns (s : State) (f : ModSt → ModSt) : (s.modMod f).fns = s.fns := rfl
@[simp] theorem modMod_evcs (s : State) (f : ModSt → ModSt) : (s.modMod f).evcs = s.evcs := rfl
@[simp] theorem modMod_dies (s : State) (f : ModSt → ModSt) : (s.modMod f).dies = s.dies := rfl
@[simp] theorem modMod_edges (s : State) (f : ModSt → ModSt) : (s.modMod f).edges = s.edges := rfl
@[simp] theorem modMod_flash (s : State) (f : ModSt → ModSt) : (s.modMod f).flash = s.flash := rfl
@[simp] theorem modMod_congMap (s : State) (f : ModSt → ModSt) : (s.modMod f).congMap = s.congMap := rfl
@[simp] theorem modMod_congHeard (s : State) (f : ModSt → ModSt) : (s.modMod f).congHeard = s.congHeard := rfl
@[simp] theorem modMod_spad (s : State) (f : ModSt → ModSt) : (s.modMod f).spad = s.spad := rfl
@[simp] theorem modMod_spadPoison (s : State) (f : ModSt → ModSt) : (s.modMod f).spadPoison = s.spadPoison := rfl
@[simp] theorem modMod_spadChk (s : State) (f : ModSt → ModSt) : (s.modMod f).spadChk = s.spadChk := rfl
@[simp] theorem modMod_dram (s : State) (f : ModSt → ModSt) : (s.modMod f).dram = s.dram := rfl
@[simp] theorem modMod_blk (s : State) (f : ModSt → ModSt) : (s.modMod f).blk = s.blk := rfl
@[simp] theorem modMod_recv (s : State) (f : ModSt → ModSt) : (s.modMod f).recv = s.recv := rfl
@[simp] theorem modMod_image (s : State) (f : ModSt → ModSt) : (s.modMod f).image = s.image := rfl
@[simp] theorem modMod_health (s : State) (f : ModSt → ModSt) : (s.modMod f).health = s.health := rfl
@[simp] theorem modMod_net (s : State) (f : ModSt → ModSt) : (s.modMod f).net = s.net := rfl
@[simp] theorem modMod_ctl (s : State) (f : ModSt → ModSt) : (s.modMod f).ctl = s.ctl := rfl
@[simp] theorem modMod_evNet (s : State) (f : ModSt → ModSt) : (s.modMod f).evNet = s.evNet := rfl
@[simp] theorem modMod_evSeq (s : State) (f : ModSt → ModSt) : (s.modMod f).evSeq = s.evSeq := rfl
@[simp] theorem modMod_conns (s : State) (f : ModSt → ModSt) : (s.modMod f).conns = s.conns := rfl
@[simp] theorem modMod_klRx (s : State) (f : ModSt → ModSt) : (s.modMod f).klRx = s.klRx := rfl
@[simp] theorem modMod_heard (s : State) (f : ModSt → ModSt) : (s.modMod f).heard = s.heard := rfl
@[simp] theorem modMod_fab (s : State) (f : ModSt → ModSt) : (s.modMod f).fab = s.fab := rfl
@[simp] theorem modMod_out (s : State) (f : ModSt → ModSt) : (s.modMod f).out = s.out := rfl
@[simp] theorem modMod_now (s : State) (f : ModSt → ModSt) : (s.modMod f).now = s.now := rfl
@[simp] theorem modMod_freeCtr (s : State) (f : ModSt → ModSt) : (s.modMod f).freeCtr = s.freeCtr := rfl
@[simp] theorem modMod_pending (s : State) (f : ModSt → ModSt) : (s.modMod f).pending = s.pending := rfl
@[simp] theorem modMod_reg (s : State) (f : ModSt → ModSt) (r' : Reg) (i' : Nat) : (s.modMod f).reg r' i' = s.reg r' i' := rfl
@[simp] theorem modMod_getF (s : State) (f : ModSt → ModSt) (g : RF) (i' : Nat) : (s.modMod f).getF g i' = s.getF g i' := rfl
@[simp] theorem modMod_core (s : State) (f : ModSt → ModSt) (j : Nat) : (s.modMod f).core j = s.core j := rfl
@[simp] theorem modMod_part (s : State) (f : ModSt → ModSt) (j : Nat) : (s.modMod f).part j = s.part j := rfl
@[simp] theorem modMod_site (s : State) (f : ModSt → ModSt) (j : Nat) : (s.modMod f).site j = s.site j := rfl
@[simp] theorem modMod_fn (s : State) (f : ModSt → ModSt) (j : Nat) : (s.modMod f).fn j = s.fn j := rfl
@[simp] theorem modMod_evc (s : State) (f : ModSt → ModSt) (j : Nat) : (s.modMod f).evc j = s.evc j := rfl
@[simp] theorem modMod_die (s : State) (f : ModSt → ModSt) (j : Nat) : (s.modMod f).die j = s.die j := rfl
@[simp] theorem modMod_edge (s : State) (f : ModSt → ModSt) (j : Nat) : (s.modMod f).edge j = s.edge j := rfl
@[simp] theorem modMod_ownerOf (s : State) (f : ModSt → ModSt) (c' : Nat) : (s.modMod f).ownerOf c' = s.ownerOf c' := rfl
@[simp] theorem modMod_coresOf (s : State) (f : ModSt → ModSt) (p' : Nat) : (s.modMod f).coresOf p' = s.coresOf p' := rfl
@[simp] theorem modMod_extents (s : State) (f : ModSt → ModSt) (p' : Nat) : (s.modMod f).extents p' = s.extents p' := rfl
@[simp] theorem modMod_row (s : State) (f : ModSt → ModSt) (c' r' : Nat) : (s.modMod f).row c' r' = s.row c' r' := rfl
@[simp] theorem modMod_rowPoison (s : State) (f : ModSt → ModSt) (c' r' : Nat) : (s.modMod f).rowPoison c' r' = s.rowPoison c' r' := rfl
@[simp] theorem emit_regs (s : State) (o : Out) : (s.emit o).regs = s.regs := rfl
@[simp] theorem emit_cores (s : State) (o : Out) : (s.emit o).cores = s.cores := rfl
@[simp] theorem emit_parts (s : State) (o : Out) : (s.emit o).parts = s.parts := rfl
@[simp] theorem emit_sites (s : State) (o : Out) : (s.emit o).sites = s.sites := rfl
@[simp] theorem emit_fns (s : State) (o : Out) : (s.emit o).fns = s.fns := rfl
@[simp] theorem emit_evcs (s : State) (o : Out) : (s.emit o).evcs = s.evcs := rfl
@[simp] theorem emit_dies (s : State) (o : Out) : (s.emit o).dies = s.dies := rfl
@[simp] theorem emit_edges (s : State) (o : Out) : (s.emit o).edges = s.edges := rfl
@[simp] theorem emit_mod (s : State) (o : Out) : (s.emit o).mod = s.mod := rfl
@[simp] theorem emit_flash (s : State) (o : Out) : (s.emit o).flash = s.flash := rfl
@[simp] theorem emit_congMap (s : State) (o : Out) : (s.emit o).congMap = s.congMap := rfl
@[simp] theorem emit_congHeard (s : State) (o : Out) : (s.emit o).congHeard = s.congHeard := rfl
@[simp] theorem emit_spad (s : State) (o : Out) : (s.emit o).spad = s.spad := rfl
@[simp] theorem emit_spadPoison (s : State) (o : Out) : (s.emit o).spadPoison = s.spadPoison := rfl
@[simp] theorem emit_spadChk (s : State) (o : Out) : (s.emit o).spadChk = s.spadChk := rfl
@[simp] theorem emit_dram (s : State) (o : Out) : (s.emit o).dram = s.dram := rfl
@[simp] theorem emit_blk (s : State) (o : Out) : (s.emit o).blk = s.blk := rfl
@[simp] theorem emit_recv (s : State) (o : Out) : (s.emit o).recv = s.recv := rfl
@[simp] theorem emit_image (s : State) (o : Out) : (s.emit o).image = s.image := rfl
@[simp] theorem emit_health (s : State) (o : Out) : (s.emit o).health = s.health := rfl
@[simp] theorem emit_net (s : State) (o : Out) : (s.emit o).net = s.net := rfl
@[simp] theorem emit_ctl (s : State) (o : Out) : (s.emit o).ctl = s.ctl := rfl
@[simp] theorem emit_evNet (s : State) (o : Out) : (s.emit o).evNet = s.evNet := rfl
@[simp] theorem emit_evSeq (s : State) (o : Out) : (s.emit o).evSeq = s.evSeq := rfl
@[simp] theorem emit_conns (s : State) (o : Out) : (s.emit o).conns = s.conns := rfl
@[simp] theorem emit_klRx (s : State) (o : Out) : (s.emit o).klRx = s.klRx := rfl
@[simp] theorem emit_heard (s : State) (o : Out) : (s.emit o).heard = s.heard := rfl
@[simp] theorem emit_fab (s : State) (o : Out) : (s.emit o).fab = s.fab := rfl
@[simp] theorem emit_now (s : State) (o : Out) : (s.emit o).now = s.now := rfl
@[simp] theorem emit_freeCtr (s : State) (o : Out) : (s.emit o).freeCtr = s.freeCtr := rfl
@[simp] theorem emit_pending (s : State) (o : Out) : (s.emit o).pending = s.pending := rfl
@[simp] theorem emit_reg (s : State) (o : Out) (r' : Reg) (i' : Nat) : (s.emit o).reg r' i' = s.reg r' i' := rfl
@[simp] theorem emit_getF (s : State) (o : Out) (g : RF) (i' : Nat) : (s.emit o).getF g i' = s.getF g i' := rfl
@[simp] theorem emit_core (s : State) (o : Out) (j : Nat) : (s.emit o).core j = s.core j := rfl
@[simp] theorem emit_part (s : State) (o : Out) (j : Nat) : (s.emit o).part j = s.part j := rfl
@[simp] theorem emit_site (s : State) (o : Out) (j : Nat) : (s.emit o).site j = s.site j := rfl
@[simp] theorem emit_fn (s : State) (o : Out) (j : Nat) : (s.emit o).fn j = s.fn j := rfl
@[simp] theorem emit_evc (s : State) (o : Out) (j : Nat) : (s.emit o).evc j = s.evc j := rfl
@[simp] theorem emit_die (s : State) (o : Out) (j : Nat) : (s.emit o).die j = s.die j := rfl
@[simp] theorem emit_edge (s : State) (o : Out) (j : Nat) : (s.emit o).edge j = s.edge j := rfl
@[simp] theorem emit_ownerOf (s : State) (o : Out) (c' : Nat) : (s.emit o).ownerOf c' = s.ownerOf c' := rfl
@[simp] theorem emit_coresOf (s : State) (o : Out) (p' : Nat) : (s.emit o).coresOf p' = s.coresOf p' := rfl
@[simp] theorem emit_extents (s : State) (o : Out) (p' : Nat) : (s.emit o).extents p' = s.extents p' := rfl
@[simp] theorem emit_row (s : State) (o : Out) (c' r' : Nat) : (s.emit o).row c' r' = s.row c' r' := rfl
@[simp] theorem emit_rowPoison (s : State) (o : Out) (c' r' : Nat) : (s.emit o).rowPoison c' r' = s.rowPoison c' r' := rfl
@[simp] theorem inject_regs (s : State) (p : Pkt) : (s.inject p).regs = s.regs := rfl
@[simp] theorem inject_cores (s : State) (p : Pkt) : (s.inject p).cores = s.cores := rfl
@[simp] theorem inject_parts (s : State) (p : Pkt) : (s.inject p).parts = s.parts := rfl
@[simp] theorem inject_sites (s : State) (p : Pkt) : (s.inject p).sites = s.sites := rfl
@[simp] theorem inject_fns (s : State) (p : Pkt) : (s.inject p).fns = s.fns := rfl
@[simp] theorem inject_evcs (s : State) (p : Pkt) : (s.inject p).evcs = s.evcs := rfl
@[simp] theorem inject_dies (s : State) (p : Pkt) : (s.inject p).dies = s.dies := rfl
@[simp] theorem inject_edges (s : State) (p : Pkt) : (s.inject p).edges = s.edges := rfl
@[simp] theorem inject_mod (s : State) (p : Pkt) : (s.inject p).mod = s.mod := rfl
@[simp] theorem inject_flash (s : State) (p : Pkt) : (s.inject p).flash = s.flash := rfl
@[simp] theorem inject_congMap (s : State) (p : Pkt) : (s.inject p).congMap = s.congMap := rfl
@[simp] theorem inject_congHeard (s : State) (p : Pkt) : (s.inject p).congHeard = s.congHeard := rfl
@[simp] theorem inject_spad (s : State) (p : Pkt) : (s.inject p).spad = s.spad := rfl
@[simp] theorem inject_spadPoison (s : State) (p : Pkt) : (s.inject p).spadPoison = s.spadPoison := rfl
@[simp] theorem inject_spadChk (s : State) (p : Pkt) : (s.inject p).spadChk = s.spadChk := rfl
@[simp] theorem inject_dram (s : State) (p : Pkt) : (s.inject p).dram = s.dram := rfl
@[simp] theorem inject_blk (s : State) (p : Pkt) : (s.inject p).blk = s.blk := rfl
@[simp] theorem inject_recv (s : State) (p : Pkt) : (s.inject p).recv = s.recv := rfl
@[simp] theorem inject_image (s : State) (p : Pkt) : (s.inject p).image = s.image := rfl
@[simp] theorem inject_health (s : State) (p : Pkt) : (s.inject p).health = s.health := rfl
@[simp] theorem inject_ctl (s : State) (p : Pkt) : (s.inject p).ctl = s.ctl := rfl
@[simp] theorem inject_evNet (s : State) (p : Pkt) : (s.inject p).evNet = s.evNet := rfl
@[simp] theorem inject_evSeq (s : State) (p : Pkt) : (s.inject p).evSeq = s.evSeq := rfl
@[simp] theorem inject_conns (s : State) (p : Pkt) : (s.inject p).conns = s.conns := rfl
@[simp] theorem inject_klRx (s : State) (p : Pkt) : (s.inject p).klRx = s.klRx := rfl
@[simp] theorem inject_heard (s : State) (p : Pkt) : (s.inject p).heard = s.heard := rfl
@[simp] theorem inject_out (s : State) (p : Pkt) : (s.inject p).out = s.out := rfl
@[simp] theorem inject_now (s : State) (p : Pkt) : (s.inject p).now = s.now := rfl
@[simp] theorem inject_freeCtr (s : State) (p : Pkt) : (s.inject p).freeCtr = s.freeCtr := rfl
@[simp] theorem inject_pending (s : State) (p : Pkt) : (s.inject p).pending = s.pending := rfl
@[simp] theorem inject_reg (s : State) (p : Pkt) (r' : Reg) (i' : Nat) : (s.inject p).reg r' i' = s.reg r' i' := rfl
@[simp] theorem inject_getF (s : State) (p : Pkt) (g : RF) (i' : Nat) : (s.inject p).getF g i' = s.getF g i' := rfl
@[simp] theorem inject_core (s : State) (p : Pkt) (j : Nat) : (s.inject p).core j = s.core j := rfl
@[simp] theorem inject_part (s : State) (p : Pkt) (j : Nat) : (s.inject p).part j = s.part j := rfl
@[simp] theorem inject_site (s : State) (p : Pkt) (j : Nat) : (s.inject p).site j = s.site j := rfl
@[simp] theorem inject_fn (s : State) (p : Pkt) (j : Nat) : (s.inject p).fn j = s.fn j := rfl
@[simp] theorem inject_evc (s : State) (p : Pkt) (j : Nat) : (s.inject p).evc j = s.evc j := rfl
@[simp] theorem inject_die (s : State) (p : Pkt) (j : Nat) : (s.inject p).die j = s.die j := rfl
@[simp] theorem inject_edge (s : State) (p : Pkt) (j : Nat) : (s.inject p).edge j = s.edge j := rfl
@[simp] theorem inject_ownerOf (s : State) (p : Pkt) (c' : Nat) : (s.inject p).ownerOf c' = s.ownerOf c' := rfl
@[simp] theorem inject_coresOf (s : State) (p : Pkt) (p' : Nat) : (s.inject p).coresOf p' = s.coresOf p' := rfl
@[simp] theorem inject_extents (s : State) (p : Pkt) (p' : Nat) : (s.inject p).extents p' = s.extents p' := rfl
@[simp] theorem inject_row (s : State) (p : Pkt) (c' r' : Nat) : (s.inject p).row c' r' = s.row c' r' := rfl
@[simp] theorem inject_rowPoison (s : State) (p : Pkt) (c' r' : Nat) : (s.inject p).rowPoison c' r' = s.rowPoison c' r' := rfl
@[simp] theorem inject_net (s : State) (p : Pkt) : (s.inject p).net = s.net ++ [p.sealed] := rfl
@[simp] theorem consume_net (s : State) (p : Pkt) : (s.consume p).net = dropPkt p s.net := rfl
@[simp] theorem consume_regs (s : State) (p : Pkt) : (s.consume p).regs = s.regs := rfl
@[simp] theorem consume_cores (s : State) (p : Pkt) : (s.consume p).cores = s.cores := rfl
@[simp] theorem consume_parts (s : State) (p : Pkt) : (s.consume p).parts = s.parts := rfl
@[simp] theorem consume_sites (s : State) (p : Pkt) : (s.consume p).sites = s.sites := rfl
@[simp] theorem consume_fns (s : State) (p : Pkt) : (s.consume p).fns = s.fns := rfl
@[simp] theorem consume_evcs (s : State) (p : Pkt) : (s.consume p).evcs = s.evcs := rfl
@[simp] theorem consume_dies (s : State) (p : Pkt) : (s.consume p).dies = s.dies := rfl
@[simp] theorem consume_edges (s : State) (p : Pkt) : (s.consume p).edges = s.edges := rfl
@[simp] theorem consume_mod (s : State) (p : Pkt) : (s.consume p).mod = s.mod := rfl
@[simp] theorem consume_flash (s : State) (p : Pkt) : (s.consume p).flash = s.flash := rfl
@[simp] theorem consume_congMap (s : State) (p : Pkt) : (s.consume p).congMap = s.congMap := rfl
@[simp] theorem consume_congHeard (s : State) (p : Pkt) : (s.consume p).congHeard = s.congHeard := rfl
@[simp] theorem consume_spad (s : State) (p : Pkt) : (s.consume p).spad = s.spad := rfl
@[simp] theorem consume_spadPoison (s : State) (p : Pkt) : (s.consume p).spadPoison = s.spadPoison := rfl
@[simp] theorem consume_spadChk (s : State) (p : Pkt) : (s.consume p).spadChk = s.spadChk := rfl
@[simp] theorem consume_dram (s : State) (p : Pkt) : (s.consume p).dram = s.dram := rfl
@[simp] theorem consume_blk (s : State) (p : Pkt) : (s.consume p).blk = s.blk := rfl
@[simp] theorem consume_recv (s : State) (p : Pkt) : (s.consume p).recv = s.recv := rfl
@[simp] theorem consume_image (s : State) (p : Pkt) : (s.consume p).image = s.image := rfl
@[simp] theorem consume_health (s : State) (p : Pkt) : (s.consume p).health = s.health := rfl
@[simp] theorem consume_ctl (s : State) (p : Pkt) : (s.consume p).ctl = s.ctl := rfl
@[simp] theorem consume_evNet (s : State) (p : Pkt) : (s.consume p).evNet = s.evNet := rfl
@[simp] theorem consume_evSeq (s : State) (p : Pkt) : (s.consume p).evSeq = s.evSeq := rfl
@[simp] theorem consume_conns (s : State) (p : Pkt) : (s.consume p).conns = s.conns := rfl
@[simp] theorem consume_klRx (s : State) (p : Pkt) : (s.consume p).klRx = s.klRx := rfl
@[simp] theorem consume_heard (s : State) (p : Pkt) : (s.consume p).heard = s.heard := rfl
@[simp] theorem consume_out (s : State) (p : Pkt) : (s.consume p).out = s.out := rfl
@[simp] theorem consume_now (s : State) (p : Pkt) : (s.consume p).now = s.now := rfl
@[simp] theorem consume_freeCtr (s : State) (p : Pkt) : (s.consume p).freeCtr = s.freeCtr := rfl
@[simp] theorem consume_pending (s : State) (p : Pkt) : (s.consume p).pending = s.pending := rfl
@[simp] theorem consume_reg (s : State) (p : Pkt) (r' : Reg) (i' : Nat) : (s.consume p).reg r' i' = s.reg r' i' := rfl
@[simp] theorem consume_getF (s : State) (p : Pkt) (g : RF) (i' : Nat) : (s.consume p).getF g i' = s.getF g i' := rfl
@[simp] theorem consume_core (s : State) (p : Pkt) (j : Nat) : (s.consume p).core j = s.core j := rfl
@[simp] theorem consume_part (s : State) (p : Pkt) (j : Nat) : (s.consume p).part j = s.part j := rfl
@[simp] theorem consume_site (s : State) (p : Pkt) (j : Nat) : (s.consume p).site j = s.site j := rfl
@[simp] theorem consume_fn (s : State) (p : Pkt) (j : Nat) : (s.consume p).fn j = s.fn j := rfl
@[simp] theorem consume_evc (s : State) (p : Pkt) (j : Nat) : (s.consume p).evc j = s.evc j := rfl
@[simp] theorem consume_die (s : State) (p : Pkt) (j : Nat) : (s.consume p).die j = s.die j := rfl
@[simp] theorem consume_edge (s : State) (p : Pkt) (j : Nat) : (s.consume p).edge j = s.edge j := rfl
@[simp] theorem consume_ownerOf (s : State) (p : Pkt) (c' : Nat) : (s.consume p).ownerOf c' = s.ownerOf c' := rfl
@[simp] theorem consume_coresOf (s : State) (p : Pkt) (p' : Nat) : (s.consume p).coresOf p' = s.coresOf p' := rfl
@[simp] theorem consume_extents (s : State) (p : Pkt) (p' : Nat) : (s.consume p).extents p' = s.extents p' := rfl
@[simp] theorem consume_row (s : State) (p : Pkt) (c' r' : Nat) : (s.consume p).row c' r' = s.row c' r' := rfl
@[simp] theorem consume_rowPoison (s : State) (p : Pkt) (c' r' : Nat) : (s.consume p).rowPoison c' r' = s.rowPoison c' r' := rfl
@[simp] theorem modFab_fab (s : State) (f : FabSt → FabSt) : (s.modFab f).fab = f s.fab := rfl
@[simp] theorem modFab_net (s : State) (f : FabSt → FabSt) : (s.modFab f).net = s.net := rfl
@[simp] theorem modFab_regs (s : State) (f : FabSt → FabSt) : (s.modFab f).regs = s.regs := rfl
@[simp] theorem modFab_cores (s : State) (f : FabSt → FabSt) : (s.modFab f).cores = s.cores := rfl
@[simp] theorem modFab_parts (s : State) (f : FabSt → FabSt) : (s.modFab f).parts = s.parts := rfl
@[simp] theorem modFab_sites (s : State) (f : FabSt → FabSt) : (s.modFab f).sites = s.sites := rfl
@[simp] theorem modFab_fns (s : State) (f : FabSt → FabSt) : (s.modFab f).fns = s.fns := rfl
@[simp] theorem modFab_evcs (s : State) (f : FabSt → FabSt) : (s.modFab f).evcs = s.evcs := rfl
@[simp] theorem modFab_dies (s : State) (f : FabSt → FabSt) : (s.modFab f).dies = s.dies := rfl
@[simp] theorem modFab_edges (s : State) (f : FabSt → FabSt) : (s.modFab f).edges = s.edges := rfl
@[simp] theorem modFab_mod (s : State) (f : FabSt → FabSt) : (s.modFab f).mod = s.mod := rfl
@[simp] theorem modFab_flash (s : State) (f : FabSt → FabSt) : (s.modFab f).flash = s.flash := rfl
@[simp] theorem modFab_congMap (s : State) (f : FabSt → FabSt) : (s.modFab f).congMap = s.congMap := rfl
@[simp] theorem modFab_congHeard (s : State) (f : FabSt → FabSt) : (s.modFab f).congHeard = s.congHeard := rfl
@[simp] theorem modFab_spad (s : State) (f : FabSt → FabSt) : (s.modFab f).spad = s.spad := rfl
@[simp] theorem modFab_spadPoison (s : State) (f : FabSt → FabSt) : (s.modFab f).spadPoison = s.spadPoison := rfl
@[simp] theorem modFab_spadChk (s : State) (f : FabSt → FabSt) : (s.modFab f).spadChk = s.spadChk := rfl
@[simp] theorem modFab_dram (s : State) (f : FabSt → FabSt) : (s.modFab f).dram = s.dram := rfl
@[simp] theorem modFab_blk (s : State) (f : FabSt → FabSt) : (s.modFab f).blk = s.blk := rfl
@[simp] theorem modFab_recv (s : State) (f : FabSt → FabSt) : (s.modFab f).recv = s.recv := rfl
@[simp] theorem modFab_image (s : State) (f : FabSt → FabSt) : (s.modFab f).image = s.image := rfl
@[simp] theorem modFab_health (s : State) (f : FabSt → FabSt) : (s.modFab f).health = s.health := rfl
@[simp] theorem modFab_ctl (s : State) (f : FabSt → FabSt) : (s.modFab f).ctl = s.ctl := rfl
@[simp] theorem modFab_evNet (s : State) (f : FabSt → FabSt) : (s.modFab f).evNet = s.evNet := rfl
@[simp] theorem modFab_evSeq (s : State) (f : FabSt → FabSt) : (s.modFab f).evSeq = s.evSeq := rfl
@[simp] theorem modFab_conns (s : State) (f : FabSt → FabSt) : (s.modFab f).conns = s.conns := rfl
@[simp] theorem modFab_klRx (s : State) (f : FabSt → FabSt) : (s.modFab f).klRx = s.klRx := rfl
@[simp] theorem modFab_heard (s : State) (f : FabSt → FabSt) : (s.modFab f).heard = s.heard := rfl
@[simp] theorem modFab_out (s : State) (f : FabSt → FabSt) : (s.modFab f).out = s.out := rfl
@[simp] theorem modFab_now (s : State) (f : FabSt → FabSt) : (s.modFab f).now = s.now := rfl
@[simp] theorem modFab_freeCtr (s : State) (f : FabSt → FabSt) : (s.modFab f).freeCtr = s.freeCtr := rfl
@[simp] theorem modFab_pending (s : State) (f : FabSt → FabSt) : (s.modFab f).pending = s.pending := rfl
@[simp] theorem modFab_reg (s : State) (f : FabSt → FabSt) (r' : Reg) (i' : Nat) : (s.modFab f).reg r' i' = s.reg r' i' := rfl
@[simp] theorem modFab_getF (s : State) (f : FabSt → FabSt) (g : RF) (i' : Nat) : (s.modFab f).getF g i' = s.getF g i' := rfl
@[simp] theorem modFab_core (s : State) (f : FabSt → FabSt) (j : Nat) : (s.modFab f).core j = s.core j := rfl
@[simp] theorem modFab_part (s : State) (f : FabSt → FabSt) (j : Nat) : (s.modFab f).part j = s.part j := rfl
@[simp] theorem modFab_site (s : State) (f : FabSt → FabSt) (j : Nat) : (s.modFab f).site j = s.site j := rfl
@[simp] theorem modFab_fn (s : State) (f : FabSt → FabSt) (j : Nat) : (s.modFab f).fn j = s.fn j := rfl
@[simp] theorem modFab_evc (s : State) (f : FabSt → FabSt) (j : Nat) : (s.modFab f).evc j = s.evc j := rfl
@[simp] theorem modFab_die (s : State) (f : FabSt → FabSt) (j : Nat) : (s.modFab f).die j = s.die j := rfl
@[simp] theorem modFab_edge (s : State) (f : FabSt → FabSt) (j : Nat) : (s.modFab f).edge j = s.edge j := rfl
@[simp] theorem modFab_ownerOf (s : State) (f : FabSt → FabSt) (c' : Nat) : (s.modFab f).ownerOf c' = s.ownerOf c' := rfl
@[simp] theorem modFab_coresOf (s : State) (f : FabSt → FabSt) (p' : Nat) : (s.modFab f).coresOf p' = s.coresOf p' := rfl
@[simp] theorem modFab_extents (s : State) (f : FabSt → FabSt) (p' : Nat) : (s.modFab f).extents p' = s.extents p' := rfl
@[simp] theorem modFab_row (s : State) (f : FabSt → FabSt) (c' r' : Nat) : (s.modFab f).row c' r' = s.row c' r' := rfl
@[simp] theorem modFab_rowPoison (s : State) (f : FabSt → FabSt) (c' r' : Nat) : (s.modFab f).rowPoison c' r' = s.rowPoison c' r' := rfl
@[simp] theorem send_regs (s : State) (m : CtlMsg) (p d q : Nat) : (s.send m p d q).regs = s.regs := rfl
@[simp] theorem send_cores (s : State) (m : CtlMsg) (p d q : Nat) : (s.send m p d q).cores = s.cores := rfl
@[simp] theorem send_parts (s : State) (m : CtlMsg) (p d q : Nat) : (s.send m p d q).parts = s.parts := rfl
@[simp] theorem send_sites (s : State) (m : CtlMsg) (p d q : Nat) : (s.send m p d q).sites = s.sites := rfl
@[simp] theorem send_fns (s : State) (m : CtlMsg) (p d q : Nat) : (s.send m p d q).fns = s.fns := rfl
@[simp] theorem send_evcs (s : State) (m : CtlMsg) (p d q : Nat) : (s.send m p d q).evcs = s.evcs := rfl
@[simp] theorem send_dies (s : State) (m : CtlMsg) (p d q : Nat) : (s.send m p d q).dies = s.dies := rfl
@[simp] theorem send_edges (s : State) (m : CtlMsg) (p d q : Nat) : (s.send m p d q).edges = s.edges := rfl
@[simp] theorem send_mod (s : State) (m : CtlMsg) (p d q : Nat) : (s.send m p d q).mod = s.mod := rfl
@[simp] theorem send_flash (s : State) (m : CtlMsg) (p d q : Nat) : (s.send m p d q).flash = s.flash := rfl
@[simp] theorem send_congMap (s : State) (m : CtlMsg) (p d q : Nat) : (s.send m p d q).congMap = s.congMap := rfl
@[simp] theorem send_congHeard (s : State) (m : CtlMsg) (p d q : Nat) : (s.send m p d q).congHeard = s.congHeard := rfl
@[simp] theorem send_spad (s : State) (m : CtlMsg) (p d q : Nat) : (s.send m p d q).spad = s.spad := rfl
@[simp] theorem send_spadPoison (s : State) (m : CtlMsg) (p d q : Nat) : (s.send m p d q).spadPoison = s.spadPoison := rfl
@[simp] theorem send_spadChk (s : State) (m : CtlMsg) (p d q : Nat) : (s.send m p d q).spadChk = s.spadChk := rfl
@[simp] theorem send_dram (s : State) (m : CtlMsg) (p d q : Nat) : (s.send m p d q).dram = s.dram := rfl
@[simp] theorem send_blk (s : State) (m : CtlMsg) (p d q : Nat) : (s.send m p d q).blk = s.blk := rfl
@[simp] theorem send_recv (s : State) (m : CtlMsg) (p d q : Nat) : (s.send m p d q).recv = s.recv := rfl
@[simp] theorem send_image (s : State) (m : CtlMsg) (p d q : Nat) : (s.send m p d q).image = s.image := rfl
@[simp] theorem send_health (s : State) (m : CtlMsg) (p d q : Nat) : (s.send m p d q).health = s.health := rfl
@[simp] theorem send_net (s : State) (m : CtlMsg) (p d q : Nat) : (s.send m p d q).net = s.net := rfl
@[simp] theorem send_evNet (s : State) (m : CtlMsg) (p d q : Nat) : (s.send m p d q).evNet = s.evNet := rfl
@[simp] theorem send_evSeq (s : State) (m : CtlMsg) (p d q : Nat) : (s.send m p d q).evSeq = s.evSeq := rfl
@[simp] theorem send_conns (s : State) (m : CtlMsg) (p d q : Nat) : (s.send m p d q).conns = s.conns := rfl
@[simp] theorem send_klRx (s : State) (m : CtlMsg) (p d q : Nat) : (s.send m p d q).klRx = s.klRx := rfl
@[simp] theorem send_heard (s : State) (m : CtlMsg) (p d q : Nat) : (s.send m p d q).heard = s.heard := rfl
@[simp] theorem send_out (s : State) (m : CtlMsg) (p d q : Nat) : (s.send m p d q).out = s.out := rfl
@[simp] theorem send_now (s : State) (m : CtlMsg) (p d q : Nat) : (s.send m p d q).now = s.now := rfl
@[simp] theorem send_freeCtr (s : State) (m : CtlMsg) (p d q : Nat) : (s.send m p d q).freeCtr = s.freeCtr := rfl
@[simp] theorem send_pending (s : State) (m : CtlMsg) (p d q : Nat) : (s.send m p d q).pending = s.pending := rfl
@[simp] theorem send_reg (s : State) (m : CtlMsg) (p d q : Nat) (r' : Reg) (i' : Nat) : (s.send m p d q).reg r' i' = s.reg r' i' := rfl
@[simp] theorem send_getF (s : State) (m : CtlMsg) (p d q : Nat) (g : RF) (i' : Nat) : (s.send m p d q).getF g i' = s.getF g i' := rfl
@[simp] theorem send_core (s : State) (m : CtlMsg) (p d q : Nat) (j : Nat) : (s.send m p d q).core j = s.core j := rfl
@[simp] theorem send_part (s : State) (m : CtlMsg) (p d q : Nat) (j : Nat) : (s.send m p d q).part j = s.part j := rfl
@[simp] theorem send_site (s : State) (m : CtlMsg) (p d q : Nat) (j : Nat) : (s.send m p d q).site j = s.site j := rfl
@[simp] theorem send_fn (s : State) (m : CtlMsg) (p d q : Nat) (j : Nat) : (s.send m p d q).fn j = s.fn j := rfl
@[simp] theorem send_evc (s : State) (m : CtlMsg) (p d q : Nat) (j : Nat) : (s.send m p d q).evc j = s.evc j := rfl
@[simp] theorem send_die (s : State) (m : CtlMsg) (p d q : Nat) (j : Nat) : (s.send m p d q).die j = s.die j := rfl
@[simp] theorem send_edge (s : State) (m : CtlMsg) (p d q : Nat) (j : Nat) : (s.send m p d q).edge j = s.edge j := rfl
@[simp] theorem send_ownerOf (s : State) (m : CtlMsg) (p d q : Nat) (c' : Nat) : (s.send m p d q).ownerOf c' = s.ownerOf c' := rfl
@[simp] theorem send_coresOf (s : State) (m : CtlMsg) (p d q : Nat) (p' : Nat) : (s.send m p d q).coresOf p' = s.coresOf p' := rfl
@[simp] theorem send_extents (s : State) (m : CtlMsg) (p d q : Nat) (p' : Nat) : (s.send m p d q).extents p' = s.extents p' := rfl
@[simp] theorem send_row (s : State) (m : CtlMsg) (p d q : Nat) (c' r' : Nat) : (s.send m p d q).row c' r' = s.row c' r' := rfl
@[simp] theorem send_rowPoison (s : State) (m : CtlMsg) (p d q : Nat) (c' r' : Nat) : (s.send m p d q).rowPoison c' r' = s.rowPoison c' r' := rfl
@[simp] theorem record_regs (s : State) (e : Ev) (q k p x : Nat) : (s.record e q k p x).regs = s.regs := rfl
@[simp] theorem record_cores (s : State) (e : Ev) (q k p x : Nat) : (s.record e q k p x).cores = s.cores := rfl
@[simp] theorem record_parts (s : State) (e : Ev) (q k p x : Nat) : (s.record e q k p x).parts = s.parts := rfl
@[simp] theorem record_sites (s : State) (e : Ev) (q k p x : Nat) : (s.record e q k p x).sites = s.sites := rfl
@[simp] theorem record_fns (s : State) (e : Ev) (q k p x : Nat) : (s.record e q k p x).fns = s.fns := rfl
@[simp] theorem record_evcs (s : State) (e : Ev) (q k p x : Nat) : (s.record e q k p x).evcs = s.evcs := rfl
@[simp] theorem record_dies (s : State) (e : Ev) (q k p x : Nat) : (s.record e q k p x).dies = s.dies := rfl
@[simp] theorem record_edges (s : State) (e : Ev) (q k p x : Nat) : (s.record e q k p x).edges = s.edges := rfl
@[simp] theorem record_mod (s : State) (e : Ev) (q k p x : Nat) : (s.record e q k p x).mod = s.mod := rfl
@[simp] theorem record_flash (s : State) (e : Ev) (q k p x : Nat) : (s.record e q k p x).flash = s.flash := rfl
@[simp] theorem record_congMap (s : State) (e : Ev) (q k p x : Nat) : (s.record e q k p x).congMap = s.congMap := rfl
@[simp] theorem record_congHeard (s : State) (e : Ev) (q k p x : Nat) : (s.record e q k p x).congHeard = s.congHeard := rfl
@[simp] theorem record_spad (s : State) (e : Ev) (q k p x : Nat) : (s.record e q k p x).spad = s.spad := rfl
@[simp] theorem record_spadPoison (s : State) (e : Ev) (q k p x : Nat) : (s.record e q k p x).spadPoison = s.spadPoison := rfl
@[simp] theorem record_spadChk (s : State) (e : Ev) (q k p x : Nat) : (s.record e q k p x).spadChk = s.spadChk := rfl
@[simp] theorem record_dram (s : State) (e : Ev) (q k p x : Nat) : (s.record e q k p x).dram = s.dram := rfl
@[simp] theorem record_blk (s : State) (e : Ev) (q k p x : Nat) : (s.record e q k p x).blk = s.blk := rfl
@[simp] theorem record_recv (s : State) (e : Ev) (q k p x : Nat) : (s.record e q k p x).recv = s.recv := rfl
@[simp] theorem record_image (s : State) (e : Ev) (q k p x : Nat) : (s.record e q k p x).image = s.image := rfl
@[simp] theorem record_health (s : State) (e : Ev) (q k p x : Nat) : (s.record e q k p x).health = s.health := rfl
@[simp] theorem record_net (s : State) (e : Ev) (q k p x : Nat) : (s.record e q k p x).net = s.net := rfl
@[simp] theorem record_ctl (s : State) (e : Ev) (q k p x : Nat) : (s.record e q k p x).ctl = s.ctl := rfl
@[simp] theorem record_conns (s : State) (e : Ev) (q k p x : Nat) : (s.record e q k p x).conns = s.conns := rfl
@[simp] theorem record_klRx (s : State) (e : Ev) (q k p x : Nat) : (s.record e q k p x).klRx = s.klRx := rfl
@[simp] theorem record_heard (s : State) (e : Ev) (q k p x : Nat) : (s.record e q k p x).heard = s.heard := rfl
@[simp] theorem record_fab (s : State) (e : Ev) (q k p x : Nat) : (s.record e q k p x).fab = s.fab := rfl
@[simp] theorem record_out (s : State) (e : Ev) (q k p x : Nat) : (s.record e q k p x).out = s.out := rfl
@[simp] theorem record_now (s : State) (e : Ev) (q k p x : Nat) : (s.record e q k p x).now = s.now := rfl
@[simp] theorem record_freeCtr (s : State) (e : Ev) (q k p x : Nat) : (s.record e q k p x).freeCtr = s.freeCtr := rfl
@[simp] theorem record_pending (s : State) (e : Ev) (q k p x : Nat) : (s.record e q k p x).pending = s.pending := rfl
@[simp] theorem record_reg (s : State) (e : Ev) (q k p x : Nat) (r' : Reg) (i' : Nat) : (s.record e q k p x).reg r' i' = s.reg r' i' := rfl
@[simp] theorem record_getF (s : State) (e : Ev) (q k p x : Nat) (g : RF) (i' : Nat) : (s.record e q k p x).getF g i' = s.getF g i' := rfl
@[simp] theorem record_core (s : State) (e : Ev) (q k p x : Nat) (j : Nat) : (s.record e q k p x).core j = s.core j := rfl
@[simp] theorem record_part (s : State) (e : Ev) (q k p x : Nat) (j : Nat) : (s.record e q k p x).part j = s.part j := rfl
@[simp] theorem record_site (s : State) (e : Ev) (q k p x : Nat) (j : Nat) : (s.record e q k p x).site j = s.site j := rfl
@[simp] theorem record_fn (s : State) (e : Ev) (q k p x : Nat) (j : Nat) : (s.record e q k p x).fn j = s.fn j := rfl
@[simp] theorem record_evc (s : State) (e : Ev) (q k p x : Nat) (j : Nat) : (s.record e q k p x).evc j = s.evc j := rfl
@[simp] theorem record_die (s : State) (e : Ev) (q k p x : Nat) (j : Nat) : (s.record e q k p x).die j = s.die j := rfl
@[simp] theorem record_edge (s : State) (e : Ev) (q k p x : Nat) (j : Nat) : (s.record e q k p x).edge j = s.edge j := rfl
@[simp] theorem record_ownerOf (s : State) (e : Ev) (q k p x : Nat) (c' : Nat) : (s.record e q k p x).ownerOf c' = s.ownerOf c' := rfl
@[simp] theorem record_coresOf (s : State) (e : Ev) (q k p x : Nat) (p' : Nat) : (s.record e q k p x).coresOf p' = s.coresOf p' := rfl
@[simp] theorem record_extents (s : State) (e : Ev) (q k p x : Nat) (p' : Nat) : (s.record e q k p x).extents p' = s.extents p' := rfl
@[simp] theorem record_row (s : State) (e : Ev) (q k p x : Nat) (c' r' : Nat) : (s.record e q k p x).row c' r' = s.row c' r' := rfl
@[simp] theorem record_rowPoison (s : State) (e : Ev) (q k p x : Nat) (c' r' : Nat) : (s.record e q k p x).rowPoison c' r' = s.rowPoison c' r' := rfl
@[simp] theorem setHealth_regs (s : State) (u : Nat) (h : Health) : (s.setHealth u h).regs = s.regs := rfl
@[simp] theorem setHealth_cores (s : State) (u : Nat) (h : Health) : (s.setHealth u h).cores = s.cores := rfl
@[simp] theorem setHealth_parts (s : State) (u : Nat) (h : Health) : (s.setHealth u h).parts = s.parts := rfl
@[simp] theorem setHealth_sites (s : State) (u : Nat) (h : Health) : (s.setHealth u h).sites = s.sites := rfl
@[simp] theorem setHealth_fns (s : State) (u : Nat) (h : Health) : (s.setHealth u h).fns = s.fns := rfl
@[simp] theorem setHealth_evcs (s : State) (u : Nat) (h : Health) : (s.setHealth u h).evcs = s.evcs := rfl
@[simp] theorem setHealth_dies (s : State) (u : Nat) (h : Health) : (s.setHealth u h).dies = s.dies := rfl
@[simp] theorem setHealth_edges (s : State) (u : Nat) (h : Health) : (s.setHealth u h).edges = s.edges := rfl
@[simp] theorem setHealth_mod (s : State) (u : Nat) (h : Health) : (s.setHealth u h).mod = s.mod := rfl
@[simp] theorem setHealth_flash (s : State) (u : Nat) (h : Health) : (s.setHealth u h).flash = s.flash := rfl
@[simp] theorem setHealth_congMap (s : State) (u : Nat) (h : Health) : (s.setHealth u h).congMap = s.congMap := rfl
@[simp] theorem setHealth_congHeard (s : State) (u : Nat) (h : Health) : (s.setHealth u h).congHeard = s.congHeard := rfl
@[simp] theorem setHealth_spad (s : State) (u : Nat) (h : Health) : (s.setHealth u h).spad = s.spad := rfl
@[simp] theorem setHealth_spadPoison (s : State) (u : Nat) (h : Health) : (s.setHealth u h).spadPoison = s.spadPoison := rfl
@[simp] theorem setHealth_spadChk (s : State) (u : Nat) (h : Health) : (s.setHealth u h).spadChk = s.spadChk := rfl
@[simp] theorem setHealth_dram (s : State) (u : Nat) (h : Health) : (s.setHealth u h).dram = s.dram := rfl
@[simp] theorem setHealth_blk (s : State) (u : Nat) (h : Health) : (s.setHealth u h).blk = s.blk := rfl
@[simp] theorem setHealth_recv (s : State) (u : Nat) (h : Health) : (s.setHealth u h).recv = s.recv := rfl
@[simp] theorem setHealth_image (s : State) (u : Nat) (h : Health) : (s.setHealth u h).image = s.image := rfl
@[simp] theorem setHealth_net (s : State) (u : Nat) (h : Health) : (s.setHealth u h).net = s.net := rfl
@[simp] theorem setHealth_ctl (s : State) (u : Nat) (h : Health) : (s.setHealth u h).ctl = s.ctl := rfl
@[simp] theorem setHealth_evNet (s : State) (u : Nat) (h : Health) : (s.setHealth u h).evNet = s.evNet := rfl
@[simp] theorem setHealth_evSeq (s : State) (u : Nat) (h : Health) : (s.setHealth u h).evSeq = s.evSeq := rfl
@[simp] theorem setHealth_conns (s : State) (u : Nat) (h : Health) : (s.setHealth u h).conns = s.conns := rfl
@[simp] theorem setHealth_klRx (s : State) (u : Nat) (h : Health) : (s.setHealth u h).klRx = s.klRx := rfl
@[simp] theorem setHealth_heard (s : State) (u : Nat) (h : Health) : (s.setHealth u h).heard = s.heard := rfl
@[simp] theorem setHealth_fab (s : State) (u : Nat) (h : Health) : (s.setHealth u h).fab = s.fab := rfl
@[simp] theorem setHealth_out (s : State) (u : Nat) (h : Health) : (s.setHealth u h).out = s.out := rfl
@[simp] theorem setHealth_now (s : State) (u : Nat) (h : Health) : (s.setHealth u h).now = s.now := rfl
@[simp] theorem setHealth_freeCtr (s : State) (u : Nat) (h : Health) : (s.setHealth u h).freeCtr = s.freeCtr := rfl
@[simp] theorem setHealth_pending (s : State) (u : Nat) (h : Health) : (s.setHealth u h).pending = s.pending := rfl
@[simp] theorem setHealth_reg (s : State) (u : Nat) (h : Health) (r' : Reg) (i' : Nat) : (s.setHealth u h).reg r' i' = s.reg r' i' := rfl
@[simp] theorem setHealth_getF (s : State) (u : Nat) (h : Health) (g : RF) (i' : Nat) : (s.setHealth u h).getF g i' = s.getF g i' := rfl
@[simp] theorem setHealth_core (s : State) (u : Nat) (h : Health) (j : Nat) : (s.setHealth u h).core j = s.core j := rfl
@[simp] theorem setHealth_part (s : State) (u : Nat) (h : Health) (j : Nat) : (s.setHealth u h).part j = s.part j := rfl
@[simp] theorem setHealth_site (s : State) (u : Nat) (h : Health) (j : Nat) : (s.setHealth u h).site j = s.site j := rfl
@[simp] theorem setHealth_fn (s : State) (u : Nat) (h : Health) (j : Nat) : (s.setHealth u h).fn j = s.fn j := rfl
@[simp] theorem setHealth_evc (s : State) (u : Nat) (h : Health) (j : Nat) : (s.setHealth u h).evc j = s.evc j := rfl
@[simp] theorem setHealth_die (s : State) (u : Nat) (h : Health) (j : Nat) : (s.setHealth u h).die j = s.die j := rfl
@[simp] theorem setHealth_edge (s : State) (u : Nat) (h : Health) (j : Nat) : (s.setHealth u h).edge j = s.edge j := rfl
@[simp] theorem setHealth_ownerOf (s : State) (u : Nat) (h : Health) (c' : Nat) : (s.setHealth u h).ownerOf c' = s.ownerOf c' := rfl
@[simp] theorem setHealth_coresOf (s : State) (u : Nat) (h : Health) (p' : Nat) : (s.setHealth u h).coresOf p' = s.coresOf p' := rfl
@[simp] theorem setHealth_extents (s : State) (u : Nat) (h : Health) (p' : Nat) : (s.setHealth u h).extents p' = s.extents p' := rfl
@[simp] theorem setHealth_row (s : State) (u : Nat) (h : Health) (c' r' : Nat) : (s.setHealth u h).row c' r' = s.row c' r' := rfl
@[simp] theorem setHealth_rowPoison (s : State) (u : Nat) (h : Health) (c' r' : Nat) : (s.setHealth u h).rowPoison c' r' = s.rowPoison c' r' := rfl
@[simp] theorem putRow_regs (s : State) (c r : Nat) (d : Row) (b : Bool) : (s.putRow c r d b).regs = s.regs := rfl
@[simp] theorem putRow_cores (s : State) (c r : Nat) (d : Row) (b : Bool) : (s.putRow c r d b).cores = s.cores := rfl
@[simp] theorem putRow_parts (s : State) (c r : Nat) (d : Row) (b : Bool) : (s.putRow c r d b).parts = s.parts := rfl
@[simp] theorem putRow_sites (s : State) (c r : Nat) (d : Row) (b : Bool) : (s.putRow c r d b).sites = s.sites := rfl
@[simp] theorem putRow_fns (s : State) (c r : Nat) (d : Row) (b : Bool) : (s.putRow c r d b).fns = s.fns := rfl
@[simp] theorem putRow_evcs (s : State) (c r : Nat) (d : Row) (b : Bool) : (s.putRow c r d b).evcs = s.evcs := rfl
@[simp] theorem putRow_dies (s : State) (c r : Nat) (d : Row) (b : Bool) : (s.putRow c r d b).dies = s.dies := rfl
@[simp] theorem putRow_edges (s : State) (c r : Nat) (d : Row) (b : Bool) : (s.putRow c r d b).edges = s.edges := rfl
@[simp] theorem putRow_mod (s : State) (c r : Nat) (d : Row) (b : Bool) : (s.putRow c r d b).mod = s.mod := rfl
@[simp] theorem putRow_flash (s : State) (c r : Nat) (d : Row) (b : Bool) : (s.putRow c r d b).flash = s.flash := rfl
@[simp] theorem putRow_congMap (s : State) (c r : Nat) (d : Row) (b : Bool) : (s.putRow c r d b).congMap = s.congMap := rfl
@[simp] theorem putRow_congHeard (s : State) (c r : Nat) (d : Row) (b : Bool) : (s.putRow c r d b).congHeard = s.congHeard := rfl
@[simp] theorem putRow_dram (s : State) (c r : Nat) (d : Row) (b : Bool) : (s.putRow c r d b).dram = s.dram := rfl
@[simp] theorem putRow_blk (s : State) (c r : Nat) (d : Row) (b : Bool) : (s.putRow c r d b).blk = s.blk := rfl
@[simp] theorem putRow_recv (s : State) (c r : Nat) (d : Row) (b : Bool) : (s.putRow c r d b).recv = s.recv := rfl
@[simp] theorem putRow_image (s : State) (c r : Nat) (d : Row) (b : Bool) : (s.putRow c r d b).image = s.image := rfl
@[simp] theorem putRow_health (s : State) (c r : Nat) (d : Row) (b : Bool) : (s.putRow c r d b).health = s.health := rfl
@[simp] theorem putRow_net (s : State) (c r : Nat) (d : Row) (b : Bool) : (s.putRow c r d b).net = s.net := rfl
@[simp] theorem putRow_ctl (s : State) (c r : Nat) (d : Row) (b : Bool) : (s.putRow c r d b).ctl = s.ctl := rfl
@[simp] theorem putRow_evNet (s : State) (c r : Nat) (d : Row) (b : Bool) : (s.putRow c r d b).evNet = s.evNet := rfl
@[simp] theorem putRow_evSeq (s : State) (c r : Nat) (d : Row) (b : Bool) : (s.putRow c r d b).evSeq = s.evSeq := rfl
@[simp] theorem putRow_conns (s : State) (c r : Nat) (d : Row) (b : Bool) : (s.putRow c r d b).conns = s.conns := rfl
@[simp] theorem putRow_klRx (s : State) (c r : Nat) (d : Row) (b : Bool) : (s.putRow c r d b).klRx = s.klRx := rfl
@[simp] theorem putRow_heard (s : State) (c r : Nat) (d : Row) (b : Bool) : (s.putRow c r d b).heard = s.heard := rfl
@[simp] theorem putRow_fab (s : State) (c r : Nat) (d : Row) (b : Bool) : (s.putRow c r d b).fab = s.fab := rfl
@[simp] theorem putRow_out (s : State) (c r : Nat) (d : Row) (b : Bool) : (s.putRow c r d b).out = s.out := rfl
@[simp] theorem putRow_now (s : State) (c r : Nat) (d : Row) (b : Bool) : (s.putRow c r d b).now = s.now := rfl
@[simp] theorem putRow_freeCtr (s : State) (c r : Nat) (d : Row) (b : Bool) : (s.putRow c r d b).freeCtr = s.freeCtr := rfl
@[simp] theorem putRow_pending (s : State) (c r : Nat) (d : Row) (b : Bool) : (s.putRow c r d b).pending = s.pending := rfl
@[simp] theorem putRow_reg (s : State) (c r : Nat) (d : Row) (b : Bool) (r' : Reg) (i' : Nat) : (s.putRow c r d b).reg r' i' = s.reg r' i' := rfl
@[simp] theorem putRow_getF (s : State) (c r : Nat) (d : Row) (b : Bool) (g : RF) (i' : Nat) : (s.putRow c r d b).getF g i' = s.getF g i' := rfl
@[simp] theorem putRow_core (s : State) (c r : Nat) (d : Row) (b : Bool) (j : Nat) : (s.putRow c r d b).core j = s.core j := rfl
@[simp] theorem putRow_part (s : State) (c r : Nat) (d : Row) (b : Bool) (j : Nat) : (s.putRow c r d b).part j = s.part j := rfl
@[simp] theorem putRow_site (s : State) (c r : Nat) (d : Row) (b : Bool) (j : Nat) : (s.putRow c r d b).site j = s.site j := rfl
@[simp] theorem putRow_fn (s : State) (c r : Nat) (d : Row) (b : Bool) (j : Nat) : (s.putRow c r d b).fn j = s.fn j := rfl
@[simp] theorem putRow_evc (s : State) (c r : Nat) (d : Row) (b : Bool) (j : Nat) : (s.putRow c r d b).evc j = s.evc j := rfl
@[simp] theorem putRow_die (s : State) (c r : Nat) (d : Row) (b : Bool) (j : Nat) : (s.putRow c r d b).die j = s.die j := rfl
@[simp] theorem putRow_edge (s : State) (c r : Nat) (d : Row) (b : Bool) (j : Nat) : (s.putRow c r d b).edge j = s.edge j := rfl
@[simp] theorem putRow_ownerOf (s : State) (c r : Nat) (d : Row) (b : Bool) (c' : Nat) : (s.putRow c r d b).ownerOf c' = s.ownerOf c' := rfl
@[simp] theorem putRow_coresOf (s : State) (c r : Nat) (d : Row) (b : Bool) (p' : Nat) : (s.putRow c r d b).coresOf p' = s.coresOf p' := rfl
@[simp] theorem putRow_extents (s : State) (c r : Nat) (d : Row) (b : Bool) (p' : Nat) : (s.putRow c r d b).extents p' = s.extents p' := rfl
@[simp] theorem poisonRows_regs (s : State) (c r n : Nat) : (s.poisonRows c r n).regs = s.regs := rfl
@[simp] theorem poisonRows_cores (s : State) (c r n : Nat) : (s.poisonRows c r n).cores = s.cores := rfl
@[simp] theorem poisonRows_parts (s : State) (c r n : Nat) : (s.poisonRows c r n).parts = s.parts := rfl
@[simp] theorem poisonRows_sites (s : State) (c r n : Nat) : (s.poisonRows c r n).sites = s.sites := rfl
@[simp] theorem poisonRows_fns (s : State) (c r n : Nat) : (s.poisonRows c r n).fns = s.fns := rfl
@[simp] theorem poisonRows_evcs (s : State) (c r n : Nat) : (s.poisonRows c r n).evcs = s.evcs := rfl
@[simp] theorem poisonRows_dies (s : State) (c r n : Nat) : (s.poisonRows c r n).dies = s.dies := rfl
@[simp] theorem poisonRows_edges (s : State) (c r n : Nat) : (s.poisonRows c r n).edges = s.edges := rfl
@[simp] theorem poisonRows_mod (s : State) (c r n : Nat) : (s.poisonRows c r n).mod = s.mod := rfl
@[simp] theorem poisonRows_flash (s : State) (c r n : Nat) : (s.poisonRows c r n).flash = s.flash := rfl
@[simp] theorem poisonRows_congMap (s : State) (c r n : Nat) : (s.poisonRows c r n).congMap = s.congMap := rfl
@[simp] theorem poisonRows_congHeard (s : State) (c r n : Nat) : (s.poisonRows c r n).congHeard = s.congHeard := rfl
@[simp] theorem poisonRows_spad (s : State) (c r n : Nat) : (s.poisonRows c r n).spad = s.spad := rfl
@[simp] theorem poisonRows_spadChk (s : State) (c r n : Nat) : (s.poisonRows c r n).spadChk = s.spadChk := rfl
@[simp] theorem poisonRows_dram (s : State) (c r n : Nat) : (s.poisonRows c r n).dram = s.dram := rfl
@[simp] theorem poisonRows_blk (s : State) (c r n : Nat) : (s.poisonRows c r n).blk = s.blk := rfl
@[simp] theorem poisonRows_recv (s : State) (c r n : Nat) : (s.poisonRows c r n).recv = s.recv := rfl
@[simp] theorem poisonRows_image (s : State) (c r n : Nat) : (s.poisonRows c r n).image = s.image := rfl
@[simp] theorem poisonRows_health (s : State) (c r n : Nat) : (s.poisonRows c r n).health = s.health := rfl
@[simp] theorem poisonRows_net (s : State) (c r n : Nat) : (s.poisonRows c r n).net = s.net := rfl
@[simp] theorem poisonRows_ctl (s : State) (c r n : Nat) : (s.poisonRows c r n).ctl = s.ctl := rfl
@[simp] theorem poisonRows_evNet (s : State) (c r n : Nat) : (s.poisonRows c r n).evNet = s.evNet := rfl
@[simp] theorem poisonRows_evSeq (s : State) (c r n : Nat) : (s.poisonRows c r n).evSeq = s.evSeq := rfl
@[simp] theorem poisonRows_conns (s : State) (c r n : Nat) : (s.poisonRows c r n).conns = s.conns := rfl
@[simp] theorem poisonRows_klRx (s : State) (c r n : Nat) : (s.poisonRows c r n).klRx = s.klRx := rfl
@[simp] theorem poisonRows_heard (s : State) (c r n : Nat) : (s.poisonRows c r n).heard = s.heard := rfl
@[simp] theorem poisonRows_fab (s : State) (c r n : Nat) : (s.poisonRows c r n).fab = s.fab := rfl
@[simp] theorem poisonRows_out (s : State) (c r n : Nat) : (s.poisonRows c r n).out = s.out := rfl
@[simp] theorem poisonRows_now (s : State) (c r n : Nat) : (s.poisonRows c r n).now = s.now := rfl
@[simp] theorem poisonRows_freeCtr (s : State) (c r n : Nat) : (s.poisonRows c r n).freeCtr = s.freeCtr := rfl
@[simp] theorem poisonRows_pending (s : State) (c r n : Nat) : (s.poisonRows c r n).pending = s.pending := rfl
@[simp] theorem poisonRows_reg (s : State) (c r n : Nat) (r' : Reg) (i' : Nat) : (s.poisonRows c r n).reg r' i' = s.reg r' i' := rfl
@[simp] theorem poisonRows_getF (s : State) (c r n : Nat) (g : RF) (i' : Nat) : (s.poisonRows c r n).getF g i' = s.getF g i' := rfl
@[simp] theorem poisonRows_core (s : State) (c r n : Nat) (j : Nat) : (s.poisonRows c r n).core j = s.core j := rfl
@[simp] theorem poisonRows_part (s : State) (c r n : Nat) (j : Nat) : (s.poisonRows c r n).part j = s.part j := rfl
@[simp] theorem poisonRows_site (s : State) (c r n : Nat) (j : Nat) : (s.poisonRows c r n).site j = s.site j := rfl
@[simp] theorem poisonRows_fn (s : State) (c r n : Nat) (j : Nat) : (s.poisonRows c r n).fn j = s.fn j := rfl
@[simp] theorem poisonRows_evc (s : State) (c r n : Nat) (j : Nat) : (s.poisonRows c r n).evc j = s.evc j := rfl
@[simp] theorem poisonRows_die (s : State) (c r n : Nat) (j : Nat) : (s.poisonRows c r n).die j = s.die j := rfl
@[simp] theorem poisonRows_edge (s : State) (c r n : Nat) (j : Nat) : (s.poisonRows c r n).edge j = s.edge j := rfl
@[simp] theorem poisonRows_ownerOf (s : State) (c r n : Nat) (c' : Nat) : (s.poisonRows c r n).ownerOf c' = s.ownerOf c' := rfl
@[simp] theorem poisonRows_coresOf (s : State) (c r n : Nat) (p' : Nat) : (s.poisonRows c r n).coresOf p' = s.coresOf p' := rfl
@[simp] theorem poisonRows_extents (s : State) (c r n : Nat) (p' : Nat) : (s.poisonRows c r n).extents p' = s.extents p' := rfl
@[simp] theorem poisonRows_row (s : State) (c r n : Nat) (c' r' : Nat) : (s.poisonRows c r n).row c' r' = s.row c' r' := rfl
end State

/-! ### Registers -/
theorem Reg.idx_inj {r r' : Reg} (h : r.idx = r'.idx) : r = r' := by
  have key : ∀ a : Reg, Reg.all[a.idx]? = some a := by intro a; cases a <;> rfl
  have := key r; rw [h, key r'] at this; exact (Option.some.inj this).symm
theorem Reg.idx_lt (r : Reg) : r.idx < 256 := by cases r <;> decide
theorem Reg.key_inj {r r' : Reg} {i i' : Nat} : r.key i = r'.key i' ↔ r = r' ∧ i = i' := by
  constructor
  · intro h
    have h1 := r.idx_lt; have h2 := r'.idx_lt
    unfold Reg.key at h
    exact ⟨Reg.idx_inj (by omega), by omega⟩
  · rintro ⟨rfl, rfl⟩; rfl
/-- Writing a register changes that register alone. -/
theorem reg_setReg (s : State) (r r' : Reg) (i i' : Nat) (v : Word) :
    (s.setReg r i v).reg r' i' = if r' = r ∧ i' = i then v else s.reg r' i' := by
  simp only [State.reg, State.setReg, Tab.get_put, Reg.key_inj]
@[simp] theorem reg_setReg_same (s : State) (r : Reg) (i : Nat) (v : Word) : (s.setReg r i v).reg r i = v := by simp [reg_setReg]
theorem reg_setReg_ne (s : State) {r r' : Reg} (i i' : Nat) (v : Word) (h : r' ≠ r ∨ i' ≠ i) :
    (s.setReg r i v).reg r' i' = s.reg r' i' := by
  rw [reg_setReg, if_neg]; tauto
theorem reg_setF_ne (s : State) (f : RF) {r' : Reg} (i i' v : Nat) (h : r' ≠ f.reg ∨ i' ≠ i) :
    (s.setF f i v).reg r' i' = s.reg r' i' := reg_setReg_ne s i i' _ h
/-- The field lies in a 64-bit word. -/
def RF.ok (f : RF) : Bool := decide (f.lo + f.len ≤ 64)
/-- Two fields share no bit: other registers, or other places of one register. -/
def RF.apart (f g : RF) : Bool :=
  decide (f.reg ≠ g.reg) || (f.ok && (decide (g.lo + g.len ≤ f.lo) || decide (f.lo + f.len ≤ g.lo)))
/-- A field reads the value it was set to, cut to its width. -/
theorem getF_setF_same (s : State) (f : RF) (i v : Nat) (h : f.ok = true) : (s.setF f i v).getF f i = v % 2 ^ f.len := by
  simp only [State.getF, State.setF, reg_setReg_same]
  exact bits_setBits_same _ _ _ _ (by simpa [RF.ok] using h)
/-- Setting a field of one unit leaves that field of the others alone. -/
theorem getF_setF_unit (s : State) (f g : RF) {i j : Nat} (v : Nat) (h : j ≠ i) : (s.setF f i v).getF g j = s.getF g j := by
  simp only [State.getF]; rw [reg_setF_ne]; exact Or.inr h
/-- Setting a field leaves every field apart from it alone. -/
theorem getF_setF_apart (s : State) (f g : RF) (i j v : Nat) (h : f.apart g = true) : (s.setF f i v).getF g j = s.getF g j := by
  simp only [RF.apart, RF.ok, Bool.or_eq_true, Bool.and_eq_true, decide_eq_true_eq] at h
  by_cases hr : f.reg = g.reg
  · by_cases hi : j = i
    · subst hi
      rcases h with h | h
      · exact absurd hr h
      · simp only [State.getF, State.setF, ← hr, reg_setReg_same]
        exact bits_setBits_ne _ _ _ _ _ _ h.1 h.2
    · exact getF_setF_unit s f g v hi
  · simp only [State.getF]; rw [reg_setF_ne]; exact Or.inl (Ne.symm hr)
theorem getF_setReg_ne (s : State) {r : Reg} (g : RF) (i j : Nat) (v : Word) (h : g.reg ≠ r ∨ j ≠ i) :
    (s.setReg r i v).getF g j = s.getF g j := by simp only [State.getF]; rw [reg_setReg_ne]; exact h
/-- A field is below two to its width. -/
theorem getF_lt (s : State) (f : RF) (i : Nat) : s.getF f i < 2 ^ f.len := Nat.mod_lt _ (by positivity)
/-- A tally grows by what is added and saturates (R68). -/
theorem getF_bumpF_same (s : State) (f : RF) (i n : Nat) (h : f.ok = true) :
    (s.bumpF f i n).getF f i = min (s.getF f i + n) (2 ^ f.len - 1) := by
  unfold State.bumpF
  rw [getF_setF_same s f i _ h]
  exact Nat.mod_eq_of_lt (by unfold satAdd; have : 0 < 2 ^ f.len := by positivity
                             omega)
theorem getF_bumpF_apart (s : State) (f g : RF) (i j n : Nat) (h : f.apart g = true) : (s.bumpF f i n).getF g j = s.getF g j :=
  getF_setF_apart s f g i j _ h
theorem getF_setB_same (s : State) (f : RF) (i : Nat) (b : Bool) (h : f.ok = true) (hl : 0 < f.len) :
    (s.setB f i b).getF f i = if b then 1 else 0 := by
  unfold State.setB; rw [getF_setF_same s f i _ h]
  have : 2 ≤ 2 ^ f.len := by calc 2 = 2 ^ 1 := rfl
                                _ ≤ 2 ^ f.len := Nat.pow_le_pow_right (by omega) hl
  split <;> exact Nat.mod_eq_of_lt (by omega)
theorem getF_setB_apart (s : State) (f g : RF) (i j : Nat) (b : Bool) (h : f.apart g = true) : (s.setB f i b).getF g j = s.getF g j :=
  getF_setF_apart s f g i j _ h

/-! ### Units -/
@[simp] theorem core_setCore_same (s : State) (k : Nat) (v : CoreSt) : (s.setCore k v).core k = v := by simp [State.core, State.setCore]
@[simp] theorem core_setCore_ne (s : State) {k j : Nat} (v : CoreSt) (h : j ≠ k) : (s.setCore k v).core j = s.core j := by
  simp [State.core, State.setCore, h]
@[simp] theorem core_modCore_same (s : State) (k : Nat) (f : CoreSt → CoreSt) : (s.modCore k f).core k = f (s.core k) := by
  simp [State.modCore]
@[simp] theorem core_modCore_ne (s : State) {k j : Nat} (f : CoreSt → CoreSt) (h : j ≠ k) : (s.modCore k f).core j = s.core j := by
  simp [State.modCore, h]
@[simp] theorem part_setPart_same (s : State) (k : Nat) (v : PartSt) : (s.setPart k v).part k = v := by simp [State.part, State.setPart]
@[simp] theorem part_setPart_ne (s : State) {k j : Nat} (v : PartSt) (h : j ≠ k) : (s.setPart k v).part j = s.part j := by
  simp [State.part, State.setPart, h]
@[simp] theorem part_modPart_same (s : State) (k : Nat) (f : PartSt → PartSt) : (s.modPart k f).part k = f (s.part k) := by
  simp [State.modPart]
@[simp] theorem part_modPart_ne (s : State) {k j : Nat} (f : PartSt → PartSt) (h : j ≠ k) : (s.modPart k f).part j = s.part j := by
  simp [State.modPart, h]
@[simp] theorem site_setSite_same (s : State) (k : Nat) (v : SiteSt) : (s.setSite k v).site k = v := by simp [State.site, State.setSite]
@[simp] theorem site_setSite_ne (s : State) {k j : Nat} (v : SiteSt) (h : j ≠ k) : (s.setSite k v).site j = s.site j := by
  simp [State.site, State.setSite, h]
@[simp] theorem site_modSite_same (s : State) (k : Nat) (f : SiteSt → SiteSt) : (s.modSite k f).site k = f (s.site k) := by
  simp [State.modSite]
@[simp] theorem site_modSite_ne (s : State) {k j : Nat} (f : SiteSt → SiteSt) (h : j ≠ k) : (s.modSite k f).site j = s.site j := by
  simp [State.modSite, h]
@[simp] theorem fn_setFn_same (s : State) (k : Nat) (v : FnSt) : (s.setFn k v).fn k = v := by simp [State.fn, State.setFn]
@[simp] theorem fn_setFn_ne (s : State) {k j : Nat} (v : FnSt) (h : j ≠ k) : (s.setFn k v).fn j = s.fn j := by
  simp [State.fn, State.setFn, h]
@[simp] theorem fn_modFn_same (s : State) (k : Nat) (f : FnSt → FnSt) : (s.modFn k f).fn k = f (s.fn k) := by
  simp [State.modFn]
@[simp] theorem fn_modFn_ne (s : State) {k j : Nat} (f : FnSt → FnSt) (h : j ≠ k) : (s.modFn k f).fn j = s.fn j := by
  simp [State.modFn, h]
@[simp] theorem evc_setEvc_same (s : State) (k : Nat) (v : EvcSt) : (s.setEvc k v).evc k = v := by simp [State.evc, State.setEvc]
@[simp] theorem evc_setEvc_ne (s : State) {k j : Nat} (v : EvcSt) (h : j ≠ k) : (s.setEvc k v).evc j = s.evc j := by
  simp [State.evc, State.setEvc, h]
@[simp] theorem evc_modEvc_same (s : State) (k : Nat) (f : EvcSt → EvcSt) : (s.modEvc k f).evc k = f (s.evc k) := by
  simp [State.modEvc]
@[simp] theorem evc_modEvc_ne (s : State) {k j : Nat} (f : EvcSt → EvcSt) (h : j ≠ k) : (s.modEvc k f).evc j = s.evc j := by
  simp [State.modEvc, h]
@[simp] theorem die_setDie_same (s : State) (k : Nat) (v : DieSt) : (s.setDie k v).die k = v := by simp [State.die, State.setDie]
@[simp] theorem die_setDie_ne (s : State) {k j : Nat} (v : DieSt) (h : j ≠ k) : (s.setDie k v).die j = s.die j := by
  simp [State.die, State.setDie, h]
@[simp] theorem die_modDie_same (s : State) (k : Nat) (f : DieSt → DieSt) : (s.modDie k f).die k = f (s.die k) := by
  simp [State.modDie]
@[simp] theorem die_modDie_ne (s : State) {k j : Nat} (f : DieSt → DieSt) (h : j ≠ k) : (s.modDie k f).die j = s.die j := by
  simp [State.modDie, h]
@[simp] theorem edge_setEdge_same (s : State) (k : Nat) (v : EdgeSt) : (s.setEdge k v).edge k = v := by simp [State.edge, State.setEdge]
@[simp] theorem edge_setEdge_ne (s : State) {k j : Nat} (v : EdgeSt) (h : j ≠ k) : (s.setEdge k v).edge j = s.edge j := by
  simp [State.edge, State.setEdge, h]
@[simp] theorem edge_modEdge_same (s : State) (k : Nat) (f : EdgeSt → EdgeSt) : (s.modEdge k f).edge k = f (s.edge k) := by
  simp [State.modEdge]
@[simp] theorem edge_modEdge_ne (s : State) {k j : Nat} (f : EdgeSt → EdgeSt) (h : j ≠ k) : (s.modEdge k f).edge j = s.edge j := by
  simp [State.modEdge, h]
@[simp] theorem emit_out (s : State) (o : Out) : (s.emit o).out = s.out ++ [o] := rfl
@[simp] theorem modMod_mod (s : State) (f : ModSt → ModSt) : (s.modMod f).mod = f s.mod := rfl
/-- A row written is the row read; every other row is untouched (R45). -/
theorem row_putRow (s : State) (c r c' r' : Nat) (d : Row) (b : Bool) (hr : r < 262144) (hr' : r' < 262144) :
    (s.putRow c r d b).row c' r' = if c' = c ∧ r' = r then d else s.row c' r' := by
  split
  · rename_i h; obtain ⟨rfl, rfl⟩ := h
    simp [State.row, State.putRow]
  · simp only [State.row, State.putRow]
    refine Memory.readRow_writeRow_ne _ _ _ _ ?_
    unfold spadKey; omega
/-- A row written takes the write's poison. -/
theorem rowPoison_putRow (s : State) (c r c' r' : Nat) (d : Row) (b : Bool) (hr : r < 262144) (hr' : r' < 262144) :
    (s.putRow c r d b).rowPoison c' r' = if c' = c ∧ r' = r then b else s.rowPoison c' r' := by
  have hk : (c' * 2 ^ 18 + r' = c * 2 ^ 18 + r) ↔ (c' = c ∧ r' = r) := by omega
  simp only [State.rowPoison, State.putRow]
  cases b
  · simp only [Bool.false_eq_true, ↓reduceIte, NSet.contains_del, ne_eq, hk]; split <;> simp_all
  · simp only [↓reduceIte, NSet.contains_add, hk]; split <;> simp_all

end Sys2Proof.Machine
end

