-- ==== Sys2Proof/Laws/Ops.lean ====
section
/-! SUPPORT. What each shared operation can do: events, the fault policy, dispatch, the sequencer's advance. -/
namespace Sys2Proof.Machine
open Host

/-- Going through a list with an update keeps what each update keeps. -/
theorem foldl_keeps {α : Type} (P : State → Prop) (f : State → α → State) (h : ∀ s a, P s → P (f s a)) (l : List α) (s : State)
    (hs : P s) : P (l.foldl f s) := by
  induction l generalizing s with
  | nil => exact hs
  | cons a t ih => exact ih _ (h s a hs)
theorem forAll_keeps {α : Type} (P : State → Prop) (f : State → α → State) (h : ∀ s a, P s → P (f s a)) (l : List α) (s : State)
    (hs : P s) : P (s.forAll l f) := foldl_keeps P f h l s hs

/-- Registers that the fault policy writes: the partition's state, the status of running cores, the floor plan's generations. -/
def faultRegs : List Reg := [.partState, .seqStatus, .modFpGen, .partFpGen]
/-- The fault policy and the events change event queues, holds, recoveries, the partition's state, the floor plan's generations and the status of
running cores, and nothing else. -/
def State.faultOnly (s t : State) : Prop :=
  t = { s with regs := t.regs, cores := t.cores, parts := t.parts, ctl := t.ctl, fab := t.fab, evSeq := t.evSeq, evNet := t.evNet } ∧
  (∀ r i, r ∉ faultRegs → t.reg r i = s.reg r i) ∧
  (∀ i, s.getF F.seqStatus_state i ≠ stRunning → t.reg .seqStatus i = s.reg .seqStatus i) ∧
  (∀ c, t.core c = { s.core c with state := (t.core c).state, epochFail := (t.core c).epochFail })
theorem State.faultOnly.refl (s : State) : s.faultOnly s := ⟨rfl, fun _ _ _ => rfl, fun _ _ => rfl, fun _ => rfl⟩
theorem State.faultOnly.trans {s t u : State} (h : s.faultOnly t) (k : t.faultOnly u) : s.faultOnly u := by
  obtain ⟨h1, h2, h3, h4⟩ := h
  obtain ⟨k1, k2, k3, k4⟩ := k
  refine ⟨by rw [k1, h1], fun r i a => (k2 r i a).trans (h2 r i a), fun i hi => ?_, fun c => ?_⟩
  · have hs := h3 i hi
    refine (k3 i ?_).trans hs
    simp only [State.getF] at hi ⊢
    rwa [show t.reg F.seqStatus_state.reg i = s.reg F.seqStatus_state.reg i from hs]
  · rw [k4 c, h4 c]
theorem record_faultOnly (s : State) (e : Ev) (a b c d : Nat) : s.faultOnly (s.record e a b c d) :=
  ⟨rfl, fun _ _ _ => rfl, fun _ _ => rfl, fun _ => rfl⟩
theorem raise_faultOnly (s : State) (e : Ev) (a : Nat) (p : Option Nat) (d : Nat) : s.faultOnly (s.raise e a p d) := by
  unfold State.raise
  cases p with
  | none => simp only; split
            · exact record_faultOnly ..
            · exact .refl s
  | some k =>
    simp only; split <;> split
    all_goals first
      | exact (record_faultOnly ..).trans (record_faultOnly ..)
      | exact record_faultOnly ..
      | exact .refl s
theorem modPart_faultOnly (s : State) (p : Nat) (f : PartSt → PartSt) : s.faultOnly (s.modPart p f) :=
  ⟨rfl, fun _ _ _ => rfl, fun _ _ => rfl, fun _ => rfl⟩
theorem send_faultOnly (s : State) (m : CtlMsg) (a b c : Nat) : s.faultOnly (s.send m a b c) :=
  ⟨rfl, fun _ _ _ => rfl, fun _ _ => rfl, fun _ => rfl⟩
/-- A write to one of those registers but seqStatus. -/
theorem setF_faultOnly (s : State) (f : RF) (i v : Nat) (h : f.reg ∈ faultRegs) (h' : f.reg ≠ .seqStatus) : s.faultOnly (s.setF f i v) :=
  ⟨rfl, fun _ _ hr => reg_setF_ne s _ _ _ _ (Or.inl (fun e => hr (e ▸ h))), fun _ _ => reg_setF_ne s _ _ _ _ (Or.inl (fun e => h' e.symm)),
    fun _ => rfl⟩
theorem setPartState_faultOnly (s : State) (p v : Nat) : s.faultOnly (s.setF F.partState_state p v) :=
  setF_faultOnly s _ _ _ (by decide) (by decide)
theorem rebuildView_faultOnly (s : State) (p : Nat) : s.faultOnly (s.rebuildView p) := by
  unfold State.rebuildView
  exact ((setF_faultOnly s F.partFpGen_busy p 0 (by decide) (by decide)).trans
    (setF_faultOnly _ F.partFpGen_count p _ (by decide) (by decide))).trans (record_faultOnly ..)
/-- A rebuild of the floor plan writes its generations and raises its events (R32). -/
theorem rebuild_faultOnly (s : State) : s.faultOnly s.rebuild := by
  unfold State.rebuild; split
  · exact .refl s
  · refine forAll_keeps (fun t => s.faultOnly t) _ (fun t p h => h.trans (rebuildView_faultOnly t p)) _ _ ?_
    exact ((setF_faultOnly s F.modFpGen_busy 0 0 (by decide) (by decide)).trans
      (setF_faultOnly _ F.modFpGen_count 0 _ (by decide) (by decide))).trans (record_faultOnly ..)
theorem modCore_faultOnly (s : State) (c : Nat) (f : CoreSt → CoreSt)
    (h : ∀ q, f q = { q with state := (f q).state, epochFail := (f q).epochFail }) : s.faultOnly (s.modCore c f) := by
  refine ⟨rfl, fun _ _ _ => rfl, fun _ _ => rfl, fun d => ?_⟩
  by_cases hd : d = c
  · subst hd; simpa using h (s.core d)
  · simp [hd]
theorem stopPart_faultOnly (s : State) (p : Nat) (b : Bool) : s.faultOnly (s.stopPart p b) := by
  unfold State.stopPart; dsimp only
  generalize (if b = true then 3 else 2) = k
  split
  · exact (((modPart_faultOnly ..).trans (send_faultOnly ..)).trans (setPartState_faultOnly ..)).trans (raise_faultOnly ..)
  · exact (modPart_faultOnly ..).trans (send_faultOnly ..)
/-- A recovery hold sends one message and holds the cores that run (R354). -/
theorem holdPart_faultOnly (s : State) (p : Nat) : s.faultOnly (s.holdPart p) := by
  unfold State.holdPart
  refine forAll_keeps (fun t => s.faultOnly t) _ ?_ _ _ (send_faultOnly ..)
  intro t k ht; split
  · rename_i hk
    refine ht.trans ⟨rfl, fun _ i h => reg_setF_ne t _ _ _ _ (Or.inl (fun e => h (e ▸ by decide))), fun i hi => ?_, fun _ => rfl⟩
    exact reg_setF_ne t _ _ _ _ (Or.inr (fun h => hi (h ▸ hk)))
  · exact ht
theorem newFault_faultOnly (s : State) (p : Nat) (r : Recovery) : s.faultOnly (s.newFault p r) := by
  unfold State.newFault; exact modPart_faultOnly ..
theorem recover_faultOnly (s : State) (p c : Nat) (e : Ev) (d : Nat) : s.faultOnly (s.recover p c e d) := by
  unfold State.recover; split
  · exact .refl s
  · refine State.faultOnly.trans (State.faultOnly.trans ?_ (modCore_faultOnly _ _ _ (fun _ => rfl))) (rebuild_faultOnly _)
    split
    · exact (newFault_faultOnly ..).trans (holdPart_faultOnly ..)
    · exact modPart_faultOnly ..
theorem policy_faultOnly (s : State) (p c : Nat) (e : Ev) (d : Nat) : s.faultOnly (s.policy p c e d) := by
  unfold State.policy; split
  · exact .refl s
  · split
    · exact stopPart_faultOnly ..
    · dsimp only; split
      · exact stopPart_faultOnly ..
      · split
        · exact (modPart_faultOnly ..).trans (recover_faultOnly ..)
        · exact recover_faultOnly ..
    · split
      · exact modCore_faultOnly _ _ _ (fun _ => rfl)
      · exact .refl s
/-- Raising a fault of a core does no more than the events and the policy do (R345, R346). -/
theorem fault_faultOnly (s : State) (c : Nat) (e : Ev) (d : Nat) : s.faultOnly (s.fault c e d) := by
  unfold State.fault; dsimp only; split
  · exact (raise_faultOnly ..).trans (policy_faultOnly ..)
  · exact raise_faultOnly ..
theorem State.faultOnly.getF {s t : State} (h : s.faultOnly t) (g : RF) (i : Nat) (hg : g.reg ∉ faultRegs) : t.getF g i = s.getF g i := by
  simp only [State.getF]; rw [h.2.1 _ _ hg]
theorem State.faultOnly.memory {s t : State} (h : s.faultOnly t) : s.sameMemory t := by rw [h.1]; exact ⟨rfl, rfl, rfl, rfl, rfl, rfl⟩

/-- A log register write changes registers alone. -/
theorem logF_eq (s : State) (f : RF) (i v : Nat) : s.logF f i v = { s with regs := (s.logF f i v).regs } := by
  unfold State.logF; split <;> rfl
/-- A ready instruction goes on to its own effect. -/
theorem dispatch_ready {s : State} {c : Nat} {w : Word} {o : Obs} {e d : Bool} {k : State → State} (h : s.ready c w e d) :
    s.dispatch c w o e d k = k (s.taken c o) := by
  obtain ⟨h1, h0, h2, h3, h4, h5⟩ := h
  unfold State.dispatch
  rw [if_neg (by simp [h1]), if_neg (by rcases h0 with h0 | h0 <;> simp [h0]), if_neg (by simp; intro a; have := h2; simp at this; exact this a),
    if_neg (by simp; exact h3), if_neg (by simp [h4, h5])]
/-- Once it dispatches, a core waits at nothing. -/
@[simp] theorem unhold_held (s : State) (c : Nat) : ((s.unhold c).core c).held = none := by
  unfold State.unhold; split
  · rename_i h; simpa using h
  · simp
/-- Dispatch changes the count of cycles spent on fetches and what the core waits at, and nothing else. -/
theorem taken_coreOnly (s : State) (c : Nat) (o : Obs) : s.coreOnly (s.taken c o) c [.seqFetchStall] := by
  unfold State.taken State.fetchWait State.unhold
  refine ⟨by split <;> split <;> rfl, fun r i => ?_, fun d hd => by split <;> split <;> simp [hd]⟩
  split <;> split
  · exact Or.inl rfl
  · exact Or.inl rfl
  all_goals by_cases h : r = .seqFetchStall ∧ i = c
  all_goals first
    | exact Or.inr ⟨h.2, by simp [h.1]⟩
    | exact Or.inl (reg_setF_ne s F.seqFetchStall_cycles _ _ _ (by show r ≠ .seqFetchStall ∨ i ≠ c; tauto))

theorem closeLoops_goto (s : State) (c pc : Nat) (ls : List Loop) (b : Bool) :
    (s.goto c pc ls b).getF F.seqPc_addr c = (closeLoops pc ls).1 % 2 ^ 48 ∧
    (s.goto c pc ls b).core c = { s.core c with loops := (closeLoops pc ls).2, afterStep := b } ∧
    s.coreOnly (s.goto c pc ls b) c [.seqPc] := by
  unfold State.goto
  refine ⟨getF_setF_same _ _ _ _ (by decide), by simp, rfl, fun r i => ?_, fun d hd => by simp [hd]⟩
  by_cases h : r = .seqPc ∧ i = c
  · right; simp [h]
  · left; rw [reg_setF_ne _ F.seqPc_addr _ _ _ (by show r ≠ .seqPc ∨ i ≠ c; tauto)]; rfl
/-- Advancing moves the pc and the open bodies, and nothing else. -/
theorem advance_movedOn (s : State) (c n : Nat) : s.movedOn (s.advance c n) c n ∧ s.coreOnly (s.advance c n) c [.seqPc] := by
  have h := closeLoops_goto s c (s.getF F.seqPc_addr c + 8 * n) (s.core c).loops false
  unfold State.advance State.movedOn
  exact ⟨⟨h.1, by rw [h.2.1]⟩, h.2.2⟩

/-- What an instruction fault does (R107). -/
theorem instrFault_faulted (s : State) (c k : Nat) (hk : k < 16) : s.faultedWith (s.instrFault c k) c k := by
  unfold State.instrFault
  set w := k + s.getF F.seqPc_addr c <<< 4
  set u := (s.logF F.seqFault_valid c w).setF F.seqStatus_state c stStopped with hu
  have hf := fault_faultOnly u c .seqFault (w + 2 ^ 63)
  set t := u.fault c .seqFault (w + 2 ^ 63)
  have hst : u.getF F.seqStatus_state c = stStopped := by
    rw [hu, getF_setF_same _ _ _ _ (by decide)]; decide
  have hreg : ∀ i, t.reg .seqFault i = u.reg .seqFault i := fun i => hf.2.1 _ _ (by decide)
  have hur : ∀ r i, r ≠ .seqStatus → u.reg r i = (s.logF F.seqFault_valid c w).reg r i := fun r i h =>
    reg_setF_ne _ F.seqStatus_state _ _ _ (Or.inl h)
  have hl : ∀ r i, r ≠ .seqFault → (s.logF F.seqFault_valid c w).reg r i = s.reg r i := by
    intro r i h; unfold State.logF; split
    · rfl
    · exact reg_setReg_ne _ _ _ _ (Or.inl h)
  have hpc : s.getF F.seqPc_addr c < 2 ^ 48 := getF_lt ..
  refine ⟨?_, ?_, fun hv => ?_, fun hv => ?_, ?_⟩
  · simp only [State.getF] at hst ⊢
    rw [show t.reg F.seqStatus_state.reg c = u.reg F.seqStatus_state.reg c from hf.2.2.1 c (by
      simp only [State.getF]; rw [hst]; decide)]; exact hst
  · rw [hf.getF _ _ (by decide)]
    simp only [State.getF]; rw [hur _ _ (by decide), hl _ _ (by decide)]
  · have e : t.reg .seqFault c = BitVec.ofNat 64 (w + 2 ^ 63) := by
      rw [hreg, hur _ _ (by decide)]; unfold State.logF
      rw [if_neg (by simp [State.flagF, hv])]; exact reg_setReg_same ..
    have hx : w = k + s.getF F.seqPc_addr c * 2 ^ 4 := Nat.shiftLeft_eq .. ▸ rfl
    clear_value w
    have ht : (t.reg .seqFault c).toNat = w + 2 ^ 63 := by
      rw [e, BitVec.toNat_ofNat]; exact Nat.mod_eq_of_lt (by omega)
    refine ⟨?_, ?_, ?_⟩
    · show ((t.reg .seqFault c).toNat >>> 63) % 2 ^ 1 = 1
      rw [ht, Nat.shiftRight_eq_div_pow]; omega
    · show ((t.reg .seqFault c).toNat >>> 0) % 2 ^ 4 = k
      rw [ht, Nat.shiftRight_eq_div_pow]; omega
    · show ((t.reg .seqFault c).toNat >>> 4) % 2 ^ 48 = _
      rw [ht, Nat.shiftRight_eq_div_pow]; omega
  · rw [hreg, hur _ _ (by decide)]; unfold State.logF
    rw [if_pos (by simp [State.flagF, hv])]
  · obtain ⟨m1, m2, m3, m4, m5, m6⟩ := hf.memory
    have hm : u = { s with regs := u.regs } := by rw [hu, logF_eq]; rfl
    rw [hm] at m1 m2 m3 m4 m5 m6
    exact ⟨m1, m2, m3, m4, m5, m6⟩

end Sys2Proof.Machine
end

