-- ==== Sys2Proof/Laws/Memory.lean ====
section
/-! SUPPORT. What the operations on scratchpads and DRAM can do: rows read after rows written, and the canonical form kept. -/
namespace Sys2Proof.Machine
open Host

/-! ### Scratchpad rows -/
@[simp] theorem row_putRow_same (s : State) (c r : Nat) (d : Row) (p : Bool) : (s.putRow c r d p).row c r = d :=
  Memory.readRow_writeRow _ _ _
/-- Another row is untouched; a row address is below 2^18. -/
theorem row_putRow_ne (s : State) (c r c' r' : Nat) (d : Row) (p : Bool) (hr : r < 262144) (hr' : r' < 262144) (h : c' ≠ c ∨ r' ≠ r) :
    (s.putRow c r d p).row c' r' = s.row c' r' := by
  apply Memory.readRow_writeRow_ne
  unfold spadKey
  omega
@[simp] theorem rowPoison_putRow_same (s : State) (c r : Nat) (d : Row) (p : Bool) : (s.putRow c r d p).rowPoison c r = p := by
  unfold State.rowPoison State.putRow
  cases p
  · exact (NSet.contains_del _ _ _).trans (by simp)
  · exact (NSet.contains_add _ _ _).trans (by simp)
theorem rowPoison_putRow_ne (s : State) (c r c' r' : Nat) (d : Row) (p : Bool) (hr : r < 262144) (hr' : r' < 262144) (h : c' ≠ c ∨ r' ≠ r) :
    (s.putRow c r d p).rowPoison c' r' = s.rowPoison c' r' := by
  have e : c' * 2 ^ 18 + r' ≠ c * 2 ^ 18 + r := by omega
  unfold State.rowPoison State.putRow
  cases p
  · exact (NSet.contains_del _ _ _).trans (by rw [decide_eq_true e, Bool.true_and])
  · exact (NSet.contains_add _ _ _).trans (by rw [decide_eq_false e, Bool.false_or])

/-! ### The canonical form -/
theorem putRow_memWf (s : State) (c r : Nat) (d : Row) (p : Bool) (h : s.memWf) : (s.putRow c r d p).memWf :=
  ⟨Memory.wf_writeRow _ _ _ h.1, h.2⟩
theorem putRows_memWf (l : List Row) (s : State) (c r : Nat) (p : Bool) (h : s.memWf) : (s.putRows c r l p).memWf := by
  induction l generalizing s r with
  | nil => exact h
  | cons d t ih => exact ih _ _ (putRow_memWf s c r d p h)
theorem putSpan_memWf (s : State) (c a n v : Nat) (p : Bool) (seen : NSet) (h : s.memWf) : (s.putSpan c a n v p seen).memWf :=
  foldl_keeps State.memWf _ (fun t _ ht => putRow_memWf t _ _ _ _ ht) _ s h
theorem poisonRows_memWf (s : State) (c r n : Nat) (h : s.memWf) : (s.poisonRows c r n).memWf := h
/-- What leaves scratchpads and DRAM alone keeps their form. -/
theorem memWf_of_same {s t : State} (h : s.memWf) (a : t.spad = s.spad) (b : t.dram = s.dram) : t.memWf := by
  unfold State.memWf
  rw [a, b]
  exact h
theorem sameMemory_memWf {s t : State} (k : s.sameMemory t) (h : s.memWf) : t.memWf := memWf_of_same h k.1 k.2.2.2.1
/-- Scratchpads and DRAM hold the same bytes. -/
def State.sameSpace (s t : State) : Prop := t.spad = s.spad ∧ t.dram = s.dram
theorem State.sameSpace.refl (s : State) : s.sameSpace s := ⟨rfl, rfl⟩
theorem State.sameSpace.trans {s t u : State} (h : s.sameSpace t) (k : t.sameSpace u) : s.sameSpace u := ⟨k.1.trans h.1, k.2.trans h.2⟩
theorem State.sameSpace.memWf {s t : State} (h : s.sameSpace t) (k : s.memWf) : t.memWf := memWf_of_same k h.1 h.2
theorem State.faultOnly.space {s t : State} (h : s.faultOnly t) : s.sameSpace t := ⟨h.memory.1, h.memory.2.2.2.1⟩
/-- Going through a list with an update that leaves the bytes alone. -/
theorem forAll_space {α : Type} (f : State → α → State) (h : ∀ (t : State) (a : α), t.sameSpace (f t a)) (l : List α) (s : State) :
    s.sameSpace (s.forAll l f) := forAll_keeps (fun t => s.sameSpace t) f (fun t a k => k.trans (h t a)) l s (.refl s)
theorem setF_space (s : State) (f : RF) (i v : Nat) : s.sameSpace (s.setF f i v) := ⟨rfl, rfl⟩
theorem setB_space (s : State) (f : RF) (i : Nat) (b : Bool) : s.sameSpace (s.setB f i b) := ⟨rfl, rfl⟩
theorem raise_space (s : State) (e : Ev) (a : Nat) (p : Option Nat) (d : Nat) : s.sameSpace (s.raise e a p d) := (raise_faultOnly ..).space
theorem showDie_space (s : State) (d : Nat) : s.sameSpace (s.showDie d) := by
  unfold State.showDie
  exact (setF_space s _ _ _).trans (forAll_space _ (fun t c => setF_space t _ _ _) _ _)
theorem applyCore_space (s : State) (c n : Nat) : s.sameSpace (s.applyCore c n) := by
  unfold State.applyCore
  have k : ∀ f, s.sameSpace (s.modCore c f) := fun f => ⟨rfl, rfl⟩
  have k := k (fun q => { q with state := if 2 ≤ q.state then q.state else if n = 0 then 0 else if n = 3 then 4 else 1
                                 derateV := if n = 1 ∨ n = 2 then 1 else 0
                                 derateD := if n = 2 then 1 else 0 })
  generalize s.modCore c _ = t at k ⊢
  dsimp only
  cases t.ownerOf c with
  | none => exact k.trans (setF_space ..)
  | some p => exact iteInduction (motive := fun u => s.sameSpace u) (fun _ => k) (fun _ => k.trans (setF_space ..))
theorem shedPhase_space (s : State) (d k : Nat) : s.sameSpace (s.shedPhase d k) := by
  unfold State.shedPhase
  dsimp only
  refine iteInduction (motive := fun u => s.sameSpace u) (fun _ => .refl s) (fun _ => ?_)
  have h := ((setF_space s F.tilePhases_in_service d (s.getF F.tilePhases_in_service d - 2 ^ k)).trans (setF_space _ F.tilePhases_shed d
      (min 15 (s.getF F.tilePhases_shed d + 1)))).trans (raise_space _ .phaseShed (0x1100 + d) none 0)
  generalize State.raise _ Ev.phaseShed _ _ _ = t at h ⊢
  exact iteInduction (motive := fun u => s.sameSpace u)
    (fun _ => ((h.trans (setB_space ..)).trans (raise_space ..)).trans (showDie_space ..)) (fun _ => h)
theorem applyUnit_space (s : State) (u n : Nat) : s.sameSpace (s.applyUnit u n) := by
  unfold State.applyUnit
  dsimp only
  split
  · exact applyCore_space ..
  · exact iteInduction (motive := fun t => s.sameSpace t) (fun _ => (setF_space ..).trans (raise_space ..)) (fun _ => .refl s)
  · exact iteInduction (motive := fun t => s.sameSpace t) (fun _ => .refl s)
      (fun _ => iteInduction (motive := fun t => s.sameSpace t) (fun _ => setF_space ..) (fun _ => setF_space ..))
  · exact iteInduction (motive := fun t => s.sameSpace t) (fun _ => .refl s)
      (fun _ => iteInduction (motive := fun t => s.sameSpace t) (fun _ => setF_space ..) (fun _ => setF_space ..))
  · exact State.sameSpace.trans (iteInduction (motive := fun t => s.sameSpace t) (fun _ => shedPhase_space ..) (fun _ => .refl s)) (setF_space ..)
  · exact .refl s
theorem setUnit_space (s : State) (u n : Nat) (h : Health) : s.sameSpace (s.setUnit u n h) := by
  unfold State.setUnit
  refine State.sameSpace.trans ?_ (rebuild_faultOnly _).space
  have k : ∀ v i, s.sameSpace ((s.setHealth u v).setF F.hlthGen_count 0 i) := fun _ _ => ⟨rfl, rfl⟩
  generalize hv : State.setF _ F.hlthGen_count 0 _ = t
  have k : s.sameSpace t := hv ▸ k _ _
  exact iteInduction (motive := fun x => s.sameSpace x) (fun _ => (k.trans (applyUnit_space ..)).trans (raise_space ..))
    (fun _ => k.trans (applyUnit_space ..))
/-- A fault counted against a unit leaves scratchpads and DRAM alone (R349, R350). -/
theorem charge_space (s : State) (u cause : Nat) (r : Bool) : s.sameSpace (s.charge u cause r) := by
  unfold State.charge
  exact iteInduction (motive := fun x => s.sameSpace x) (fun _ => ⟨rfl, rfl⟩) (fun _ => setUnit_space ..)
theorem ledgerFault_space (s : State) (m p : Nat) (e : Ev) (d : Nat) : s.sameSpace (s.ledgerFault m p e d) := by
  unfold State.ledgerFault
  exact (raise_space s e (siteNode m) (some p) d).trans (policy_faultOnly (s.raise e (siteNode m) (some p) d) p 0 e d).space
theorem setMeta_space (s : State) (b : Nat) (v : BlkMeta) : s.sameSpace (s.setMeta b v) := ⟨rfl, rfl⟩
theorem bumpF_space (s : State) (f : RF) (i n : Nat) : s.sameSpace (s.bumpF f i n) := ⟨rfl, rfl⟩
theorem modSite_space (s : State) (m : Nat) (f : SiteSt → SiteSt) : s.sameSpace (s.modSite m f) := ⟨rfl, rfl⟩
theorem wakeChannel_space (s : State) (m c : Nat) : s.sameSpace (s.wakeChannel m c) := by
  unfold State.wakeChannel
  refine State.sameSpace.trans ?_ (setF_space _ _ _ _)
  exact modSite_space _ _ _
/-- A whole-block read leaves scratchpads and DRAM alone (R217). -/
theorem verify_space (s : State) (b o n : Nat) : s.sameSpace (s.verify b o n) := by
  unfold State.verify
  have k := wakeChannel_space s (blkSite b) (blkChan b)
  generalize s.wakeChannel (blkSite b) (blkChan b) = t at k ⊢
  refine iteInduction (motive := fun u => s.sameSpace u) (fun _ => k.trans (setMeta_space t b _)) (fun _ => ?_)
  refine iteInduction (motive := fun v => s.sameSpace v) (fun _ => k.trans (bumpF_space t _ _ _)) (fun _ => ?_)
  refine State.sameSpace.trans ?_ (charge_space _ _ _ _)
  refine State.sameSpace.trans ?_ (ledgerFault_space _ _ _ _ _)
  refine State.sameSpace.trans ?_ (bumpF_space _ _ _ _)
  refine State.sameSpace.trans ?_ (setMeta_space _ _ _)
  exact k.trans (bumpF_space t _ _ _)
theorem awaitBuffer_space (s : State) (m p a : Nat) : s.sameSpace (s.awaitBuffer m p a) := by
  unfold State.awaitBuffer
  exact iteInduction (motive := fun v => s.sameSpace v) (fun _ => (modSite_space ..).trans (bumpF_space ..)) (fun _ => .refl s)
/-- A block read into a copy's buffer leaves scratchpads and DRAM alone (R217, R237). -/
theorem copyAhead_space (s : State) (p a : Nat) (x : Place) : s.sameSpace (s.copyAhead p a x) := by
  unfold State.copyAhead
  refine iteInduction (motive := fun v => s.sameSpace v) (fun _ => ?_) (fun _ => .refl s)
  refine State.sameSpace.trans ?_ (modSite_space _ _ _)
  exact (awaitBuffer_space s x.site p a).trans (verify_space _ _ _ _)
theorem storeDram_memWf (s : State) (k n v : Nat) (h : s.memWf) : (s.storeDram k n v).memWf := ⟨h.1, Memory.wf_writeNat _ _ _ _ h.2⟩
theorem setMeta_memWf (s : State) (b : Nat) (v : BlkMeta) (h : s.memWf) : (s.setMeta b v).memWf := h
theorem markDirty_memWf (s : State) (m p a : Nat) (h : s.memWf) : (s.markDirty m p a).memWf := h
/-- What a write of DRAM does first: the channel wakes, and a copy takes the block. -/
theorem readyWrite_memWf (s : State) (p a : Nat) (x : Place) (h : s.memWf) : ((s.wakeChannel x.site x.chan).copyAhead p a x).memWf :=
  (copyAhead_space _ p a x).memWf ((wakeChannel_space s x.site x.chan).memWf h)
theorem putDram_memWf (s : State) (p a n v : Nat) (poison : Bool) (h : s.memWf) : (s.putDram p a n v poison).memWf := by
  unfold State.putDram
  split
  · exact h
  · exact markDirty_memWf _ _ _ _ (setMeta_memWf _ _ _ (storeDram_memWf _ _ _ _ (readyWrite_memWf _ _ _ _ h)))
theorem putBlock_memWf (s : State) (p a v : Nat) (poison : Bool) (crc : BitVec 32) (h : s.memWf) : (s.putBlock p a v poison crc).memWf := by
  unfold State.putBlock
  split
  · exact h
  · exact markDirty_memWf _ _ _ _ (setMeta_memWf _ _ _ (storeDram_memWf _ _ _ _ (readyWrite_memWf _ _ _ _ h)))
theorem engineWrite_memWf (s : State) (p a n v : Nat) (h : s.memWf) : (s.engineWrite p a n v).memWf := putDram_memWf s p a n v false h
theorem seal_memWf (s : State) (p a n : Nat) (out : List Nat) (h : s.memWf) : (s.seal p a n out).memWf := by
  unfold State.seal
  apply foldl_keeps State.memWf _ _ _ _ h
  intro t b ht
  dsimp only
  split
  · exact setMeta_memWf _ _ _ ht
  · exact ht
theorem zeroExtents_memWf (s : State) (es : List Extent) (h : s.memWf) : (s.zeroExtents es).memWf := by
  exact ⟨h.1, Memory.wf_clear (fun k => es.any (fun e => extHolds e k)) s.dram h.2⟩
theorem zeroSpad_memWf (s : State) (cs : List Nat) (h : s.memWf) : (s.zeroSpad cs).memWf := by
  exact ⟨Memory.wf_clear (fun k => cs.contains (k / 2 ^ 24)) s.spad h.1, h.2⟩
theorem reset_memWf : State.reset.memWf := ⟨rfl, rfl⟩

end Sys2Proof.Machine
end

