-- ==== Sys2Proof/Tests/Slice0.lean ====
section
/-! SUPPORT. The model's own tests: ill-formed commands, worked examples of the spec, and states that meet the hypotheses of the
statements. -/
set_option Elab.async false
namespace Sys2Proof.Tests
open Sys2Proof.Machine

/-! ### Small states -/

/-- An instruction word from its opcode and its fields, each a value at a bit. -/
def word (op : Nat) (fields : List (Nat × Nat)) : Word := BitVec.ofNat 64 ((fields.map (fun e => e.2 <<< e.1)).foldl (· + ·) (op <<< 58))
/-- What a command leaves. -/
def go (i : Instr) (s : State) : State := match exec i s with
  | .next t => t
  | _ => s
/-- Core `c` runs. -/
def running (c : Nat) (s : State) : State := s.setF F.seqStatus_state c stRunning
def up (c : Nat) : State := running c .reset
/-- Two extents of partition 0, one of them shared with group 0, and one extent of partition 1. -/
def plainExtent : Extent := ⟨0, 1, 0, 1, 0, false, false, 0, 255, true⟩
def sharedExtent (owner : Nat) : Extent := ⟨8, 1, 1, 1, 0, false, true, owner, 0, true⟩
/-- An image: two partitions of one cluster each, on host port 0. -/
def img : Image where
  number := 1
  serial := 0
  fenced := []
  rows := []
  imageCap := 0
  capW := 0
  ramp := 100
  lowCap := 2400
  idleHold := 0
  parts := [⟨0, [0], [plainExtent, sharedExtent 0], 0, 0, 0, 7, 3600, [0]⟩, ⟨1, [1], [⟨0, 1, 2, 1, 0, false, false, 1, 255, true⟩, sharedExtent 0], 0, 1, 0, 8, 3600, [1]⟩]
  groups := [⟨0, 0, 0, [0, 1]⟩]
  recvFirst := 60
  recvCount := 4
  ckptSenders := [(9, 0, 0)]
  ckptPorts := [0]
  moduleId := 1
  ports := [⟨0, 0, 1, 0, true, 1, false⟩]
  ethertype := 0
  udpPort := 0
  rto := 100
  retries := 2
  peers := [⟨9, 0⟩]
  klPrio := [0, 1, 2, 3]
  linkCrc := 0
  hostModes := [1, 2, 0, 0]
  cxl := [(0, 1, 0, 2 ^ 30)]
  mgmtPort := 0
  pinmux := 0
  adminKey := some 5
  adminPwKey := some 6
  kdf := 100
  adminIdle := 3600
  quotas := []
  coal := []
  bodyFault := 0
/-- The module is READY and ACTIVE with that image. -/
def ready0 : State :=
  let s := { State.reset with image := some img, mod := { ModSt.init with off := false, pg := true, ready := true } }
  (s.setF F.modState_state 0 mReady).setF F.pwrState_state 0 pwActive
/-- One FP32 stream of 64 blocks with two contributors, homed at site 3, and one of TREE. -/
def gridRow : Row := BitVec.ofNat 512 (64 + 3 <<< 32 + 1 <<< 38 + 2 <<< 48 + 1 <<< 96)
def treeRow : Row := BitVec.ofNat 512 (64 + 3 <<< 20 + 3 <<< 32 + 1 <<< 38 + 2 <<< 48 + 1 <<< 96 + 2 ^ 20 <<< 128)
def domainRow : Row := gridRow ||| BitVec.ofNat 512 (1 <<< 22)
def grid : Stream := Stream.of gridRow
/-- A contributor's 8 B: its core, raw values in row 100, agreed bytes in row 200. -/
def contributor (core : Nat) : Word := BitVec.ofNat 64 (core + 100 <<< 16 + 200 <<< 34)
def plan0 : Plan := ⟨[⟨0, 0, []⟩, ⟨1, 0, []⟩], [(0, [0, 1])], [gridRow, treeRow], [contributor 0, contributor 1], [(0, 4, 3)], [], [], []⟩
def cap0 : Capsule where
  active := 2
  standby := 0
  clockFloor := 8
  warmup := 0
  recovery := 0
  planGroup := 0
  seed := 0
  policy := 0
  mirror := 0
  entries := []
  normal := none
  uniform := plan0
  groups := [⟨0, 0, 0, false, 0, 0⟩]
  streamGroups := [0]
  predictors := []
  bounds := []
  micro := []
  tolerance := []
  offload := []
  domain := none
  inputs := [⟨0, 0x100000, 4096, false⟩]
  persist := [(0, 0, 16)]
  buddies := [(0, 1)]
/-- Partition 0 has a session and its capsule: logical cores 0 and 1 are cores 0 and 1. -/
def loaded0 : State :=
  let s := ready0.modPart 0 (fun q => { q with cap := some cap0, aliasTab := [(0, 0x1000), (1, 0x1001)], periods := [(0, 4, 3)] })
  (s.modFn 0 (fun q => { q with session := some 0 })).setPState 0 psLoaded
/-- Partition 0 runs, cores 0 and 1 with it. -/
def run0 : State := running 0 (running 1 (loaded0.setPState 0 psRunning))
def pkt0 : Pkt := ⟨.readReq, 0, 0x1000, 0, 0, 0, 0, 0, 0, 0, 1, false, false, false, false, false, 0, 0, 64, (0, 0, 0), none, [], 0, 0, 0, false, false, 0, []⟩
/-- An order entry from its bytes at offsets. -/
def entry (l : List (Nat × Nat)) : Row := BitVec.ofNat 512 ((l.map (fun e => e.2 <<< (8 * e.1))).sum)
/-- A READY module with an admin session on host port 0, nothing loaded. -/
def admin0 : State := ready0.modFn 64 (fun q => { q with session := some 1 })

/-! ### Ill-formed commands are refused by the checks -/
theorem test_wf_word : Instr.wf (.nop 0 0 .clean) = true ∧ Instr.wf (.nop 0 (word 1 []) .clean) = false := by decide +kernel
theorem test_wf_barrierKind : Instr.wf (.barrierStep 0 (word 3 [(54, 1)]) .clean) = true ∧ Instr.wf (.barrierStep 0 (word 3 []) .clean) = false := by decide +kernel
theorem test_wf_vec : Instr.wf (.vecAdd 0 (word 0x20 []) 0 .clean) = true ∧ Instr.wf (.vecAdd 0 (word 0x20 [(50, 1)]) 0 .clean) = false := by decide +kernel
theorem test_wf_dma : Instr.wf (.dramWrite 0 (word 0x38 []) 1 0 0 0 .clean) = true ∧ Instr.wf (.dramWrite 0 (word 0x38 []) 2 0 0 0 .clean) = false := by
  decide +kernel
theorem test_wf_packet : Instr.wf (.readRequest 0 pkt0 true 0) = true ∧ Instr.wf (.readRequest 0 { pkt0 with kind := .ack } true 0) = false := by decide +kernel
theorem test_wf_message : Instr.wf (.barRelease 0 ⟨.barRelease 0 true 0, true, 0, 0, stewardNode, 0, 0⟩) = true ∧
    Instr.wf (.barRelease 0 ⟨.barRelease 0 true 0, false, 0, 0, stewardNode, 0, 0⟩) = false := by decide +kernel

/-! ### The spec's own numbers -/
/-- R72's LOAD_TILE example and R158's fields. -/
theorem test_loadTileWord : word 0x10 [(38, 0x800), (34, 2), (8, 63), (2, 63)] = 0x4002000800003FFC := by decide +kernel
/-- R79's WAIT_COUNT example. -/
theorem test_waitCountWord : word 2 [(48, 3), (16, 1)] = 0x0803000000010000 := by decide +kernel
theorem test_opcode : opcode (word 0x3A []) = 0x3A ∧ syncBit (word 0 [(57, 1)]) = true ∧ reservedOp (word 8 []) = true := by decide +kernel

/-! ### Witnesses: the step and the sequencer -/
theorem witness_StepRunsTheFrontCommand : ({ State.reset with pending := [.inputLoss] } : State).pending = Instr.inputLoss :: [] ∧
    State.reset.pending = [] := by decide +kernel
theorem witness_ControlInstructionsComplete : (up 5).ready 5 (word 0 []) false false ∧ bits (word 0 []) 0 56 = 0 ∧
    bits (word 5 [(40, 7)]) 0 40 = 0 ∧ (up 5).ready 5 (word 5 [(40, 7)]) false false ∧
    ((go (.chkptMark 5 (word 5 [(40, 7)]) .clean) (up 5)).core 5).mark = some 7 := by decide +kernel
/-- Count 0 skips the body; count 2 opens it. -/
theorem witness_repeat : ∀ n ∈ [0, 2], (up 5).ready 5 (word 6 [(40, n), (24, 3)]) false false ∧ bits (word 6 [(40, n), (24, 3)]) 0 24 = 0 ∧
    ((up 5).core 5).loops.length < 4 ∧ ((up 5).repeatCount 5 (word 6 [(40, n), (24, 3)]) = 0 ↔ n = 0) ∧
    (go (.repeatBody 5 (word 6 [(40, n), (24, 3)]) .clean) (up 5)).getF F.seqPc_addr 5 = if n = 0 then 32 else 8 := by decide +kernel
theorem witness_WaitCountWaits : (up 5).ready 5 (word 2 [(48, 63), (16, 1)]) false false ∧
    (up 5).getF F.seqCount_value (5 * 64 + 63) < bits (word 2 [(48, 63), (16, 1)]) 16 32 ∧
    ((go (.waitCount 5 (word 2 [(48, 63), (16, 1)]) .clean) (up 5)).core 5).held = some (word 2 [(48, 63), (16, 1)]) ∧
    bits (word 2 [(48, 63), (16, 0)]) 16 32 = 0 ∧ (up 5).ready 5 (word 2 [(48, 63), (16, 0)]) false false ∧
    (go (.waitCount 5 (word 2 [(48, 63), (16, 0)]) .clean) (up 5)).getF F.seqCount_value (5 * 64 + 63) = 1 := by decide +kernel
/-- The counter stands at the target; another instruction waits. -/
theorem witness_waitMet : let s := (up 5).setF F.seqCount_value (5 * 64 + 63) 1
    s.ready 5 (word 2 [(48, 63), (16, 1)]) false false ∧ bits (word 2 [(48, 63), (16, 1)]) 16 32 ≤ s.getF F.seqCount_value (5 * 64 + 63) ∧
    bits (word 2 [(48, 63), (16, 1)]) 16 32 ≠ 0 ∧ (go (.waitCount 5 (word 2 [(48, 63), (16, 1)]) .clean) s).getF F.seqPc_addr 5 = 8 ∧
    (let h := go (.waitCount 5 (word 2 [(48, 63), (16, 1)]) .clean) (up 5)
     h.getF F.seqStatus_state 5 = stRunning ∧ (h.core 5).held = some (word 2 [(48, 63), (16, 1)]) ∧ word 2 [(48, 63), (16, 1)] ≠ word 0 [] ∧
       (go (.nop 5 (word 0 []) .clean) h).getF F.seqPc_addr 5 = 0) := by decide +kernel
/-- Two fetched blocks: the one SEQ.PC stands in, and the next (R70). -/
theorem test_programFetch : ((go (.programFetchResponse 5 2 7) (go (.programFetchResponse 5 0 0) (up 5))).core 5).ibuf = [0, 1] ∧
    (go (.programFetchResponse 5 2 7) (up 5)).getF F.seqFetchStall_cycles 5 = 7 := by decide +kernel
theorem witness_SetrWritesScheduleRegisters : (up 5).ready 5 (word 7 [(43, 8), (0, 9)]) false true ∧ bits (word 7 [(43, 8), (0, 9)]) 32 11 = 0 ∧
    schedReg (8 * bits (word 7 [(43, 8), (0, 9)]) 43 13) = some .seqTensorId ∧ schedReg (8 * bits (word 7 []) 43 13) = none ∧
    (go (.setr 5 (word 7 [(43, 8), (0, 9)]) .clean) (up 5)).getF F.seqTensorId_id 5 = 9 := by decide +kernel
theorem witness_SetrWaits : ∃ s : State, s.getF F.seqStatus_state 5 = stRunning ∧ s.drained 5 = false :=
  ⟨(up 5).modCore 5 (fun q => { q with descs := [(DescF.of 0 0 0 0).desc .dramRead] }), by decide +kernel⟩
theorem witness_EpochsAndForecasts : (up 5).ready 5 (word 0x12 [(47, 1), (48, 63)]) false false ∧
    (up 5).ready 5 (word 4 [(48, 64)]) false false ∧ bits (word 4 [(48, 64)]) 0 48 = 0 ∧ bits (word 4 [(48, 64)]) 55 1 = 0 ∧
    ((go (.forecast 5 (word 4 [(48, 64)]) .clean) (up 5)).core 5).forecasts = 64 :: [] ∧
    (go (.forecastMatures 5) (go (.forecast 5 (word 4 [(48, 64)]) .clean) (up 5))).getF F.seqForecast_matured 5 = 64 ∧
    (go (.proof 5 (word 0x12 [(47, 1), (48, 63)]) .clean) (up 5)).getF F.seqCount_value (5 * 64 + 63) = 1 := by decide +kernel
theorem witness_BarriersArrive : (up 5).ready 5 (word 3 [(46, 255)]) false false ∧ bits (word 3 [(46, 255)]) 0 46 = 0 ∧
    (up 5).ready 5 (word 3 [(54, 1), (30, 65535)]) false true ∧ ((up 5).core 5).tags = [] ∧
    (go (.barrierStep 5 (word 3 [(54, 1), (30, 65535)]) .clean) (up 5)).getF F.seqStatus_state 5 = stWaiting := by decide +kernel
theorem witness_InstructionFaultsStop : (up 5).ready 5 (word 0 [(0, 1)]) false false ∧ (up 5).ready 5 (word 2 [(48, 64)]) false false ∧
    (up 5).ready 5 (word 3 [(54, 1), (46, 1)]) false true ∧ reservedOp (word 8 []) = true ∧ badBit56 (word 0 [(56, 1)]) = true ∧
    (go (.waitCount 5 (word 2 [(48, 64)]) .clean) (up 5)).getF F.seqFault_reason 5 = 2 := by decide +kernel
theorem witness_EndEndsTheRun :
    let s := run0.modCore 0 (fun q => { q with afterStep := true })
    let w := word 1 []
    s.ready 0 w false false ∧ bits w 0 56 = 0 ∧ (run0.core 0).afterStep = false ∧ s.ownerOf 0 = some 0 ∧ (s.core 1).ended = false ∧
    (go (.endProgram 0 w .clean) s).pState 0 = psRunning ∧
    (go (.endProgram 0 w .clean) (s.modCore 1 (fun q => { q with ended := true }))).pState 0 = psLoaded := by decide +kernel

/-! ### Witnesses: the engines -/
/-- One vector of INT8 in row 0 of core 5, another in row 1. -/
def vec8 : State := ((up 5).putRows 5 0 [BitVec.ofNat 512 0x7F] false).putRows 5 1 [BitVec.ofNat 512 1] false
def addWord : Word := word 0x20 [(46, 9), (42, 9), (2, 1)]
theorem witness_VectorElementResults : vec8.ready 5 addWord true false ∧ (VecF.of addWord (BitVec.ofNat 64 (2 + 1 <<< 36))).plain ∧
    (VecF.of addWord (BitVec.ofNat 64 (2 + 1 <<< 36))).n = 1 ∧ rowsApart 0 1 2 1 ∧ rowsOk 2 1 = true ∧
    (go (.vecAdd 5 addWord (BitVec.ofNat 64 (2 + 1 <<< 36)) .clean) vec8).vecCodes 5 2 .int8 0 = 0x7F :: List.replicate 63 0 ∧
    (go (.vecAdd 5 addWord (BitVec.ofNat 64 (2 + 1 <<< 36)) .clean) vec8).getF F.fmtFlags_sat 5 = 1 := by decide +kernel
theorem witness_EmptyVectorsAndRangeCheck : vec8.ready 5 addWord true false ∧ (VecF.of addWord 0).plain ∧ (VecF.of addWord 0).n = 0 ∧
    vecFmt (VecF.of addWord 0).ifc = some .int8 ∧ (VecF.of (word 0x20 [(50, 14), (42, 12)]) 0).ofc = 12 ∧
    (VecF.of (word 0x20 [(50, 15), (42, 13)]) 0).ofc = 13 := by decide +kernel
theorem witness_VectorReductionsAndConversions :
    let w := word 0x20 [(50, 12), (46, 9), (42, 11)]
    let w1 : Word := BitVec.ofNat 64 (8 + 1 <<< 36)
    vec8.ready 5 w true false ∧ (VecF.of w w1).plain ∧ (VecF.of w w1).n = 1 ∧ rowsOk 8 (cdiv 1 64 * 4) = true ∧
    vecFmt (VecF.of w w1).ifc = some .int8 ∧ vecFmt (VecF.of w w1).ofc = some .int32 ∧
    ((go (.vecRsum 5 w w1 .clean) vec8).vecCodes 5 8 .int32 0).headD 0 = 127 ∧
    (VecF.of (word 0x20 [(46, 0), (42, 12)]) w1).ifc ≤ 3 ∧ rowsOk 8 (cdiv 2 64) = true ∧ rowsOk 0 4 = true := by decide +kernel
/-- An INT8 tile of one row, its only non-zero weight 127, and one input vector whose first element is 1. -/
def tileWord : Word := word 0x10 [(34, 9), (2, 63)]
def tiled : State := go (.loadTile 5 tileWord .clean) vec8
def streamWord : Word := word 0x11 [(38, 1), (20, 8), (16, 9), (12, 11)]
theorem witness_LoadTilePlacesTheTile : vec8.ready 5 tileWord true false ∧ bits tileWord 34 4 ≤ 10 ∧ Fmt.ofCode (bits tileWord 34 4) = some .int8 ∧
    rowsOk 0 (tileRows .int8 1) = true ∧ bits tileWord 0 2 = 0 ∧ bits tileWord 14 18 = 0 ∧ bits tileWord 32 2 = 0 ∧
    tiled.getF F.arrStatus_tile_valid 5 = 1 ∧ (((tiled.core 5).tile.map (·.w.headD 0)).getD 0) = 0x7F := by decide +kernel
theorem witness_StreamOutputs : tiled.ready 5 streamWord true false ∧ (tiled.core 5).tile.isSome = true ∧ bits streamWord 0 5 = 0 ∧
    bits streamWord 5 2 = 0 ∧ bit streamWord 7 = false ∧ tiled.getF F.arrInScale_mode 5 = 0 ∧ outFmt (bits streamWord 12 4) = some .int32 ∧
    pairClass .int8 .int8 0 0 = some .int ∧ Rnd.ofCode (bits streamWord 10 2) = some .rn ∧ rowsOk 1 1 = true ∧ rowsOk 8 4 = true ∧
    rowsApart 1 1 8 4 := by decide +kernel
theorem witness_IntegerStreamIsTheProduct : bits streamWord 16 4 = 9 ∧ bits streamWord 12 4 = 11 ∧
    ((tiled.core 5).tile.map (fun t => (t.fmt, t.scale))) = some (.int8, 0) ∧
    ((go (.stream 5 streamWord 1 .clean) tiled).vecCodes 5 8 .int32 0).headD 0 = 127 := by decide +kernel
theorem witness_StreamsThatPlaceNothing : vec8.ready 5 streamWord true false ∧ (vec8.core 5).tile = none ∧
    (go (.stream 5 streamWord 1 .clean) vec8).rowPoison 5 11 = true ∧
    vec8.ready 5 (word 0x30 []) true false ∧ (Header.of (vec8.row 5 0)).valid = none ∧ ¬ ((Header.of (vec8.row 5 0)).magic = 0x5354) ∧
    (go (.sparseTile 5 (word 0x30 [(2, 8)]) (BitVec.ofNat 64 (1 + 11 <<< 32)) .clean) vec8).getF F.speMalformed_headers 5 = 1 := by decide +kernel
/-- An INDEX tile of INT8 with one row and no entry. -/
def emptyTile : State := (up 5).putRows 5 0 [BitVec.ofNat 512 (0x5354 + 1 <<< 16 + 9 <<< 24 + 9 <<< 28 + 1 <<< 96)] false
theorem witness_SparseTileRuns : ∀ mode ∈ [0, 1, 2],
    let w := word 0x30 [(20, 4), (2, 8)]
    let w1 : Word := BitVec.ofNat 64 (1 + 11 <<< 32 + mode <<< 38)
    let h := Header.of (emptyTile.row 5 0)
    emptyTile.ready 5 w true false ∧ h.valid = some (.int8, .int8, .int) ∧ h.layout = 1 ∧ emptyTile.rowPoison 5 0 = false ∧ rowsOk 0 h.rc = true ∧
    emptyTile.getF F.arrInScale_mode 5 < 2 ∧ (pairClass .int8 .int8 h.scale 0).isSome = true ∧
    (go (.sparseTile 5 w w1 .clean) emptyTile).getF F.speStatus_sparse 5 = (if mode = 2 then 0 else 1) := by decide +kernel
theorem witness_FloatCodesRoundTrip : decode .fp32 0x3F800000 = .fin false 8388608 (-23) ∧ decode .e2m1 1 = .fin false 1 (-1) ∧
    (encode .fp32 .plain 0 none (decode .fp32 0x00000001)).1 = 1 ∧ (encode .bf16 .plain 0 none (decode .bf16 0xFF7F)).1 = 0xFF7F := by decide +kernel

/-! ### Witnesses: DMA -/
def dmaWord : Word := word 0x38 []
/-- A DRAM_READ of 64 B to row 0, counter 63. -/
def readDesc : Word := BitVec.ofNat 64 (63 <<< 8 + 64 <<< 32)
def issued : State := go (.dramRead 0 dmaWord 0x4000003F00 0 0 0 .clean) run0
theorem witness_DescriptorsIssue : run0.ready 0 dmaWord false false ∧ bits dmaWord 0 56 = 0 ∧
    (∀ len ∈ [0, 64, 0x800000], run0.descReason 0 (DescF.of (BitVec.ofNat 64 (len <<< 32)) 0 0 0) .dramRead = none) ∧
    (run0.core 0).suppress = none := by decide +kernel
/-- Mirror retention is off. -/
def lone : State := run0.setF F.partMirrorCfg_enabled 0 0
theorem witness_OtherDescriptors : run0.descReason 0 (DescF.of (BitVec.ofNat 64 (0x800040 <<< 32)) 0 0 0) .dramRead = some 3 ∧
    run0.descReason 0 (DescF.of (BitVec.ofNat 64 (64 <<< 8)) 0 0 0) .dramRead = some 5 ∧
    run0.ready 0 (word 0x39 [(20, 8)]) false false ∧ run0.ready 0 (word 0x3A [(20, 1)]) false false ∧ run0.buddyOf 0 0 = some 1 ∧ lone.buddyOf 0 0 = none ∧
    ((go (.gather 0 (word 0x39 [(20, 8)]) (BitVec.ofNat 64 (1 + 1 <<< 32)) 0 .clean) run0).core 0).descs.length = 1 ∧
    (go (.mirror 0 (word 0x3A [(20, 1), (12, 63)]) .clean) lone).getF F.seqCount_value 63 = 1 := by decide +kernel
theorem witness_ZeroLengthDescriptors : (DescF.of 0x3F00 0 0 0).len = 0 ∧ run0.descReason 0 (DescF.of 0x3F00 0 0 0) .dramRead = none ∧
    run0.descReason 0 (DescF.of 0x4000 0 0 0) .dramRead = some 5 := by decide +kernel
/-- The packet of that descriptor on its way, and the tag it holds. -/
def sent : State := go (.packetIssue 0 0 ⟨0, .clean⟩) issued
def req : Pkt := sent.net.headD pkt0
def resp (data : List Row) : Pkt := { req with kind := .readResp, src := 0x1000, dst := 0, data := data }
theorem witness_TagsComeAndGo : ((issued.core 0).descs.find? (fun d => d.seq = (0#16).toNat)).isSome = true ∧
    freeTag (issued.core 0).tags = some 0 ∧ req.dst = siteNode 0 ∧ req.tag = 0 ∧ (sent.tagOf 0 req).isSome = true ∧
    ((sent.core 0).descs.map (fun d => (d.sent, d.open_))) = [(64, 1)] ∧ sent.fab.copies = [] ∧
    ((issued.core 0).descs.map (fun d => (d.kind, (issued.nextSlice 0 d).isSome))) = [(.dramRead, true)] ∧
    (go (.refusedAcknowledgement 0 ⟨{ req with kind := .refused }, true⟩) sent).getF F.seqCount_value 63 = 1 ∧
    ((go (.resendRequest 0 ⟨{ req with kind := .resend }, true⟩) sent).net.map (·.resend)) = [0, 1] ∧
    (((go (.tagTimeout 0 ⟨0, true⟩) sent).core 0).tags).length = 0 := by decide +kernel
theorem witness_noFreeTag : freeTag ((rangeFrom 0 256).map (fun n => TagUse.mk n 0 0 0 1 pkt0)) = none := by decide +kernel
theorem witness_AnswerDataLands : some req.part = sent.ownerOf 0 ∧ (sent.descOf 0 0).isSome = true ∧ 0 + req.len ≤ spadBytes ∧ req.len ≠ 0 ∧
    (go (.readResponse 0 (resp [5]) true 0 .clean) sent).span 0 0 64 = 5 ∧
    ((go (.readResponse 0 (resp [5]) true 0 .clean) sent).core 0).tags.length = 0 := by decide +kernel
/-- A CORE_PUSH packet for core 0 and a mirror packet. -/
def push : Pkt := { pkt0 with kind := .push, src := 1, dst := 0, remCtr := 63, data := [9] }
theorem witness_ReturnsLand : (run0.core 0).state < 2 ∧ 2 ≤ ((run0.modCore 0 (fun q => { q with state := 3 })).core 0).state ∧
    some push.part = run0.ownerOf 0 ∧ push.addr + push.len ≤ spadBytes ∧ push.total ≤ 1 ∧ (run0.core 0).inbound = [] ∧
    (go (.corePushData 0 push true 0 .clean) run0).span 0 0 64 = 9 ∧ (go (.corePushData 0 push true 0 .clean) run0).getF F.seqCount_value 63 = 1 ∧
    (go (.mirrorData 0 { push with kind := .mirror } true .clean) run0).getF F.intMirror_pending 0 = 1 ∧ (sent.tagOf 0 { req with kind := .reduction }).isSome = true := by
  decide +kernel

/-! ### Witnesses: the ledger dies -/
def wr : Pkt := { pkt0 with kind := .writeData, addr := 2 ^ 30 - 64, data := [3] }
theorem witness_ReadsAndWrites : run0.refusal 0 0 0 false = none ∧ (run0.place 0 (2 ^ 30 - 64)).isSome = true ∧
    run0.refusal 0 0 (2 ^ 30 - 64) true = none ∧ run0.sumAreaAt 0 (2 ^ 30 - 64) 64 = none ∧
    (go (.readRequest 0 pkt0 true 0) run0).net.length = 1 ∧ (go (.writeData 0 wr true) run0).partRead 0 (2 ^ 30 - 64) 64 = 3 ∧
    run0.place 0 64 ≠ none ∧ (0 % 4096 + 64 ≤ 4096) := by decide +kernel
/-- A copy with 4,096 blocks waiting in its buffer. -/
theorem witness_copyFull : ∃ s : State, s.copyFull 0 0 0 = true :=
  ⟨run0.modSite 0 (fun q => { q with copying := [⟨0, 0, [0], 0, []⟩], ahead := List.replicate 4096 (0, 0, 0, false, 0) }), by decide +kernel⟩
theorem witness_RefusedPacketsTouchNothing : run0.refusal 0 0 (2 ^ 40) false = some 1 ∧ run0.refusal 1 1 (8 * 2 ^ 30) true = some 2 ∧
    run0.refusal 2 0 0 false = some 6 ∧ (go (.readRequest 0 { pkt0 with addr := 2 ^ 40 } true 0) run0).getF F.ldgRefuseLog_valid 0 = 1 ∧
    run0.redRefusal 3 pkt0 ⟨9, 0, 0, 0, [(0, 0)], []⟩ = some 1 := by decide +kernel
theorem witness_gather : (run0.place 0 0).isSome = true ∧ run0.refusal 0 0 0 false = none ∧
    (go (.gatherRequest 0 { pkt0 with kind := .gatherReq, addr2 := 1, len := 1, data := [0] } true) run0).net.length = 1 := by decide +kernel
/-- A stream map at the start of the shared extent: one layer of one row, homed at site 1. -/
def mapped : State :=
  let s := run0.putDram 0 (8 * 2 ^ 30) 64 (0x534D + 1 <<< 16 + 1 <<< 32 + 65 <<< 64) false
  let s := s.putDram 0 (8 * 2 ^ 30 + 64) 32 (0x1000 + 1 <<< 64 + 1 <<< 96) false
  s.modPart 0 (fun q => { q with joined := [0], cap := some { cap0 with uniform := { plan0 with maps := [(0, 8 * 2 ^ 30)] } } })
def rx (stream : Nat) : Pkt := { pkt0 with dst := 0x1001, addr := stream * 2 ^ 36 + 2 ^ 44 }
/-- Group 0 is active for partitions 0 and 1 at site 1, and partition 0's request waits. -/
def waiting : State := go (.streamReceive 1 (rx 192) true false 0) (mapped.modSite 1 (fun q => { q with active := [(0, 0), (0, 1)] }))
theorem witness_StreamReceivesAreServed : (mapped.judgeStream 1 (rx 0)).isRight = true ∧ (mapped.site 1).waits = [] ∧
    ((mapped.modSite 1 (fun q => { q with active := [(0, 0)] })).activeAt 1 0).contains 0 = true ∧ (waiting.site 1).waits.length = 1 ∧
    waiting.getF F.ldgGroupWait_limit 1 ≠ 0 := by decide +kernel
theorem witness_groupWait : (waiting.site 1).waits.map (fun w => (w.group, w.offset, waiting.missing 1 w)) = [(some 0, 192 * 2 ^ 36, [1])] := by
  decide +kernel
theorem witness_groupDrop : ((go (.groupDrop 1 ⟨.groupDrop 0 0, true, 0, siteNode 1, stewardNode, 0, 0⟩) (mapped.modSite 1 (fun q => { q with active := [(0, 0), (0, 1)] }))).activeAt 1 0).contains 0 = false := by decide +kernel
theorem witness_ChannelsAndLinksAreKept : (run0.setF F.pwrState_state 0 1).getF F.pwrState_state 0 = 1 ∧ run0.getF F.ldgSlice_interval 39 ≠ 0 ∧
    (run0.getF F.ldgChState_self_refresh 39).testBit 31 = false ∧ run0.chanOk 39 31 = true ∧
    Tab.get (fun _ => 0) (run0.site 39).sliceTime 31 = 0 ∧ run0.chanOk 39 32 = false ∧
    Tab.get (fun _ => 0) ((run0.modCore 5 (fun q => { q with replays := [(4, 17)] })).core 5).replays 4 = 17 ∧
    (go (.linkDegraded 5 4) (run0.modCore 5 (fun q => { q with replays := [(4, 17)] }))).evNet.length = 1 ∧
    (run0.setF F.pwrState_state 0 1).chanBusy 39 31 = false ∧ Tab.get (fun _ => 0) (run0.site 39).reqAt 31 = 0 ∧
    (NSet.add 8191 run0.congHeard).length ≠ 8192 := by decide +kernel
set_option maxRecDepth 200000 in
/-- The last half of the last router is all that is missing. -/
theorem witness_congFull : (NSet.add (2 * (4095 % 4096) + min 1 1) ({ run0 with congHeard := rangeFrom 0 8191 } : State).congHeard).length = 8192 := by
  decide +kernel

/-! ### Witnesses: reduction, barriers, updates -/
def hdr (kind : Nat) : RedHdr := ⟨0, 0, 0, kind, [(0, 0)], [1]⟩
def red (kind : Nat) : Pkt := { pkt0 with kind := .reduction, dst := 0x1003, len := 128, red := some (hdr kind), data := [BitVec.ofNat 512 7, 0] }
def expPkt : Pkt := { pkt0 with kind := .reduction, dst := 0x1003, len := 1, red := some { hdr 0 with pass := 1 }, data := [9] }
/-- The last of two exponents is in: the byte is agreed. -/
def agreedState : State := go (.exponentContribution 3 { expPkt with red := some { hdr 0 with pass := 1, prov := [(1, 0)] } } true) (go (.exponentContribution 3 expPkt true) run0)
def agreedRed : Pkt := { red 0 with red := some { hdr 0 with ebytes := [9] } }
set_option maxRecDepth 200000 in
theorem witness_ContributionsAddAndClose : run0.redRefusal 3 expPkt { hdr 0 with pass := 1 } = none ∧ run0.stream 0 0 = some grid ∧
    (run0.redBlk 3 0 0 0).exps < 2 ∧ (agreedState.redBlk 3 0 0 0).byte = 9 ∧ agreedState.redRefusal 3 agreedRed { hdr 0 with ebytes := [9] } = none ∧
    run0.pastSum 0 grid = false ∧ (agreedState.redBlk 3 0 0 0).rebuilt = [] ∧ (agreedState.redBlk 3 0 0 0).retracted = [] ∧
    (agreedState.redBlk 3 0 0 0).reopen = false ∧ (agreedState.redBlk 3 0 0 0).closed = false ∧
    (((go (.contribution 3 agreedRed true) agreedState).redBlk 3 0 0 0).sums.headD none) = some 7 ∧
    (let s := go (.contribution 3 agreedRed true) agreedState
     ((go (.contribution 3 { agreedRed with red := some { hdr 0 with prov := [(1, 0)], ebytes := [9] } } true) s).redBlk 3 0 0 0).closed = true) := by
  decide +kernel
set_option maxRecDepth 200000 in
theorem witness_RetractionsAndRawValues :
    let s := go (.contribution 3 agreedRed true) agreedState
    s.redRefusal 3 (red 1) (hdr 1) = none ∧ (s.redBlk 3 0 0 0).reopen = false ∧
    ((go (.retraction 3 (red 1) true) s).redBlk 3 0 0 0).count = 0 ∧
    s.redRefusal 3 { red 1 with red := some { hdr 1 with ebytes := [9] } } { hdr 1 with ebytes := [9] } = none ∧
    ((go (.retraction 3 { red 1 with red := some { hdr 1 with ebytes := [9] } } true) s).redBlk 3 0 0 0).reopen = true ∧
    s.redRefusal 3 (red 2) (hdr 2) = none := by decide +kernel
/-- The block is being rebuilt: `n` contributors' raw values are in. -/
def rebuilding (n : Nat) : State := run0.modSite 3 (fun q => { q with
  blocks := [{ RedBlk.init 0 0 0 with reopen := true, raws := (rangeFrom 1 n).map (fun c => (c, [], ⟨[(c, 0)], [], false⟩)) }] })
theorem witness_rawResend : (∀ n ∈ [0, 1], (rebuilding n).redRefusal 3 (red 2) (hdr 2) = none ∧ ((rebuilding n).redBlk 3 0 0 0).reopen = true ∧
      ((((rebuilding n).redBlk 3 0 0 0).raws.filter (fun e => e.1 ≠ 0)).length + 1 < 2 ↔ n = 0)) ∧
    ((go (.rawResend 3 (red 2) true) (rebuilding 0)).redBlk 3 0 0 0).raws.length = 1 := by decide +kernel
/-- A request for raw values reaches core 0, which has issued the block's pass 1 or has not. -/
def rawAsk : Ctl := ⟨.resendRaw 0 0, false, 0, 0, siteNode 3, 0, 0⟩
def offering : State := run0.modCore 0 (fun q => { q with offered := [(0, 0, 64)] })
theorem witness_resendRaw : run0.stream 0 0 = some grid ∧ run0.logicalOf 0 0 = some 0 ∧ (run0.contribs 0 grid).find? (fun e => e.core = 0) = some ⟨0, 100, 200⟩ ∧
    run0.rawReady 0 0 0 = false ∧ offering.rawReady 0 0 0 = true ∧ freeTag (offering.core 0).tags = some 0 ∧
    (go (.resendRaw 0 ⟨rawAsk, 0, .clean⟩) offering).net.length = 1 ∧ (go (.resendRaw 0 ⟨rawAsk, 3, .clean⟩) run0).getF F.dmaTagStall_cycles 0 = 3 := by decide +kernel
/-- Two contributions on row line 0 on their way east: the one from core 0 passes core 1's tap. -/
def onLine (core : Nat) (ebyte : Nat) : Pkt := { red 0 with src := core, tag := core, red := some { hdr 0 with prov := [(core, 0)], ebytes := [ebyte] } }
def lines (e0 e1 : Nat) : State := { run0 with
  net := [onLine 0 e0, onLine 1 e1]
  fab := { run0.fab with taps := [⟨0, false, [⟨0, 0, 63⟩], onLine 0 e0⟩, ⟨1, false, [⟨0, 1, 63⟩], onLine 1 e1⟩] } }
theorem witness_carryLines : (∀ e ∈ [9, 8], (lines 9 e).pending = [] ∧ ((lines 9 e).fab.taps.map (fun t => (t.ret, t.legs.length))) = [(false, 1), (false, 1)] ∧
      (between (lineCoord 0 0) (lineCoord 0 63)).contains (lineCoord 0 1) = true ∧ (lines 9 e).gridPkt (onLine 0 9) = true ∧
      (onLine 0 9).data.length = (onLine 1 e).data.length ∧ (onLine 0 9).dst = (onLine 1 e).dst) ∧
    ((lines 9 9).tick.net.map (fun k => (k.merged.length, elem (ofRows k.data) 32 0, (k.red.map (·.prov)).getD []))) = [(1, 14, [(1, 0), (0, 0)])] ∧
    (lines 9 9).tick.fab.taps = [] ∧ (lines 9 8).tick.fab.taps.length = 1 ∧ (lines 9 8).tick.net.length = 2 := by decide +kernel
/-- R251: a marker makes a marker; other elements add in 32 bits. -/
theorem test_mergeElem : mergeElem 0x80000000 5 = 0x80000000 ∧ mergeElem 0xFFFFFFFF 5 = 4 := by decide +kernel
/-! ### Witnesses: barriers, tokens, messages -/
def arr (tag : Nat) (step : Bool) (g : Nat) (mark : Option Nat) : Ctl := ⟨.barArrive tag 1 false step g mark, true, 0, stewardNode, 0, 0, 0⟩
/-- One of two cores stands at a STEP barrier with tag 65535. -/
def oneIn : State := go (.barArrive 0 [arr 65535 true 0 none] [] []) run0
theorem witness_BarriersRelease : (addArrival (run0.part 0).arrivals 65535 1 false none).count < (run0.activeOf 0).length ∧
    (run0.activeOf 0).length ≤ (addArrival (oneIn.part 0).arrivals 65535 1 false none).count ∧
    (addArrival (oneIn.part 0).arrivals 65535 1 false none).differ = false ∧ oneIn.heldBack 0 = false ∧ oneIn.dueGroups 0 (oneIn.microStep 0) = [] ∧
    (oneIn.part 0).pausePend = [] ∧ (oneIn.part 0).copy = none ∧ oneIn.physOf 0 1 = some 1 ∧
    (go (.barArrive 0 [arr 65535 true 0 none] [] []) oneIn).ctl.length = 2 := by decide +kernel
theorem witness_otherPartition : (arr 0 true 0 none).part ≠ (1 : PartIx).val ∧ ((go (.barArrive 1 [arr 0 true 0 none] [] []) run0).part 1).arrivals = none := by decide +kernel
theorem witness_groupBarrier : (addArrival none 0 1 false none).count < (run0.barMembers 0 0).length ∧ 1 ∈ run0.barMembers 0 0 ∧
    (run0.barMembers 0 0).length ≤ (addArrival (some (addArrival none 0 1 false none)) 0 1 false none).count ∧
    (go (.barArrive 0 [arr 0 false 0 none] [] []) (go (.barArrive 0 [arr 0 false 0 none] [] []) run0)).ctl.length = 2 := by decide +kernel
theorem witness_MismatchedArrivalsAreNotReleased :
    let s := oneIn.setReg .partFaultPolicy 0 (BitVec.ofNat 64 (1 <<< 18))
    (s.part 0).arrivals = some ⟨1, 65535, none, false⟩ ∧ (s.activeOf 0).length ≤ 1 + 1 ∧ bits (s.reg .partFaultPolicy 0) 18 2 = 1 ∧
    s.pState 0 = psRunning ∧ (go (.barArrive 0 [arr 0 true 0 none] [] []) s).pState 0 = psStopped ∧
    (go (.barArrive 0 [arr 65535 true 0 (some 1)] [] []) s).pState 0 = psStopped := by decide +kernel
def upd : UpdGroup := ⟨0, 0, 0, false, 0, 0⟩
def rel (step : Bool) : Ctl := ⟨.barRelease 7 step 0, true, 0, 1, stewardNode, 0, 0⟩
set_option maxRecDepth 200000 in
theorem witness_ReleasesAndOutcomes : (run0.part 0).planMove = false ∧ run0.ownerOf 1 = some (rel true).part ∧ run0.ownerOf 9 ≠ some (rel true).part ∧
    (go (.barRelease 1 (rel false)) run0).getF F.seqUstep_number 1 = 0 ∧
    (∀ v ∈ [1, 4], let s := run0.modPart 0 (fun q => { q with resolving := [(0, v, 0)] })
      (s.part 0).resolving.find? (fun e => e.1 = 0) = some (0, v, 0) ∧ s.mayResolve 0 0 v = true ∧ s.groupOf 0 0 = some upd ∧
      (s.part 0).arrivals = none) ∧
    (go (.groupResolved 0 0 []) (run0.modPart 0 (fun q => { q with resolving := [(0, 4, 0)] }))).getF F.partUpdate_outcome 0 = 4 := by decide +kernel
def tok (kind : CtlMsg) (dst : Nat) : Ctl := ⟨kind, true, 0, dst, 0, 0, 0⟩
theorem witness_TokensAndMessages :
    (let s := run0.modCore 0 (fun q => { q with verdicts := [(65535, true)] })
     (s.core 0).verdicts.find? (fun v => decide (v.1 = (65535#16).toNat)) = some ((65535#16).toNat, true) ∧ (s.core 0).tags = [] ∧
       (s.core 0).consumers = [] ∧ (go (.proofTokenSend 0 65535) s).ctl = [tok (.proofToken 0 65535 true) stewardNode]) ∧
    (run0.part 0).arrivals = none ∧ run0.ownerOf 1 = some 0 ∧ run0.ownerOf 4095 ≠ some 0 ∧
    ((go (.proofToken (tok (.proofToken 0 9 true) 1)) run0).core 1).proven = [(0, 9)] ∧
    ((go (.proofToken (tok (.proofToken 0 9 true) (siteNode 39))) run0).site 39).tokens.length = 1 ∧
    ((go (.retractToken (tok (.retractToken 0 9 false) (siteNode 0))) run0).site 0).tokens.length = 1 ∧
    (dropFirst (tok (.aliasUpdate 4095 0x1002 1) 1) run0.ctl).all (fun k => decide (k.part ≠ 0)) = true ∧
    Tab.get (fun _ => 0) ((go (.aliasUpdate 1 (tok (.aliasUpdate 4095 0x1002 1) 1)) run0).core 1).xlat 4095 = 0x1002 ∧
    (let s := run0.modPart 0 (fun q => { q with pauseAsked := [(none, 0)] })
     ((go (.hold 0 (tok (.hold 0) stewardNode)) s).part 0).pauseAsked = []) ∧
    (CtlMsg.aliasUpdate 0 0 0).isHigh = true := by decide +kernel

/-! ### Witnesses: supplies, power -/
theorem witness_SuppliesAndReferences : (9#8).toNat < 10 ∧ 10 ≤ (10#8).toNat ∧ ((go (.droopStretch 5 9) run0).core 5).stretch = true ∧ (run0.core 5).stretch = false ∧
    (run0.core 5).rising = none ∧ ((run0.modCore 5 (fun q => { q with rising := some 4 })).core 5).rising = some 4 ∧
    (go (.voltageReached 5) (run0.modCore 5 (fun q => { q with rising := some 4 }))).getF F.vregPoint_divisor 5 = 4 ∧
    ((run0.setF F.tilePhases_in_service 3 0x8000).getF F.tilePhases_in_service 3).testBit 15 = true ∧
    run0.getF F.tileStatus_holdover 0 = 0 ∧ (run0.setF F.tileStatus_holdover 7 1).getF F.tileStatus_holdover 7 = 1 := by decide +kernel
/-- Core 9 runs at the top point; die 0 is over its limit at 255 °C. -/
def runCore : State := (run0.setF F.vregPoint_state 9 vRun).setF F.vregPoint_divisor 9 0
def hotDie : State := go (.thermalSample 0 255) runCore
theorem witness_DistressAndHeatSlowCores : run0.getF F.tileStatus_distress 7 = 0 ∧ (go (.supplyDistressOnset 0) run0).getF F.tileStatus_distress 0 = 1 ∧
    run0.getF F.vregPoint_state 9 ≠ vRun ∧ runCore.getF F.vregPoint_state 9 = vRun ∧ (runCore.core 9).distSteps = 0 ∧
    runCore.pointOf (runCore.ownerNum 9) 9 ≠ 4 ∧
    ((go (.supplyDistress 9 ⟨.supplyDistress, true, 255, 9, tileNode 0, 0, 0⟩) runCore).core 9).distSteps = 1 ∧
    hotDie.overLimit 0 0 = true ∧ (hotDie.die 0).hot = true ∧ (hotDie.die 0).told = false ∧ runCore.overLimit 0 0 = false ∧ (runCore.die 0).hot = false ∧
    (go (.thermalSample 0 0) hotDie).overLimit 0 5 = false ∧ ((go (.thermalSample 0 0) hotDie).die 0).hot = true ∧
    ((go (.thermalRecovery 0) (go (.thermalSample 0 0) hotDie)).die 0).hot = false := by decide +kernel
theorem witness_floorPoint : ∃ s : State, s.getF F.vregPoint_state 9 = vRun ∧ s.pointOf (s.ownerNum 9) 9 = 4 ∧ (s.core 9).distSteps = 0 ∧
    s.floorCode (s.ownerNum 9) ≤ s.pointOf (s.ownerNum 9) 9 := ⟨runCore.modCore 9 (fun q => { q with derateD := 4 }), by decide +kernel⟩
theorem witness_ModulePowerStates : admin0.admitted (.pf 0) = true ∧ admin0.pwState ≠ pwStandby ∧ admin0.anyRunning = false ∧ run0.anyRunning = true ∧
    ((admin0.setF F.pwrState_state 0 pwHold).pwState = pwHold ∧ admin0.getF F.pwrState_leak 0 = 0) ∧
    (admin0.setF F.pwrState_state 0 pwStandby).pwState = pwStandby ∧ admin0.getF F.pwrState_steward_mode 0 = 0 ∧ admin0.pwState = pwActive ∧
    (admin0.setF F.pwrCfg_idle_hold_ms 0 1).getF F.pwrCfg_idle_hold_ms 0 ≠ 0 ∧
    (go (.leakDetected 2) run0).getF F.pwrState_leak 0 = 1 ∧ run0.pState 0 = psRunning ∧
    (rangeFrom 0 4).all (fun h => decide (admin0.getF F.epdHost_mode h ≠ 1) || decide (admin0.getF F.epdHost_up h = 0)) = true ∧
    (let s := (run0.setPState 0 psPaused).modCore 1 (fun q => { q with atBar := some (true, 0) })
     s.ownerOf 1 = some 0 ∧ s.pState 0 = psPaused ∧ (s.core 1).atBar.isSome = true ∧ (s.setF F.vregPoint_state 1 vRun).getF F.vregPoint_state 1 ≠ vOff) := by
  decide +kernel
/-- Partition 0 runs over a cap of 2,400 W. -/
def overCap : State := (run0.setF F.pwrInput_watts 0 2401).setF F.pwrCapEff_watts 0 2400
theorem witness_PowerCapFollowsItsSources : admin0.getF F.pwrCapEff_ramping 0 = 0 ∧ (admin0.setF F.pwrCapEff_ramping 0 1).getF F.pwrCapEff_ramping 0 = 1 ∧
    admin0.lowestCap.1 < 2 ^ 16 ∧ (∀ v ∈ [0, 2400, 24000], (admin0.setF F.pwrCapShadow_cap_w 0 v).getF F.pwrCapShadow_cap_w 0 = v) ∧
    (admin0.setF F.pwrCapShadow_ramp_w_ms 0 24000).getF F.pwrCapShadow_ramp_w_ms 0 = 24000 ∧
    (go (.pwrCapCommit (.pf 0) 1) ((admin0.setF F.pwrCapShadow_cap_w 0 2400).setF F.pwrCapShadow_ramp_w_ms 0 1)).getF F.pwrCap_cap_w 0 = 2400 ∧
    (go (.pwrCapCommit (.pf 0) 1) (admin0.setF F.pwrCapShadow_cap_w 0 2399)).getF F.pwrCapCommit_error 0 = 1 ∧
    admin0.getF F.sbPinmux_pwrcap 0 = 0 ∧ admin0.mod.spoiled = false ∧ (admin0.setF F.sbPinmux_pwrcap 0 1).getF F.sbPinmux_pwrcap 0 = 1 ∧
    ([0, 4095] : List CoreIx).Nodup := by decide +kernel
theorem witness_capPause : overCap.getF F.pwrCapEff_watts 0 < overCap.getF F.pwrInput_watts 0 ∧ overCap.mostOver = some 0 ∧
    run0.getF F.pwrInput_watts 0 ≤ run0.getF F.pwrCapEff_watts 0 ∧
    (∀ a < 64, ∀ b < 64, overCap.getF F.vregPoint_state (64 * a + b) ≠ vRun) := by decide +kernel
theorem witness_capResume : ∀ st ∈ [psRunning, psPaused], let s := (run0.setF F.partPower_cap_paused 0 1).setPState 0 st
    s.getF F.partPower_cap_paused 0 = 1 ∧ s.getF F.pwrState_leak 0 = 0 ∧ (s.part 0).arrivals = none ∧ s.pState 0 = st ∧ s.pwState ≠ pwHold ∧
    10 * s.getF F.pwrInput_watts 0 + 11 * s.getF F.partPower_watts 0 ≤ 10 * s.getF F.pwrCapEff_watts 0 ∧
    10 * s.getF F.pwrInput_watts 0 + 11 * (s.part 0).pausedWatts ≤ 10 * s.getF F.pwrCapEff_watts 0 ∧
    (go (.capResume 0) s).getF F.partPower_cap_paused 0 = 0 ∧
    (let u := s.modPart 0 (fun q => { q with pausedWatts := 60000 })
     10 * u.getF F.pwrCapEff_watts 0 < 10 * u.getF F.pwrInput_watts 0 + 11 * (u.part 0).pausedWatts) := by decide +kernel
/-- A sample gives each die its own current. -/
theorem witness_capCheck : (([(0, 5), (63, 1023)] : List (DieIx × BitVec 10)).map (·.1)).Nodup ∧
    (let t := go (.capCheck ⟨0, 0, 0, 0, [], [(0, 5), (63, 1023)]⟩ []) run0
     t.getF F.tileStatus_current 0 = 5 ∧ t.getF F.tileStatus_current 63 = 1023) := by decide +kernel

/-! ### Witnesses: events, queues -/
/-- An event at partition 63's controller, enabled, undelivered by coalescing of one event at once; a full queue. -/
def ev : EvRec := ⟨510, 0x1050, 1, 63, 7, 0⟩
def evOn : State := (((ready0.setF F.evtEvent_enable (63 * 512 + 510) 1).setF F.evtCtrl_enable 63 1).setF F.evtCoal_count (63 * 16 + 0) 0).setF F.evtCoal_time_us (63 * 16 + 0) 0
def evFull : State := (ready0.setF F.evtRqTail_index 64 4096).setF F.evtEvent_enable (64 * 512 + 3) 0
theorem witness_EventControllersCountAndDeliver : evOn.overtakes 63 ev = false ∧
    (let s := { evOn with evNet := [(63, { ev with num := 509 }), (63, ev)] }
     s.overtakes 63 ev = true ∧ (go (.eventRecord 63 ev) s).out = [] ∧ { ev with num := 509 } ≠ ev) ∧ ev.num < 511 ∧ evOn.getF F.evtEvent_class (63 * 512 + 510) = 0 ∧
    evOn.getF F.evtCtrl_hold 63 = 0 ∧ (go (.eventRecord 63 ev) evOn).out = [.msix 63] ∧
    (evFull.getF F.evtRqTail_index 64 + 8192 - evFull.getF F.evtRqHead_index 64) % 8192 = 4096 ∧ evOn.evU 63 15 = 0 ∧
    (let s := go (.eventRecord 63 ev) ((ready0.setF F.evtEvent_enable (63 * 512 + 510) 1).setF F.evtCtrl_hold 63 1)
     s.evU 63 0 = 1 ∧ s.getF F.evtCoal_time_us (63 * 16 + 0) ≠ 0 ∧ (go (.coalesceTimerExpiry 63 0) s).out = [] ∧
       (go (.coalesceTimerExpiry 63 0) ((s.setF F.evtCtrl_hold 63 0).setF F.evtCtrl_enable 63 1)).out = [.msix 63]) := by decide +kernel
theorem witness_eventWrites : admin0.admitted (.pf 0) = true ∧ (BitVec.ofNat 32 16).getLsbD 4 = true ∧ ctrlOf (.pf 0) = 64 ∧
    admin0.getF F.evtCoalShadow_count (64 * 16) ≤ 4096 ∧ ((admin0.setF F.evtCoalShadow_count (64 * 16 + 15) 4097).getF F.evtCoalShadow_count (64 * 16 + 15) = 4097) ∧
    (go (.evtCommitWrite (.pf 0) 0x1F) (admin0.setF F.evtCoalShadow_count (64 * 16 + 15) 4097)).getF F.evtCommit_error 64 = 1 ∧
    (bits (0#32) 0 13 + 8192 - 0) % 8192 ≤ (evFull.getF F.evtRqTail_index 64 + 8192 - 0) % 8192 ∧
    (admin0.getF F.evtRqTail_index 64 + 8192 - admin0.getF F.evtRqHead_index 64) % 8192 < (bits (1#32) 0 13 + 8192 - admin0.getF F.evtRqHead_index 64) % 8192 ∧
    (Ev.ofNum false 511).isSome = true ∧ (Ev.ofNum true 1).isSome = true ∧ (Ev.ofNum false 510).isSome = false := by decide +kernel
theorem witness_CountsClaimsAndOverflows : evFull.overtakes 64 ⟨3, 0x1050, 1, 255, 7, 0⟩ = false ∧ evFull.getF F.evtEvent_enable (64 * 512 + 511) = 1 ∧ evFull.getF F.evtEvent_class (64 * 512 + 511) = 15 ∧
    evFull.getF F.evtCtrl_enable 64 = 0 ∧ evFull.getF F.evtEvent_enable (64 * 512 + 3) = 0 ∧
    (go (.eventRecord 64 ⟨3, 0x1050, 1, 255, 7, 0⟩) evFull).evU 64 15 = 1 ∧
    (go (.evtCompleteWrite (.pf 0) 3) (admin0.setF F.evtEvent_pending (64 * 512 + 3) 9)).getF F.evtEvent_pending (64 * 512 + 3) = 0 := by decide +kernel
/-- Where a controller's EVT.CLAIM stands in the module's window. -/
theorem witness_claim : ∃ off : BitVec 26, off.toNat % 4 = 0 ∧ ∀ j < 4, admin0.windowAt (.pf 0) (off.toNat + j) = .reg .evtClaim 64 j ∧
    admin0.mayReach (.pf 0) (.reg .evtClaim 64 j) = true := ⟨0x400008, by decide +kernel⟩
def oqOn : State := (loaded0.setF F.partOqCfg_enable 0 1).setF F.partOqCfg_log2_entries 0 6
theorem witness_QueuesAreServed : oqOn.queueReach (.vf 0) = true ∧ (63 + 64 - 0 % 64) % 64 = 63 ∧
    ((go (.oqTailWrite (.vf 0) 63 []) oqOn).fn 0).fetched.length = 63 ∧ (go (.oqTailWrite (.vf 0) 64 []) oqOn).getF F.partQStat_queue_error 0 = 1 ∧
    loaded0.getF F.partOqCfg_enable 0 = 0 ∧
    (∀ v ∈ [6, 12], (go (.queueCfgWrite (.vf 0) true (BitVec.ofNat 32 (16 + v))) loaded0).getF F.partCqCfg_log2_entries 0 = v) ∧
    (∀ v ∈ [5, 13], (go (.queueCfgWrite (.vf 0) false (BitVec.ofNat 32 (16 + v))) loaded0).getF F.partQStat_queue_error 0 = 1) ∧
    (let s := ((loaded0.setF F.partCqCfg_enable 0 1).setF F.partCqCfg_log2_entries 0 6).setF F.partQStat_cq_tail 0 3
     (go (.cqHeadWrite (.vf 0) 3) s).getF F.partCqHead_index 0 = 3 ∧ (go (.cqHeadWrite (.vf 0) 4) s).getF F.partQStat_queue_error 0 = 1 ∧ (s.fn 0).held = []) := by
  decide +kernel
/-- A START entry with tag 4095, waiting at partition 0's function, and an OPEN of a module session at a host port. -/
def startEntry : Row := entry [(0, 4), (2, 4095), (5, 1)]
def openEntry : Row := entry [(0, 1), (2, 1), (4, 255), (5, 1)]
def withEntry (k : Nat) (w : Row) (s : State) : State := s.modFn k (fun q => { q with fetched := [w] })
def hostUp : State := loaded0.setF F.epdHost_up 0 1
theorem witness_arbitration : (withEntry 0 startEntry hostUp).fetches 0 = true ∧ (∀ j ∈ rangeFrom 64 6, ((withEntry 0 startEntry hostUp).fn j).fetched = []) ∧
    hostUp.formatOk 0 startEntry = true ∧ ordByte startEntry 0 ≠ opOpen ∧ (hostUp.fn 0).session.isSome = true ∧ hostUp.formatOk 0 0 = false ∧
    (((go (.arbitrationCycle 0) (withEntry 0 startEntry hostUp)).fn 0).orders.map (·.tag)) = [4095] ∧
    hostUp.formatOk 68 openEntry = true ∧ ordByte openEntry 4 = 255 ∧ mgmtMay (ordByte openEntry 0) = true ∧ hostUp.fetches 69 = true ∧
    (((go (.arbitrationCycle 64) (withEntry 69 openEntry hostUp)).fn 69).orders.map (·.tag)) = [1] ∧ mgmtMay 4 = false := by decide +kernel
/-! ### Witnesses: sessions and orders -/
/-- An order of a path with tag 4095, ready to act. -/
def ord (path : Path) (op : Nat) (l : List (Nat × Nat)) : OrderSt := ⟨path, 4095, entry ([(0, op), (2, 4095), (5, 1)] ++ l), 1, 0, 0⟩
def withOrd (o : OrderSt) (s : State) : State := s.modFn (pathIx o.path) (fun q => { q with orders := q.orders ++ [o] })
theorem witness_SessionsOpenAndClose :
    (let o := ord (.vf 0) opOpen []
     let s := withOrd o ready0
     s.orderReady (.vf 0) 4095 opOpen o ∧ o.part = 0 ∧ ordByte o.words 16 = 0 ∧ (s.fn 0).session = none ∧ s.pState 0 = psEmpty ∧
       s.getF F.partState_zero_pending 0 = 0 ∧ s.keyFor 0 0 = some 7 ∧ (s.fn 0).nonceValid = false ∧
       (s.setF F.partSessStat_locked 0 1).getF F.partSessStat_locked 0 = 1 ∧ (s.setF F.partSessStat_failures 0 4).getF F.partSessStat_failures 0 = 4) ∧
    ready0.queueReach (.vf 63) = true ∧ State.reset.queueReach (.vf 0) = true ∧
    (State.reset.setF F.modState_state 0 mSafe).queueReach (.pf 0) = false ∧ (loaded0.fn 0).session.isSome = true ∧ loaded0.getF F.partSessCfg_idle_s 0 ≠ 0 ∧
    (loaded0.fn 0).orders = [] ∧ loaded0.pState 0 ≠ psRunning ∧ loaded0.ordersOn 0 = [] ∧
    (go (.sessionTimeout (.vf 0)) loaded0).pState 0 = psZero ∧ (go (.teardownDone 0) (loaded0.setPState 0 psZero)).pState 0 = psEmpty := by decide +kernel
theorem witness_close : ∀ st ∈ [psLoaded, psHeld, psRunning], let o := ord (.vf 0) opClose []
    let s := withOrd o (loaded0.setPState 0 st)
    s.orderReady (.vf 0) 4095 opClose o ∧ (go (.closeSession (.vf 0) 4095) s).pState 0 = psZero := by decide +kernel
theorem witness_zeroing : (loaded0.setF F.partState_zero_pending 0 1).getF F.partState_zero_pending 0 = 1 ∧ loaded0.heldShared 0 = [] ∧
    ((loaded0.modFn 1 (fun q => { q with session := some 0 })).modPart 1 (fun q => { q with joinedEver := [0] })).heldShared 0 ≠ [] ∧
    (go (.sharedExtentZeroing 0) (loaded0.setF F.partState_zero_pending 0 1)).getF F.partState_zero_pending 0 = 0 := by decide +kernel
/-- Two functions ask for a session while one is open. -/
theorem witness_SessionsStaySingle : (withOrd (ord (.mgmt 1) opOpen [(4, 255)]) admin0).orderReady (.mgmt 1) 4095 opOpen (ord (.mgmt 1) opOpen [(4, 255)]) ∧
    64 ∈ rangeFrom 64 6 ∧ (admin0.fn 64).session.isSome = true ∧ admin0.oneAdmin ∧
    (withOrd (ord (.vf 0) opOpen []) loaded0).orderReady (.vf 0) 4095 opOpen (ord (.vf 0) opOpen []) ∧ (loaded0.fn 0).session.isSome = true := by decide +kernel
theorem witness_RunOrdersAct : (loaded0.order (.vf 0) 4095) = none ∧
    (∀ x ∈ [(opLoad, psRunning), (opStart, psRunning), (opPause, psLoaded), (opResume, psLoaded), (opCancel, psZero), (opFeed, psOpened), (opReadOut, psZero),
        (opCheckpoint, psOpened), (opRestore, psRunning), (opJoin, psHeld), (opLeave, psHeld), (opClose, psZero)],
      let o := ord (.vf 0) x.1 []
      let s := withOrd o (loaded0.setPState 0 x.2)
      s.order (.vf 0) 4095 = some o ∧ o.opcode = x.1 ∧ s.blockedOrder o = false ∧ o.part = 0 ∧
        admits x.1 (s.pState 0) (s.flagF F.partState_pause_pending 0) = false) ∧
    (let o := ord (.vf 0) opStart []
     let s := withOrd o loaded0
     s.orderReady (.vf 0) 4095 opStart o ∧ s.getF F.partState_restore_incomplete 0 = 0 ∧ s.pwState ≠ pwHold ∧ s.feedsMissing 0 0 = false ∧
       s.activeOf 0 = [0, 1] ∧ (s.core 0).state ≤ 1 ∧ (s.core 1).state ≤ 1 ∧ (s.setF F.pwrState_state 0 pwHold).orderReady (.vf 0) 4095 opStart o ∧
       (s.setF F.partState_restore_incomplete 0 1).orderReady (.vf 0) 4095 opStart o ∧ (go (.start (.vf 0) 4095) s).pState 0 = psRunning) := by
  decide +kernel
/-- Of two ready orders, the one that became ready first acts. -/
theorem witness_turns : let o := { ord (.vf 0) opStart [] with since := 1 }
    let m := { ord (.vf 0) opFeed [] with tag := 4094 }
    let s := withOrd o (withOrd m loaded0)
    m ∈ s.ordersOn o.part ∧ s.order (.vf 0) 4095 = some o ∧ m.stage = 1 ∧ s.inTurn m = false ∧ m.since < o.since ∧ go (.start (.vf 0) 4095) s = s := by
  decide +kernel
theorem witness_pauses :
    (∀ st ∈ [psRunning, psPaused], let o := ord (.vf 0) opPause [(16, 255)]
      let s := withOrd o (run0.setPState 0 st)
      s.orderReady (.vf 0) 4095 opPause o ∧ s.pState 0 = st) ∧
    (let o := ord (.pf 0) opResume [(4, 0)]
     let s := withOrd o ((run0.setPState 0 psPaused).modPart 0 (fun q => { q with paused := some 5 }))
     s.orderReady (.pf 0) 4095 opResume o ∧ o.isMgmt = true ∧ s.pwState ≠ pwHold ∧ s.noPauses 0 ∧ (s.part 0).arrivals = none ∧
       (go (.resume (.pf 0) 4095) s).pState 0 = psRunning ∧ (go (.pauseExpired 0) s).pState 0 = psRunning) ∧
    (let o := ord (.vf 0) opResume []
     let s := withOrd o ((run0.setPState 0 psPaused).setF F.partPower_cap_paused 0 1)
     s.orderReady (.vf 0) 4095 opResume o ∧ o.isMgmt = false ∧ s.getF F.partPower_cap_paused 0 = 1) := by decide +kernel
theorem witness_cancels :
    (let o := ord (.vf 0) opCancel [(18, 4095)]
     let s := withOrd o run0
     s.orderReady (.vf 0) 4095 opCancel o ∧ ordByte o.words 16 = 0 ∧ ordNat o.words 18 2 = 4095 ∧ o.tag = 4095) ∧
    (let o := ord (.vf 0) opCancel []
     let x : OrderSt := { ord (.vf 0) opFeed [] with tag := 0 }
     let s := withOrd o (withOrd x run0)
     s.orderReady (.vf 0) 4095 opCancel o ∧ s.order (.vf 0) (ordNat o.words 18 2) = some x ∧ x.tag ≠ o.tag ∧ x.stage < 2 ∧
       (go (.cancelKind0 (.vf 0) 4095) s).order (.vf 0) 0 = none) ∧
    (let o := ord (.vf 0) opCancel [(16, 1)]
     let s := withOrd o run0
     s.orderReady (.vf 0) 4095 opCancel o ∧ ordByte o.words 16 = 1 ∧ s.pState 0 = psRunning ∧ (go (.cancelKind1 (.vf 0) 4095) s).pState 0 = psLoaded) := by
  decide +kernel
def exiting : State := (loaded0.setF F.pwrState_state 0 pwHold).modCore 0 id
theorem witness_holdExit : let s := { exiting with mod := { exiting.mod with exiting := true } }
    s.mod.exiting = true ∧ s.pwState = pwHold ∧ s.mod.wakers = [] ∧ (∀ q < 64, (s.part q).resumeDue = false) ∧ loaded0.mod.exiting = false := by decide +kernel
/-- A capsule of one active core and one standby, each program one STEP barrier a step, with one update group and no section bytes
beyond the table. -/
def prog : List Word := [word 6 [(40, 1), (24, 1)], word 3 [(54, 1)], word 1 []]
def planA : Plan := ⟨[⟨0, 0x200000, prog⟩], [], [], [], [(0, 1, 0)], [], [], []⟩
def capsuleBody : Capsule := { cap0 with active := 1, standby := 1, recovery := 1, entries := [0x1000, 0x2001], normal := some planA, uniform := planA,
                                         groups := [⟨0, 0x300000, BitVec.ofNat 512 (0x22 <<< 168), true, 1, 0⟩], streamGroups := [], inputs := [], persist := [], buddies := []
                                         tolerance := [0] }
def capsuleRest : List Byte := (rangeFrom 1 15).flatMap (fun k => leBytes (k + 1 <<< 16 + 496 <<< 64) 16)
def capsuleHead : BitVec 2048 :=
  let f (k v : Nat) : Nat := v <<< (8 * k)
  BitVec.ofNat 2048 (f 0 0x50435747 + f 4 1 + f 6 256 + f 8 496 + f 16 15 + f 18 1 + f 20 1 + f 22 8 + f 24 1 + f 32 (ofLe (sha256 capsuleRest))
    + f 72 0x1050141)
/-- Nothing is wrong with it; another length is detail 1. -/
theorem witness_loadCapsule :
    let o := ord (.vf 0) opLoad [(24, 496)]
    let s := withOrd o (ready0.setPState 0 psOpened)
    s.orderReady (.vf 0) 4095 opLoad o ∧ (s.part 0).loading = none ∧ ordNat o.words 24 8 = 496 ∧
    s.judgeCapsule 0 496 capsuleHead capsuleRest (capsuleOf capsuleHead capsuleBody) = 0 ∧
    s.judgeCapsule 0 497 capsuleHead capsuleRest (capsuleOf capsuleHead capsuleBody) = 1 ∧
    (go (.capsuleLoadDone 0) (ready0.modPart 0 (fun q => { q with loading := some (o, { cap0 with groups := [] }) }))).pState 0 = psLoaded := by decide +kernel
theorem witness_DataOrdersAct :
    (let o := ord (.vf 0) opFeed [(24, 4096)]
     let s := withOrd o loaded0
     s.orderReady (.vf 0) 4095 opFeed o ∧ s.feedBuf o = some ⟨0, 0x100000, 4096, false⟩ ∧ feedLen o = 4096 ∧ s.stepBegun 0 (feedStep o) = false ∧
       (let t := go (.feed (.vf 0) 4095) s
        t.order (.vf 0) 4095 = some { o with stage := 2 } ∧ (t.part 0).beginWait = false ∧ feedStep o ≤ 1 ∧ (t.part 0).arrivals = none)) ∧
    (let o := ord (.vf 0) opFeed [(24, 4097)]; feedLen o = 4097 ∧ (withOrd o loaded0).orderReady (.vf 0) 4095 opFeed o) ∧
    (let o := ord (.vf 0) opFeed [(24, 1), (28, 1)]; (withOrd o loaded0).feedBuf o = none ∧ (withOrd o loaded0).orderReady (.vf 0) 4095 opFeed o) ∧
    (let o := ord (.vf 0) opFeed [(24, 1)]
     (withOrd o run0).stepBegun 0 (feedStep o) = true ∧ (withOrd o run0).orderReady (.vf 0) 4095 opFeed o) := by decide +kernel
theorem witness_readOut :
    (let o := ord (.vf 0) opReadOut [(16, 2 ^ 30 - 4096), (32, 4096)]
     ((withOrd o loaded0).blocksOf 0 (ordNat o.words 16 8) 4096).isSome = true ∧ (withOrd o loaded0).orderReady (.vf 0) 4095 opReadOut o ∧
       ordNat o.words 32 4 = 4096 ∧ (withOrd o loaded0).pState 0 ≠ psRunning ∧ (go (.readOut (.vf 0) 4095) (withOrd o loaded0)).order (.vf 0) 4095 = none ∧
       (withOrd o run0).orderReady (.vf 0) 4095 opReadOut o ∧ (withOrd o run0).pState 0 = psRunning) ∧
    (let o := ord (.vf 0) opReadOut [(16, 2 ^ 40), (32, 16)]
     (withOrd o loaded0).blocksOf 0 (ordNat o.words 16 8) 16 = none ∧ (withOrd o loaded0).orderReady (.vf 0) 4095 opReadOut o) := by decide +kernel
def ckpt : OrderSt := ord (.vf 0) opCheckpoint [(18, 1), (20, 1)]
theorem witness_dataOrders2 : (withOrd ckpt run0).orderReady (.vf 0) 4095 opCheckpoint ckpt ∧ (run0.part 0).copy = none ∧
    (withOrd ckpt run0).pastWindow 0 ckpt = true ∧ (withOrd (ord (.vf 0) opCheckpoint []) run0).pastWindow 0 (ord (.vf 0) opCheckpoint []) = false ∧
    (withOrd (ord (.vf 0) opCheckpoint []) run0).orderReady (.vf 0) 4095 opCheckpoint (ord (.vf 0) opCheckpoint []) ∧
    (let o := ord (.vf 0) opRestore []
     (withOrd o loaded0).orderReady (.vf 0) 4095 opRestore o ∧ (loaded0.part 0).restore = none ∧
       (go (.restore (.vf 0) 4095 false) (withOrd o loaded0)).order (.vf 0) 4095 = none) ∧
    (∀ g ∈ ([0, 1] : List Nat), let o := ord (.vf 0) opJoin [(16, g)]
     (withOrd o loaded0).orderReady (.vf 0) 4095 opJoin o ∧ loaded0.isMember 0 g = false ∧
       (((loaded0.image.map (·.groups)).getD []).any (fun d => decide (d.num = g) && d.members.contains 0) = (g == 0)) ∧
       ((loaded0.part 0).cap.any (fun c => c.streamGroups.contains g) = (g == 0))) := by decide +kernel
theorem witness_leave : (let o := ord (.vf 0) opLeave [(16, 0)]
     let s := withOrd o ((loaded0.modPart 0 (fun q => { q with joined := [0] })).modSite 0 (fun q => { q with joining := [(0, 0)] }))
     s.orderReady (.vf 0) 4095 opLeave o ∧ s.isMember 0 0 = true ∧ (∀ m ∈ rangeFrom 0 40, (s.site m).waits = [])) := by decide +kernel
/-- A copy to host port 0, its snapshot taken or not, its header sent or not. -/
def copying (taken header : Bool) : State := run0.modPart 0 (fun q => { q with copy := some ⟨ckpt, 0, 0, [headerBlk], header, taken⟩ })
def ckAck (ok : Bool) : KlFrame := ⟨1, false, false, false, 1, 9, 0, 0, 0, .ckptAck 0 true 0 ok⟩
theorem witness_CheckpointsCopyAndRestore : (run0.part 0).copy = none ∧ ((copying true false).part 0).copy = some ⟨ckpt, 0, 0, [headerBlk], false, true⟩ ∧
    (loaded0.modPart 0 (fun q => { q with copy := some ⟨ckpt, 0, 0, [], false, false⟩ })).pState 0 ≠ psRunning ∧ loaded0.siteUnits 0 0 = [0] ∧
    ((copying true true).part 0).copyQueue = [] ∧ ((go (.ckptAck (ckAck true)) (copying true true)).part 0).copy = none ∧
    ((go (.ckptAck (ckAck false)) (copying false false)).part 0).copy = none ∧
    (run0.setF F.ldgRecv_frame_count 0 4).getF F.ldgRecv_frame_count 0 ≠ 0 ∧ run0.getF F.ldgRecv_frame_count 0 = 0 ∧
    ((run0.image.map (·.ckptSenders)).getD []).any (fun e => decide (e.1 = 9) && decide (e.2.1 = 0)) = true ∧
    ((run0.image.map (·.ckptSenders)).getD []).any (fun e => decide (e.1 = 9) && decide (e.2.1 = 1)) = false := by decide +kernel
theorem witness_stewardOrder : let s := ((copying true false).setF F.epdHost_up 1 1).modSite 3 (fun q => { q with
        copying := [⟨0, 0, [0], 0, []⟩], ahead := [(0, 5, 7, false, 0)] })
    (s.part 0).copy.isSome = true ∧ ckpt.toCxl = true ∧ s.cxlWindow 0 ckpt.buddy = some (0, 2 ^ 30) ∧ s.getF F.epdHost_up ckpt.buddy = 1 ∧
    ((s.site 3).copying.find? (fun k => k.part = 0)).isSome = true ∧ (s.site 3).leaving.find? (fun e => e.1 = 0) = none ∧ (s.site 3).ahead.find? (fun e => e.1 = 0) = some (0, 5, 7, false, 0) := by decide +kernel
theorem witness_restore : ∀ bad ∈ ([0, 1] : List Nat), let s := run0.modPart 0 (fun q => { q with restore := some ⟨ord (.vf 0) opRestore [], bad⟩ })
    (s.part 0).restore.isSome = true ∧ (translate (s.copyExtents 0) (3 * 4096)).isSome = true ∧ (s.place 0 (3 * 4096)).map (fun x => (x.site, x.blk, x.key)) = (translate (s.copyExtents 0) (3 * 4096)).map (fun x => (x.site, x.blk, x.key)) ∧
    ((go (.restoreDone 0 []) s).part 0).restore = none := by decide +kernel

/-! ### Witnesses: recovery, health -/
def policy (cls act : Nat) (s : State) : State := s.setReg .partFaultPolicy 0 (BitVec.ofNat 64 (act <<< (2 * cls)))
def failed (stage st : Nat) : State := (run0.modPart 0 (fun q => { q with recov := some ⟨0, 0, Ev.coreHang.num, 0, stage, 0, false, []⟩, moved := if stage = 2 then [0] else [] })).modCore 0 (fun q => { q with state := st })
/-- A micro-step of 600 µs and 10 ns, past a limit of 600 µs. -/
def late0 : State := { run0 with now := 60001 }
theorem witness_RecoveryProceeds : run0.ownerOf 1 = some 0 ∧ (run0.core 1).overrun = false ∧
    100 * late0.getF F.seqUstepLimit_limit 1 < late0.now - (late0.core 1).releasedAt ∧ ((go (.ustepOverrun 1) late0).core 1).overrun = true ∧
    run0.now - (run0.core 1).releasedAt ≤ 100 * run0.getF F.seqUstepLimit_limit 1 ∧
    (∀ a ∈ [1, 2], bits ((policy 3 a run0).reg .partFaultPolicy 0) 6 2 = a) ∧ (go (.coreHang 1) (policy 3 1 run0)).pState 0 = psStopped ∧
    ((go (.coreHang 1) (policy 3 2 run0)).core 1).state = 2 ∧ run0.ownerOf 64 = some 0 ∧ run0.logicalOf 0 64 = none ∧ run0.logicalOf 0 1 = some 1 ∧
    ((go (.coreHang 64) (policy 3 2 run0)).part 0).recov = none ∧ ((go (.coreHang 1) (policy 3 2 (failed 0 2))).part 0).faults.map (·.logical) = [1] ∧
    ((failed 0 2).part 0).faults = [] ∧ ((failed 0 2).core 0).state = 2 ∧ ((failed 0 2).part 0).recov.isSome = true ∧
    ((failed 0 0).core 0).state ≠ 2 ∧ ((failed 0 2).healthOf 0).state = 0 ∧ ((failed 0 2).healthOf 0).times = [] ∧
    ((go (.faultRetryDone 0 true 0 0) (failed 0 2)).core 0).state = 4 ∧ ((go (.faultRetryDone 0 false 0 0) (failed 0 2)).core 0).state = 0 := by decide +kernel
theorem witness_drain : (∀ c ∈ (failed 1 2).coresOf 0, ((failed 1 2).core c).tags = []) ∧ (failed 1 2).standbys 0 = [] ∧
    (go (.recoveryDrainDone 0) (failed 1 2)).pState 0 = psHeld ∧ (failed 2 0).physOf 0 0 = some 0 ∧ ((failed 2 0).part 0).arrivals = none ∧
    ((failed 1 2).modCore 0 (fun q => { q with tags := [⟨0, 0, 0, 0, 1, pkt0⟩] })).standbys 0 = [] := by decide +kernel
/-- Core 0 of partition 0 has failed, and logical core 2 is a standby on core 64. -/
def spared : State := (failed 1 4).modPart 0 (fun q => { q with aliasTab := [(0, 0x1000), (1, 0x1001), (2, 0x2040)] })
theorem witness_switch : (∀ c ∈ spared.coresOf 0, (spared.core c).tags = []) ∧ (spared.part 0).failedStep.contains 0 = false ∧ spared.ownerOf 64 = some 0 ∧ spared.standbys 0 = [(2, 64)] ∧
    Tab.get (fun _ => 0) ((go (.recoveryDrainDone 0) spared).part 0).aliasTab 0 = 0x1040 ∧
    Tab.get (fun _ => 0) ((go (.recoveryDrainDone 0) spared).part 0).aliasTab 2 = 0 := by decide +kernel
/-- Both its cores have failed, and two standbys stand by: each takes one's number. -/
def spared2 : State := (failed 1 4).modPart 0 (fun q => { q with faults := [⟨1, 1, Ev.coreHang.num, 0, 1, 0, false, []⟩]
                                                                 aliasTab := [(0, 0x1000), (1, 0x1001), (2, 0x2040), (3, 0x2041)] })
theorem witness_switchTwo : (∀ c ∈ spared2.coresOf 0, (spared2.core c).tags = []) ∧ spared2.ownerOf 65 = some 0 ∧ spared2.standbys 0 = [(2, 64), (3, 65)] ∧
    (spared2.part 0).failedStep.contains 0 = false ∧ (spared2.part 0).failedStep.contains 1 = false ∧
    [0, 1, 2, 3].map (Tab.get (fun _ => 0) ((go (.recoveryDrainDone 0) spared2).part 0).aliasTab) = [0x1040, 0x1041, 0, 0] := by decide +kernel
theorem witness_loadMirror : ((failed 2 0).part 0).moved = [0] ∧ ((failed 2 0).loadMirror 0 0 0).2 = true ∧ ((failed 2 0).ownerOf 9) = none := by decide +kernel
theorem witness_HealthRecordIsKept : (let s := ({ run0 with now := 10 ^ 8 * (168 * 3600 + 5) }).setHealth 7 { run0.healthOf 7 with state := 2, changed := 5, times := [5] }
     ((s.healthOf 7).state = 1 ∨ (s.healthOf 7).state = 2) ∧ max ((s.healthOf 7).times.headD 0) (s.healthOf 7).changed + 168 * 3600 ≤ s.seconds ∧
     unitOk 7 = true ∧ (go (.healthDecay 7) s).unitState 7 = 1) ∧
    (BitVec.ofNat 32 (65536 + 7)).getLsbD 16 = true ∧ bits (BitVec.ofNat 32 (65536 + 7)) 0 16 = 7 ∧ unitOk 65535 = false ∧
    (go (.healthCleared (.pf 0) 0x10007) admin0).unitState 7 = 0 ∧ (∀ e ∈ run0.health, run0.healthOf e.1 = e.2) ∧
    run0.writesNow { run0.healthOf 7 with due := true } = true := by decide +kernel
/-- One entry is due, and the log is empty. -/
def dueHealth : Health := { Health.init with state := 1, count := 1, times := [9], changed := 9, due := true }
theorem witness_healthLog : (let s := { run0 with health := [(7, dueHealth)] }
     s.writesNow dueHealth = true ∧ s.mod.logPos + 1 < halfRecords ∧ s.mod.logHalf ≤ 1 ∧
       (rangeFrom 0 64).map (fun i => (go .healthRecordWrite s).flashByte 1 (logBase + i)) = logRecord 7 dueHealth s.mod.logSeq) := by decide +kernel
/-! ### Witnesses: links, ports, hosts -/
def frame (body : KlBody) (seq cum : Nat) : KlFrame := ⟨1, false, false, false, 1, 9, 0, seq, cum, body⟩
/-- Sub-port 0 of port 0 belongs to partition 0; its connection to module 9 is open. -/
def linked : State := run0.setConn { Conn.init 0 9 with status := 1 }
theorem witness_ConnectionsOpenAndRetry : run0.knowsPeer 9 = true ∧ run0.knowsPeer 8 = false ∧ (2 : Nat).testBit 1 = true ∧ (1 : Nat).testBit 1 = false ∧
    (linked.conn 0 9).status = 1 ∧ (run0.conn 0 9).status ≠ 1 ∧ (run0.conn 0 9).status ≠ 2 ∧ (linked.conn 0 9).chans.length = 3 ∧
    ((linked.conn 0 9).chans.getD 2 .init).backlog = [] ∧ ((go (.helloAck 0 (frame (.helloAck 1 2 9 0) 0 0)) run0).conn 0 9).status = 1 ∧
    ((go (.helloAck 0 (frame (.helloAck 1 1 9 0) 0 0)) run0).conn 0 9).status = 2 ∧ (go (.helloRetry 0 9) run0).out.length = 1 := by decide +kernel
/-- A frame of channel 0 waits for its acknowledgement, sent `n` times again. -/
def unacked (n : Nat) : State := run0.setConn { Conn.init 0 9 with status := 1, chans := [⟨2, [(frame (.prepared 0) 1 0, n)], [], 1, []⟩, .init, .init] }
theorem witness_retransmit : (∀ n ∈ [0, 1, 2, 15],
      (((unacked n).conn 0 9).chans.getD 0 .init).unacked.find? (fun e => e.1.seq = (1#32).toNat) = some (frame (.prepared 0) 1 0, n) ∧
      ((unacked n).conn 0 9).status = 1 ∧ (unacked n).conns = [(unacked n).conn 0 9] ∧ (unacked n).pfcPaused 0 0 = false) ∧
    (unacked 0).getF F.epdKlCfg_retries 0 ≤ 15 ∧ 0 < (unacked 0).getF F.epdKlCfg_retries 0 ∧
    ((run0.conn 0 9).chans.getD 0 .init).unacked.find? (fun e => e.1.seq = 1) = none ∧
    ((unacked 0).modEdge 0 (fun q => { q with paused := [(0, 5)] })).pfcPaused 0 0 = true ∧
    (go (.klRetransmitTimeout 0 9 0 1) (unacked 0)).out = [.frame 0 { frame (.prepared 0) 1 0 with retx := true }] ∧
    (go (.klRetransmitTimeout 0 9 0 1) (unacked 15)).conns = [Conn.init 0 9] ∧
    ((((go (.ack 0 (frame .ack 0 1) 0) (unacked 0)).conn 0 9).chans.getD 0 .init).unacked) = [] := by decide +kernel
def rxf (f : KlFrame) : RxFrame where
  macBad := false
  fecBad := 0
  pause := false
  len := 100
  vlans := 2
  ether := 0
  ihl := 20
  exts := []
  frag := false
  udp := true
  portOk := true
  l2 := 36
  ip := 0
  ipLessExt := 0
  udpLen := 0
  head := f.header 0
  payload := []
  trailer := crc32c (leBytes (f.header 0).toNat 32)
  body := f.body
  answerable := true
theorem witness_PortsTakeFrames :
    (let r := rxf (frame (.prepared 0) 1 0)
     withinStructure r = true ∧ badLengths r = false ∧ r.frame.dst = run0.moduleId ∧ r.frame.ver = (linked.conn 0 9).ver ∧ r.frame.part = linked.subOwner 0 ∧
       r.frame.body.chan ≠ 3 ∧ ((linked.conn 0 9).chans.getD 0 .init).expect = 1 ∧ ((linked.conn 0 9).chans.getD 0 .init).early = [] ∧
       (go (.frameReceive 0 r []) linked).klRx = [r.frame] ∧ withinStructure { r with vlans := 3 } = false ∧ badLengths { r with head := r.frame.header 1 } = true ∧
       r.frame = frame (.prepared 0) 1 0 ∧ r.klOk = true ∧ { r with trailer := r.trailer + 1 }.klOk = false ∧ r.macDrops = false ∧
       { r with fecBad := 1 }.macDrops = true ∧ { r with len := 63 }.macDrops = true ∧
       ((run0.image.map (·.ckptPorts)).getD []).contains 0 = true ∧ (go (.frameReceive 0 { r with vlans := 3 } []) linked).getF F.epdStat_exceptions 0 = 1 ∧
       ((go (.exceptionService 0) (go (.frameReceive 0 { r with vlans := 3 } []) linked)).edge 0).exceptions = []) ∧
    isReserved (frame (.prepared 0) 1 0) = false ∧ isReserved (frame (.reserved 31) 1 0) = true ∧
    (go (.frameReceive 0 (rxf (frame (.reserved 31) 1 0)) []) linked).klRx = [] ∧
    isHello (frame (.hello 1 2 9 0) 0 0) = true ∧ (frame .heartbeat 0 0).body.chan = 3 ∧ linked.subOwner 255 = 255 ∧ (run0.edge 7).exceptions = [] ∧
    run0.portServes 31 = true ∧ (run0.setHealth (unitPort 31) { Health.init with state := 3 }).portServes 31 = false ∧
    run0.subPorts 31 = 1 ∧ (run0.setF F.epdPortCfg_mode 31 3).subPorts 31 = 8 ∧ run0.subPorts 33 = 1 ∧ go (.linkUp 31 1) run0 = run0 ∧
    (go (.linkUp 31 7) (run0.setF F.epdPortCfg_mode 31 3)).getF F.epdLink_up 31 = 128 ∧ run0.getF F.epdPortCfg_pfc_en 31 = 0 ∧
    (let s := (run0.setF F.epdPortCfg_pfc_en 31 1).setF F.epdPortCfg_pfc_mask 31 128
     s.getF F.epdPortCfg_pfc_en 31 = 1 ∧ (s.getF F.epdPortCfg_pfc_mask 31).testBit 7 = true ∧
       Tab.get (fun _ => 0) ((go (.pfcFrame 255 [(7, 65535)]) s).edge 7).paused (255 * 8 + 7) = 65535) := by decide +kernel
/-- Every field of the header at its largest value, for a type of its own and for the last reserved one. -/
theorem witness_klHeader : ∀ b ∈ [KlBody.hello 1 2 9 0, .reserved 31], let f : KlFrame := ⟨7, true, true, true, 2 ^ 14 - 1, 2 ^ 14 - 1, 255, 2 ^ 32 - 1, 2 ^ 32 - 1, b⟩
    b.type < 32 ∧ KlFrame.ofHeader (f.header (2 ^ 16 - 1)) b = f ∧ bits (f.header (2 ^ 16 - 1)) 128 16 = 2 ^ 16 - 1 := by decide +kernel
/-- Partition 0 is member 0 of a domain with module 9 as member 1; stream 0 is reduced over the domain. -/
def inDomain : State := linked.modPart 0 (fun q => { q with cap := some { cap0 with domain := some (0, [1, 9]), uniform := { plan0 with streams := [domainRow] } } })
set_option maxRecDepth 200000 in
theorem witness_FramesReachTheirModule : inDomain.rankOf 0 9 = some 1 ∧ inDomain.stream 0 0 = some (Stream.of domainRow) ∧ 63 < grid.blocks ∧
    streamHome (Stream.of domainRow) 63 < 40 ∧ (inDomain.redBlk 3 0 0 63).waitE = [] ∧
    inDomain.agreed 0 (Stream.of domainRow) (inDomain.redBlk 3 0 0 63) = false ∧ (inDomain.redBlk 3 0 0 63).count < 2 ∧
    (inDomain.modSite 3 (fun q => { q with blocks := [RedBlk.init 0 0 0] })).openDomain 0 = true ∧ run0.openDomain 0 = false ∧ inDomain.peersOf 0 = [(1, 9)] ∧ (inDomain.route 0 9).isSome = true ∧
    inDomain.now < Tab.get (fun _ => 0) inDomain.heard (0 * 2 ^ 16 + 9) + 9999 ∧ (run0.part 0).arrivals = none ∧
    ((go (.expMax (frame (.expMax 0 63 [7]) 1 0)) inDomain).redBlk (streamHome (Stream.of domainRow) 63) 0 0 63).peerMax = [(1, 7)] ∧
    ((go (.token (frame (.token 5 6 false false) 1 0)) (failed 0 2)).part 0).faults.map (·.logical) = [65541] ∧
    ((go (.token (frame (.token 5 6 true false) 1 0)) (run0.modPart 0 (fun q => { q with foreign := [(5, 6)] }))).part 0).foreign = [] ∧
    (go (.activation 0 (frame (.activation { pkt0 with kind := .push }) 1 0)) run0).net.length = 1 := by decide +kernel
set_option maxRecDepth 200000 in
theorem witness_memberLost : let s := { (inDomain.modSite 3 (fun q => { q with blocks := [RedBlk.init 0 0 0] })) with now := 9999 }
    s.openDomain 0 = true ∧ s.getF F.partDomain_lost 0 = 0 ∧ (s.setF F.partDomain_lost 0 1).getF F.partDomain_lost 0 = 1 ∧
    Tab.get (fun _ => 0) s.heard (0 * 2 ^ 16 + 9) + 9999 ≤ s.now ∧ (s.peersOf 0).find? (fun e => e.1 = (1#14).toNat) = some (1, 9) ∧
    (go (.reduceMemberLost 0 1) s).getF F.partDomain_lost_rank 0 = 1 ∧
    (go (.heartbeatSend 0) (s.modSite 3 (fun q => { q with blocks := [RedBlk.init 0 0 0] }))).out.length = 1 := by decide +kernel
theorem witness_HostPortsResetAndRetrain : run0.declared 0 = true ∧ run0.declared 63 = false ∧ run0.pState 0 ≠ psEmpty ∧ run0.pState 0 ≠ psZero ∧
    run0.vfsOf 0 = [0, 1] ∧ run0.vfsOf 3 = [] ∧ fnsFor 0 = [0, 64, 65, 66, 67, 68, 69] ∧
    (∀ k ∈ fnsFor 0, (run0.fn k).orders = []) ∧ (go (.flrVf 0) run0).pState 0 = psZero ∧
    run0.getF F.epdHost_up 3 = 0 ∧ (run0.setF F.epdHost_up 3 1).getF F.epdHost_up 3 = 1 ∧ run0.getF F.epdHost_mode 3 = 0 ∧
    (run0.setF F.epdHost_mode 3 1).getF F.epdHost_mode 3 ≠ 0 ∧ run0.unitState (unitLink (32 + 3)) ≠ 3 ∧ run0.unitState (unitPort (32 + 3)) ≠ 3 ∧
    (go (.hostLinkRetrain 3 2 3) (run0.setF F.epdHost_mode 3 1)).getF F.epdHost_up 3 = 1 := by decide +kernel
/-! ### Witnesses: the configuration store, power and resets -/
/-- An image of no partition, every die's rows at 550 mV, an admin key; its serial is the module's. -/
def plainImage : Image := { img with parts := [], groups := [], recvFirst := 0, recvCount := 0, ckptSenders := [], ports := [], peers := [], cxl := []
                                     rows := (rangeFrom 0 64).flatMap (fun d => [4, 5, 6, 8, 12].map (fun v => (d, v, 550))), serial := Config.serial.toNat }
def imageTable : List Byte := (rangeFrom 1 10).flatMap (fun k => leBytes (k + 1 <<< 16 + 672 <<< 64) 16)
def imageBytes : List Byte := leBytes (0x49475747 + 1 <<< 32 + 512 <<< 48 + 672 <<< 64 + 10 <<< 96) 32 ++ sha256 imageTable ++ List.replicate 192 0xFF ++ List.replicate 256 0 ++ imageTable
/-- Slot A holds it. -/
def written : State := { State.reset with flash := (imageBytes.zipIdx.map (fun e => (e.2, e.1))).filter (fun e => e.2 ≠ 0xFF) }
/-- Its bytes pass; what is left are the owner's key and the signature, which the spec leaves to ECDSA. -/
theorem witness_imageBytes : imgNat (written.flashByte 0) 0 4 = 0x49475747 ∧ imgNat (written.flashByte 0) 6 2 = 512 ∧ imgNat (written.flashByte 0) 12 2 = 10 ∧
    imgNat (written.flashByte 0) 8 4 = 672 ∧ imgNat (written.flashByte 0) 14 2 = 0 ∧ imgNat (written.flashByte 0) 24 8 = 0 ∧ imgNat (written.flashByte 0) 256 256 = 0 ∧
    imgNat (written.flashByte 0) 4 2 = 1 ∧ (secTable 10 (imgBytes (written.flashByte 0) 512 160)).any (fun e => decide (e.ver ≠ 1)) = false := by decide +kernel
theorem witness_imageSum : sha256 (imgBytes (written.flashByte 0) 512 (672 - 512)) = imgBytes (written.flashByte 0) 32 32 ∧
    sectionsBad 672 (secTable 10 (imgBytes (written.flashByte 0) 512 160)) = false := by decide +kernel
theorem witness_imageBody : fewCores plainImage.fenced = false ∧ partsBad plainImage = false ∧ extentsBad plainImage = false ∧ linksBad plainImage = false ∧
    powerBad plainImage = false := by decide +kernel
theorem witness_slotDetail (h : sha256 (imgBytes (written.flashByte 0) 64 96) = leBytes Config.ownerKeyHash.toNat 32)
    (e : Config.ecdsaOk (imgBytes (written.flashByte 0) 0 160) (imgBytes (written.flashByte 0) 160 96) = true) :
    written.slotDetail 0 (some plainImage) = 0 := by
  obtain ⟨a, b, c, d, f, g, i, j, k⟩ := witness_imageBytes
  obtain ⟨l, m⟩ := witness_imageSum
  obtain ⟨n, o, p, q, r⟩ := witness_imageBody
  have t : bodyDetail plainImage = 0 := by
    unfold bodyDetail
    rw [n, o, p, q, r]
    simp [plainImage, img]
  unfold State.slotDetail imageDetail
  rw [a, b, c, d, f, g, i, j]
  have k' : ∀ x ∈ secTable 10 (imgBytes (written.flashByte 0) 512 160), x.ver = 1 := by simpa using k
  simp [l, h, e, m, t, slotSize]
  exact k'
def darkBringUp : BringUp := ⟨false, false, none, none, [], [], [], [], [], [], [], 0⟩
theorem witness_PowerAndResets : (State.reset.mod.off = true ∨ State.reset.mod.off = false) ∧ ({ State.reset with mod := { State.reset.mod with off := true } } : State).mod.off = true ∧
    admin0.mod.off = false ∧ darkBringUp.readA = false ∧ darkBringUp.readB = false ∧ State.reset.cfgsMay (.vf 0) = false ∧ admin0.cfgsMay (.pf 0) = true ∧
    admin0.getF F.cfgsStatus_busy 0 = 0 ∧ (admin0.setF F.cfgsStatus_busy 0 1).getF F.cfgsStatus_busy 0 = 1 ∧ admin0.getF F.modState_state 0 = mReady ∧
    admin0.image.isSome = true ∧ darkBringUp.leak = 0#3 ∧ (∀ p < 64, admin0.pState p = psEmpty) ∧ admin0.pwState ≠ pwStandby ∧
    (admin0.setPState 63 psOpened).pState 63 ≠ psEmpty ∧
    (go (.modRstNAssert false darkBringUp) admin0).getF F.modState_state 0 = mSafe ∧
    (go (.powerOn darkBringUp) { State.reset with mod := { State.reset.mod with off := true } }).getF F.modState_state 0 = mSafe ∧
    (go (.standbyRequest (.pf 0)) (admin0.setPState 63 psOpened)).getF F.pwrMode_error 0 = 1 := by decide +kernel
theorem witness_ConfigurationStoreOperations : admin0.cfgsMay (.pf 0) = true ∧ (3839#12).toNat ≤ 3839 ∧ 3839 < (3840#12).toNat ∧ admin0.mod.op = none ∧
    (go (.program (.pf 0) 1 3839) admin0).mod.op = some (2, 1, 3839) ∧ (go (.program (.pf 0) 1 3840) admin0).getF F.cfgsStatus_error 0 = 1 ∧
    (go (.erase (.pf 0) 1) admin0).mod.op = some (1, 1, 0) ∧ (go (.commit (.pf 0) 0) admin0).mod.op = some (3, 0, 0) ∧
    (go (.sealKey (.pf 0)) admin0).mod.op = some (4, 0, 0) ∧ (go (.program (.pf 0) 0 0) admin0).mod.op = some (2, 0, 0) ∧
    (go (.cfgsOperationDone true none) (go (.commit (.pf 0) 0) admin0)).getF F.cfgsStatus_error 0 = 1 ∧
    written.commitDetail 1 none ≠ 0 ∧ (∀ x ∈ [(0, 63), (2, 255)],
      let s := { admin0 with mod := { admin0.mod with buf := [(0, BitVec.ofNat 8 x.1), (1, BitVec.ofNat 8 x.2)] } }
      Memory.readNat s.mod.buf 0 1 = x.1 ∧ Memory.readNat s.mod.buf 1 1 = x.2) := by decide +kernel

/-! ### Witnesses: management, console, pins, windows -/
theorem witness_ManagementPortsAnswer : run0.heeds 1 7 0x474D 1 = true ∧ run0.heeds 1 7 0x474D 2 = false ∧ (run0.fn 69).fetched.contains openEntry = false ∧
    (run0.fn 69).orders = [] ∧ ((withEntry 69 openEntry run0).fn 69).fetched.contains openEntry = true ∧
    ((go (.mgmtOrder 1 7 0x474D 1 openEntry) run0).fn 69).fetched = [openEntry] ∧ run0.smbusOn 0 = true ∧ run0.smbusOn 1 = false ∧
    (run0.setF F.sbPinmux_gpio 0 5).smbusOn 1 = true ∧ (linearValue 0).1 = 0 ∧ 2400 ≤ linearFloor 0x1258 ∧ linearFloor 0x1258 < 24000 ∧
    (linearValue 1).1 ≠ 0 ∧ linearFloor 1 < 2400 ∧ 24000 < linearFloor 0x3BFF ∧ run0.alertN = false ∧ (go (.leakDetected 2) run0).alertN = true ∧
    ((go (.poutMax 0 (some 0x1258)) run0).mod.smbusCap = 2400) := by decide +kernel
theorem witness_ConsoleTestAndSidebandPins : run0.mod.console = false ∧ run0.mod.off = false ∧ run0.getF F.modState_state 0 ≠ mSafe ∧
    run0.image.map (·.adminPwKey) = some (some 6) ∧ run0.getF F.sbStat_reset_in 0 = 0 ∧ (run0.setF F.sbStat_reset_in 0 1).getF F.sbStat_reset_in 0 = 1 ∧
    admin0.admitted (.pf 0) = true ∧ pinFnOk 0 1 = true ∧ (1#32).toNat >>> (2 * 0) % 4 = 1 ∧ pinFnOk 12 2 = false ∧ (0x2000000#32).toNat >>> (2 * 12) % 4 = 2 ∧ pinFnOk 2 1 = false ∧
    (run0.setF F.sbPinmux_gpio 0 256).getF F.sbPinmux_gpio 0 / 256 % 4 = 1 ∧ run0.mod.breaking.contains 4 = false ∧
    run0.mod.flowAt = run0.seconds ∧ ({ run0 with now := 10 ^ 8 } : State).mod.flowAt ≠ ({ run0 with now := 10 ^ 8 } : State).seconds ∧
    (go .flowTachPulse (run0.setF F.sbPinmux_gpio 0 256)).mod.flow = 1 ∧ run0.getF F.sbLed_open 3 = 0 ∧
    (go (.ledTestPulse 3 true) run0).getF F.sbLed_open 3 = 1 := by decide +kernel
/-- Each kind of register through a window: reserved to the path, read-write, and locked. -/
theorem witness_WindowsReadAndWrite : run0.windowAt (.vf 0) 0x3FFFFFC = .reserved ∧ sizeOk 0x400000 3 = false ∧
    (admin0.windowAt (.pf 0) 0x400008 = .reg .evtClaim 64 0 ∧ admin0.mayReach (.pf 0) (.reg .evtClaim 64 0) = true) ∧
    ready0.mayReach (.pf 0) (.reg .evtClaim 64 0) = false ∧ Reg.evtClaim ∉ [Reg.partSessCtrl, .partOqTail, .evtCtrl, .cfgsCtrl] ∧
    scheduleReg .seqTensorId = true ∧ loaded0.scheduleOpen 0 = true ∧ run0.scheduleOpen 0 = false ∧
    admin0.admitted (.pf 1) = false := by decide +kernel
/-- A scratchpad row through the aperture of a management port whose base stands at core 0's scratchpad. -/
def aimed : State := ((admin0.modFn 69 (fun q => { q with session := some 1 })).setF F.modWinBase_base 69 (0x1000000000 / 2 ^ 24))
theorem witness_scratchpadWindow : (∀ k < 4, aimed.windowAt (.mgmt 1) (0x3000000 + 0x7FFFFC + k) = .area (.spad 0) (0x7FFFFC + k) ∧
      aimed.mayReach (.mgmt 1) (.area (.spad 0) (0x7FFFFC + k)) = true) ∧ 0x7FFFFC + 4 ≤ 8 * 2 ^ 20 ∧
    (aimed.setF F.vregPoint_state 0 vOff).getF F.vregPoint_state 0 = vOff ∧ (aimed.setF F.vregPoint_state 0 vHold).getF F.vregPoint_state 0 = vHold ∧
    (go (.scratchpadWindowAccess (.mgmt 1) 0x7FFFFC 4 (some 5) false false) (aimed.setF F.vregPoint_state 0 vHold)).span 0 0x7FFFFC 4 = 5 ∧
    (go (.scratchpadWindowAccess (.mgmt 1) 0x7FFFFC 4 (some 5) false false) (aimed.setF F.vregPoint_state 0 vOff)).getF F.corePhase_win_refused 0 = 1 := by
  decide +kernel

/-! ### Reset, memory, numbers -/
theorem witness_MemoryStaysCanonical : ({ State.reset with pending := [.inputLoss] } : State).memWf := ⟨rfl, rfl⟩
theorem test_reset : State.reset.getF F.modState_state 0 = mBooting ∧ State.reset.pState 63 = psEmpty ∧ State.reset.getF F.coreId_x 4095 = 63 ∧
    State.reset.getF F.evtCoal_count (16 * 64) = 32 := by decide +kernel
theorem test_decode : decodeTableWord 64 0 = none := rfl
/-- R120, R121, R119: OCP codes and their values. -/
theorem test_codes : decode .e4m3 0x38 = .fin false 8 (-3) ∧ decode .e4m3 0x7F = .nan ∧ decode .e5m2 0x7C = .inf false ∧ decode .e8m0 254 = .fin false 1 127 ∧
    decode .int4 8 = .fin true 8 0 := by decide +kernel
/-- CRC-32C of "123456789" is E3069283; SHA-256 of "abc" begins BA7816BF. -/
theorem test_sums : crc32c [0x31, 0x32, 0x33, 0x34, 0x35, 0x36, 0x37, 0x38, 0x39] = 0xE3069283 ∧
    (sha256 [0x61, 0x62, 0x63]).take 4 = [0xBA, 0x78, 0x16, 0xBF] := by decide +kernel
theorem witness_SignsOfZeroAndComparisons : (vadd (.fin true 3 0) (.fin false 3 0)).1 = .fin false 0 0 ∧ 3 * 2 ^ ((0 : Int) - 0).toNat = 3 ∧
    vcmp .nan (.fin false 0 0) = none := by decide +kernel
theorem witness_IntegerAndScaleCodes : (255 : Nat) < 2 ^ 8 ∧ (-2 ^ (8 - 1) : Int) ≤ -128 ∧ decode .int8 255 = .fin true 1 0 ∧ decode .e8m0 0 = .fin false 1 (-127) := by
  decide +kernel

end Sys2Proof.Tests
end

section
/-! SUPPORT. What the module reads right after reset. -/
namespace Sys2Proof.Machine
open Host

/-- The index lists every register at its own place. -/
theorem Reg.all_idx (r : Reg) : Reg.all[r.idx]? = some r := by cases r <;> rfl
/-- An unlisted register reads its reset value. -/
theorem regDefault_key (r : Reg) (i : Nat) : regDefault (r.key i) = r.resetWord i := by
  have h := r.idx_lt
  unfold regDefault Reg.key
  rw [show (r.idx + 256 * i) % 256 = r.idx by omega, show (r.idx + 256 * i) / 256 = i by omega, Reg.all_idx]
theorem reg_reset (r : Reg) (i : Nat) : State.reset.reg r i = r.resetWord i := regDefault_key r i
theorem getF_reset (f : RF) (i : Nat) : State.reset.getF f i = bits (f.reg.resetWord i) f.lo f.len := by
  unfold State.getF
  rw [reg_reset]
/-- CORE.ID holds a core's column and row (R25). -/
theorem getF_reset_coreId (c : Nat) (h : c < 4096) :
    State.reset.getF F.coreId_x c = c % 64 ∧ State.reset.getF F.coreId_y c = c / 64 := by
  have hw : (Reg.coreId.resetWord c).toNat = 65537 * c := by
    simp only [Reg.resetWord, BitVec.toNat_ofNat, Nat.shiftLeft_eq]
    omega
  have hx : 65537 * c / 2 ^ 16 = c := by omega
  have hy : 65537 * c / 2 ^ 22 = c / 64 := by rw [show 2 ^ 22 = 2 ^ 16 * 64 by rfl, ← Nat.div_div_eq_div_mul, hx]
  simp only [getF_reset, F.coreId_x, F.coreId_y, bits, hw, Nat.shiftRight_eq_div_pow, hx, hy]
  omega
/-- Class 0 of every event controller coalesces 32 occurrences or 20 µs (R415). -/
theorem getF_reset_evtCoal (k : Nat) :
    State.reset.getF F.evtCoal_count (16 * k) = 32 ∧ State.reset.getF F.evtCoal_time_us (16 * k) = 20 := by
  simp only [getF_reset, F.evtCoal_count, F.evtCoal_time_us, Reg.resetWord, Nat.mul_mod_right, ↓reduceIte]
  decide

/-- Settles O52: no register is listed, so each reads its reset word, and every other part of the state is empty. -/
theorem resetValues : Obligations.ResetValues := by
  unfold Obligations.ResetValues
  refine ⟨reg_reset, ?_, fun p _ => ⟨?_, rfl⟩, fun c hc => ?_, fun k _ => getF_reset_evtCoal k, rfl, rfl, rfl, rfl, reset_memWf⟩
  · rw [getF_reset]; rfl
  · exact (getF_reset F.partState_state p).trans rfl
  · obtain ⟨hx, hy⟩ := getF_reset_coreId c hc
    exact ⟨hx, hy, (getF_reset ..).trans rfl, (getF_reset ..).trans rfl, rfl⟩

end Sys2Proof.Machine
end

section
/-! SUPPORT. The image in force and the Configuration Store: what the ends of runs, orders, sessions and partitions leave alone. -/
namespace Sys2Proof.Machine
open Host

/-! ### The image and the store through single updates -/
/-- The image in force and the bytes of the Configuration Store (R483, R494). -/
def State.store (s : State) : Option Image × Tab Byte := (s.image, s.flash)

@[simp] theorem setReg_store (s : State) (r : Reg) (i : Nat) (v : Word) : (s.setReg r i v).store = s.store := (rfl)
@[simp] theorem setF_store (s : State) (f : RF) (i v : Nat) : (s.setF f i v).store = s.store := (rfl)
@[simp] theorem bumpF_store (s : State) (f : RF) (i n : Nat) : (s.bumpF f i n).store = s.store := (rfl)
@[simp] theorem setB_store (s : State) (f : RF) (i : Nat) (b : Bool) : (s.setB f i b).store = s.store := (rfl)
@[simp] theorem setPState_store (s : State) (p n : Nat) : (s.setPState p n).store = s.store := setF_store ..
@[simp] theorem modCore_store (s : State) (c : Nat) (f : CoreSt → CoreSt) : (s.modCore c f).store = s.store := (rfl)
@[simp] theorem setPart_store (s : State) (p : Nat) (v : PartSt) : (s.setPart p v).store = s.store := (rfl)
@[simp] theorem modPart_store (s : State) (p : Nat) (f : PartSt → PartSt) : (s.modPart p f).store = s.store := (rfl)
@[simp] theorem modSite_store (s : State) (m : Nat) (f : SiteSt → SiteSt) : (s.modSite m f).store = s.store := (rfl)
@[simp] theorem modFn_store (s : State) (k : Nat) (f : FnSt → FnSt) : (s.modFn k f).store = s.store := (rfl)
@[simp] theorem modDie_store (s : State) (k : Nat) (f : DieSt → DieSt) : (s.modDie k f).store = s.store := (rfl)
@[simp] theorem modMod_store (s : State) (f : ModSt → ModSt) : (s.modMod f).store = s.store := (rfl)
@[simp] theorem emit_store (s : State) (o : Out) : (s.emit o).store = s.store := (rfl)
@[simp] theorem inject_store (s : State) (k : Pkt) : (s.inject k).store = s.store := (rfl)
@[simp] theorem send_store (s : State) (m : CtlMsg) (p d q : Nat) : (s.send m p d q).store = s.store := (rfl)
@[simp] theorem record_store (s : State) (e : Ev) (q k p x : Nat) : (s.record e q k p x).store = s.store := (rfl)
@[simp] theorem setHealth_store (s : State) (u : Nat) (h : Health) : (s.setHealth u h).store = s.store := (rfl)
@[simp] theorem setMeta_store (s : State) (b : Nat) (v : BlkMeta) : (s.setMeta b v).store = s.store := (rfl)
@[simp] theorem storeDram_store (s : State) (k n v : Nat) : (s.storeDram k n v).store = s.store := (rfl)
@[simp] theorem zeroExtents_store (s : State) (es : List Extent) : (s.zeroExtents es).store = s.store := (rfl)
@[simp] theorem zeroSpad_store (s : State) (cs : List Nat) : (s.zeroSpad cs).store = s.store := (rfl)
@[simp] theorem resetRegs_store (s : State) (f : Reg → Nat → Bool) : (s.resetRegs f).store = s.store := (rfl)
@[simp] theorem resetController_store (s : State) (k : Nat) : (s.resetController k).store = s.store := (rfl)
/-- A choice keeps what both its sides keep. -/
@[simp] theorem ite_store (c : Prop) [Decidable c] (s t : State) : (if c then s else t).store = if c then s.store else t.store :=
  apply_ite State.store c s t
@[simp] theorem foldl_store {α : Type} {f : State → α → State} (h : ∀ t a, (f t a).store = t.store) (l : List α) (s : State) :
    (l.foldl f s).store = s.store := foldl_keeps (fun t => t.store = s.store) f (fun t a k => (h t a).trans k) l s rfl
@[simp] theorem forAll_store {α : Type} {f : State → α → State} (h : ∀ t a, (f t a).store = t.store) (l : List α) (s : State) :
    (s.forAll l f).store = s.store := foldl_store h l s

/-! ### Events, faults, health -/
theorem State.faultOnly.store {s t : State} (h : s.faultOnly t) : t.store = s.store := by rw [h.1]; rfl
@[simp] theorem raise_store (s : State) (e : Ev) (a : Nat) (p : Option Nat) (d : Nat) : (s.raise e a p d).store = s.store :=
  (raise_faultOnly s e a p d).store
@[simp] theorem policy_store (s : State) (p c : Nat) (e : Ev) (d : Nat) : (s.policy p c e d).store = s.store := (policy_faultOnly s p c e d).store
@[simp] theorem rebuildView_store (s : State) (p : Nat) : (s.rebuildView p).store = s.store := (rebuildView_faultOnly s p).store
@[simp] theorem rebuild_store (s : State) : s.rebuild.store = s.store := (rebuild_faultOnly s).store
@[simp] theorem ledgerFault_store (s : State) (m p : Nat) (e : Ev) (d : Nat) : (s.ledgerFault m p e d).store = s.store := by
  simp [State.ledgerFault]
@[simp] theorem showCeil_store (s : State) (c : Nat) : (s.showCeil c).store = s.store := setF_store ..
@[simp] theorem showDie_store (s : State) (d : Nat) : (s.showDie d).store = s.store := by 
  unfold State.showDie
  rw [forAll_store showCeil_store, setF_store]
@[simp] theorem showLimit_store (s : State) (d : Nat) : (s.showLimit d).store = s.store := setF_store ..
@[simp] theorem setPower_store (s : State) (c n : Nat) : (s.setPower c n).store = s.store := by simp [State.setPower]
@[simp] theorem applyCore_store (s : State) (c n : Nat) : (s.applyCore c n).store = s.store := by
  unfold State.applyCore
  extract_lets t
  have ht : t.store = s.store := modCore_store ..
  clear_value t
  split
  · rw [ite_store, setF_store, ite_self, ht]
  · rw [setF_store, ht]
@[simp] theorem shedPhase_store (s : State) (d k : Nat) : (s.shedPhase d k).store = s.store := by simp [State.shedPhase]
@[simp] theorem applyUnit_store (s : State) (u n : Nat) : (s.applyUnit u n).store = s.store := by
  unfold State.applyUnit
  split <;> simp
@[simp] theorem setUnit_store (s : State) (u n : Nat) (h : Health) : (s.setUnit u n h).store = s.store := by simp [State.setUnit]
@[simp] theorem charge_store (s : State) (u k : Nat) (r : Bool) : (s.charge u k r).store = s.store := by simp [State.charge]

/-! ### DRAM blocks, streams, links -/
@[simp] theorem wakeChannel_store (s : State) (m c : Nat) : (s.wakeChannel m c).store = s.store := by simp [State.wakeChannel]
@[simp] theorem verify_store (s : State) (b o n : Nat) : (s.verify b o n).store = s.store := by
  unfold State.verify
  extract_lets t m crc k site u v
  have ht : t.store = s.store := wakeChannel_store ..
  have hu : u.store = s.store := (bumpF_store ..).trans ht
  clear_value t u
  split
  · exact (setMeta_store ..).trans ht
  · split
    · exact hu
    · rw [charge_store, ledgerFault_store, bumpF_store, setMeta_store, hu]
@[simp] theorem verifyAll_store (s : State) (l : List (Nat × Nat)) (n : Nat) : (s.verifyAll l n).store = s.store := by simp [State.verifyAll]
@[simp] theorem awaitBuffer_store (s : State) (m p a : Nat) : (s.awaitBuffer m p a).store = s.store := by simp [State.awaitBuffer]
@[simp] theorem copyAhead_store (s : State) (p a : Nat) (x : Place) : (s.copyAhead p a x).store = s.store := by simp [State.copyAhead]
@[simp] theorem markDirty_store (s : State) (m p a : Nat) : (s.markDirty m p a).store = s.store := modSite_store ..
@[simp] theorem putDram_store (s : State) (p a n v : Nat) (b : Bool) : (s.putDram p a n v b).store = s.store := by
  unfold State.putDram
  split <;> simp
@[simp] theorem engineWrite_store (s : State) (p a n v : Nat) : (s.engineWrite p a n v).store = s.store := putDram_store ..
@[simp] theorem logF_store (s : State) (f : RF) (i v : Nat) : (s.logF f i v).store = s.store := by rw [logF_eq]; rfl
@[simp] theorem injectAll_store (s : State) (l : List Pkt) : (s.injectAll l).store = s.store := foldl_store (fun t k => inject_store t k) l s
@[simp] theorem refuse_store (s : State) (m : Nat) (k : Pkt) (a r : Nat) : (s.refuse m k a r).store = s.store := by simp [State.refuse]
@[simp] theorem serveStream_store (s : State) (m : Nat) (l : List Pkt) (x : StreamPkt) (n : Nat) : (s.serveStream m l x n).store = s.store := by
  unfold State.serveStream
  split
  · rfl
  · dsimp only
    split
    · simp
    · split <;> simp
@[simp] theorem servePrivate_store (s : State) (m : Nat) (l : List Pkt) : (s.servePrivate m l).store = s.store := by
  unfold State.servePrivate
  refine foldl_store (fun t k => ?_) l s
  split <;> simp
@[simp] theorem deactivate_store (s : State) (m g p : Nat) : (s.deactivate m g p).store = s.store := by simp [State.deactivate]
@[simp] theorem setConn_store (s : State) (c : Conn) : (s.setConn c).store = s.store := by
  unfold State.setConn
  split <;> rfl
@[simp] theorem sendOn_store (s : State) (c : Conn) (f : KlFrame) : (s.sendOn c f).store = s.store := by simp [State.sendOn]
/-- A frame that goes out, or does not, leaves the image and the store alone. -/
@[simp] theorem klSend_store (s : State) (p k : Nat) (b : KlBody) (x y : Bool) : ((s.klSend p k b x y).getD s).store = s.store := by
  unfold State.klSend
  cases s.route p k <;> simp
@[simp] theorem toPeers_store (s : State) (p : Nat) (b : KlBody) (x : Bool) : (s.toPeers p b x).store = s.store := by simp [State.toPeers]

/-! ### Sums and updates -/
@[simp] theorem putArea_store (s : State) (p a n v : Nat) : (s.putArea p a n v).store = s.store := by
  unfold State.putArea
  split <;> simp
@[simp] theorem showBlk_store (s : State) (p : Nat) (st : Stream) (r : RedBlk) : (s.showBlk p st r).store = s.store := by simp [State.showBlk]
@[simp] theorem ackWaiting_store (s : State) (m : Nat) (l : List RedBlk) : (s.ackWaiting m l).store = s.store := by simp [State.ackWaiting]
@[simp] theorem discardSums_store (s : State) (p : Nat) : (s.discardSums p).store = s.store := by
  unfold State.discardSums
  refine forAll_store (fun t m => ?_) _ s
  extract_lets
  rw [modSite_store, foldl_store, ackWaiting_store]
  intro t r
  split <;> simp
@[simp] theorem openBlocks_store (s : State) (p g : Nat) : (s.openBlocks p g).store = s.store := by
  unfold State.openBlocks
  refine forAll_store (fun t m => ?_) _ s
  extract_lets
  rw [modSite_store, foldl_store, ackWaiting_store]
  intro t r
  split <;> simp
@[simp] theorem readRec_store (s : State) (p g : Nat) : (s.readRec p g).store = s.store := by
  unfold State.readRec
  split <;> simp
@[simp] theorem seal_store (s : State) (p a n : Nat) (l : List Nat) : (s.seal p a n l).store = s.store := by
  unfold State.seal
  refine foldl_store (fun t b => ?_) _ s
  split <;> simp
@[simp] theorem orUpdFlags_store (s : State) (m : Nat) (f : Flags) : (s.orUpdFlags m f).store = s.store := setReg_store ..
@[simp] theorem storeSr_store (s : State) (p a : Nat) (f : Fmt) (t x i : Nat) (v : Val) : (s.storeSr p a f t x i v).1.store = s.store := by
  simp [State.storeSr]
theorem storeOpt_store {f : State → Val → State × Flags} (h : ∀ t x, (f t x).1.store = t.store) (r : State × Flags) (v : Option Val) :
    (State.storeOpt r v f).1.store = r.1.store := by
  cases v with
  | none => rfl
  | some x => exact h r.1 x
/-- The update of a stream stores elements, factors and checks in DRAM, and counts (R264 to R268). -/
@[simp] theorem updateStream_store (s : State) (p : Nat) (g : UpdGroup) (rc : GroupRec) (i : Nat) (st : Stream) :
    (s.updateStream p g rc i st).store = s.store := by
  unfold State.updateStream
  extract_lets _ L grad c1 c2 prog cols kept fac t put u out
  have ht : t.store = s.store := by
    refine foldl_store (fun a e => ?_) _ s
    extract_lets m b gv w mo v m' v' w' nv r1 r2 r3
    have h1 : r1.1.store = b.store := storeOpt_store (fun t x => storeSr_store ..) ..
    have h2 : r2.1.store = r1.1.store := storeOpt_store (fun t x => storeSr_store ..) ..
    have h3 : r3.1.store = r2.1.store := by
      refine storeOpt_store (fun t x => ?_) ..
      split
      · exact engineWrite_store ..
      · exact storeSr_store ..
    split
    · rfl
    · rw [orUpdFlags_store, h3, h2, h1, modSite_store]
  have hput : ∀ a n l f, (put a n l f).store = a.store := fun a n l f => by
    refine foldl_store (fun b x => ?_) _ a
    split
    · rfl
    · rw [orUpdFlags_store, storeSr_store]
  clear_value put
  have hu : u.store = t.store := by
    rw [ite_store]
    split
    · rw [hput, hput]
    · rfl
  rw [foldl_store (fun a x => seal_store ..), hu, ht]
@[simp] theorem resolveGroup_store (s : State) (p g verdict row0 : Nat) : (s.resolveGroup p g verdict row0).store = s.store := by
  unfold State.resolveGroup
  split
  · rfl
  · rename_i grp _
    extract_lets a src rc sites commit sts b c clean full n d e f t
    have hb : b.store = a.store := foldl_store (fun x y => foldl_store (fun z w => verifyAll_store ..) ..) ..
    have hc : c.store = a.store := by
      rw [ite_store, foldl_store fun x y => updateStream_store .., hb, ite_self]
    have he : e.store = d.store := foldl_store (fun x m => by simp) ..
    have ht : t.store = s.store := by
      rw [setReg_store, engineWrite_store, he, openBlocks_store, hc, readRec_store]
    split
    · rw [policy_store, raise_store, ht]
    · rw [raise_store, ht]
    · exact ht
@[simp] theorem endIncomplete_store (s : State) (p : Nat) : (s.endIncomplete p).store = s.store := by
  unfold State.endIncomplete
  rw [foldl_store fun t g => by simp, modPart_store]

/-! ### Orders and copies -/
@[simp] theorem post_store (s : State) (k : Nat) (c : Completion) : (s.post k c).store = s.store := by
  unfold State.post
  split
  · rfl
  · extract_lets t ph u n v w
    have hw : w.store = u.store := by simp [w, v]
    rw [raise_store, hw, emit_store]
@[simp] theorem dropOrder_store (s : State) (o : OrderSt) : (s.dropOrder o).store = s.store := modFn_store ..
@[simp] theorem finish_store (s : State) (o : OrderSt) (c d r : Nat) : (s.finish o c d r).store = s.store := by
  unfold State.finish
  rw [post_store, dropOrder_store]
@[simp] theorem dropCopy_store (s : State) (p : Nat) : (s.dropCopy p).store = s.store := by
  unfold State.dropCopy
  rw [modPart_store, forAll_store fun t m => modSite_store ..]
@[simp] theorem setDirty_store (s : State) (m p n : Nat) (l : List Nat) (b : Bool) : (s.setDirty m p n l b).store = s.store := modSite_store ..
/-- A block of a copy that goes out, or finds no way, leaves the image and the store alone (R238, R437). -/
theorem sendCkpt_store (s : State) (p : Nat) (o : OrderSt) (h : Bool) (b d : Nat) (x : Bool) (c : BitVec 32) :
    ((s.sendCkpt p o h b d x c).getD s).store = s.store := by
  unfold State.sendCkpt
  split
  · split
    · split <;> rfl
    · rfl
  · cases s.route p o.buddy <;> simp
@[simp] theorem breakCopy_store (s : State) (p : Nat) : (s.breakCopy p).store = s.store := by
  unfold State.breakCopy
  split
  · rfl
  · extract_lets t u v
    have hu : u.store = t.store := sendCkpt_store ..
    have hv : v.store = u.store := forAll_store (fun t m => setDirty_store ..) ..
    rw [raise_store, hv, hu, dropCopy_store]
@[simp] theorem failCopy_store (s : State) (p : Nat) : (s.failCopy p).store = s.store := by
  unfold State.failCopy
  split <;> simp
@[simp] theorem takeSnapshot_store (s : State) (p : Nat) (c : Copy) : (s.takeSnapshot p c).store = s.store := by
  unfold State.takeSnapshot
  extract_lets o t
  refine (forAll_store (fun a m => ?_) _ t).trans (modPart_store ..)
  simp
@[simp] theorem beginCopy_store (s : State) (p : Nat) (o : OrderSt) : (s.beginCopy p o).store = s.store := by
  unfold State.beginCopy
  simp
@[simp] theorem nextCopy_store (n : Nat) (s : State) (p : Nat) : (s.nextCopy p n).store = s.store := by
  induction n generalizing s with
  | zero => rfl
  | succ n ih =>
    unfold State.nextCopy
    split
    · rw [ih, beginCopy_store, modPart_store]
    · rfl
@[simp] theorem endCopy_store (s : State) (p : Nat) : (s.endCopy p).store = s.store := by simp [State.endCopy]

/-! ### The barrier root -/
@[simp] theorem takeReadOut_store (s : State) (o : OrderSt) : (s.takeReadOut o).store = s.store := by
  unfold State.takeReadOut
  rw [finish_store, emit_store]
@[simp] theorem enterPause_store (s : State) (p : Nat) : (s.enterPause p).store = s.store := by
  unfold State.enterPause
  split
  · rfl
  · extract_lets n done t u
    exact (foldl_store (fun a o => finish_store ..) _ u).trans rfl
@[simp] theorem creditTokens_store (s : State) (p g : Nat) : (s.creditTokens p g).store = s.store := by
  simp [State.creditTokens]
@[simp] theorem formVerdict_store (s : State) (p g : Nat) : (s.formVerdict p g).store = s.store := by
  simp [State.formVerdict]
@[simp] theorem choosePlan_store (s : State) (p : Nat) : (s.choosePlan p).1.store = s.store := by
  unfold State.choosePlan
  extract_lets q gens seen was fit t count u r left
  have hr : r.1.store = s.store := by
    have ht : t.store = s.store := modPart_store ..
    have hu : u.store = s.store := (setB_store ..).trans ht
    simp [r, apply_ite Prod.fst, ht, hu]
  rw [setF_store, setF_store, hr]
@[simp] theorem loadPlan_store (s : State) (p n : Nat) (b : Bool) : (s.loadPlan p n b).store = s.store := by
  unfold State.loadPlan
  extract_lets t
  split <;> rfl
@[simp] theorem boundary_store (s : State) (p n : Nat) : (s.boundary p n).store = s.store := by
  simp [State.boundary]
@[simp] theorem levelMv_store (s : State) (c : Nat) : (s.levelMv c).store = s.store := by
  unfold State.levelMv
  exact foldl_store (fun t k => by simp) _ s
@[simp] theorem applyPoint_store (s : State) (p c : Nat) : (s.applyPoint p c).store = s.store := by
  simp [State.applyPoint, State.setPoint]
@[simp] theorem govern_store (s : State) (p : Nat) (m : Nat × Bool) : (s.govern p m).store = s.store := by
  simp [State.govern]
@[simp] theorem pointsAtRelease_store (s : State) (p : Nat) (l : List (Nat × Bool)) : (s.pointsAtRelease p l).store = s.store := by
  unfold State.pointsAtRelease
  extract_lets cs t u ds v
  have ht : t.store = s.store := forAll_store (fun a c => by simp) ..
  have hu : u.store = t.store := foldl_store (fun a m => govern_store ..) ..
  have hv : v.store = u.store := forAll_store (fun a d => by simp) ..
  rw [forAll_store fun a c => applyPoint_store .., hv, hu, ht]
@[simp] theorem release_store (s : State) (p : Nat) : (s.release p).store = s.store := by
  unfold State.release
  extract_lets q n cs g isStep a b c d e f h i j k l
  have hb : b.store = a.store := forAll_store (fun t m => modSite_store ..) ..
  have hc : c.store = b.store := by
    rw [ite_store, raise_store, bumpF_store, modPart_store, ite_self]
  have hd : d.store = c.store := (modPart_store ..).trans (foldl_store (fun t m => raise_store ..) ..)
  have hf : f.store = d.store := by
    simp [f, e]
  have hi : i.store = d.store := by
    rw [modPart_store, creditTokens_store, hf]
  have hj : j.store = d.store := by
    rw [ite_store, ite_store, boundary_store, choosePlan_store, hi, ite_self, ite_self]
  have hl : l.store = j.store := (foldl_store (fun t o => takeReadOut_store ..) ..).trans (pointsAtRelease_store ..)
  rw [foldl_store fun t c => send_store .., hl, hj, hd, hc, hb, modPart_store]
@[simp] theorem tryRelease_store (s : State) (p : Nat) : (s.tryRelease p).store = s.store := by
  unfold State.tryRelease
  split
  · rfl
  · extract_lets n due g next
    simp
@[simp] theorem endRun_store (s : State) (p c : Nat) (b : Bool) : (s.endRun p c b).store = s.store := by
  unfold State.endRun
  extract_lets a d e f g h i j
  have ha : a.store = s.store := by
    rw [ite_store, discardSums_store, ite_self]
  have hd : d.store = a.store := foldl_store (fun t o => takeReadOut_store ..) ..
  have hf : f.store = d.store := foldl_store (fun t o => finish_store ..) ..
  have hg : g.store = f.store := foldl_store (fun t o => finish_store ..) ..
  have hj : j.store = g.store := by
    rw [setPState_store, setB_store, setB_store, modPart_store]
  rw [forAll_store (fun t c => by rw [setPower_store, setF_store, modCore_store]), hj, hg, hf, hd, ha]

/-! ### Ends of orders and sessions, teardown, restart -/
@[simp] theorem cancelRun_store (s : State) (p : Nat) : (s.cancelRun p).store = s.store := by
  unfold State.cancelRun
  extract_lets t
  have ht : t.store = s.store := modMod_store ..
  split
  · rw [endRun_store, endIncomplete_store, ht]
  · exact (foldl_store (fun u o => finish_store ..) ..).trans ht
@[simp] theorem endOrders_store (s : State) (p : Nat) (b : Option OrderSt) : (s.endOrders p b).store = s.store := by
  unfold State.endOrders
  extract_lets t l u
  have hu : u.store = t.store := foldl_store (fun v o => finish_store ..) ..
  rw [modPart_store, hu, failCopy_store, modPart_store]
@[simp] theorem cancelOrder_store (s : State) (o : OrderSt) : (s.cancelOrder o).store = s.store := by
  unfold State.cancelOrder
  simp
@[simp] theorem teardown_store (s : State) (p : Nat) (c : Option OrderSt) : (s.teardown p false c).store = s.store := by
  unfold State.teardown
  extract_lets a b d e f g h
  have hf : f.store = e.store := foldl_store (fun t x => foldl_store (fun u m => deactivate_store ..) ..) ..
  rw [setPState_store, modFn_store, modPart_store, hf, discardSums_store]
  exact (endOrders_store ..).trans (cancelRun_store ..)
@[simp] theorem imagePart_store (s : State) (p : Nat) : (s.imagePart p).store = s.store := by
  unfold State.imagePart
  split
  · rfl
  · extract_lets t
    have ht : t.store = s.store := by
      simp only [t]
      split <;> rfl
    exact (foldl_store (fun u e => by rw [setReg_store, setReg_store]) ..).trans ht
@[simp] theorem teardownDone_store (s : State) (p : Nat) : (s.teardownDone p).store = s.store := by
  unfold State.teardownDone
  extract_lets cs a held b c d e f g h i j
  have hc : c.store = s.store := by
    rw [ite_store, setB_store, ite_self, zeroExtents_store, zeroSpad_store]
  have hd : d.store = c.store := by
    simp only [d]
    split <;> simp
  have hi : i.store = h.store := foldl_store (fun t x => by simp) ..
  have hg : g.store = e.store := (resetController_store ..).trans (setPart_store ..)
  rw [raise_store, setPState_store, rebuildView_store, hi, modFn_store, hg, imagePart_store, resetRegs_store, hd, hc]
@[simp] theorem endAdmin_store (s : State) (k : Nat) : (s.endAdmin k).store = s.store := modFn_store ..

end Sys2Proof.Machine
end

section
/-! SUPPORT. The health log and the slot it shares its device with; what ends before a restart, and what validates an image. -/
namespace Sys2Proof.Machine
open Host

/-- The numbers of a run of `n` from `a`. -/
theorem mem_rangeFrom {a n i : Nat} : i ∈ rangeFrom a n ↔ a ≤ i ∧ i < a + n := by
  induction n generalizing a with
  | zero => simp only [rangeFrom, List.not_mem_nil, false_iff]; omega
  | succ n ih => simp only [rangeFrom, List.mem_cons, ih]; omega

/-! ### The health log lies beside the slots (R483, R484) -/
/-- The image in force and the bytes of slot A, up to the longest image. -/
def State.slotKept (s t : State) : Prop := t.image = s.image ∧ ∀ k < slotSize, t.flashByte 0 k = s.flashByte 0 k
theorem State.slotKept.refl (s : State) : s.slotKept s := ⟨rfl, fun _ _ => rfl⟩
theorem State.slotKept.trans {s t u : State} (h : s.slotKept t) (k : t.slotKept u) : s.slotKept u :=
  ⟨k.1.trans h.1, fun i hi => (k.2 i hi).trans (h.2 i hi)⟩
theorem slotKept_of_store {s t : State} (h : t.store = s.store) : s.slotKept t := by
  obtain ⟨hi, hf⟩ := Prod.mk.injEq .. ▸ h
  exact ⟨hi, fun k _ => by rw [State.flashByte, hf]; rfl⟩
/-- Going through a list with an update that keeps the slot. -/
theorem foldl_slotKept {α : Type} {f : State → α → State} (h : ∀ (t : State) (a : α), t.slotKept (f t a)) (l : List α) (s : State) :
    s.slotKept (l.foldl f s) := foldl_keeps (fun t => s.slotKept t) f (fun t a k => k.trans (h t a)) l s (.refl s)
theorem setFlash_slotKept (s : State) (d k : Nat) (b : Byte) (h : slotSize ≤ k) : s.slotKept (s.setFlash d k b) := by
  refine ⟨rfl, fun i hi => ?_⟩
  unfold State.flashByte State.setFlash
  exact Tab.get_put_ne _ _ _ (by omega)
theorem eraseFlash_slotKept (s : State) (d a n : Nat) (h : slotSize ≤ a) : s.slotKept (s.eraseFlash d a n) := by
  refine ⟨rfl, fun i hi => ?_⟩
  unfold State.flashByte State.eraseFlash
  rw [Tab.get_clear, if_neg]
  simp only [Bool.and_eq_true, decide_eq_true_eq]
  omega
theorem putRecord_slotKept (s : State) (k : Nat) (l : List Byte) : s.slotKept (s.putRecord k l) := by
  unfold State.putRecord
  refine foldl_slotKept (fun t d => foldl_slotKept (fun u x => setFlash_slotKept u _ _ _ ?_) _ t) _ s
  simp only [slotSize, logBase]
  omega
theorem compactLog_slotKept (s : State) : s.slotKept s.compactLog := by
  unfold State.compactLog
  split
  · exact .refl s
  · extract_lets half t u v
    have ht : s.slotKept t := foldl_slotKept (fun a n => putRecord_slotKept ..) ..
    have hu : t.slotKept u := foldl_slotKept (fun a d => eraseFlash_slotKept a _ _ _ (by simp only [slotSize, logBase]; omega)) ..
    have hv : u.slotKept v := slotKept_of_store (foldl_store (fun a e => setHealth_store ..) ..)
    exact ((ht.trans hu).trans hv).trans (slotKept_of_store (modMod_store ..))
theorem logEntry_slotKept (s : State) (u : Nat) (h : Health) : s.slotKept (s.logEntry u h) := by
  unfold State.logEntry
  exact ((putRecord_slotKept ..).trans (slotKept_of_store ((modMod_store ..).trans (setHealth_store ..)))).trans (compactLog_slotKept _)
theorem writeHealth_slotKept (s : State) (f : Health → Bool) : s.slotKept (s.writeHealth f) :=
  foldl_slotKept (fun _ _ => logEntry_slotKept ..) ..
/-- What comes before a restart ends sessions and writes the health log; it reaches neither the image in force nor slot A (R498). -/
theorem beforeRestart_slotKept (s : State) : s.slotKept s.beforeRestart := by
  unfold State.beforeRestart
  extract_lets t u v
  have hu : u.store = t.store := foldl_store (fun a p => by simp) ..
  have hv : v.store = u.store := by
    refine foldl_store (fun a k => ?_) ..
    split
    · rw [endAdmin_store, foldl_store fun b o => cancelOrder_store ..]
    · rfl
  refine (slotKept_of_store ?_).trans (writeHealth_slotKept v _)
  rw [hv, hu, setF_store]

/-! ### Validation reads an image's own bytes (R490) -/
/-- Two images that agree up to the longest length have one verdict. -/
theorem imageDetail_congr {f g : Nat → Byte} (h : ∀ k < slotSize, f k = g k) (b : Option Image) : imageDetail f b = imageDetail g b := by
  have hb : ∀ a n, a + n ≤ slotSize → imgBytes f a n = imgBytes g a n := fun a n hn =>
    List.map_congr_left fun i hi => h i (by have := mem_rangeFrom.1 hi; omega)
  have hn : ∀ a n, a + n ≤ slotSize → imgNat f a n = imgNat g a n := fun a n hn => by rw [imgNat, imgNat, hb a n hn]
  unfold imageDetail
  extract_lets len secs len' secs'
  have hl : len = len' := hn 8 4 (by decide)
  have hs : secs = secs' := by simp only [secs, secs', hb 512 160 (by decide)]
  rw [hl, hs, hn 0 4 (by decide), hn 6 2 (by decide), hn 12 2 (by decide), hn 14 2 (by decide), hn 24 8 (by decide), hn 256 256 (by decide),
    hn 4 2 (by decide), hb 32 32 (by decide), hb 64 96 (by decide), hb 0 160 (by decide), hb 160 96 (by decide)]
  by_cases hlen : slotSize < len'
  · rw [if_pos (by tauto), if_pos (by tauto)]
  · have hk : slotSize = 251658240 := rfl
    by_cases h5 : 512 ≤ len'
    · rw [hb 512 (len' - 512) (by omega)]
    · rw [show len' - 512 = 0 by omega]; rfl
theorem slotDetail_of_slotKept {s t : State} (h : s.slotKept t) (b : Option Image) : t.slotDetail 0 b = s.slotDetail 0 b :=
  imageDetail_congr h.2 b
theorem slotKept_of_flash {s t : State} (h : t.flash = s.flash) : ∀ k, t.flashByte 0 k = s.flashByte 0 k := fun k => by
  rw [State.flashByte, h]; rfl

end Sys2Proof.Machine
end

section
/-! SUPPORT. Bring-up: what its steps leave alone, and the two ways it ends (R489 to R497). -/
namespace Sys2Proof.Machine
open Host

/-! ### What the steps of bring-up leave alone -/
/-- What R494's steps 2 to 7 leave as step 1 set it: image and store, memory, power and readiness, MOD.STATE, every PART.STATE. -/
structure BootView where
  store : Option Image × Tab Byte
  spad : Memory
  dram : Memory
  off : Bool
  ready : Bool
  modState : Word
  partState : Nat → Word
def State.boot (s : State) : BootView := ⟨s.store, s.spad, s.dram, s.mod.off, s.mod.ready, s.reg .modState 0, s.reg .partState⟩
/-- The registers of that view. -/
def bootRegs : List Reg := [.modState, .partState]

theorem setReg_boot (s : State) (r : Reg) (i : Nat) (v : Word) (h : r ∉ bootRegs) : (s.setReg r i v).boot = s.boot := by
  have hm : Reg.modState ≠ r := fun e => h (e ▸ by decide)
  have hp : Reg.partState ≠ r := fun e => h (e ▸ by decide)
  have hp' : (s.setReg r i v).reg .partState = s.reg .partState := funext fun j => reg_setReg_ne s _ _ _ (Or.inl hp)
  unfold State.boot
  rw [reg_setReg_ne s _ _ _ (Or.inl hm), hp', setReg_store, State.setReg_spad, State.setReg_dram, State.setReg_mod]
theorem setF_boot (s : State) (f : RF) (i v : Nat) (h : f.reg ∉ bootRegs) : (s.setF f i v).boot = s.boot := setReg_boot s _ _ _ h
theorem bumpF_boot (s : State) (f : RF) (i v : Nat) (h : f.reg ∉ bootRegs) : (s.bumpF f i v).boot = s.boot := setF_boot s f i _ h
theorem setB_boot (s : State) (f : RF) (i : Nat) (b : Bool) (h : f.reg ∉ bootRegs) : (s.setB f i b).boot = s.boot := setF_boot s f i _ h
theorem modCore_boot (s : State) (c : Nat) (f : CoreSt → CoreSt) : (s.modCore c f).boot = s.boot := rfl
theorem modFab_boot (s : State) (f : FabSt → FabSt) : (s.modFab f).boot = s.boot := rfl
theorem modMod_boot (s : State) (f : ModSt → ModSt) (ho : (f s.mod).off = s.mod.off) (hr : (f s.mod).ready = s.mod.ready) :
    (s.modMod f).boot = s.boot := by
  unfold State.boot
  rw [modMod_mod, ho, hr]
  rfl
theorem setHealth_boot (s : State) (u : Nat) (h : Health) : (s.setHealth u h).boot = s.boot := rfl
theorem record_boot (s : State) (e : Ev) (q k p x : Nat) : (s.record e q k p x).boot = s.boot := rfl
theorem ite_boot (c : Prop) [Decidable c] (s t : State) : (if c then s else t).boot = if c then s.boot else t.boot := apply_ite State.boot c s t
/-- A choice whose sides keep a view keeps it. -/
theorem ite_boot_eq {c : Prop} [Decidable c] {s t : State} {v : BootView} (hs : s.boot = v) (ht : t.boot = v) : (if c then s else t).boot = v := by
  rw [ite_boot, hs, ht, ite_self]
theorem foldl_boot {α : Type} {f : State → α → State} (h : ∀ t a, (f t a).boot = t.boot) (l : List α) (s : State) :
    (l.foldl f s).boot = s.boot := foldl_keeps (fun t => t.boot = s.boot) f (fun t a k => (h t a).trans k) l s rfl
theorem forAll_boot {α : Type} {f : State → α → State} (h : ∀ t a, (f t a).boot = t.boot) (l : List α) (s : State) :
    (s.forAll l f).boot = s.boot := foldl_boot h l s
theorem raise_boot (s : State) (e : Ev) (a : Nat) (p : Option Nat) (d : Nat) : (s.raise e a p d).boot = s.boot := by
  unfold State.raise
  extract_lets n t
  have ht : t.boot = s.boot := by
    simp only [t]
    cases p with
    | none => rfl
    | some k => exact ite_boot_eq (record_boot ..) rfl
  exact ite_boot_eq ((record_boot ..).trans ht) ht
theorem rebuildView_boot (s : State) (p : Nat) : (s.rebuildView p).boot = s.boot := by
  unfold State.rebuildView
  rw [record_boot, setF_boot _ _ _ _ (by decide), setF_boot _ _ _ _ (by decide)]
theorem rebuild_boot (s : State) : s.rebuild.boot = s.boot := by
  unfold State.rebuild
  extract_lets t
  refine ite_boot_eq rfl ?_
  rw [forAll_boot rebuildView_boot, record_boot, setF_boot _ _ _ _ (by decide), setF_boot _ _ _ _ (by decide)]
theorem showCeil_boot (s : State) (c : Nat) : (s.showCeil c).boot = s.boot := setF_boot _ _ _ _ (by decide)
theorem showDie_boot (s : State) (d : Nat) : (s.showDie d).boot = s.boot := by
  unfold State.showDie
  rw [forAll_boot showCeil_boot, setF_boot _ _ _ _ (by decide)]
theorem showLimit_boot (s : State) (d : Nat) : (s.showLimit d).boot = s.boot := setF_boot _ _ _ _ (by decide)

/-! ### Faults counted against units -/
theorem applyCore_boot (s : State) (c n : Nat) : (s.applyCore c n).boot = s.boot := by
  unfold State.applyCore
  extract_lets t
  have ht : t.boot = s.boot := modCore_boot ..
  clear_value t
  have hv : ∀ v, (t.setF F.vregPoint_mv c v).boot = s.boot := fun v => (setF_boot _ _ _ _ (by decide)).trans ht
  split
  · exact ite_boot_eq ht (hv _)
  · exact hv _
theorem shedPhase_boot (s : State) (d k : Nat) : (s.shedPhase d k).boot = s.boot := by
  unfold State.shedPhase
  extract_lets w n t
  have ht : t.boot = s.boot := by
    rw [raise_boot, setF_boot _ _ _ _ (by decide), setF_boot _ _ _ _ (by decide)]
  clear_value t
  refine ite_boot_eq rfl (ite_boot_eq ?_ ht)
  rw [showDie_boot, raise_boot, setB_boot _ _ _ _ (by decide), ht]
theorem applyUnit_boot (s : State) (u n : Nat) : (s.applyUnit u n).boot = s.boot := by
  have port : ∀ k, (if n ≠ 3 then s else if k < 32 then s.setF F.epdLink_up k 0 else s.setF F.epdHost_up (k - 32) 0).boot = s.boot :=
    fun k => ite_boot_eq rfl (ite_boot_eq (setF_boot _ _ _ _ (by decide)) (setF_boot _ _ _ _ (by decide)))
  unfold State.applyUnit
  split
  · exact applyCore_boot ..
  · exact ite_boot_eq ((raise_boot ..).trans (setF_boot _ _ _ _ (by decide))) rfl
  · exact port _
  · exact port _
  · exact (showLimit_boot ..).trans (ite_boot_eq (shedPhase_boot ..) rfl)
  · rfl
theorem setUnit_boot (s : State) (u n : Nat) (h : Health) : (s.setUnit u n h).boot = s.boot := by
  unfold State.setUnit
  extract_lets t v w x
  have hw : w.boot = s.boot := (applyUnit_boot ..).trans ((setF_boot _ _ _ _ (by decide)).trans (setHealth_boot ..))
  clear_value w
  exact (rebuild_boot _).trans (ite_boot_eq ((raise_boot ..).trans hw) hw)
theorem charge_boot (s : State) (u k : Nat) (r : Bool) : (s.charge u k r).boot = s.boot := by
  unfold State.charge
  exact ite_boot_eq ((setF_boot _ _ _ _ (by decide)).trans (setHealth_boot ..)) (setUnit_boot ..)

/-! ### The steps -/
theorem imageLocked_boot (s : State) (im : Image) : (s.imageLocked im).boot = s.boot := by
  unfold State.imageLocked
  extract_lets a b c d e f
  have ha : a.boot = s.boot := foldl_boot (fun t e => setF_boot _ _ _ _ (by decide)) ..
  have hb : b.boot = a.boot := foldl_boot (fun t p => by
    rw [setB_boot _ _ _ _ (by decide), setF_boot _ _ _ _ (by decide), setB_boot _ _ _ _ (by decide), setF_boot _ _ _ _ (by decide),
      setF_boot _ _ _ _ (by decide)]) ..
  have hc : c.boot = b.boot := foldl_boot (fun t p => by
    rw [setF_boot _ _ _ _ (by decide), setF_boot _ _ _ _ (by decide), setF_boot _ _ _ _ (by decide), setF_boot _ _ _ _ (by decide)]) ..
  have hd : d.boot = c.boot := foldl_boot (fun t p => by
    rw [setF_boot _ _ _ _ (by decide), setF_boot _ _ _ _ (by decide)]) ..
  have he : e.boot = d.boot := foldl_boot (fun t p => by
    rw [setF_boot _ _ _ _ (by decide), setF_boot _ _ _ _ (by decide), setF_boot _ _ _ _ (by decide), setF_boot _ _ _ _ (by decide),
      setF_boot _ _ _ _ (by decide), setF_boot _ _ _ _ (by decide)]) ..
  have hf : f.boot = e.boot := foldl_boot (fun t p => by
    rw [setF_boot _ _ _ _ (by decide), setF_boot _ _ _ _ (by decide)]) ..
  rw [setReg_boot _ _ _ _ (by decide), setF_boot _ _ _ _ (by decide), hf, he, hd, hc, hb, ha]
theorem imagePart_boot (s : State) (p : Nat) : (s.imagePart p).boot = s.boot := by
  unfold State.imagePart
  split
  · rfl
  · extract_lets t
    have ht : t.boot = s.boot := by
      simp only [t]
      split
      · exact setF_boot _ _ _ _ (by decide)
      · rfl
    exact (foldl_boot (fun u e => by rw [setReg_boot _ _ _ _ (by decide), setReg_boot _ _ _ _ (by decide)]) ..).trans ht
theorem imageRuntime_boot (s : State) (im : Image) : (s.imageRuntime im).boot = s.boot := by
  unfold State.imageRuntime
  extract_lets a pair b
  have ha : a.boot = s.boot := foldl_boot (fun t e => setReg_boot _ _ _ _ (by decide)) ..
  refine (foldl_boot imagePart_boot ..).trans ?_
  rw [setF_boot _ _ _ _ (by decide), setReg_boot _ _ _ _ (by decide), setReg_boot _ _ _ _ (by decide), ha]
theorem recap_boot (s : State) : s.recap.boot = s.boot := by
  unfold State.recap
  extract_lets c now t u
  have ht : t.boot = s.boot := ite_boot_eq
    (by rw [setB_boot _ _ _ _ (by decide), setF_boot _ _ _ _ (by decide)]) (setB_boot _ _ _ _ (by decide))
  have hu : u.boot = s.boot := (setF_boot _ _ _ _ (by decide)).trans ht
  clear_value u
  exact ite_boot_eq hu ((raise_boot ..).trans ((modMod_boot _ _ rfl rfl).trans hu))
theorem testUnits_boot (s : State) (b : BringUp) : (s.testUnits b).boot = s.boot := by
  unfold State.testUnits
  extract_lets t u v w
  have hu : u.boot = s.boot := (foldl_boot (fun a c => charge_boot ..) ..).trans (modFab_boot ..)
  have hv : v.boot = u.boot := foldl_boot (fun a c => ite_boot_eq (charge_boot ..) rfl) ..
  have hw : w.boot = v.boot := foldl_boot (fun a c => ite_boot_eq (charge_boot ..) rfl) ..
  refine (foldl_boot (fun a e => bumpF_boot _ _ _ _ (by decide)) ..).trans ?_
  rw [hw, hv, hu]
theorem enterUnits_boot (s : State) : s.enterUnits.boot = s.boot := by
  unfold State.enterUnits
  refine foldl_boot (fun t e => ?_) ..
  extract_lets u m d w a b
  split
  · exact ite_boot_eq (setF_boot _ _ _ _ (by decide)) rfl
  · have ha : a.boot = t.boot := ite_boot_eq (by rw [setF_boot _ _ _ _ (by decide), setF_boot _ _ _ _ (by decide)]) rfl
    clear_value a
    exact (showLimit_boot ..).trans (ite_boot_eq ((setB_boot _ _ _ _ (by decide)).trans ha) ha)
  · rfl
theorem enterCores_boot (s : State) (im : Image) : (s.enterCores im).boot = s.boot := by
  unfold State.enterCores
  extract_lets fence t
  have hf : ∀ a c n, (fence a c n).boot = a.boot := fun a c n => (setF_boot _ _ _ _ (by decide)).trans (modCore_boot ..)
  clear_value fence
  have ht : t.boot = s.boot := by
    refine foldl_boot (fun a e => ?_) _ s
    extract_lets b
    have hb : b.boot = a.boot := modCore_boot ..
    clear_value b
    exact ite_boot_eq ((hf ..).trans ((modCore_boot ..).trans hb)) hb
  exact (foldl_boot (fun a c => hf ..) ..).trans ht

/-! ### Its two ends -/
theorem getF_modState (s : State) (f : RF) (h : f.reg = .modState) : s.getF f 0 = bits s.boot.modState f.lo f.len := by
  unfold State.getF
  rw [h]
  rfl
theorem pState_boot (s : State) (p : Nat) : s.pState p = bits (s.boot.partState p) 0 3 := rfl
/-- A field of MOD.STATE is written, and nothing else of the view. -/
theorem setF_modState_boot (s : State) (f : RF) (v : Nat) (h : f.reg = .modState) :
    (s.setF f 0 v).boot = { s.boot with modState := setBits s.boot.modState f.lo f.len v } := by
  have hm : (s.setF f 0 v).reg .modState 0 = setBits (s.reg .modState 0) f.lo f.len v := by
    unfold State.setF
    rw [h, reg_setReg_same]
  have hp : (s.setF f 0 v).reg .partState = s.reg .partState :=
    funext fun j => reg_setF_ne s f _ _ _ (Or.inl (by rw [h]; decide))
  unfold State.boot
  rw [hm, hp, setF_store, State.setF_spad, State.setF_dram, State.setF_mod]
/-- MOD_READY rises, and nothing else of the view changes. -/
theorem setReady_boot (s : State) : (s.modMod fun q => { q with ready := true }).boot = { s.boot with ready := true } := rfl
/-- READY without a leak: MOD.STATE says so, the locks close, MOD_READY rises, and the rest of the view stands (R494 step 8, R496). -/
theorem goReady_boot (s : State) (b : BringUp) (h : b.leak = 0#3) : ∃ w, (s.goReady b).boot = { s.boot with ready := true, modState := w } ∧
    bits w 0 2 = mReady ∧ bits w 8 1 = 1 ∧ bits w 9 1 = bits s.boot.modState 9 1 := by
  unfold State.goReady
  extract_lets t u v
  have ht : t.boot = { s.boot with modState := setBits (setBits s.boot.modState 0 2 mReady) 2 4 8 } := by
    rw [rebuild_boot, setF_modState_boot _ _ _ rfl, setF_modState_boot _ _ _ rfl]
    rfl
  have hu : u.boot = { s.boot with ready := true, modState := setBits (setBits (setBits s.boot.modState 0 2 mReady) 2 4 8) 8 1 1 } := by
    have hl : (t.setB F.modState_lock_closed 0 true).boot = _ := setF_modState_boot t F.modState_lock_closed 1 rfl
    rw [raise_boot, setReady_boot, hl, ht]
    rfl
  have hv : v.boot = u.boot := foldl_boot (fun a d => showDie_boot a d) ..
  rw [if_pos (show b.leak = 0 from h)]
  refine ⟨_, hv.trans hu, ?_, ?_, ?_⟩
  · rw [bits_setBits_ne _ _ _ _ _ _ (by decide) (by decide), bits_setBits_ne _ _ _ _ _ _ (by decide) (by decide),
      bits_setBits_same _ _ _ _ (by decide)]
    rfl
  · exact bits_setBits_same _ _ _ _ (by decide)
  · rw [bits_setBits_ne _ _ _ _ _ _ (by decide) (by decide), bits_setBits_ne _ _ _ _ _ _ (by decide) (by decide),
      bits_setBits_ne _ _ _ _ _ _ (by decide) (by decide)]
/-- Steps 2 to 8 without a leak. -/
theorem bringUp_boot (s : State) (im : Image) (b : BringUp) (h : b.leak = 0#3) :
    ∃ w, (s.bringUp im b).boot = { s.boot with ready := true, modState := w } ∧
      bits w 0 2 = mReady ∧ bits w 8 1 = 1 ∧ bits w 9 1 = bits s.boot.modState 9 1 := by
  have hs : ((((s.imageRuntime im).recap.testUnits b).enterUnits).enterCores im).boot = s.boot := by
    rw [enterCores_boot, enterUnits_boot, testUnits_boot, recap_boot, imageRuntime_boot]
  rw [← hs]
  exact goReady_boot _ b h
theorem setSteward_boot (s : State) (on : Bool) : (s.setSteward on).boot = s.boot := by
  unfold State.setSteward
  exact ite_boot_eq rfl ((raise_boot ..).trans (setB_boot _ _ _ _ (by decide)))
/-- Steward mode shows in PWR.STATE once it is set (R481). -/
theorem setSteward_on (s : State) : (s.setSteward true).getF F.pwrState_steward_mode 0 = 1 := by
  unfold State.setSteward
  split
  · rename_i h
    simpa [State.flagF] using h
  · rw [(raise_faultOnly ..).getF _ _ (by decide)]
    exact getF_setB_same _ _ _ _ (by decide) (by decide)
/-- Safe mode with no image in force (R481, R491). -/
theorem goSafe_inSafeMode (s : State) (hi : s.image = none) (hs : s.spad = []) (hd : s.dram = []) :
    s.goSafe.inSafeMode ∧ s.goSafe.flash = s.flash := by
  unfold State.goSafe
  extract_lets t
  have ht : ((t.raise .safeModeEntered stewardNode none 0).setSteward true).boot =
      { s.boot with modState := setBits (setBits (setBits s.boot.modState 0 2 mSafe) 2 4 1) 8 1 1 } := by
    rw [setSteward_boot, raise_boot]
    exact (setF_modState_boot _ F.modState_lock_closed 1 rfl).trans
      (by rw [setF_modState_boot _ _ _ rfl, setF_modState_boot _ _ _ rfl]; rfl)
  have hm := congrArg BootView.store ht
  generalize hu : (t.raise .safeModeEntered stewardNode none 0).setSteward true = u at ht hm ⊢
  refine ⟨⟨?_, ?_, hu ▸ setSteward_on _, ?_, (congrArg BootView.spad ht).trans hs, (congrArg BootView.dram ht).trans hd⟩,
    congrArg Prod.snd hm⟩
  · rw [getF_modState _ _ rfl, ht]
    show bits (setBits (setBits (setBits _ 0 2 mSafe) 2 4 1) 8 1 1) 0 2 = _
    rw [bits_setBits_ne _ _ _ _ _ _ (by decide) (by decide), bits_setBits_ne _ _ _ _ _ _ (by decide) (by decide),
      bits_setBits_same _ _ _ _ (by decide)]
    rfl
  · rw [getF_modState _ _ rfl, ht]
    exact bits_setBits_same _ _ _ _ (by decide)
  · exact (congrArg Prod.fst hm).trans hi

end Sys2Proof.Machine
end

section
/-! SUPPORT. Power on, resets and restarts: bring-up from step 0 (R489 to R497), and what comes before it. -/
namespace Sys2Proof.Machine
open Host

/-! ### Bring-up from step 0 -/
/-- What a COLD reset leaves that bring-up starts from: no image, empty memories, power, every partition EMPTY (R7, R499). -/
structure State.Cold (s : State) : Prop where
  image : s.image = none
  spad : s.spad = []
  dram : s.dram = []
  on : s.mod.off = false
  parts : ∀ p < 64, s.pState p = psEmpty
theorem coldReset_cold (s : State) : s.coldReset.Cold :=
  ⟨rfl, rfl, rfl, rfl, fun p _ => (getF_reset F.partState_state p).trans rfl⟩
theorem upWith_of_boot {s t : State} {im : Image} {w : Word} (hs : s.Cold)
    (h : t.boot = { s.boot with store := (some im, s.flash), ready := true, modState := w })
    (hr : bits w 0 2 = mReady) (hl : bits w 8 1 = 1) : t.upWith im ∧ t.flash = s.flash := by
  have hm : t.boot.modState = w := h ▸ rfl
  refine ⟨⟨?_, ?_, congrArg (fun v => v.store.1) h, congrArg BootView.ready h, (congrArg BootView.off h).trans hs.on,
    (congrArg BootView.spad h).trans hs.spad, (congrArg BootView.dram h).trans hs.dram, fun p hp => ?_⟩, congrArg (fun v => v.store.2) h⟩
  · rw [getF_modState _ _ rfl, hm]; exact hr
  · rw [getF_modState _ _ rfl, hm]; exact hl
  · rw [pState_boot, h]; exact hs.parts p hp
theorem setImage_boot (s : State) (im : Image) :
    ({ s with image := some im } : State).boot = { s.boot with store := (some im, s.boot.store.2) } := rfl
/-- Slot A holds an image that passes: the module comes up with it (R489 to R497). -/
theorem coldBringUp_good (s : State) (b : BringUp) (im : Image) (hs : s.Cold) (hr : b.readA = true) (hb : b.bodyA = some im)
    (hd : s.slotDetail 0 b.bodyA = 0) (hl : b.leak = 0#3) : (s.coldBringUp b).upWith im ∧ (s.coldBringUp b).flash = s.flash := by
  unfold State.coldBringUp
  extract_lets ra _ _ u _
  have hra : ra = 0 := by simp only [ra, State.slotReject, hr, if_true, hd]
  have hu : u.boot = { s.boot with modState := setBits s.boot.modState F.modState_reject_a.lo F.modState_reject_a.len ra } := by
    simp only [u]
    rw [setF_modState_boot _ _ _ rfl, setB_boot _ _ _ _ (by decide), setB_boot _ _ _ _ (by decide)]
  clear_value u
  rw [if_pos hra, hb]
  obtain ⟨w, hw, h0, h8, -⟩ := bringUp_boot (({ u with image := some im }).imageLocked im) im b hl
  rw [imageLocked_boot, setImage_boot, hu] at hw
  exact upWith_of_boot hs hw h0 h8
/-- Neither slot can be read: safe mode (R489, R491; log 27). -/
theorem coldBringUp_unread (s : State) (b : BringUp) (hs : s.Cold) (ha : b.readA = false) (hb : b.readB = false) :
    (s.coldBringUp b).inSafeMode ∧ (s.coldBringUp b).flash = s.flash := by
  unfold State.coldBringUp
  extract_lets ra rb _ _ v
  have hra : ra ≠ 0 := by simp [ra, State.slotReject, ha]
  have hrb : rb ≠ 0 := by simp [rb, State.slotReject, hb]
  have hv : v.goSafe.inSafeMode ∧ v.goSafe.flash = s.flash := goSafe_inSafeMode v hs.image hs.spad hs.dram
  clear_value v
  rw [if_neg hra]
  split
  · rw [if_pos hrb]
    exact hv
  · exact hv

/-! ### Before it -/
theorem revertHealth_store (s : State) : s.revertHealth.store = s.store := foldl_store (fun _ _ => setHealth_store ..) ..
theorem revertHealth_flash (s : State) : s.revertHealth.flash = s.flash := congrArg Prod.snd (revertHealth_store s)
theorem coldReset_flash (s : State) : s.coldReset.flash = s.flash := rfl
theorem slotDetail_of_flash {s t : State} (h : t.flash = s.flash) (b : Option Image) : t.slotDetail 0 b = s.slotDetail 0 b :=
  imageDetail_congr (fun k _ => slotKept_of_flash h k) b
theorem execPowerOn_off (b : BringUp) (s : State) (h : s.mod.off = true) :
    exec (.powerOn b) s = .next (s.powerOff.revertHealth.coldReset.coldBringUp b) := congrArg Outcome.next (if_pos h)
theorem execModRstNAssert_on (b : BringUp) (held : Bool) (s : State) (h : s.mod.off = false) : exec (.modRstNAssert held b) s =
    .next (if held then s.revertHealth.coldReset.setB F.sbStat_reset_in 0 true else s.revertHealth.coldReset.coldBringUp b) :=
  congrArg Outcome.next (if_neg (by simp [h]))
theorem powered_flash (s : State) : s.powerOff.revertHealth.coldReset.flash = s.flash := (coldReset_flash _).trans (revertHealth_flash _)
theorem pulsed_flash (s : State) : s.revertHealth.coldReset.flash = s.flash := (coldReset_flash _).trans (revertHealth_flash _)

end Sys2Proof.Machine
end

section
/-! SUPPORT. An access's touch of its path, and restarts (R498 to R500). -/
namespace Sys2Proof.Machine
open Host

/-! ### A touch of a path changes its latched read alone (R510) -/
@[simp] theorem touch_reg (s : State) (path : Path) (r : Reg) (i : Nat) : (s.touch path).reg r i = s.reg r i := (rfl)
@[simp] theorem touch_getF (s : State) (path : Path) (f : RF) (i : Nat) : (s.touch path).getF f i = s.getF f i := (rfl)
theorem touch_fn (s : State) (path : Path) (k : Nat) :
    (s.touch path).fn k = if k = pathIx path then { s.fn k with latch := none } else s.fn k := by
  unfold State.touch
  by_cases h : k = pathIx path
  · rw [if_pos h, h, fn_modFn_same]
  · rw [if_neg h, fn_modFn_ne _ _ h]
@[simp] theorem touch_session (s : State) (path : Path) (k : Nat) : ((s.touch path).fn k).session = (s.fn k).session := by
  rw [touch_fn]
  split <;> rfl
@[simp] theorem admitted_touch (s : State) (path q : Path) : (s.touch path).admitted q = s.admitted q := by
  unfold State.admitted
  rw [touch_session]
  rfl
@[simp] theorem cfgsMay_touch (s : State) (path q : Path) : (s.touch path).cfgsMay q = s.cfgsMay q := by
  unfold State.cfgsMay
  rw [admitted_touch, touch_session]
  rfl
@[simp] theorem touch_store (s : State) (path : Path) : (s.touch path).store = s.store := modFn_store ..
theorem ifAdmitted_pos (s : State) (path : Path) (f : State → State) (h : s.admitted path = true) :
    s.ifAdmitted path f = f (s.touch path) := if_pos h
theorem ifAdmitted_neg (s : State) (path : Path) (f : State → State) (h : s.admitted path = false) :
    s.ifAdmitted path f = s.touch path := if_neg (by simp [h])

/-! ### Who may restart, and when (R498, R500) -/
theorem restart_denied (s : State) (path : Path) (b : Bool) (go : State → State) (hm : s.cfgsMay path = false) :
    s.restart path b go = s.touch path := if_pos (by rw [cfgsMay_touch, hm]; rfl)
theorem restart_busy (s : State) (path : Path) (b : Bool) (go : State → State) (hm : s.cfgsMay path = true) (hb : s.getF F.cfgsStatus_busy 0 = 1) :
    s.restart path b go = (s.touch path).setB F.modReset_error 0 true := by
  unfold State.restart
  extract_lets t st
  have hf : t.flagF F.cfgsStatus_busy 0 = true := decide_eq_true hb
  rw [if_neg (by rw [cfgsMay_touch, hm]; decide), hf, if_neg (by simp)]
theorem restart_go (s : State) (path : Path) (b : Bool) (go : State → State) (hm : s.cfgsMay path = true) (hb : s.getF F.cfgsStatus_busy 0 = 0)
    (hst : s.getF F.modState_state 0 = mReady ∨ b = true ∧ s.getF F.modState_state 0 = mSafe) : s.restart path b go = go (s.touch path) := by
  unfold State.restart
  extract_lets t st
  have hf : t.flagF F.cfgsStatus_busy 0 = false := decide_eq_false (by rw [touch_getF, hb]; decide)
  have hs : st = mReady ∨ b = true ∧ st = mSafe := hst
  rw [if_neg (by rw [cfgsMay_touch, hm]; decide), hf, if_pos (by simpa using hs)]

/-! ### WARM_RESTART (R499) -/
theorem setReg_partState_boot (s : State) (i : Nat) (v : Word) :
    (s.setReg .partState i v).boot = { s.boot with partState := (s.setReg .partState i v).reg .partState } := by
  unfold State.boot
  rw [reg_setReg_ne s _ _ _ (Or.inl (by decide)), setReg_store, State.setReg_spad, State.setReg_dram, State.setReg_mod]
/-- Updates of PART.STATE leave the rest of the view. -/
theorem foldl_setB_partState_boot (f : RF) (h : f.reg = .partState) (b : Bool) (l : List Nat) (s : State) :
    ∃ g, (l.foldl (fun t p => t.setB f p b) s).boot = { s.boot with partState := g } := by
  refine foldl_keeps (fun t => ∃ g, t.boot = { s.boot with partState := g }) _ (fun t p ⟨g, hg⟩ => ?_) l s ⟨_, rfl⟩
  unfold State.setB State.setF
  rw [h]
  exact ⟨_, (setReg_partState_boot ..).trans (by rw [hg])⟩
/-- After a WARM reset the memories are empty and the image in force stands. -/
theorem warmReset_boot (s : State) : s.warmReset.image = s.image ∧ s.warmReset.spad = [] ∧ s.warmReset.dram = [] := by
  unfold State.warmReset
  extract_lets t fns u
  have h : (fns.foldl (fun s e => s.setFn e.1 e.2.warm) u).boot = u.boot :=
    foldl_boot (f := fun (s : State) (e : Nat × FnSt) => s.setFn e.1 e.2.warm) (fun _ _ => rfl) ..
  exact ⟨congrArg (fun v => v.store.1) h, congrArg BootView.spad h, congrArg BootView.dram h⟩
/-- A frame marked poisoned changes LDG.RECV alone. -/
theorem foldl_recvBad_boot (l : List Nat) (s : State) : (l.foldl (fun (s : State) k => match Tab.get (fun _ => none) s.recv k with
    | some x => { s with recv := Tab.put (fun _ => none) k (some { x with poison := true }) s.recv }
    | none => s) s).boot = s.boot := foldl_boot (fun t k => by split <;> rfl) ..
/-- BOOTING by a warm restart: the memories are empty, the image in force stands, and MOD.STATE tells the restart was warm. -/
structure State.WarmBooting (s : State) (im : Image) : Prop where
  image : s.image = some im
  spad : s.spad = []
  dram : s.dram = []
  warm : bits s.boot.modState 9 1 = 1
theorem State.WarmBooting.congr {s t : State} {im : Image} {g : Nat → Word} (h : s.WarmBooting im) (ht : t.boot = { s.boot with partState := g }) :
    t.WarmBooting im :=
  ⟨(congrArg (fun v => v.store.1) ht).trans h.image, (congrArg BootView.spad ht).trans h.spad, (congrArg BootView.dram ht).trans h.dram,
    by rw [ht]; exact h.warm⟩
/-- Where a warm restart begins its bring-up (R499). -/
def State.warmBooted (s : State) (b : BringUp) : State :=
  let s := (s.beforeRestart.warmReset).modMod (fun q => { q with ready := false, exiting := false, wakers := [], console := false })
  let s := (s.setF F.modState_state 0 mBooting).setB F.modState_warm 0 true
  let s := (rangeFrom 0 64).foldl (fun (s : State) p => s.setB F.partState_zero_pending p false) s
  b.recvBad.foldl (fun (s : State) k => match Tab.get (fun _ => none) s.recv k with
    | some x => { s with recv := Tab.put (fun _ => none) k (some { x with poison := true }) s.recv }
    | none => s) s
theorem setB_warm (s : State) (im : Image) (hi : s.image = some im) (hs : s.spad = []) (hd : s.dram = []) :
    (s.setB F.modState_warm 0 true).WarmBooting im :=
  ⟨by rw [State.setB_image, hi], by rw [State.setB_spad, hs], by rw [State.setB_dram, hd],
    (getF_modState _ F.modState_warm rfl).symm.trans (getF_setB_same _ _ _ _ (by decide) (by decide))⟩
theorem warmBooted_warmBooting (s : State) (b : BringUp) (im : Image) (hi : s.image = some im) : (s.warmBooted b).WarmBooting im := by
  unfold State.warmBooted
  extract_lets t u v
  obtain ⟨himg, hspad, hdram⟩ := warmReset_boot s.beforeRestart
  rw [(beforeRestart_slotKept s).1, hi] at himg
  have ht : t.image = some im ∧ t.spad = [] ∧ t.dram = [] := by
    simp only [t, State.modMod_image, State.modMod_spad, State.modMod_dram]
    exact ⟨himg, hspad, hdram⟩
  clear_value t
  have hu : u.WarmBooting im := setB_warm (t.setF F.modState_state 0 mBooting) im ht.1 ht.2.1 ht.2.2
  obtain ⟨g, hg⟩ := foldl_setB_partState_boot F.partState_zero_pending rfl false (rangeFrom 0 64) u
  clear_value u
  have hv : v.WarmBooting im := hu.congr hg
  clear_value v
  exact hv.congr (g := v.boot.partState) (foldl_recvBad_boot ..)
theorem execWarmRestart_go (s : State) (path : Path) (b : BringUp) (im : Image) (hm : s.cfgsMay path = true) (hb : s.getF F.cfgsStatus_busy 0 = 0)
    (hst : s.getF F.modState_state 0 = mReady) (hi : s.image = some im) :
    exec (.warmRestart path b) s = .next (((s.touch path).warmBooted b).bringUp im b) := by
  have hti : (s.touch path).image = some im := hi
  show execWarmRestart path b s = _
  unfold execWarmRestart
  rw [restart_go s path false _ hm hb (Or.inl hst)]
  simp only [hti]
  rfl
/-- A warm restart comes up with the image in use, which is not read again (R499). -/
theorem warmBooted_bringUp (s : State) (b : BringUp) (im : Image) (hs : s.WarmBooting im) (hl : b.leak = 0#3) :
    let t := s.bringUp im b
    t.getF F.modState_state 0 = mReady ∧ t.getF F.modState_warm 0 = 1 ∧ t.image = some im ∧ t.spad = [] ∧ t.dram = [] := by
  obtain ⟨w, hv, h0, -, h9⟩ := bringUp_boot s im b hl
  have hw : (s.bringUp im b).boot.modState = w := hv ▸ rfl
  refine ⟨?_, ?_, (congrArg (fun v => v.store.1) hv).trans hs.image, (congrArg BootView.spad hv).trans hs.spad,
    (congrArg BootView.dram hv).trans hs.dram⟩
  · rw [getF_modState _ _ rfl, hw]; exact h0
  · rw [getF_modState _ _ rfl, hw]; exact h9.trans hs.warm

end Sys2Proof.Machine
end

section
/-! SUPPORT. STANDBY (R470 to R472), and the power and reset obligation. -/
namespace Sys2Proof.Machine
open Host

/-! ### STANDBY -/
/-- What STANDBY's later steps leave as its first ones set it: memory, the time base, every power point. -/
def State.dark (s : State) : Memory × Memory × Nat × (Nat → Word) := (s.spad, s.dram, s.now, s.reg .vregPoint)
theorem setF_dark (s : State) (f : RF) (i v : Nat) (h : f.reg ≠ .vregPoint) : (s.setF f i v).dark = s.dark := by
  have hr : (s.setF f i v).reg .vregPoint = s.reg .vregPoint := funext fun j => reg_setF_ne s f _ _ _ (Or.inl h.symm)
  unfold State.dark
  rw [hr, State.setF_spad, State.setF_dram, State.setF_now]
theorem setB_dark (s : State) (f : RF) (i : Nat) (b : Bool) (h : f.reg ≠ .vregPoint) : (s.setB f i b).dark = s.dark := setF_dark s f i _ h
theorem foldl_dark {α : Type} {f : State → α → State} (h : ∀ t a, (f t a).dark = t.dark) (l : List α) (s : State) :
    (l.foldl f s).dark = s.dark := foldl_keeps (fun t => t.dark = s.dark) f (fun t a k => (h t a).trans k) l s rfl
/-- A field set at every place of a list reads that value at each. -/
theorem getF_foldl_setF (f : RF) (v : Nat) (hf : f.ok = true) (l : List Nat) (s : State) {c : Nat} (hc : c ∈ l) :
    (l.foldl (fun t k => t.setF f k v) s).getF f c = v % 2 ^ f.len := by
  induction l generalizing s with
  | nil => cases hc
  | cons k l ih =>
    by_cases hl : c ∈ l
    · exact ih _ hl
    · obtain rfl : c = k := (List.mem_cons.1 hc).resolve_right hl
      refine foldl_keeps (fun t => t.getF f c = v % 2 ^ f.len) _ (fun t j h => ?_) l _ (getF_setF_same _ _ _ _ hf)
      by_cases hj : c = j
      · rw [hj, getF_setF_same _ _ _ _ hf]
      · rw [getF_setF_unit _ _ _ _ hj, h]
theorem modMod_dark (s : State) (f : ModSt → ModSt) : (s.modMod f).dark = s.dark := rfl
/-- Power points set one by one leave the memories and the time base alone. -/
theorem foldl_setF_spads (f : RF) (v : Nat) (l : List Nat) (s : State) :
    let t := l.foldl (fun t c => t.setF f c v) s
    t.spad = s.spad ∧ t.dram = s.dram ∧ t.now = s.now :=
  foldl_keeps (fun t => t.spad = s.spad ∧ t.dram = s.dram ∧ t.now = s.now) _ (fun t c h => by
    rwa [State.setF_spad, State.setF_dram, State.setF_now]) l s ⟨rfl, rfl, rfl⟩
/-- In STANDBY the memories are lost and no core has power (R470, R472). -/
structure State.InStandby (t : State) : Prop where
  power : t.pwState = pwStandby
  spad : t.spad = []
  dram : t.dram = []
  points : ∀ c < 4096, t.getF F.vregPoint_state c = vOff
/-- STANDBY loses the memories and turns every core's power off (R470, R472). -/
theorem enterStandby_spec (s : State) (gone : Nat → Bool) :
    (s.enterStandby gone).InStandby ∧ (s.enterStandby gone).now = s.now := by
  unfold State.enterStandby
  extract_lets cores _ u v w x y z _ a
  obtain ⟨hvs, hvd, hvn⟩ : v.spad = [] ∧ v.dram = [] ∧ v.now = s.now :=
    foldl_keeps (fun t => t.spad = [] ∧ t.dram = [] ∧ t.now = s.now)
      (fun (t : State) (e : Nat × CoreSt) => t.setCore e.1 e.2.unpowered) (fun _ _ h => ⟨h.1, h.2.1, h.2.2⟩) _ _ ⟨rfl, rfl, rfl⟩
  clear_value v
  obtain ⟨hws, hwd, hwn⟩ : w.spad = v.spad ∧ w.dram = v.dram ∧ w.now = v.now := foldl_setF_spads ..
  have hwp : ∀ c < 4096, w.getF F.vregPoint_state c = vOff := fun c hc =>
    getF_foldl_setF F.vregPoint_state vOff (by decide) _ _ (mem_rangeFrom.2 ⟨by omega, by omega⟩)
  clear_value w
  have hx : x.dark = w.dark := foldl_dark (fun t p => setF_dark t _ _ _ (by decide)) ..
  clear_value x
  have hy : y.dark = x.dark := foldl_dark (fun t p => setF_dark t _ _ _ (by decide)) ..
  clear_value y
  have hz : z.dark = y.dark := foldl_dark (fun t p => by
    rw [setF_dark _ _ _ _ (by decide), setF_dark _ _ _ _ (by decide), setB_dark _ _ _ _ (by decide)]) ..
  clear_value z
  have ha : a.dark = z.dark := foldl_dark (fun t k => by split <;> rfl) ..
  clear_value a
  have hb : ((a.setF F.pwrState_state 0 pwStandby).modMod fun q => { q with exiting := false, wakers := [] }).dark = w.dark := by
    rw [modMod_dark, setF_dark _ _ _ _ (by decide), ha, hz, hy, hx]
  have hpw : ((a.setF F.pwrState_state 0 pwStandby).modMod fun q => { q with exiting := false, wakers := [] }).pwState = pwStandby :=
    getF_setF_same a F.pwrState_state 0 pwStandby (by decide)
  generalize (a.setF F.pwrState_state 0 pwStandby).modMod _ = t at hb hpw ⊢
  obtain ⟨hts, htd, htn, htr⟩ : t.spad = w.spad ∧ t.dram = w.dram ∧ t.now = w.now ∧ t.reg .vregPoint = w.reg .vregPoint := by
    simpa only [State.dark, Prod.mk.injEq] using hb
  refine ⟨⟨hpw, hts.trans (hws.trans hvs), htd.trans (hwd.trans hvd), fun c hc => ?_⟩, htn.trans (hwn.trans hvn)⟩
  rw [← hwp c hc]
  unfold State.getF
  exact congrArg (fun r : Nat → Word => bits (r c) _ _) htr

/-! ### A thermal trip (R472) -/
theorem raisedOne_record (s : State) (e : Ev) (src ctrl part detail : Nat) (n : Nat) (h : s.now = n) :
    ∃ q, (ctrl, (⟨e.num, src, q, part, n, detail % 2 ^ 128⟩ : EvRec)) ∈ (s.record e src ctrl part detail).evNet :=
  ⟨_, List.mem_append_right _ (List.mem_singleton.2 (by rw [← h]))⟩
/-- A trip latches, drops MOD_READY and is told (R472, R500). -/
theorem State.InStandby.trip (u : State) (n : Nat) (h : u.InStandby) (hn : u.now = n) :
    let t := ((u.setB F.pwrState_trip 0 true).modMod fun q => { q with tripped := true, ready := false }).raise .thermTrip stewardNode none 0
    t.InStandby ∧ t.getF F.pwrState_trip 0 = 1 ∧ t.mod.tripped = true ∧
      ∃ q, (64, (⟨Ev.thermTrip.num, stewardNode, q, 255, n, 0 % 2 ^ 128⟩ : EvRec)) ∈ t.evNet := by
  intro t
  have ht : (u.setB F.pwrState_trip 0 true).getF F.pwrState_trip 0 = 1 := getF_setB_same _ _ _ _ (by decide) (by decide)
  have hp : (u.setB F.pwrState_trip 0 true).pwState = pwStandby := (getF_setB_apart _ _ _ _ _ _ (by decide)).trans h.power
  have hv : ∀ c < 4096, (u.setB F.pwrState_trip 0 true).getF F.vregPoint_state c = vOff := fun c hc =>
    (getF_setB_apart _ _ _ _ _ _ (by decide)).trans (h.points c hc)
  exact ⟨⟨hp, h.spad, h.dram, hv⟩, ht, rfl, raisedOne_record _ _ _ _ _ _ _ hn⟩
theorem execThermTrip_spec (d : DieIx) (s : State) : ∃ t, exec (.thermTrip d) s = .next t ∧ t.InStandby ∧
    t.getF F.pwrState_trip 0 = 1 ∧ t.mod.tripped = true ∧ s.raisedOne t .thermTrip stewardNode 64 255 0 := by
  obtain ⟨hs, hn⟩ := enterStandby_spec (s.setF F.tileStatus_temp_c d (max 115 (s.getF F.tileStatus_temp_c d))) (fun _ => true)
  exact ⟨_, rfl, State.InStandby.trip _ _ hs (hn.trans (State.setF_now ..))⟩

end Sys2Proof.Machine
end

section
/-! SUPPORT. STANDBY by request (R471), and the settling of the power and reset statement. -/
namespace Sys2Proof.Machine
open Host

theorem execStandbyRequest_go (s : State) (path : Path) (ha : s.admitted path = true) (hp : s.pwState ≠ pwStandby)
    (he : ∀ p < 64, s.pState p = psEmpty) : exec (.standbyRequest path) s = .next ((s.touch path).enterStandby fun k => decide (k < 68)) := by
  show execStandbyRequest path s = _
  unfold execStandbyRequest
  have hp' : (s.touch path).pwState ≠ pwStandby := hp
  have hany : ¬ (rangeFrom 0 64).any (fun p => decide ((s.touch path).pState p ≠ psEmpty)) = true := by
    rw [List.any_eq_true]
    rintro ⟨p, hm, hne⟩
    exact of_decide_eq_true hne (he p (by have := mem_rangeFrom.1 hm; omega))
  rw [ifAdmitted_pos _ _ _ ha, if_neg hp', if_neg hany]
theorem execStandbyRequest_error (s : State) (path : Path) (p : Nat) (h64 : p < 64) (ha : s.admitted path = true) (hp : s.pwState ≠ pwStandby)
    (he : s.pState p ≠ psEmpty) : exec (.standbyRequest path) s = .next (s.touch path).modeError := by
  show execStandbyRequest path s = _
  unfold execStandbyRequest
  have hp' : (s.touch path).pwState ≠ pwStandby := hp
  have hany : (rangeFrom 0 64).any (fun p => decide ((s.touch path).pState p ≠ psEmpty)) = true :=
    List.any_eq_true.2 ⟨p, mem_rangeFrom.2 ⟨by omega, by omega⟩, decide_eq_true he⟩
  rw [ifAdmitted_pos _ _ _ ha, if_neg hp', if_pos hany]
/-- An access that only marks an error: that bit is set in its register, and nothing else is but the path's latch. -/
theorem touch_error (s : State) (path : Path) (f : RF) (hf : f.ok = true) (hl : 0 < f.len) :
    ((s.touch path).setB f 0 true).getF f 0 = 1 ∧ s.regsBut ((s.touch path).setB f 0 true) [(f.reg, 0)] ∧
      s.sameMemory ((s.touch path).setB f 0 true) := by
  refine ⟨getF_setB_same _ _ _ _ hf hl, fun r i hr => ?_, rfl, rfl, rfl, rfl, rfl, rfl⟩
  refine (reg_setF_ne (s.touch path) f 0 i _ ?_).trans (touch_reg ..)
  simpa [-not_and, not_and_or] using hr
theorem warmRestart_eq (s : State) (path : Path) (b : BringUp) :
    ∃ go, exec (.warmRestart path b) s = .next (s.restart path false go) := ⟨_, rfl⟩
theorem fullReload_eq (s : State) (path : Path) (b : BringUp) :
    exec (.fullReload path b) s = .next (s.restart path true fun t => t.beforeRestart.coldReset.coldBringUp b) := rfl
theorem execFullReload_go (s : State) (path : Path) (b : BringUp) (hm : s.cfgsMay path = true) (hb : s.getF F.cfgsStatus_busy 0 = 0)
    (hst : s.getF F.modState_state 0 = mReady ∨ s.getF F.modState_state 0 = mSafe) :
    exec (.fullReload path b) s = .next ((s.touch path).beforeRestart.coldReset.coldBringUp b) := by
  rw [fullReload_eq, restart_go _ _ _ _ hm hb (hst.imp_right fun h => ⟨rfl, h⟩)]
/-- What comes before a full reload leaves slot A's verdict (R490, R493). -/
theorem reloaded_slotDetail (s : State) (path : Path) (b : Option Image) :
    (s.touch path).beforeRestart.coldReset.slotDetail 0 b = s.slotDetail 0 b := by
  rw [slotDetail_of_flash (coldReset_flash _), slotDetail_of_slotKept (beforeRestart_slotKept _),
    slotDetail_of_slotKept (slotKept_of_store (touch_store s path))]

/-- Settles O49: a COLD reset leaves a state that bring-up starts from (`coldReset_cold`); bring-up then ends READY with the image
of slot A, or in safe mode. -/
theorem powerAndResets : Obligations.PowerAndResets := by
  unfold Obligations.PowerAndResets
  intro b im held path d s unread good may
  refine ⟨fun h => ?_, fun h hu => ?_, fun h hg => ?_, ⟨_, rfl, rfl, rfl, rfl, rfl, rfl, rfl, rfl, rfl⟩, fun h => ?_, fun h hh => ?_,
    fun h hh hu => ?_, fun h hh hg => ?_, fun h => ?_, fun h hb i hi => ?_, fun hm hst hi hl => ?_, fun hm hst hu => ?_, fun hm hst hg => ?_,
    ?_, fun ha hp he => ?_, fun p h64 ha hp he => ?_⟩
  · -- power on while it is on
    exact congrArg Outcome.next (if_neg (by simp [h]))
  · -- power on, no slot readable
    obtain ⟨hsafe, hf⟩ := coldBringUp_unread _ b (coldReset_cold s.powerOff.revertHealth) hu.1 hu.2
    exact ⟨_, execPowerOn_off b s h, hsafe, hf.trans (powered_flash s)⟩
  · -- power on, slot A good
    obtain ⟨hr, hbody, hd, hl⟩ := hg
    obtain ⟨hup, hf⟩ := coldBringUp_good _ b im (coldReset_cold s.powerOff.revertHealth) hr hbody
      ((slotDetail_of_flash (powered_flash s) _).trans hd) hl
    exact ⟨_, execPowerOn_off b s h, hup, hf.trans (powered_flash s)⟩
  · -- reset pin while off
    exact congrArg Outcome.next (if_pos h)
  · -- reset pin held
    subst hh
    exact ⟨_, execModRstNAssert_on b true s h, getF_setB_same _ _ _ _ (by decide) (by decide), rfl, rfl, rfl, rfl, pulsed_flash s⟩
  · -- reset pin released, no slot readable
    subst hh
    exact ⟨_, execModRstNAssert_on b false s h, (coldBringUp_unread _ b (coldReset_cold s.revertHealth) hu.1 hu.2).1⟩
  · -- reset pin released, slot A good
    subst hh
    obtain ⟨hr, hbody, hd, hl⟩ := hg
    exact ⟨_, execModRstNAssert_on b false s h, (coldBringUp_good _ b im (coldReset_cold s.revertHealth) hr hbody
      ((slotDetail_of_flash (pulsed_flash s) _).trans hd) hl).1⟩
  · -- restart on a path that may not
    obtain ⟨go, hgo⟩ := warmRestart_eq s path b
    rw [hgo, fullReload_eq, restart_denied _ _ _ _ h, restart_denied _ _ _ _ h]
    exact ⟨rfl, rfl⟩
  · -- restart during an image operation
    refine ⟨(s.touch path).setB F.modReset_error 0 true, ?_, touch_error s path F.modReset_error (by decide) (by decide)⟩
    obtain ⟨go, hgo⟩ := warmRestart_eq s path b
    rcases List.mem_pair.1 hi with rfl | rfl
    · rw [hgo, restart_busy _ _ _ _ h hb]
    · rw [fullReload_eq, restart_busy _ _ _ _ h hb]
  · -- warm restart
    exact ⟨_, execWarmRestart_go s path b im hm.1 hm.2 hst hi, warmBooted_bringUp _ b im (warmBooted_warmBooting _ b im hi) hl⟩
  · -- full reload, no slot readable
    exact ⟨_, execFullReload_go s path b hm.1 hm.2 hst, (coldBringUp_unread _ b (coldReset_cold _) hu.1 hu.2).1⟩
  · -- full reload, slot A good
    obtain ⟨hr, hbody, hd, hl⟩ := hg
    exact ⟨_, execFullReload_go s path b hm.1 hm.2 hst, (coldBringUp_good _ b im (coldReset_cold _) hr hbody
      ((reloaded_slotDetail s path _).trans hd) hl).1⟩
  · -- thermal trip
    obtain ⟨t, ht, hs, hrest⟩ := execThermTrip_spec d s
    exact ⟨t, ht, hs.power, hrest.1, hrest.2.1, hs.spad, hs.dram, hs.points, hrest.2.2⟩
  · -- STANDBY, every partition EMPTY
    obtain ⟨hs, -⟩ := enterStandby_spec (s.touch path) (fun k => decide (k < 68))
    exact ⟨_, execStandbyRequest_go s path ha hp he, hs.power, hs.spad, hs.dram, hs.points⟩
  · -- STANDBY, a partition not EMPTY
    exact ⟨_, execStandbyRequest_error s path p h64 ha hp he, touch_error s path F.pwrMode_error (by decide) (by decide)⟩

end Sys2Proof.Machine
end

section
/-! SUPPORT. Windows: what decides where an offset leads and who may reach it, what a write of a register stores, what reads spell. -/
namespace Sys2Proof.Machine
open Host

/-! ### Bits taken out of a number -/
theorem land_add_ldiff (w : Nat) : ∀ m, (w &&& m) + Nat.ldiff w m = w := by
  induction w using Nat.binaryRec with
  | zero => intro m; simp [Nat.ldiff]
  | bit a w ih =>
    intro m
    induction m using Nat.binaryRec with
    | zero => simp [Nat.ldiff]
    | bit b m _ =>
      rw [Nat.land_bit, Nat.ldiff_bit]
      have h := ih m
      have hb : (a && b).toNat + (a && !b).toNat = a.toNat := by cases b <;> simp
      simp only [Nat.bit_val]
      omega
/-- Taking out of a number the bits it shares with a mask clears them. -/
theorem testBit_sub_land (w m j : Nat) : (w - (w &&& m)).testBit j = (w.testBit j && !m.testBit j) := by
  rw [← Nat.testBit_ldiff]
  congr 1
  have := land_add_ldiff w m
  omega

/-! ### A plain write, bit by bit (R4, R9) -/
/-- Whether bit `j` lies in the four bytes at byte `b`. -/
theorem testBit_half (b j : Nat) : ((2 ^ 32 - 1) <<< (8 * b)).testBit j = (decide (8 * b ≤ j) && decide (j < 8 * b + 32)) := by
  rw [Nat.testBit_shiftLeft, Nat.testBit_two_pow_sub_one]
  by_cases h : 8 * b ≤ j
  · simp only [h, decide_true, Bool.true_and]
    exact decide_eq_decide.2 (by omega)
  · simp [h]
/-- A bit of the half keeps, stores or clears by its field's access code; a bit outside it stands. -/
theorem plainWrite_getLsbD (s : State) (r : Reg) (i b v j : Nat) (hj : j < 64) :
    let half := decide (8 * b ≤ j) && decide (j < 8 * b + 32)
    let new := v.testBit (j - 8 * b)
    let rw := (accMask r (fun a => a == .rw || a == .rws || (a == .lck && !s.flagF F.modState_lock_closed 0))).testBit j
    let rw1c := (accMask r (· == .rw1c)).testBit j
    ((s.plainWrite r i b v).reg r i).getLsbD j =
      (((s.reg r i).getLsbD j && !(rw && half) || new && rw && half) && !(rw1c && half && new)) := by
  intro half new rw1 rw1c
  unfold State.plainWrite
  extract_lets hf nw op st cl w
  have hn : half = true → nw.testBit j = new := fun h => by
    have h8 : 8 * b ≤ j := by simp only [half, Bool.and_eq_true, decide_eq_true_eq] at h; exact h.1
    simp only [nw, new, Nat.testBit_shiftLeft, ge_iff_le, h8, decide_true, Bool.true_and]
  have hst : st.testBit j = (rw1 && half) := by rw [Nat.testBit_land, testBit_half]
  have hcl : cl.testBit j = (rw1c && half && nw.testBit j) := by rw [Nat.testBit_land, Nat.testBit_land, testBit_half]
  have hw : w.testBit j = (s.reg r i).getLsbD j := rfl
  clear_value st cl w nw
  rw [reg_setReg_same, BitVec.getLsbD_ofNat, testBit_sub_land, Nat.testBit_lor, testBit_sub_land, Nat.testBit_land, hst, hcl, hw, decide_eq_true hj,
    Bool.true_and]
  cases hh : half with
  | false => simp
  | true => simp [hn hh]

/-! ### What decides where an offset leads, and who may reach it -/
/-- The image, the steward's own state, the sessions, MOD.STATE, PWR.STATE and the window bases. -/
structure Gate where
  image : Option Image
  mod : ModSt
  sessions : Nat → Option Nat
  modState : Word
  pwrState : Word
  winBase : Nat → Word
def State.gate (s : State) : Gate := ⟨s.image, s.mod, fun k => (s.fn k).session, s.reg .modState 0, s.reg .pwrState 0, s.reg .modWinBase⟩
/-- The registers it holds. -/
def gateRegs : List Reg := [.modState, .pwrState, .modWinBase]
theorem windowAt_gate {s t : State} (h : t.gate = s.gate) (path : Path) (off : Nat) : t.windowAt path off = s.windowAt path off := by
  have hi : t.image = s.image := congrArg Gate.image h
  have hb : t.reg .modWinBase = s.reg .modWinBase := congrArg Gate.winBase h
  have hg : ∀ k, t.getF F.modWinBase_base k = s.getF F.modWinBase_base k := fun k => congrArg (fun f : Nat → Word => bits (f k) _ _) hb
  unfold State.windowAt State.declared
  rw [hi]
  simp only [hg]
theorem admitted_gate {s t : State} (h : t.gate = s.gate) (path : Path) : t.admitted path = s.admitted path := by
  have hs : ∀ k, (t.fn k).session = (s.fn k).session := fun k => congrArg (fun g => g.sessions k) h
  have hm : t.getF F.modState_state 0 = s.getF F.modState_state 0 := congrArg (fun g : Gate => bits g.modState _ _) h
  unfold State.admitted
  rw [hs, hm]
theorem cfgsMay_gate {s t : State} (h : t.gate = s.gate) (path : Path) : t.cfgsMay path = s.cfgsMay path := by
  have hs : ∀ k, (t.fn k).session = (s.fn k).session := fun k => congrArg (fun g => g.sessions k) h
  have hm : t.getF F.modState_state 0 = s.getF F.modState_state 0 := congrArg (fun g : Gate => bits g.modState _ _) h
  unfold State.cfgsMay
  rw [hs, hm, admitted_gate h]
theorem mayReach_gate {s t : State} (h : t.gate = s.gate) (path : Path) (x : Target) : t.mayReach path x = s.mayReach path x := by
  have hq : t.mod = s.mod := congrArg Gate.mod h
  have hm : t.getF F.modState_state 0 = s.getF F.modState_state 0 := congrArg (fun g : Gate => bits g.modState _ _) h
  have hp : t.pwState = s.pwState := congrArg (fun g : Gate => bits g.pwrState _ _) h
  unfold State.mayReach
  rw [hq, hm, hp, admitted_gate h, cfgsMay_gate h]
theorem touch_gate (s : State) (path : Path) : (s.touch path).gate = s.gate := by
  have hs : (fun k => ((s.touch path).fn k).session) = fun k => (s.fn k).session := funext fun k => touch_session s path k
  unfold State.gate
  rw [hs]
  rfl
@[simp] theorem touch_windowAt (s : State) (path q : Path) (off : Nat) : (s.touch path).windowAt q off = s.windowAt q off :=
  windowAt_gate (touch_gate ..) ..
@[simp] theorem touch_mayReach (s : State) (path q : Path) (x : Target) : (s.touch path).mayReach q x = s.mayReach q x :=
  mayReach_gate (touch_gate ..) ..

/-! ### Writes -/
theorem windowWrite_badSize (s : State) (path : Path) (off size : Nat) (v : Word) (h : sizeOk off size = false) :
    s.windowWrite path off size v = s.touch path := if_pos (by rw [h]; rfl)
theorem sizeOk_four {off : Nat} (h : off % 4 = 0) : sizeOk off 4 = true := by simp [sizeOk, h]
theorem windowWrite_four (s : State) (path : Path) (off : Nat) (v : Word) (h : off % 4 = 0) :
    s.windowWrite path off 4 v = (s.touch path).write4 path off (BitVec.ofNat 32 v.toNat) := by
  unfold State.windowWrite
  extract_lets t u
  rw [if_neg (by rw [sizeOk_four h]; decide), if_neg (by decide)]
theorem write4_refused (s : State) (path : Path) (off : Nat) (v : BitVec 32) (h : s.mayReach path (s.windowAt path off) = false) :
    s.write4 path off v = s := if_pos (by rw [h]; rfl)
theorem write4_reg (s : State) (path : Path) (off : Nat) (v : BitVec 32) {r : Reg} {i b : Nat} (ht : s.windowAt path off = .reg r i b)
    (h : s.mayReach path (.reg r i b) = true) : s.write4 path off v = s.writeReg path r i b v := by
  unfold State.write4
  extract_lets t
  have ht' : t = .reg r i b := ht
  rw [ht', if_neg (by rw [h]; decide)]
/-- The registers whose write is a row of its own. -/
def ownWrite : List Reg := [.partSessCtrl, .partOqTail, .partOqCfg, .partCqCfg, .partCqHead, .partOqBase, .partCqBase, .evtCtrl, .evtComplete,
  .evtCommit, .evtRqHead, .evtEvent, .hlthCtrl, .pwrCapCommit, .pwrMode, .pwrState, .sbPinmux, .cfgsCtrl, .modReset]
theorem writeReg_plain (s : State) (path : Path) (r : Reg) (i b : Nat) (v : BitVec 32) (h : r ∉ ownWrite) :
    s.writeReg path r i b v = if scheduleReg r && !s.scheduleOpen i then s else s.plainWrite r i b v.toNat := by
  unfold State.writeReg
  split
  case h_20 => rfl
  all_goals exact (h (by decide)).elim
theorem scheduleOpen_touch (s : State) (path : Path) (c : Nat) : (s.touch path).scheduleOpen c = s.scheduleOpen c := rfl

/-! ### Reads -/
theorem windowRead_refused (s : State) (path : Path) (off size : Nat) (h : s.mayReach path (s.windowAt path off) = false) :
    s.windowRead path off size = (s.touch path, 0) := by
  unfold State.windowRead
  extract_lets held t x
  by_cases hz : sizeOk off size
  · rw [if_neg (by simp [hz]), if_pos (by simp only [x, t, touch_mayReach, touch_windowAt, h]; rfl)]
  · rw [if_pos (by simp [hz])]

end Sys2Proof.Machine
end

section
/-! SUPPORT. Windows: what reads of registers and scratchpads spell (R4, R43, R49, R510). -/
namespace Sys2Proof.Machine
open Host

/-! ### Little-endian numbers -/
theorem byteOf_toNat (x k : Nat) : (byteOf x k).toNat = (x >>> (8 * k)) % 256 := BitVec.toNat_ofNat ..
/-- The bytes of a number from byte `k` spell it from there. -/
theorem ofLe_map_byteOf (x n : Nat) : ∀ k, ofLe ((rangeFrom k n).map (byteOf x)) = (x >>> (8 * k)) % 2 ^ (8 * n) := by
  induction n with
  | zero => intro k; simp [rangeFrom, ofLe, Nat.mod_one]
  | succ n ih =>
    intro k
    rw [rangeFrom, List.map_cons, ofLe, ih, byteOf_toNat, show 2 ^ (8 * (n + 1)) = 256 * 2 ^ (8 * n) by rw [Nat.mul_succ, pow_add]; ring,
      Nat.mod_mul, show 8 * (k + 1) = 8 * k + 8 by ring, Nat.shiftRight_add, Nat.shiftRight_eq_div_pow _ 8]
theorem byteOf_add (x b k : Nat) : byteOf x (b + k) = byteOf (x >>> (8 * b)) k := by
  rw [byteOf, byteOf, ← Nat.shiftRight_add, Nat.mul_add]
theorem readBytes_eq_map (m : Memory) (n : Nat) : ∀ a j, Memory.readBytes m (a + j) n = (rangeFrom j n).map (fun k => Memory.read m (a + k)) := by
  induction n with
  | zero => intro a j; rfl
  | succ n ih => intro a j; rw [Memory.readBytes, rangeFrom, List.map_cons, ← ih a (j + 1), Nat.add_assoc]
/-- Four bytes of a window, byte by byte. -/
theorem read4_eq (s : State) (path : Path) (off : Nat) (g : Nat → Byte)
    (h : ∀ k < 4, ∃ x, s.windowAt path (off + k) = x ∧ s.mayReach path x = true ∧ s.targetByte x = g k) :
    s.read4 path off = ofLe ((rangeFrom 0 4).map g) := by
  have hb : ∀ k < 4, (let t := s.windowAt path (off + k); if s.mayReach path t then s.targetByte t else 0) = g k := by
    intro k hk
    obtain ⟨x, hx, hm, hg⟩ := h k hk
    simp only [hx, hm, hg, if_true]
  have h0 := hb 0 (by omega)
  have h1 := hb 1 (by omega)
  have h2 := hb 2 (by omega)
  have h3 := hb 3 (by omega)
  unfold State.read4
  simp only [rangeFrom, List.map_cons, List.map_nil, Nat.add_assoc, Nat.reduceAdd, Nat.add_zero, zero_add] at h0 h1 h2 h3 ⊢
  rw [h0, h1, h2, h3]

/-! ### Registers -/
/-- What a register shows to a reader: write-only and reserved bits read zero (R4, R9). -/
def State.visible (s : State) (r : Reg) (i : Nat) : Nat := (s.shown r i).toNat &&& readMask r
theorem visible_lt (s : State) (r : Reg) (i : Nat) : s.visible r i < 2 ^ 64 := Nat.lt_of_le_of_lt Nat.and_le_left (s.shown r i).isLt
theorem touch_lockEnd (s : State) (path : Path) (k : Nat) : ((s.touch path).fn k).lockEnd = (s.fn k).lockEnd := by
  rw [touch_fn]
  split <;> rfl
theorem touch_visible (s : State) (path : Path) (r : Reg) (i : Nat) : (s.touch path).visible r i = s.visible r i := by
  have h : (s.touch path).shown r i = s.shown r i := by
    unfold State.shown
    rw [touch_lockEnd]
    rfl
  unfold State.visible
  rw [h]
/-- Four bytes of a register. -/
theorem read4_reg (s : State) (path : Path) (off b : Nat) (r : Reg) (i : Nat)
    (h : ∀ k < 4, s.windowAt path (off + k) = .reg r i (b + k) ∧ s.mayReach path (.reg r i (b + k)) = true) :
    s.read4 path off = (s.visible r i >>> (8 * b)) % 2 ^ 32 := by
  rw [read4_eq s path off (byteOf (s.visible r i >>> (8 * b))) fun k hk =>
    ⟨_, (h k hk).1, (h k hk).2, byteOf_add (s.visible r i) b k⟩, ofLe_map_byteOf]
  rfl
section
variable (s : State) (path : Path) (off : Nat) (r : Reg) (i : Nat)
/-- A read of a lower half holds the upper half (R510). -/
theorem windowRead_lower (hz : sizeOk off 4 = true) (hw : r.width = 64) (ht : s.windowAt path off = .reg r i 0)
    (hm : s.mayReach path (.reg r i 0) = true) : s.windowRead path off 4 =
      ((s.touch path).modFn (pathIx path) (fun q => { q with latch := some (r.key i, (s.touch path).read4 path (off + 4)) }),
        (s.touch path).read4 path off) := by
  unfold State.windowRead
  extract_lets held t x
  have hx : x = .reg r i 0 := (touch_windowAt ..).trans ht
  clear_value x
  subst hx
  rw [if_neg (by simp [hz]), if_neg (by rw [touch_mayReach, hm]; decide)]
  dsimp only
  rw [if_neg (by decide), if_pos ⟨hw, rfl⟩]
/-- The next read of the upper half is the one held (R510). -/
theorem windowRead_upper (hz : sizeOk off 4 = true) (hw : r.width = 64) (ht : s.windowAt path off = .reg r i 4)
    (hm : s.mayReach path (.reg r i 4) = true) (v : Nat) (hl : (s.fn (pathIx path)).latch = some (r.key i, v)) :
    s.windowRead path off 4 = (s.touch path, v) := by
  unfold State.windowRead
  extract_lets held t x
  have hx : x = .reg r i 4 := (touch_windowAt ..).trans ht
  clear_value x
  subst hx
  have hh : held = some (r.key i, v) := hl
  rw [if_neg (by simp [hz]), if_neg (by rw [touch_mayReach, hm]; decide)]
  dsimp only
  rw [if_neg (by decide), if_neg (by omega), hh]
  dsimp only
  rw [if_pos ⟨hw, rfl, rfl⟩]
theorem windowRead_eight (hz : sizeOk off 8 = true) (ht : s.windowAt path off = .reg r i 0) (hm : s.mayReach path (.reg r i 0) = true) :
    s.windowRead path off 8 = (s.touch path, (s.touch path).read4 path off + (s.touch path).read4 path (off + 4) <<< 32) := by
  unfold State.windowRead
  extract_lets held t x
  have hx : x = .reg r i 0 := (touch_windowAt ..).trans ht
  clear_value x
  subst hx
  rw [if_neg (by simp [hz]), if_neg (by rw [touch_mayReach, hm]; decide)]
  dsimp only
  rw [if_pos rfl]
end

end Sys2Proof.Machine
end

section
/-! SUPPORT. Scratchpads through the window (R43 to R45, R49, R53). -/
namespace Sys2Proof.Machine
open Host

/-! ### Bytes of a row -/
theorem readNat_add (m : Memory) (n i : Nat) : ∀ a, Memory.readNat m a (i + n) = Memory.readNat m a i + 256 ^ i * Memory.readNat m (a + i) n := by
  induction i with
  | zero => intro a; simp [Memory.readNat, Memory.readBytes, ofLe]
  | succ i ih =>
    intro a
    have h := ih (a + 1)
    have hs : ∀ j, Memory.readNat m a (j + 1) = (Memory.read m a).toNat + 256 * Memory.readNat m (a + 1) j := fun _ => rfl
    rw [show i + 1 + n = i + n + 1 by omega, hs, hs, h, show a + 1 + i = a + (i + 1) by omega]
    ring
theorem readNat_lt (m : Memory) (n : Nat) : ∀ a, Memory.readNat m a n < 256 ^ n := by
  induction n with
  | zero => intro a; simp [Memory.readNat, Memory.readBytes, ofLe]
  | succ n ih =>
    intro a
    have h := ih (a + 1)
    have hb := (Memory.read m a).isLt
    have hs : Memory.readNat m a (n + 1) = (Memory.read m a).toNat + 256 * Memory.readNat m (a + 1) n := rfl
    rw [hs, pow_succ]
    omega
theorem pow_bytes (n : Nat) : 256 ^ n = 2 ^ (8 * n) := by rw [show 256 = 2 ^ 8 by rfl, ← pow_mul]
/-- Bytes within a run are a field of its number. -/
theorem readNat_within (m : Memory) (a i n k : Nat) : Memory.readNat m (a + i) n = (Memory.readNat m a (i + (n + k)) >>> (8 * i)) % 2 ^ (8 * n) := by
  rw [readNat_add m (n + k) i a, readNat_add m k n, Nat.shiftRight_eq_div_pow, ← pow_bytes, ← pow_bytes,
    Nat.add_mul_div_left _ _ (by positivity), Nat.div_eq_of_lt (readNat_lt m i a), Nat.zero_add, Nat.add_mul_mod_self_left,
    Nat.mod_eq_of_lt (readNat_lt ..)]
theorem row_toNat (s : State) (c r : Nat) : (s.row c r).toNat = Memory.readNat s.spad (spadKey c (r * 64)) 64 := by
  unfold State.row Memory.readRow
  rw [BitVec.toNat_ofNat, Nat.mod_eq_of_lt]
  exact Nat.lt_of_lt_of_eq (readNat_lt ..) (pow_bytes 64)
/-- Bytes of a row are a field of it. -/
theorem readNat_row (s : State) (c r i n : Nat) (h : i + n ≤ 64) :
    Memory.readNat s.spad (spadKey c (r * 64 + i)) n = bits (s.row c r) (8 * i) (8 * n) := by
  unfold bits
  rw [row_toNat, show spadKey c (r * 64 + i) = spadKey c (r * 64) + i by unfold spadKey; omega,
    readNat_within _ _ _ _ (64 - i - n), show i + (n + (64 - i - n)) = 64 by omega]
theorem rows_one (s : State) (c r : Nat) : s.rows c r 1 = (s.row c r).toNat := by
  rw [State.rows, rangeFrom, List.map_cons, rangeFrom, List.map_nil, ofRows, ofRows, Nat.mul_zero, Nat.add_zero]
/-- A row written in part, none of whose bytes landed before, keeps its poison (R52). -/
theorem partPoison_part (s : State) (c a n r : Nat) (h : ¬ (a ≤ 64 * r ∧ 64 * r + 64 ≤ a + n)) :
    s.partPoison c a n false [] r = s.rowPoison c r := by
  rw [State.partPoison, if_neg h]
  rfl
/-- Four aligned bytes written go into their row, the rest of it as stored and its poison kept (R45, R52). -/
theorem putSpan_four (s : State) (c o v : Nat) (h : o % 4 = 0) : s.putSpan c o 4 v false [] =
    s.putRow c (o / 64) (setBits (s.row c (o / 64)) (8 * (o % 64)) 32 v) (s.rowPoison c (o / 64)) := by
  unfold State.putSpan
  rw [show cdiv (o % 64 + 4) 64 = 1 by unfold cdiv; omega]
  dsimp only
  rw [rows_one]
  simp only [toRows, List.zipIdx_cons, List.zipIdx_nil, List.foldl_cons, List.foldl_nil, Nat.add_zero]
  rw [partPoison_part s c o 4 (o / 64) (by omega), setBits, bits, Nat.shiftLeft_eq, Nat.shiftLeft_eq, show 8 * 4 = 32 by rfl]
/-- What a write of four bytes to a scratchpad does (R45). -/
theorem putSpan_four_spec (s : State) (c o v : Nat) (h : o % 4 = 0) (hlt : o + 4 ≤ 8 * 2 ^ 20) :
    let t := s.putSpan c o 4 v false []
    Memory.readNat t.spad (spadKey c o) 4 = v % 2 ^ 32 ∧ t.rowPoison c (o / 64) = s.rowPoison c (o / 64) ∧ s.rowsBut t c (o / 64) 1 ∧
      t.dram = s.dram := by
  intro t
  have ht : t = _ := putSpan_four s c o v h
  clear_value t
  subst ht
  have hrow : o / 64 < 262144 := by omega
  refine ⟨?_, ?_, fun d k hk hne => ⟨?_, ?_⟩, rfl⟩
  · have hsplit : o / 64 * 64 + o % 64 = o := by omega
    rw [← congrArg (spadKey c) hsplit, readNat_row _ _ _ _ _ (by omega), row_putRow _ _ _ _ _ _ _ hrow hrow, if_pos ⟨rfl, rfl⟩]
    exact bits_setBits_same _ _ _ _ (by omega)
  · rw [rowPoison_putRow _ _ _ _ _ _ _ hrow hrow, if_pos ⟨rfl, rfl⟩]
  · rw [row_putRow _ _ _ _ _ _ _ hrow hk, if_neg (by omega)]
  · rw [rowPoison_putRow _ _ _ _ _ _ _ hrow hk, if_neg (by omega)]

end Sys2Proof.Machine
end

section
/-! SUPPORT. Scratchpad accesses through the aperture (R43 to R45, R49), and the settling of the window statement. -/
namespace Sys2Proof.Machine
open Host

/-! ### Before the access: the row's errors are counted -/
theorem onlyRegs_refl (s : State) (l : List (Reg × Nat)) : s.onlyRegs s l := ⟨rfl, fun _ _ _ => rfl⟩
theorem bumpF_onlyRegs (s : State) (f : RF) (i n : Nat) : s.onlyRegs (s.bumpF f i n) [(f.reg, i)] := by
  refine ⟨rfl, fun r j h => reg_setF_ne s f _ _ _ ?_⟩
  simpa [-not_and, not_and_or] using h
/-- An access through the aperture that meets no error: at most the count of corrected errors is written, by nothing. -/
theorem execScratchpadWindowAccess_eq (m : Fin 2) (off : BitVec 24) (data : Option Word) (c : Nat) (o : Nat) (s : State)
    (ht : s.windowAt (.mgmt m) (0x3000000 + off.toNat) = .area (.spad c) o) :
    ∃ t, s.onlyRegs t [(.coreSpadEcc, c)] ∧
      exec (.scratchpadWindowAccess (.mgmt m) off 4 data false false) s = .next (t.windowAccess (.mgmt m) (0x3000000 + off.toNat) 4 data) := by
  show ∃ t, _ ∧ execScratchpadWindowAccess (.mgmt m) off 4 data false false s = _
  unfold execScratchpadWindowAccess
  dsimp only
  rw [ht]
  dsimp only
  split
  · rw [if_neg (by decide)]
    split
    · exact ⟨s, onlyRegs_refl .., rfl⟩
    · exact ⟨_, bumpF_onlyRegs s F.coreSpadEcc_corrected c _, rfl⟩
  · exact ⟨s, onlyRegs_refl .., rfl⟩
/-- Registers beside the gate's leave it alone. -/
theorem onlyRegs_gate {s t : State} {c : Nat} (h : s.onlyRegs t [(.coreSpadEcc, c)]) : t.gate = s.gate := by
  obtain ⟨ht, hr⟩ := h
  have hg : ∀ r ∈ gateRegs, t.reg r = s.reg r := fun r hm =>
    funext fun j => hr r j (by simp only [List.mem_singleton, Prod.mk.injEq, not_and]; intro e; subst e; exact absurd hm (by decide))
  have hf : ∀ k, t.fn k = s.fn k := fun k => by rw [ht]; rfl
  have hi : t.image = s.image := by rw [ht]
  have hm : t.mod = s.mod := by rw [ht]
  unfold State.gate
  simp only [hg .modState (by decide), hg .pwrState (by decide), hg .modWinBase (by decide), hf, hi, hm]

/-! ### The scratchpad wakes, or refuses (R49) -/
/-- A core's scratchpad after an access: out of HOLD it is awake for a while. -/
def State.awake (s : State) (c : Nat) : State := if s.getF F.vregPoint_state c = vHold then s.modCore c (fun q => { q with woken := true }) else s
theorem wakeSpad_on (s : State) (c : Nat) (h : s.getF F.vregPoint_state c ≠ vOff) : s.wakeSpad c = (s.awake c, true) := if_neg h
theorem wakeSpad_off (s : State) (c : Nat) (h : s.getF F.vregPoint_state c = vOff) :
    s.wakeSpad c = (s.setB F.corePhase_win_refused c true, false) := if_pos h
theorem awake_gate (s : State) (c : Nat) : (s.awake c).gate = s.gate := by unfold State.awake; split <;> rfl
theorem awake_memory (s : State) (c : Nat) : s.sameMemory (s.awake c) := by unfold State.awake; split <;> exact ⟨rfl, rfl, rfl, rfl, rfl, rfl⟩
theorem awake_out (s : State) (c : Nat) : (s.awake c).out = s.out := by unfold State.awake; split <;> rfl
theorem awake_woken (s : State) (c : Nat) (h : s.getF F.vregPoint_state c = vHold) : ((s.awake c).core c).woken = true := by
  unfold State.awake
  rw [if_pos h, core_modCore_same]

/-! ### The access -/
/-- Four bytes of a scratchpad in place. -/
theorem read4_spad (s : State) (path : Path) (off c o : Nat) (ho : o + 4 ≤ 8 * 2 ^ 20)
    (h : ∀ k < 4, s.windowAt path (off + k) = .area (.spad c) (o + k) ∧ s.mayReach path (.area (.spad c) (o + k)) = true) :
    s.read4 path off = Memory.readNat s.spad (spadKey c o) 4 := by
  rw [read4_eq s path off (fun k => Memory.read s.spad (spadKey c o + k)) fun k hk => ⟨_, (h k hk).1, (h k hk).2, ?_⟩]
  · rw [← readBytes_eq_map, Nat.add_zero, Memory.readNat]
  · show (if o + k < 8 * 2 ^ 20 then Memory.read s.spad (spadKey c (o + k)) else 0) = _
    rw [if_pos (by omega), spadKey, spadKey, Nat.add_assoc]
section
variable (s : State) (path : Path) (off c o : Nat)
theorem windowRead_spad (hz : off % 4 = 0) (ht : s.windowAt path off = .area (.spad c) o)
    (hm : s.mayReach path (.area (.spad c) o) = true) (hv : s.getF F.vregPoint_state c ≠ vOff) :
    s.windowRead path off 4 = ((s.touch path).awake c, ((s.touch path).awake c).read4 path off) := by
  unfold State.windowRead
  extract_lets held t x
  have hx : x = .area (.spad c) o := (touch_windowAt ..).trans ht
  clear_value x
  subst hx
  rw [if_neg (by simp [sizeOk_four hz]), if_neg (by rw [touch_mayReach, hm]; decide)]
  dsimp only
  rw [wakeSpad_on t c hv, if_pos rfl, if_neg (by decide), Nat.add_zero]
theorem write4_spad_on (v : BitVec 32) (ho : o + 4 ≤ 8 * 2 ^ 20) (ht : s.windowAt path off = .area (.spad c) o)
    (hm : s.mayReach path (.area (.spad c) o) = true) (hv : s.getF F.vregPoint_state c ≠ vOff) :
    s.write4 path off v = (s.awake c).putSpan c o 4 v.toNat false [] := by
  unfold State.write4
  extract_lets x
  have hx : x = .area (.spad c) o := ht
  clear_value x
  subst hx
  rw [if_neg (by rw [hm]; decide)]
  dsimp only
  rw [wakeSpad_on s c hv, if_pos rfl]
  exact if_neg (by omega)
theorem write4_spad_off (v : BitVec 32) (ht : s.windowAt path off = .area (.spad c) o)
    (hm : s.mayReach path (.area (.spad c) o) = true) (hv : s.getF F.vregPoint_state c = vOff) :
    s.write4 path off v = s.setB F.corePhase_win_refused c true := by
  unfold State.write4
  extract_lets x
  have hx : x = .area (.spad c) o := ht
  clear_value x
  subst hx
  rw [if_neg (by rw [hm]; decide)]
  dsimp only
  rw [wakeSpad_off s c hv]
  rfl
end

end Sys2Proof.Machine
end

section
/-! SUPPORT. The settling of the window statement, clause by clause. -/
namespace Sys2Proof.Machine
open Host

theorem execRegisterWrite_eq (path : Path) (off : BitVec 26) (size : Fin 9) (v : Word) (s : State) :
    exec (.registerWrite path off size v) s = .next (s.windowWrite path off.toNat size v) := rfl
theorem execLatchedRead_eq (path : Path) (off : BitVec 26) (size : Fin 9) (s : State) :
    exec (.latchedRead path off size) s = .next (s.windowAccess path off.toNat size none) := rfl
theorem windowAccess_read (s : State) (path : Path) (off size : Nat) :
    s.windowAccess path off size none = (s.windowRead path off size).1.emit (.read (pathIx path) off size (s.windowRead path off size).2) := rfl
/-- A read's value leaves the module. -/
theorem execLatchedRead_of {path : Path} {off : BitVec 26} {size : Fin 9} {s t : State} {n : Nat} (h : s.windowRead path off.toNat size = (t, n)) :
    exec (.latchedRead path off size) s = .next (t.emit (.read (pathIx path) off.toNat size n)) := by
  rw [execLatchedRead_eq, windowAccess_read, h]

/-! ### Registers -/
section
variable (path : Path) (off : BitVec 26) (r : Reg) (i b : Nat) (v : Word) (s : State)
theorem registerWrite_refused (h4 : off.toNat % 4 = 0) (ht : s.windowAt path off.toNat = .reg r i b) (hm : s.mayReach path (.reg r i b) = false) :
    exec (.registerWrite path off 4 v) s = .next (s.touch path) := by
  rw [execRegisterWrite_eq]
  refine congrArg Outcome.next ((windowWrite_four s path off.toNat v h4).trans (write4_refused _ _ _ _ ?_))
  rw [touch_windowAt, touch_mayReach, ht, hm]
theorem latchedRead_refused (ht : s.windowAt path off.toNat = .reg r i b) (hm : s.mayReach path (.reg r i b) = false) :
    ∃ t, exec (.latchedRead path off 4) s = .next t ∧ t.out = s.out ++ [.read (pathIx path) off.toNat 4 0] := by
  exact ⟨_, execLatchedRead_of (windowRead_refused _ _ _ _ (by rw [ht, hm])), emit_out ..⟩
theorem registerWrite_reg (h4 : off.toNat % 4 = 0) (ht : s.windowAt path off.toNat = .reg r i b) (hm : s.mayReach path (.reg r i b) = true)
    (hr : r ∉ ownWrite) : exec (.registerWrite path off 4 v) s =
      .next (if scheduleReg r && !s.scheduleOpen i then s.touch path else (s.touch path).plainWrite r i b (v.toNat % 2 ^ 32)) := by
  rw [execRegisterWrite_eq]
  refine congrArg Outcome.next ((windowWrite_four s path off.toNat v h4).trans ?_)
  rw [write4_reg _ _ _ _ (by rw [touch_windowAt, ht]) (by rw [touch_mayReach, hm]), writeReg_plain _ _ _ _ _ _ hr, scheduleOpen_touch,
    BitVec.toNat_ofNat]
/-- The low bits of a word are those of its low half. -/
theorem testBit_low (j : Nat) (hj : j < 32) : (v.toNat % 2 ^ 32).testBit j = v.getLsbD j := by
  rw [Nat.testBit_mod_two_pow, decide_eq_true hj, Bool.true_and]
  rfl
theorem plainWrite_regsBut (n : Nat) : s.regsBut ((s.touch path).plainWrite r i b n) [(r, i)] := fun r' i' h => by
  refine (reg_setReg_ne (s.touch path) i i' _ ?_).trans (touch_reg ..)
  simpa [-not_and, not_and_or] using h
theorem plainWrite_bits (j : Nat) (hj : j < 64) :
    let t := (s.touch path).plainWrite r i b (v.toNat % 2 ^ 32)
    let inHalf := 8 * b ≤ j ∧ j < 8 * b + 32
    let new := v.getLsbD (j - 8 * b)
    let rw := (accMask r (fun a => a == .rw || a == .rws || (a == .lck && !s.flagF F.modState_lock_closed 0))).testBit j
    let rw1c := (accMask r (· == .rw1c)).testBit j
    (inHalf → rw = true → rw1c = false → (t.reg r i).getLsbD j = new) ∧
    (inHalf → rw = false → rw1c = true → (t.reg r i).getLsbD j = ((s.reg r i).getLsbD j && !new)) ∧
    (¬ inHalf ∨ (rw = false ∧ rw1c = false) → (t.reg r i).getLsbD j = (s.reg r i).getLsbD j) := by
  intro t inHalf new rw1 rw1c
  have hn : inHalf → (v.toNat % 2 ^ 32).testBit (j - 8 * b) = new := fun hh => testBit_low v _ (by omega)
  have h : (t.reg r i).getLsbD j = (((s.reg r i).getLsbD j && !(rw1 && decide inHalf) ||
      (v.toNat % 2 ^ 32).testBit (j - 8 * b) && rw1 && decide inHalf) &&
        !(rw1c && decide inHalf && (v.toNat % 2 ^ 32).testBit (j - 8 * b))) := by
    rw [Bool.decide_and]
    exact plainWrite_getLsbD (s.touch path) r i b (v.toNat % 2 ^ 32) j hj
  refine ⟨fun hh h1 h2 => ?_, fun hh h1 h2 => ?_, fun hh => ?_⟩
  · rw [h, hn hh, h1, h2, decide_eq_true hh]
    simp
  · rw [h, hn hh, h1, h2, decide_eq_true hh]
    simp
  · rw [h]
    rcases hh with hh | ⟨h1, h2⟩
    · simp [decide_eq_false hh]
    · simp [h1, h2]
end

/-! ### Reads of a 64-bit register -/
section
variable (path : Path) (off : BitVec 26) (r : Reg) (i : Nat) (s : State) (h8 : off.toNat % 8 = 0) (hw : r.width = 64)
  (ht : ∀ k < 8, s.windowAt path (off.toNat + k) = .reg r i k ∧ s.mayReach path (.reg r i k) = true)
include ht
theorem touch_read4_lower : (s.touch path).read4 path off.toNat = s.visible r i % 2 ^ 32 := by
  rw [read4_reg (s.touch path) path off.toNat 0 r i, touch_visible]
  · rfl
  · intro k hk
    rw [touch_windowAt, touch_mayReach, Nat.zero_add]
    exact ht k (by omega)
theorem touch_read4_upper : (s.touch path).read4 path (off.toNat + 4) = s.visible r i / 2 ^ 32 := by
  have hlt := visible_lt s r i
  rw [read4_reg (s.touch path) path _ 4 r i, touch_visible, Nat.shiftRight_eq_div_pow, Nat.mod_eq_of_lt (by omega)]
  intro k hk
  rw [touch_windowAt, touch_mayReach, Nat.add_assoc]
  exact ht (4 + k) (by omega)
include h8 hw
theorem latchedRead_lower : ∃ t, exec (.latchedRead path off 4) s = .next t ∧
    t.out = s.out ++ [.read (pathIx path) off.toNat 4 (s.visible r i % 2 ^ 32)] ∧
    (t.fn (pathIx path)).latch = some (r.key i, s.visible r i / 2 ^ 32) ∧ t.regs = s.regs := by
  obtain ⟨h0, hm⟩ := ht 0 (by omega)
  have hr := windowRead_lower s path off.toNat r i (sizeOk_four (by omega)) hw h0 hm
  rw [touch_read4_lower path off r i s ht, touch_read4_upper path off r i s ht] at hr
  refine ⟨_, execLatchedRead_of hr, emit_out .., ?_, rfl⟩
  rw [State.emit_fn, fn_modFn_same]
omit hw in
theorem latchedRead_eight : ∃ t, exec (.latchedRead path off 8) s = .next t ∧
    t.out = s.out ++ [.read (pathIx path) off.toNat 8 (s.visible r i)] ∧ t.regs = s.regs := by
  obtain ⟨h0, hm⟩ := ht 0 (by omega)
  have hr := windowRead_eight s path off.toNat r i (by simp [sizeOk, h8]) h0 hm
  rw [touch_read4_lower path off r i s ht, touch_read4_upper path off r i s ht, Nat.shiftLeft_eq, Nat.mul_comm, Nat.mod_add_div] at hr
  exact ⟨_, execLatchedRead_of hr, emit_out .., rfl⟩
theorem latchedRead_upper (v : Nat) (hl : (s.fn (pathIx path)).latch = some (r.key i, v)) :
    ∃ t, exec (.latchedRead path (off + 4) 4) s = .next t ∧
    t.out = s.out ++ [.read (pathIx path) (off.toNat + 4) 4 v] ∧ (t.fn (pathIx path)).latch = none := by
  obtain ⟨h0, hm⟩ := ht 4 (by omega)
  have ho : (off + 4).toNat = off.toNat + 4 := by bv_omega
  have hr := windowRead_upper s path (off.toNat + 4) r i (sizeOk_four (by omega)) hw h0 hm v hl
  rw [← ho] at hr ⊢
  refine ⟨_, execLatchedRead_of hr, emit_out .., ?_⟩
  rw [State.emit_fn, touch_fn, if_pos rfl]
end

end Sys2Proof.Machine
end

section
/-! SUPPORT. The settling of the window statement, its other clauses: the aperture, scratchpads, paths not admitted. -/
namespace Sys2Proof.Machine
open Host

/-! ### The aperture (R505, R506) -/
theorem aperture_toNat (off : BitVec 24) : (BitVec.ofNat 26 (0x3000000 + off.toNat)).toNat = 0x3000000 + off.toNat := by
  rw [BitVec.toNat_ofNat]
  exact Nat.mod_eq_of_lt (by have := off.isLt; omega)
theorem apertureAccess_write (m : Fin 2) (off : BitVec 24) (size : Fin 9) (data : Word) (s : State) :
    exec (.apertureAccess (.mgmt m) off size (some data)) s =
      exec (.registerWrite (.mgmt m) (BitVec.ofNat 26 (0x3000000 + off.toNat)) size data) s := by
  rw [execRegisterWrite_eq, aperture_toNat]
  rfl
theorem apertureAccess_read (m : Fin 2) (off : BitVec 24) (size : Fin 9) (s : State) :
    exec (.apertureAccess (.mgmt m) off size none) s = exec (.latchedRead (.mgmt m) (BitVec.ofNat 26 (0x3000000 + off.toNat)) size) s := by
  rw [execLatchedRead_eq, aperture_toNat]
  rfl

/-! ### Scratchpads -/
theorem onlyRegs_memory {s t : State} {l : List (Reg × Nat)} (h : s.onlyRegs t l) : s.sameMemory t := by
  rw [h.1]
  exact ⟨rfl, rfl, rfl, rfl, rfl, rfl⟩
theorem sameMemory_trans {s t u : State} (h : s.sameMemory t) (k : t.sameMemory u) : s.sameMemory u := by
  obtain ⟨h1, h2, h3, h4, h5, h6⟩ := h
  obtain ⟨k1, k2, k3, k4, k5, k6⟩ := k
  exact ⟨k1.trans h1, k2.trans h2, k3.trans h3, k4.trans h4, k5.trans h5, k6.trans h6⟩
theorem touch_memory (s : State) (path : Path) : s.sameMemory (s.touch path) := ⟨rfl, rfl, rfl, rfl, rfl, rfl⟩
theorem row_of_memory {s t : State} (h : s.sameMemory t) (c r : Nat) : t.row c r = s.row c r := by unfold State.row; rw [h.1]
theorem rowPoison_of_memory {s t : State} (h : s.sameMemory t) (c r : Nat) : t.rowPoison c r = s.rowPoison c r := by
  unfold State.rowPoison; rw [h.2.1]
/-- A management path's access that leads to an aligned word of a scratchpad, where it may go. -/
structure State.SpadAccess (s : State) (m : Fin 2) (off : BitVec 24) (c o : Nat) : Prop where
  aligned : off.toNat % 4 = 0
  leads : ∀ k < 4, s.windowAt (.mgmt m) (0x3000000 + off.toNat + k) = .area (.spad c) (o + k)
  word : o % 4 = 0
  inside : o + 4 ≤ 8 * 2 ^ 20
  may : ∀ k < 4, s.mayReach (.mgmt m) (.area (.spad c) (o + k)) = true
theorem State.SpadAccess.congr {s t : State} {m : Fin 2} {off : BitVec 24} {c o : Nat} (h : s.SpadAccess m off c o) (hg : t.gate = s.gate) :
    t.SpadAccess m off c o :=
  ⟨h.aligned, fun k hk => (windowAt_gate hg ..).trans (h.leads k hk), h.word, h.inside, fun k hk => (mayReach_gate hg ..).trans (h.may k hk)⟩
section
variable {m : Fin 2} {off : BitVec 24} {c o : Nat} {s : State} (h : s.SpadAccess m off c o)
include h
/-- What the access finds: the state after at most the count of corrected errors, its path touched. -/
theorem scratchpadAccess_eq (data : Option Word) : ∃ u, u.SpadAccess m off c o ∧ s.sameMemory u ∧ u.out = s.out ∧
    u.getF F.vregPoint_state c = s.getF F.vregPoint_state c ∧
    exec (.scratchpadWindowAccess (.mgmt m) off 4 data false false) s = .next (u.windowAccess (.mgmt m) (0x3000000 + off.toNat) 4 data) := by
  obtain ⟨u, hu, he⟩ := execScratchpadWindowAccess_eq m off data c o s (h.leads 0 (by omega))
  have hv : u.reg .vregPoint c = s.reg .vregPoint c := hu.2 _ _ (by simp)
  refine ⟨u, h.congr (onlyRegs_gate hu), onlyRegs_memory hu, by rw [hu.1], ?_, he⟩
  exact congrArg (fun w : Word => bits w _ _) hv
theorem windowWrite_spad (data : Word) : s.windowWrite (.mgmt m) (0x3000000 + off.toNat) 4 data =
    (s.touch (.mgmt m)).write4 (.mgmt m) (0x3000000 + off.toNat) (BitVec.ofNat 32 data.toNat) :=
  windowWrite_four s _ _ data (by have := h.aligned; omega)
/-- In OFF a write is refused and counted (R49). -/
theorem scratchpadWrite_off (data : Word) (hv : s.getF F.vregPoint_state c = vOff) :
    ∃ t, exec (.scratchpadWindowAccess (.mgmt m) off 4 (some data) false false) s = .next t ∧
      t.getF F.corePhase_win_refused c = 1 ∧ s.sameMemory t := by
  obtain ⟨u, hu, hmem, -, hvu, he⟩ := scratchpadAccess_eq h (some data)
  have ha := hu.congr (touch_gate u (.mgmt m))
  refine ⟨_, he.trans (congrArg Outcome.next ((windowWrite_spad hu data).trans
    (write4_spad_off _ _ _ c o _ (ha.leads 0 (by omega)) (ha.may 0 (by omega)) (hvu.trans hv)))), ?_, ?_⟩
  · exact getF_setB_same _ _ _ _ (by decide) (by decide)
  · exact sameMemory_trans hmem ⟨rfl, rfl, rfl, rfl, rfl, rfl⟩
/-- Elsewhere it goes into its row (R45). -/
theorem scratchpadWrite_on (data : Word) (hv : s.getF F.vregPoint_state c ≠ vOff) :
    ∃ t, exec (.scratchpadWindowAccess (.mgmt m) off 4 (some data) false false) s = .next t ∧
      Memory.readNat t.spad (spadKey c o) 4 = data.toNat % 2 ^ 32 ∧ t.rowPoison c (o / 64) = s.rowPoison c (o / 64) ∧
      s.rowsBut t c (o / 64) 1 ∧ t.dram = s.dram := by
  obtain ⟨u, hu, hmem, -, hvu, he⟩ := scratchpadAccess_eq h (some data)
  have ha := hu.congr (touch_gate u (.mgmt m))
  refine ⟨_, he.trans (congrArg Outcome.next ((windowWrite_spad hu data).trans
    (write4_spad_on _ _ _ c o _ h.inside (ha.leads 0 (by omega)) (ha.may 0 (by omega)) (fun k => hv (hvu.symm.trans k))))), ?_⟩
  have hw : s.sameMemory ((u.touch (.mgmt m)).awake c) := sameMemory_trans hmem (sameMemory_trans (touch_memory ..) (awake_memory ..))
  obtain ⟨hread, hpoison, hrows, hdram⟩ := putSpan_four_spec ((u.touch (.mgmt m)).awake c) c o (BitVec.ofNat 32 data.toNat).toNat h.word h.inside
  refine ⟨?_, hpoison.trans (rowPoison_of_memory hw ..), fun d k hk hne => ?_, hdram.trans hw.2.2.2.1⟩
  · rw [hread, BitVec.toNat_ofNat, Nat.mod_mod]
  · obtain ⟨hr, hp⟩ := hrows d k hk hne
    exact ⟨hr.trans (row_of_memory hw ..), hp.trans (rowPoison_of_memory hw ..)⟩
/-- A read gives the word in place, and wakes the scratchpad out of HOLD (R49). -/
theorem scratchpadRead_on (hv : s.getF F.vregPoint_state c ≠ vOff) :
    ∃ t, exec (.scratchpadWindowAccess (.mgmt m) off 4 none false false) s = .next t ∧ s.sameMemory t ∧
      t.out = s.out ++ [.read (68 + m) (0x3000000 + off.toNat) 4 (Memory.readNat s.spad (spadKey c o) 4)] ∧
      (s.getF F.vregPoint_state c = vHold → (t.core c).woken = true) := by
  obtain ⟨u, hu, hmem, hout, hvu, he⟩ := scratchpadAccess_eq h none
  have hw : s.sameMemory ((u.touch (.mgmt m)).awake c) := sameMemory_trans hmem (sameMemory_trans (touch_memory ..) (awake_memory ..))
  have hg : ((u.touch (.mgmt m)).awake c).gate = u.gate := (awake_gate ..).trans (touch_gate ..)
  have ha := hu.congr hg
  have hr := windowRead_spad u (.mgmt m) (0x3000000 + off.toNat) c o (by have := h.aligned; omega) (hu.leads 0 (by omega))
    (hu.may 0 (by omega)) (fun k => hv (hvu.symm.trans k))
  rw [read4_spad _ (.mgmt m) _ c o h.inside (fun k hk => ⟨ha.leads k hk, ha.may k hk⟩), hw.1] at hr
  rw [windowAccess_read, hr] at he
  refine ⟨_, he, sameMemory_trans hw ⟨rfl, rfl, rfl, rfl, rfl, rfl⟩, ?_, fun hh => ?_⟩
  · rw [emit_out, awake_out]
    exact congrArg (· ++ _) hout
  · rw [State.emit_core, awake_woken]
    exact hvu.trans hh
end

/-! ### Paths that are not admitted -/
/-- A touch changes one latched read. -/
theorem touch_latchOnly (s : State) (path : Path) :
    s.touch path = { s with fns := (s.touch path).fns } ∧ ∀ k, (s.touch path).fn k = { s.fn k with latch := ((s.touch path).fn k).latch } := by
  refine ⟨rfl, fun k => ?_⟩
  rw [touch_fn]
  split <;> rfl
/-- Each of these writes is ignored where its path is not admitted. -/
theorem exec_notAdmitted (path : Path) (v : BitVec 32) (n : Fin 512) (s : State) (h : s.admitted path = false) :
    ∀ i ∈ [Instr.moduleActiveRequest path, .moduleHoldRequest path, .standbyRequest path, .stewardSet path, .stewardModeLeft path,
      .pwrCapCommit path v, .evtCompleteWrite path v, .evtCommitWrite path v, .evtRqHeadWrite path v, .evtCtrlWrite path v,
      .evtEventEnableWrite path n v, .healthCleared path v, .pinmuxSwitch path v], exec i s = .next (s.touch path) := by
  have hif : ∀ f, Outcome.next (s.ifAdmitted path f) = (.next (s.touch path) : Outcome State Fault Refusal) :=
    fun f => congrArg Outcome.next (ifAdmitted_neg s path f h)
  simp only [List.forall_mem_cons, List.not_mem_nil, false_imp_iff, implies_true, and_true]
  exact ⟨hif _, hif _, hif _, hif _, hif _, hif _, hif _, hif _, hif _, hif _, hif _, hif _, hif _⟩

/-- Settles O51: a register's access codes bit by bit (`plainWrite_getLsbD`), reads by their bytes (`read4_eq`), scratchpads by their rows
(`putSpan_four`). -/
theorem windowsReadAndWrite : Obligations.WindowsReadAndWrite := by
  unfold Obligations.WindowsReadAndWrite
  refine ⟨⟨?_, ?_, ?_, ?_, ?_⟩, ?_⟩
  · intro path off r i b v s h4 ht hb hb8
    refine ⟨fun hm => ⟨registerWrite_refused path off r i b v s h4 ht hm, latchedRead_refused path off r i b s ht hm⟩,
      fun hm hr => ⟨?_, ?_⟩, fun size hz => ?_⟩
    · intro hs ho
      rw [registerWrite_reg path off r i b v s h4 ht hm hr, if_pos (by rw [hs, ho]; rfl)]
    · intro hs
      have hopen : ¬ (scheduleReg r && !s.scheduleOpen i) = true := by
        rcases hs with hs | hs <;> simp [hs]
      refine ⟨_, registerWrite_reg path off r i b v s h4 ht hm hr, ?_⟩
      rw [if_neg hopen]
      exact ⟨plainWrite_regsBut path r i b s _, fun j hj => plainWrite_bits path r i b v s j hj⟩
    · exact congrArg Outcome.next (windowWrite_badSize s path _ _ v hz)
  · intro path off r i s h8 hw ht
    exact ⟨latchedRead_lower path off r i s h8 hw ht, latchedRead_eight path off r i s h8 ht,
      fun v hl => latchedRead_upper path off r i s h8 hw ht v hl⟩
  · intro off size data m s
    exact ⟨fun p => ⟨rfl, rfl⟩, ⟨_, rfl, (apertureAccess_write m off size data s).symm⟩,
      ⟨_, rfl, (apertureAccess_read m off size s).symm⟩⟩
  · intro m off data c o s h4 ht ho hlt hm hmk
    have h : s.SpadAccess m off c o := ⟨h4, ht, ho, hlt, hmk⟩
    exact ⟨scratchpadWrite_off h data, fun hv => ⟨scratchpadRead_on h hv, scratchpadWrite_on h data hv⟩⟩
  · exact fun c s => ⟨_, rfl, by rw [core_modCore_same], rfl, rfl, rfl, rfl, rfl, rfl, rfl⟩
  · intro path v n s h i hi
    exact ⟨_, exec_notAdmitted path v n s h i hi, touch_latchOnly s path⟩

end Sys2Proof.Machine
end

section
/-! SUPPORT. What every function of the model does to the bytes of scratchpads and DRAM, in the order of the model's files: most leave
both as they are (`_bytes`); the others keep their canonical form (`_canon`). -/
namespace Sys2Proof.Machine
open Host


/-- The bytes of scratchpads and DRAM. -/
def State.bytes (s : State) : Memory × Memory := (s.spad, s.dram)
@[simp] theorem mk_bytes (a0 a1 a2 a3 a4 a5 a6 a7 a8 a9 a10 a11 a12 a13 a14 a15 a16 a17 a18 a19 a20 a21 a22 a23 a24 a25 a26 a27 a28 a29 a30 a31) :
    (State.mk a0 a1 a2 a3 a4 a5 a6 a7 a8 a9 a10 a11 a12 a13 a14 a15 a16 a17 a18 a19 a20 a21 a22 a23 a24 a25 a26 a27 a28 a29 a30 a31).bytes =
      (a12, a15) := (rfl)
@[simp] theorem pair_bytes (s : State) : (s.spad, s.dram) = s.bytes := (rfl)
/-- Both are in their canonical form. -/
def canon (m : Memory × Memory) : Prop := m.1.wf = true ∧ m.2.wf = true
theorem bytes_eq {s t : State} : t.bytes = s.bytes ↔ t.spad = s.spad ∧ t.dram = s.dram := Prod.mk.injEq .. ▸ Iff.rfl
theorem State.sameSpace.bytes {s t : State} (h : s.sameSpace t) : t.bytes = s.bytes := bytes_eq.2 h
@[simp] theorem ite_bytes (c : Prop) [Decidable c] (s t : State) : (if c then s else t).bytes = if c then s.bytes else t.bytes :=
  apply_ite State.bytes c s t
@[simp] theorem foldl_bytes {α : Type} {f : State → α → State} (h : ∀ t a, (f t a).bytes = t.bytes) (l : List α) (s : State) :
    (l.foldl f s).bytes = s.bytes := foldl_keeps (fun t => t.bytes = s.bytes) f (fun t a k => (h t a).trans k) l s rfl
@[simp] theorem thenOn_next (s t : State) : s.thenOn (.next t) = t := (rfl)
@[simp] theorem ite_thenOn (c : Prop) [Decidable c] (s : State) (a b : Outcome State Fault Refusal) :
    s.thenOn (if c then a else b) = if c then s.thenOn a else s.thenOn b := apply_ite s.thenOn c a b
/-- A choice keeps of the bytes what both its sides keep. -/
theorem ite_keeps {P : Memory × Memory → Prop} {c : Prop} [Decidable c] {s t : State} (hs : P s.bytes) (ht : P t.bytes) :
    P (if c then s else t).bytes := iteInduction (motive := fun u => P (State.bytes u)) (fun _ => hs) (fun _ => ht)
/-- Going through a list keeps what each update keeps. -/
theorem foldl_keepsBytes {P : Memory × Memory → Prop} {α : Type} {f : State → α → State} (h : ∀ t a, P (State.bytes t) → P (f t a).bytes)
    (l : List α) {s : State} (hs : P s.bytes) : P (l.foldl f s).bytes := foldl_keeps (fun t => P t.bytes) f h l s hs
theorem ite_bytes_eq {c : Prop} [Decidable c] {s t : State} {v : Memory × Memory} (hs : s.bytes = v) (ht : t.bytes = v) :
    (if c then s else t).bytes = v := ite_keeps (P := (· = v)) hs ht
@[simp] theorem ite_canon (c : Prop) [Decidable c] (m n : Memory × Memory) : canon (if c then m else n) ↔ if c then canon m else canon n := by
  split <;> rfl
@[simp] theorem foldl_canon {α : Type} {f : State → α → State} (h : ∀ t a, canon (State.bytes t) → canon (f t a).bytes) (l : List α) (s : State)
    (hs : canon s.bytes) : canon (l.foldl f s).bytes := foldl_keepsBytes h l hs
@[simp] theorem forAll_canon {α : Type} {f : State → α → State} (h : ∀ t a, canon (State.bytes t) → canon (f t a).bytes) (l : List α) (s : State)
    (hs : canon s.bytes) : canon (s.forAll l f).bytes := foldl_keepsBytes h l hs
/-- Nothing stored is in canonical form. -/
@[simp] theorem canon_nil : canon ([], []) := ⟨rfl, rfl⟩

/-! ### The functions of Machine/State -/

@[simp] theorem reset_bytes : State.reset.bytes = ([], []) := (rfl)

/-! ### The functions of Machine/Ops -/

@[simp] theorem setReg_bytes (s : State) (r : Reg) (i : Nat) (v : Word) : (s.setReg r i v).bytes = s.bytes := (rfl)
@[simp] theorem setF_bytes (s : State) (f : RF) (i : Nat) (v : Nat) : (s.setF f i v).bytes = s.bytes := by simp [State.setF]
@[simp] theorem bumpF_bytes (s : State) (f : RF) (i : Nat) (n : Nat) : (s.bumpF f i n).bytes = s.bytes := by simp [State.bumpF]
@[simp] theorem setB_bytes (s : State) (f : RF) (i : Nat) (b : Bool) : (s.setB f i b).bytes = s.bytes := by simp [State.setB]
@[simp] theorem logF_bytes (s : State) (valid : RF) (i : Nat) (v : Nat) : (s.logF valid i v).bytes = s.bytes := by simp [State.logF]
@[simp] theorem setCore_bytes (s : State) (c : Nat) (v : CoreSt) : (s.setCore c v).bytes = s.bytes := (rfl)
@[simp] theorem modCore_bytes (s : State) (c : Nat) (f : CoreSt → CoreSt) : (s.modCore c f).bytes = s.bytes := (rfl)
@[simp] theorem setPart_bytes (s : State) (p : Nat) (v : PartSt) : (s.setPart p v).bytes = s.bytes := (rfl)
@[simp] theorem modPart_bytes (s : State) (p : Nat) (f : PartSt → PartSt) : (s.modPart p f).bytes = s.bytes := (rfl)
@[simp] theorem setSite_bytes (s : State) (m : Nat) (v : SiteSt) : (s.setSite m v).bytes = s.bytes := (rfl)
@[simp] theorem modSite_bytes (s : State) (m : Nat) (f : SiteSt → SiteSt) : (s.modSite m f).bytes = s.bytes := (rfl)
@[simp] theorem setFn_bytes (s : State) (k : Nat) (v : FnSt) : (s.setFn k v).bytes = s.bytes := (rfl)
@[simp] theorem modFn_bytes (s : State) (k : Nat) (f : FnSt → FnSt) : (s.modFn k f).bytes = s.bytes := (rfl)
@[simp] theorem setEvc_bytes (s : State) (k : Nat) (v : EvcSt) : (s.setEvc k v).bytes = s.bytes := by simp [State.setEvc]
@[simp] theorem modEvc_bytes (s : State) (k : Nat) (f : EvcSt → EvcSt) : (s.modEvc k f).bytes = s.bytes := (rfl)
@[simp] theorem setDie_bytes (s : State) (k : Nat) (v : DieSt) : (s.setDie k v).bytes = s.bytes := (rfl)
@[simp] theorem modDie_bytes (s : State) (k : Nat) (f : DieSt → DieSt) : (s.modDie k f).bytes = s.bytes := (rfl)
@[simp] theorem setEdge_bytes (s : State) (k : Nat) (v : EdgeSt) : (s.setEdge k v).bytes = s.bytes := by simp [State.setEdge]
@[simp] theorem modEdge_bytes (s : State) (k : Nat) (f : EdgeSt → EdgeSt) : (s.modEdge k f).bytes = s.bytes := (rfl)
@[simp] theorem modMod_bytes (s : State) (f : ModSt → ModSt) : (s.modMod f).bytes = s.bytes := (rfl)
@[simp] theorem emit_bytes (s : State) (o : Out) : (s.emit o).bytes = s.bytes := (rfl)
@[simp] theorem modFab_bytes (s : State) (f : FabSt → FabSt) : (s.modFab f).bytes = s.bytes := (rfl)
@[simp] theorem inject_bytes (s : State) (p : Pkt) : (s.inject p).bytes = s.bytes := (rfl)
@[simp] theorem consume_bytes (s : State) (k : Pkt) : (s.consume k).bytes = s.bytes := by simp [State.consume]
@[simp] theorem send_bytes (s : State) (m : CtlMsg) (p : Nat) (dst : Nat) (src : Nat) : (s.send m p dst src).bytes = s.bytes := (rfl)
theorem takeCtl_keeps {P : Memory × Memory → Prop} {f : State → State} (hf : ∀ t : State, P t.bytes → P (f t).bytes) {s : State}
    (hs : P s.bytes) (m : Ctl) : P (s.takeCtl m f).bytes := by
  unfold State.takeCtl
  dsimp only
  split_ifs
  · exact hf _ hs
  · exact hs
  · exact hs
  · exact hs
@[simp] theorem takeCtl_bytes {f : State → State} (hf : ∀ t : State, (f t).bytes = t.bytes) (s : State) (m : Ctl) :
    (s.takeCtl m f).bytes = s.bytes := takeCtl_keeps (P := (· = s.bytes)) (fun t h => (hf t).trans h) rfl m
@[simp] theorem forAll_bytes {α : Type} {f : State → α → State} (h : ∀ t a, (f t a).bytes = t.bytes) (l : List α) (s : State) :
    (s.forAll l f).bytes = s.bytes := foldl_bytes h l s
@[simp] theorem record_bytes (s : State) (e : Ev) (src : Nat) (ctrl : Nat) (part : Nat) (detail : Nat) :
    (s.record e src ctrl part detail).bytes = s.bytes := (rfl)
@[simp] theorem raise_bytes (s : State) (e : Ev) (src : Nat) (p : Option Nat) (detail : Nat) : (s.raise e src p detail).bytes = s.bytes :=
  (raise_faultOnly ..).space.bytes
@[simp] theorem rebuildView_bytes (s : State) (p : Nat) : (s.rebuildView p).bytes = s.bytes := (rebuildView_faultOnly ..).space.bytes
@[simp] theorem rebuild_bytes (s : State) : s.rebuild.bytes = s.bytes := (rebuild_faultOnly ..).space.bytes
@[simp] theorem stopPart_bytes (s : State) (p : Nat) (ends : Bool) : (s.stopPart p ends).bytes = s.bytes := (stopPart_faultOnly ..).space.bytes
@[simp] theorem newFault_bytes (s : State) (p : Nat) (r : Recovery) : (s.newFault p r).bytes = s.bytes := (newFault_faultOnly ..).space.bytes
@[simp] theorem holdPart_bytes (s : State) (p : Nat) : (s.holdPart p).bytes = s.bytes := (holdPart_faultOnly ..).space.bytes
@[simp] theorem recover_bytes (s : State) (p : Nat) (c : Nat) (e : Ev) (detail : Nat) : (s.recover p c e detail).bytes = s.bytes :=
  (recover_faultOnly ..).space.bytes
@[simp] theorem policy_bytes (s : State) (p : Nat) (c : Nat) (e : Ev) (detail : Nat) : (s.policy p c e detail).bytes = s.bytes :=
  (policy_faultOnly ..).space.bytes
@[simp] theorem fault_bytes (s : State) (c : Nat) (e : Ev) (detail : Nat) : (s.fault c e detail).bytes = s.bytes := (fault_faultOnly ..).space.bytes
@[simp] theorem putRow_canon (s : State) (c : Nat) (r : Nat) (d : Row) (poison : Bool) (hs : canon s.bytes) : canon (s.putRow c r d poison).bytes :=
  putRow_memWf s c r d poison hs
@[simp] theorem putSpan_canon (s : State) (c : Nat) (a : Nat) (n : Nat) (v : Nat) (poison : Bool) (seen : NSet) (hs : canon s.bytes) :
    canon (s.putSpan c a n v poison seen).bytes := putSpan_memWf s c a n v poison seen hs
@[simp] theorem poisonRows_bytes (s : State) (c : Nat) (r : Nat) (n : Nat) : (s.poisonRows c r n).bytes = s.bytes := by simp [State.poisonRows]
@[simp] theorem putRows_canon (s : State) (c r : Nat) (l : List Row) (po : Bool) (h : canon s.bytes) : canon (s.putRows c r l po).bytes :=
  putRows_memWf l s c r po h
@[simp] theorem clash_bytes (c : Nat) (l : List Access) (s : State) : (s.clash c l).bytes = s.bytes := by
  fun_induction State.clash s c l with
  | case1 s a b t pr w u ih => exact ih.trans (by simp [u])
  | case2 => rfl
@[simp] theorem spadUe_bytes (c : Nat) (l : List (Fin 131072)) (s : State) : (s.spadUe c l).bytes = s.bytes := by
  induction l generalizing s with
  | nil => rfl
  | cons r t ih => simp [State.spadUe, ih]
@[simp] theorem observeRows_bytes (s : State) (c : Nat) (o : Obs) : (s.observeRows c o).bytes = s.bytes := by simp [State.observeRows]
@[simp] theorem showWindow_bytes (s : State) (c : Nat) (l : List (Bool × Bool × Bool)) : (s.showWindow c l).bytes = s.bytes := by
  simp [State.showWindow]
@[simp] theorem observe_bytes (s : State) (c : Nat) (o : Obs) : (s.observe c o).bytes = s.bytes := by simp [State.observe]

/-! ### The functions of Machine/Points -/

@[simp] theorem showCeil_bytes (s : State) (c : Nat) : (s.showCeil c).bytes = s.bytes := by simp [State.showCeil]
@[simp] theorem showDie_bytes (s : State) (d : Nat) : (s.showDie d).bytes = s.bytes := (showDie_space ..).bytes
@[simp] theorem levelMv_bytes (s : State) (c : Nat) : (s.levelMv c).bytes = s.bytes := by simp [State.levelMv]
@[simp] theorem setPoint_bytes (s : State) (c : Nat) (i : Nat) : (s.setPoint c i).bytes = s.bytes := by simp [State.setPoint]
@[simp] theorem applyPoint_bytes (s : State) (p : Nat) (c : Nat) : (s.applyPoint p c).bytes = s.bytes := by simp [State.applyPoint]
@[simp] theorem govern_bytes (s : State) (p : Nat) (m : Nat × Bool) : (s.govern p m).bytes = s.bytes := by simp [State.govern]
@[simp] theorem pointsAtRelease_bytes (s : State) (p : Nat) (moves : List (Nat × Bool)) : (s.pointsAtRelease p moves).bytes = s.bytes := by
  simp [State.pointsAtRelease]
@[simp] theorem setPower_bytes (s : State) (c : Nat) (n : Nat) : (s.setPower c n).bytes = s.bytes := by simp [State.setPower]

/-! ### The functions of Machine/Health -/

@[simp] theorem setHealth_bytes (s : State) (u : Nat) (h : Health) : (s.setHealth u h).bytes = s.bytes := (rfl)
@[simp] theorem applyCore_bytes (s : State) (c : Nat) (n : Nat) : (s.applyCore c n).bytes = s.bytes := (applyCore_space ..).bytes
@[simp] theorem showLimit_bytes (s : State) (d : Nat) : (s.showLimit d).bytes = s.bytes := by simp [State.showLimit]
@[simp] theorem shedPhase_bytes (s : State) (d : Nat) (k : Nat) : (s.shedPhase d k).bytes = s.bytes := (shedPhase_space ..).bytes
@[simp] theorem applyUnit_bytes (s : State) (u : Nat) (n : Nat) : (s.applyUnit u n).bytes = s.bytes := (applyUnit_space ..).bytes
@[simp] theorem setUnit_bytes (s : State) (u : Nat) (n : Nat) (h : Health) : (s.setUnit u n h).bytes = s.bytes := (setUnit_space ..).bytes
@[simp] theorem charge_bytes (s : State) (u : Nat) (cause : Nat) (repeats : Bool) : (s.charge u cause repeats).bytes = s.bytes :=
  (charge_space ..).bytes

/-! ### The functions of Machine/Flags -/

@[simp] theorem orFlags_bytes (s : State) (c : Nat) (e : Engine) (f : Flags) : (s.orFlags c e f).bytes = s.bytes := by simp [State.orFlags]
@[simp] theorem orUpdFlags_bytes (s : State) (m : Nat) (f : Flags) : (s.orUpdFlags m f).bytes = s.bytes := by simp [State.orUpdFlags]

/-! ### The functions of Machine/Operands -/

@[simp] theorem putVec_canon (s : State) (c : Nat) (r : Nat) (f : Fmt) (v : Nat) (codes : List Nat) (poison : Bool) (hs : canon s.bytes) :
    canon (s.putVec c r f v codes poison).bytes := by
  simp [State.putVec, hs]

/-! ### The functions of Machine/Carry -/

@[simp] theorem meetTap_bytes (x : Pkt × State) (w : Tap) : (State.meetTap x w).2.bytes = x.2.bytes := by
  unfold State.meetTap
  split <;> rfl
@[simp] theorem enterLine_bytes (s : State) (t : Tap) : (s.enterLine t).bytes = s.bytes := by
  unfold State.enterLine
  extract_lets u
  have hu : u.bytes = s.bytes := modFab_bytes ..
  clear_value u
  have hm : ∀ l k, (List.foldl State.meetTap (k, u) l).2.bytes = s.bytes := fun l k => by
    induction l using List.reverseRecOn with
    | nil => exact hu
    | append_singleton l w ih => rw [List.foldl_concat, meetTap_bytes, ih]
  split
  · exact hu
  · extract_lets r
    have hr : r.2.bytes = s.bytes := by
      unfold r
      split
      · exact hu
      · exact hm ..
    exact ite_bytes_eq hr ((modFab_bytes ..).trans hr)
@[simp] theorem lineTick_bytes (s : State) : s.lineTick.bytes = s.bytes := by simp [State.lineTick]
@[simp] theorem tick_bytes (s : State) : s.tick.bytes = s.bytes := by simp [State.tick]

/-! ### The functions of Machine/Queue -/

@[simp] theorem setPState_bytes (s : State) (p : Nat) (n : Nat) : (s.setPState p n).bytes = s.bytes := by simp [State.setPState]
@[simp] theorem post_bytes (s : State) (k : Nat) (c : Completion) : (s.post k c).bytes = s.bytes := by
  unfold State.post
  split
  · rfl
  · extract_lets t ph u n v w
    have hw : w.bytes = s.bytes := by
      refine ite_bytes_eq (emit_bytes ..) (ite_bytes_eq ?_ ?_)
      · exact (setF_bytes ..).trans ((setF_bytes ..).trans (emit_bytes ..))
      · exact (setF_bytes ..).trans (emit_bytes ..)
    exact (raise_bytes ..).trans hw
@[simp] theorem flushHeld_bytes (s : State) (k : Nat) : (s.flushHeld k).bytes = s.bytes := by simp [State.flushHeld]
@[simp] theorem dropOrder_bytes (s : State) (o : OrderSt) : (s.dropOrder o).bytes = s.bytes := by simp [State.dropOrder]
@[simp] theorem finish_bytes (s : State) (o : OrderSt) (code : Nat) (detail : Nat) (result : Nat) : (s.finish o code detail result).bytes = s.bytes :=
  by
  simp [State.finish]
@[simp] theorem rejectState_bytes (s : State) (o : OrderSt) : (s.rejectState o).bytes = s.bytes := by simp [State.rejectState]
@[simp] theorem stageOrder_bytes (s : State) (o : OrderSt) (n : Nat) : (s.stageOrder o n).bytes = s.bytes := by simp [State.stageOrder]

/-! ### The functions of Machine/Sequencer -/

@[simp] theorem goto_bytes (s : State) (c : Nat) (pc : Nat) (ls : List Loop) (step : Bool) : (s.goto c pc ls step).bytes = s.bytes := by
  simp [State.goto]
@[simp] theorem advance_bytes (s : State) (c : Nat) (n : Nat) : (s.advance c n).bytes = s.bytes := by simp [State.advance]
@[simp] theorem instrFault_bytes (s : State) (c : Nat) (reason : Nat) : (s.instrFault c reason).bytes = s.bytes := by simp [State.instrFault]
@[simp] theorem count_bytes (s : State) (c : Nat) (n : Nat) : (s.count c n).bytes = s.bytes := by simp [State.count]
@[simp] theorem countOpt_bytes (s : State) (c : Nat) (n : Option Nat) : (s.countOpt c n).bytes = s.bytes := by
  cases n <;> simp [State.countOpt]
@[simp] theorem showPhase_bytes (s : State) (c : Nat) : (s.showPhase c).bytes = s.bytes := by simp [State.showPhase]
@[simp] theorem hold_bytes (s : State) (c : Nat) (w : Word) : (s.hold c w).bytes = s.bytes := by simp [State.hold]
@[simp] theorem unhold_bytes (s : State) (c : Nat) : (s.unhold c).bytes = s.bytes := by simp [State.unhold]
@[simp] theorem fetchWait_bytes (s : State) (c : Nat) (o : Obs) : (s.fetchWait c o).bytes = s.bytes := by simp [State.fetchWait]
@[simp] theorem taken_bytes (s : State) (c : Nat) (o : Obs) : (s.taken c o).bytes = s.bytes := by simp [State.taken]
/-- Dispatch keeps of the bytes what the instruction's own effect keeps. -/
theorem dispatch_keeps {P : Memory × Memory → Prop} {k : State → State} (hk : ∀ t : State, P t.bytes → P (k t).bytes) {s : State}
    (hs : P s.bytes) (c : Nat) (w : Word) (o : Obs) (e d : Bool) : P (s.dispatch c w o e d k).bytes := by
  unfold State.dispatch
  split_ifs
  · exact hs
  · exact hs
  · simpa using hs
  · simpa using hs
  · simpa using hs
  · exact hk _ (by simpa using hs)
@[simp] theorem dispatch_bytes {k : State → State} (hk : ∀ t : State, (k t).bytes = t.bytes) (s : State) (c : Nat) (w : Word) (o : Obs)
    (e d : Bool) : (s.dispatch c w o e d k).bytes = s.bytes := dispatch_keeps (P := (· = s.bytes)) (fun t h => (hk t).trans h) rfl c w o e d
@[simp] theorem closeEpoch_bytes (s : State) (c : Nat) : (s.closeEpoch c).bytes = s.bytes := by simp [State.closeEpoch]
@[simp] theorem execNop_bytes (u : State) (c : CoreIx) (w : Word) (o : Obs) (s : State) : (u.thenOn (execNop c w o s)).bytes = s.bytes := by
  simp [execNop]
@[simp] theorem execWaitCount_bytes (u : State) (c : CoreIx) (w : Word) (o : Obs) (s : State) : (u.thenOn (execWaitCount c w o s)).bytes = s.bytes :=
  by
  simp [execWaitCount]
@[simp] theorem arrive_bytes (s : State) (c : Nat) (isStep : Bool) (tag : Nat) (group : Nat) : (s.arrive c isStep tag group).bytes = s.bytes := by
  simp [State.arrive]
@[simp] theorem execBarrierGroup_bytes (u : State) (c : CoreIx) (w : Word) (o : Obs) (s : State) :
    (u.thenOn (execBarrierGroup c w o s)).bytes = s.bytes := by
  simp [execBarrierGroup]
@[simp] theorem overrunCheck_bytes (s : State) (c : Nat) : (s.overrunCheck c).bytes = s.bytes := by simp [State.overrunCheck]
@[simp] theorem execBarrierStep_bytes (u : State) (c : CoreIx) (w : Word) (o : Obs) (s : State) : (u.thenOn (execBarrierStep c w o s)).bytes = s.bytes :=
  by
  simp [execBarrierStep]
@[simp] theorem execForecast_bytes (u : State) (c : CoreIx) (w : Word) (o : Obs) (s : State) : (u.thenOn (execForecast c w o s)).bytes = s.bytes := by
  simp [execForecast]
@[simp] theorem execForecastMatures_bytes (u : State) (c : CoreIx) (s : State) : (u.thenOn (execForecastMatures c s)).bytes = s.bytes := by
  unfold execForecastMatures
  dsimp only
  split <;> simp
@[simp] theorem execChkptMark_bytes (u : State) (c : CoreIx) (w : Word) (o : Obs) (s : State) : (u.thenOn (execChkptMark c w o s)).bytes = s.bytes :=
  by
  simp [execChkptMark]
@[simp] theorem execRepeat_bytes (u : State) (c : CoreIx) (w : Word) (o : Obs) (s : State) : (u.thenOn (execRepeat c w o s)).bytes = s.bytes := by
  simp [execRepeat]
@[simp] theorem execSetr_bytes (u : State) (c : CoreIx) (w : Word) (o : Obs) (s : State) : (u.thenOn (execSetr c w o s)).bytes = s.bytes := by
  unfold execSetr
  repeat' split
  all_goals simp
@[simp] theorem execProof_bytes (u : State) (c : CoreIx) (w : Word) (o : Obs) (s : State) : (u.thenOn (execProof c w o s)).bytes = s.bytes := by
  simp [execProof]
@[simp] theorem execProofTokenSend_bytes (u : State) (c : CoreIx) (epoch : BitVec 16) (s : State) :
    (u.thenOn (execProofTokenSend c epoch s)).bytes = s.bytes := by
  unfold execProofTokenSend
  rw [thenOn_next]
  extract_lets q e
  split
  · rfl
  · exact ite_bytes_eq rfl ((foldl_bytes (fun t d => send_bytes ..) _ _).trans (modCore_bytes ..))
@[simp] theorem execEpochAutoClose_bytes (u : State) (c : CoreIx) (s : State) : (u.thenOn (execEpochAutoClose c s)).bytes = s.bytes := by
  simp [execEpochAutoClose]
@[simp] theorem execUstepOverrun_bytes (u : State) (c : CoreIx) (s : State) : (u.thenOn (execUstepOverrun c s)).bytes = s.bytes := by
  simp [execUstepOverrun]
@[simp] theorem execCoreHang_bytes (u : State) (c : CoreIx) (s : State) : (u.thenOn (execCoreHang c s)).bytes = s.bytes := by simp [execCoreHang]
@[simp] theorem execProgramFetchResponse_bytes (u : State) (c : CoreIx) (failures : Nat) (cycles : Nat) (s : State) :
    (u.thenOn (execProgramFetchResponse c failures cycles s)).bytes = s.bytes := by
  simp [execProgramFetchResponse]

/-! ### The functions of Machine/Vector -/

@[simp] theorem vecLanes_canon (s : State) (c : Nat) (f : VecF) (fi : Fmt) (fo : Fmt) (nops : Nat) (g : LaneFn) (x1 : Nat) (x2 : Nat) (x3 : Flags)
    (hs : canon s.bytes) : canon (s.vecLanes c f fi fo nops g x1 x2 x3).bytes := by
  induction x1 generalizing s x2 x3 with
  | zero => simpa [State.vecLanes] using hs
  | succ n ih => exact ih _ _ _ (by simp [hs])
theorem vecRun_keeps {P : Memory × Memory → Prop} {go : State → VecF → Fmt → Fmt → State}
    (hg : ∀ (t : State) f a b, P t.bytes → P (go t f a b).bytes) {s : State} (hs : P s.bytes) (c : Nat) (w0 w1 : Word) (o : Obs) (n r : Nat) :
    P (s.vecRun c w0 w1 o n r go).bytes := by
  refine dispatch_keeps (fun t ht => ?_) hs c w0 o true false
  have hf : ∀ n, P (t.instrFault c n).bytes := fun n => by simpa using ht
  have ha : ∀ u : State, P u.bytes → P (u.advance c 2).bytes := fun u hu => by simpa using hu
  extract_lets f
  split
  · refine ite_keeps (hf _) (ite_keeps (hf _) (ite_keeps (ha _ ht) (ha _ (hg _ _ _ _ ?_))))
    simpa using ht
  · exact hf _
@[simp] theorem vecElem_canon (s : State) (c : Nat) (w0 w1 : Word) (o : Obs) (n : Nat) (g : LaneFn) (h : canon s.bytes) :
    canon (s.vecElem c w0 w1 o n g).bytes := vecRun_keeps (fun t f a b ht => by simp [ht]) h c w0 w1 o n 0
@[simp] theorem execVecAdd_canon (u : State) (c : CoreIx) (w0 : Word) (w1 : Word) (o : Obs) (s : State) (hs : canon s.bytes) :
    canon (u.thenOn (execVecAdd c w0 w1 o s)).bytes := by
  simp [execVecAdd, hs]
@[simp] theorem execVecSub_canon (u : State) (c : CoreIx) (w0 : Word) (w1 : Word) (o : Obs) (s : State) (hs : canon s.bytes) :
    canon (u.thenOn (execVecSub c w0 w1 o s)).bytes := by
  simp [execVecSub, hs]
@[simp] theorem execVecMul_canon (u : State) (c : CoreIx) (w0 : Word) (w1 : Word) (o : Obs) (s : State) (hs : canon s.bytes) :
    canon (u.thenOn (execVecMul c w0 w1 o s)).bytes := by
  simp [execVecMul, hs]
@[simp] theorem execVecFma_canon (u : State) (c : CoreIx) (w0 : Word) (w1 : Word) (o : Obs) (s : State) (hs : canon s.bytes) :
    canon (u.thenOn (execVecFma c w0 w1 o s)).bytes := by
  simp [execVecFma, hs]
@[simp] theorem execVecMax_canon (u : State) (c : CoreIx) (w0 : Word) (w1 : Word) (o : Obs) (s : State) (hs : canon s.bytes) :
    canon (u.thenOn (execVecMax c w0 w1 o s)).bytes := by
  simp [execVecMax, hs]
@[simp] theorem execVecMin_canon (u : State) (c : CoreIx) (w0 : Word) (w1 : Word) (o : Obs) (s : State) (hs : canon s.bytes) :
    canon (u.thenOn (execVecMin c w0 w1 o s)).bytes := by
  simp [execVecMin, hs]
@[simp] theorem execVecCmpEq_canon (u : State) (c : CoreIx) (w0 : Word) (w1 : Word) (o : Obs) (s : State) (hs : canon s.bytes) :
    canon (u.thenOn (execVecCmpEq c w0 w1 o s)).bytes := by
  simp [execVecCmpEq, hs]
@[simp] theorem execVecCmpLt_canon (u : State) (c : CoreIx) (w0 : Word) (w1 : Word) (o : Obs) (s : State) (hs : canon s.bytes) :
    canon (u.thenOn (execVecCmpLt c w0 w1 o s)).bytes := by
  simp [execVecCmpLt, hs]
@[simp] theorem execVecCmpLe_canon (u : State) (c : CoreIx) (w0 : Word) (w1 : Word) (o : Obs) (s : State) (hs : canon s.bytes) :
    canon (u.thenOn (execVecCmpLe c w0 w1 o s)).bytes := by
  simp [execVecCmpLe, hs]
@[simp] theorem execVecExp_canon (u : State) (c : CoreIx) (w0 : Word) (w1 : Word) (o : Obs) (s : State) (hs : canon s.bytes) :
    canon (u.thenOn (execVecExp c w0 w1 o s)).bytes := by
  simp [execVecExp, hs]
@[simp] theorem execVecRecip_canon (u : State) (c : CoreIx) (w0 : Word) (w1 : Word) (o : Obs) (s : State) (hs : canon s.bytes) :
    canon (u.thenOn (execVecRecip c w0 w1 o s)).bytes := by
  simp [execVecRecip, hs]
@[simp] theorem execVecRsqrt_canon (u : State) (c : CoreIx) (w0 : Word) (w1 : Word) (o : Obs) (s : State) (hs : canon s.bytes) :
    canon (u.thenOn (execVecRsqrt c w0 w1 o s)).bytes := by
  simp [execVecRsqrt, hs]
@[simp] theorem vecPacked_canon (s : State) (c : Nat) (f : VecF) (fi : Fmt) (fo : Fmt) (g : List Val → Val × Flags) (hs : canon s.bytes) :
    canon (s.vecPacked c f fi fo g).bytes := by
  simp only [State.vecPacked, orFlags_bytes]
  exact foldl_keepsBytes (fun t e ht => by simp [ht]) _ hs
@[simp] theorem execVecRsum_canon (u : State) (c : CoreIx) (w0 : Word) (w1 : Word) (o : Obs) (s : State) (hs : canon s.bytes) :
    canon (u.thenOn (execVecRsum c w0 w1 o s)).bytes := by
  unfold execVecRsum; rw [thenOn_next]
  exact vecRun_keeps (fun t f a b ht => by simp [ht]) hs ..
@[simp] theorem execVecRmax_canon (u : State) (c : CoreIx) (w0 : Word) (w1 : Word) (o : Obs) (s : State) (hs : canon s.bytes) :
    canon (u.thenOn (execVecRmax c w0 w1 o s)).bytes := by
  unfold execVecRmax; rw [thenOn_next]
  exact vecRun_keeps (fun t f a b ht => by simp [ht]) hs ..
@[simp] theorem vecCvt_canon (s : State) (c : Nat) (f : VecF) (fi : Fmt) (fo : Fmt) (x1 : Nat) (x2 : Nat) (x3 : Flags) (hs : canon s.bytes) :
    canon (s.vecCvt c f fi fo x1 x2 x3).bytes := by
  induction x1 generalizing s x2 x3 with
  | zero => simpa [State.vecCvt] using hs
  | succ n ih => exact ih _ _ _ (by simp [hs])
@[simp] theorem execVecCvt_canon (u : State) (c : CoreIx) (w0 : Word) (w1 : Word) (o : Obs) (s : State) (hs : canon s.bytes) :
    canon (u.thenOn (execVecCvt c w0 w1 o s)).bytes := by
  unfold execVecCvt; rw [thenOn_next]
  refine dispatch_keeps (fun t ht => ?_) hs ..
  dsimp only
  split
  · split_ifs <;> simp [ht]
  · simp [ht]
theorem vecBlock_keeps {P : Memory × Memory → Prop} {go : State → VecF → Fmt → State} (hg : ∀ (t : State) f a, P t.bytes → P (go t f a).bytes)
    {s : State} (hs : P s.bytes) (c : Nat) (w0 w1 : Word) (o : Obs) (x y z : Nat → Nat) : P (s.vecBlock c w0 w1 o x y z go).bytes := by
  refine dispatch_keeps (fun t ht => ?_) hs c w0 o true false
  have hf : ∀ n, P (t.instrFault c n).bytes := fun n => by simpa using ht
  have ha : ∀ u : State, P u.bytes → P (u.advance c 2).bytes := fun u hu => by simpa using hu
  extract_lets f
  split
  · refine ite_keeps (hf _) (ite_keeps (hf _) (ite_keeps (ha _ ht) (ha _ (hg _ _ _ ?_))))
    simpa using ht
  · exact hf _
@[simp] theorem putBytes_canon (s : State) (c : Nat) (f : VecF) (fi : Fmt) (extra : Bool) (bs : List Nat) (hs : canon s.bytes) :
    canon (s.putBytes c f fi extra bs).bytes := foldl_keepsBytes (fun t a ht => by simp [ht]) _ hs
@[simp] theorem execVecBexp_canon (u : State) (c : CoreIx) (w0 : Word) (w1 : Word) (o : Obs) (s : State) (hs : canon s.bytes) :
    canon (u.thenOn (execVecBexp c w0 w1 o s)).bytes := by
  unfold execVecBexp; rw [thenOn_next]
  exact vecBlock_keeps (fun t f a ht => by simp [ht]) hs ..
@[simp] theorem execVecMxscale_canon (u : State) (c : CoreIx) (w0 : Word) (w1 : Word) (o : Obs) (s : State) (hs : canon s.bytes) :
    canon (u.thenOn (execVecMxscale c w0 w1 o s)).bytes := by
  unfold execVecMxscale; rw [thenOn_next]
  exact vecBlock_keeps (fun t f a ht => ite_keeps (by simp [ht]) (by simp [ht])) hs ..
@[simp] theorem vecQgrid_canon (s : State) (c : Nat) (f : VecF) (fi : Fmt) (x1 : Nat) (x2 : Nat) (x3 : Flags) (hs : canon s.bytes) :
    canon (s.vecQgrid c f fi x1 x2 x3).bytes := by
  fun_induction State.vecQgrid s c f fi x1 x2 x3 with
  | case1 => rwa [orFlags_bytes]
  | case2 s x2 x3 n codes res po ih => exact ih (putVec_canon _ _ _ _ _ _ _ hs)
@[simp] theorem execVecQgrid_canon (u : State) (c : CoreIx) (w0 : Word) (w1 : Word) (o : Obs) (s : State) (hs : canon s.bytes) :
    canon (u.thenOn (execVecQgrid c w0 w1 o s)).bytes := by
  unfold execVecQgrid; rw [thenOn_next]
  exact vecBlock_keeps (fun t f a ht => by simp [ht]) hs ..
@[simp] theorem execVecRange_bytes (u : State) (c : CoreIx) (w0 : Word) (w1 : Word) (o : Obs) (s : State) :
    (u.thenOn (execVecRange c w0 w1 o s)).bytes = s.bytes := by
  unfold execVecRange
  dsimp only
  split <;> simp

/-! ### The functions of Machine/Array -/

@[simp] theorem putTile_bytes (s : State) (c : Nat) (t : Tile) (code : Nat) : (s.putTile c t code).bytes = s.bytes := by simp [State.putTile]
@[simp] theorem dropTile_bytes (s : State) (c : Nat) : (s.dropTile c).bytes = s.bytes := by simp [State.dropTile]
@[simp] theorem execLoadTile_bytes (u : State) (c : CoreIx) (w : Word) (o : Obs) (s : State) : (u.thenOn (execLoadTile c w o s)).bytes = s.bytes := by
  unfold execLoadTile
  dsimp only
  split <;> simp
@[simp] theorem proofResult_bytes (s : State) (c : Nat) (r : ProofSum) (col : RF) (row : RF) (unch : RF) (valid : RF) :
    (s.proofResult c r col row unch valid).bytes = s.bytes := by
  unfold State.proofResult
  dsimp only
  split <;> simp
@[simp] theorem arrayRun_canon (s : State) (c : Nat) (t : Tile) (cls : Cls) (f : StreamF) (g : Conv) (o : Obs) (hs : canon s.bytes) :
    canon (s.arrayRun c t cls f g o).bytes := by
  simp only [State.arrayRun, proofResult_bytes, orFlags_bytes, bumpF_bytes]
  exact foldl_keepsBytes (fun t e ht => by simp [ht]) _ hs
@[simp] theorem zeroRows_canon (s : State) (c : Nat) (dst : Nat) (pitch : Nat) (n : Nat) (hs : canon s.bytes) : canon (s.zeroRows c dst pitch n).bytes :=
  by
  simp [State.zeroRows, hs]
@[simp] theorem execStream_canon (u : State) (c : CoreIx) (w0 : Word) (w1 : Word) (o : Obs) (s : State) (hs : canon s.bytes) :
    canon (u.thenOn (execStream c w0 w1 o s)).bytes := by
  unfold execStream; rw [thenOn_next]
  refine dispatch_keeps (fun t ht => ?_) hs ..
  dsimp only
  split
  · refine ite_keeps (by simp [ht]) ?_
    split
    · split_ifs <;> simp [ht]
    · split
      · simp [ht]
      · split_ifs <;> simp [ht]
  · simp [ht]

/-! ### The functions of Machine/Sparse -/

@[simp] theorem sparseBlocks_canon (c : Nat) (x : StreamCtx) (f : StreamF) (cols : List (List (Nat × Val))) (o : Obs) (nb : Nat) (s : State) (t0 :
    Nat)
    (rs : List OutRow) (fl : Flags) (hs : canon s.bytes) : canon (s.sparseBlocks c x f cols o nb t0 rs fl).1.bytes := by
  induction nb generalizing s t0 rs fl with
  | zero => exact hs
  | succ n ih => exact ih _ _ _ _ (foldl_keepsBytes (fun t e ht => by simp [ht]) _ hs)
@[simp] theorem sparseRun_canon (s : State) (c : Nat) (h : Header) (wf : Fmt) (xf : Fmt) (cls : Cls) (ents : List (Nat × Nat × Nat)) (blk : List Nat)
    (poison : Bool) (f : StreamF) (o : Obs) (hs : canon s.bytes) : canon (s.sparseRun c h wf xf cls ents blk poison f o).bytes := by
  simp [State.sparseRun, hs]
@[simp] theorem selectRun_canon (s : State) (c : Nat) (r : Row) (f : Fmt) (src : Nat) (dst : Nat) (n : Nat) (o : Obs) (hs : canon s.bytes) :
    canon (s.selectRun c r f src dst n o).bytes := by
  simp [State.selectRun, hs]
@[simp] theorem badHeader_canon (s : State) (c : Nat) (dst : Nat) (pitch : Nat) (n : Nat) (hs : canon s.bytes) :
    canon (s.badHeader c dst pitch n).bytes := by
  simp [State.badHeader, hs]
@[simp] theorem speRun_bytes (s : State) (c : Nat) (sparse : Bool) (layout : Nat) (nnz : Nat) : (s.speRun c sparse layout nnz).bytes = s.bytes := by
  simp [State.speRun]
@[simp] theorem execSparseTile_canon (u : State) (c : CoreIx) (w0 : Word) (w1 : Word) (o : Obs) (s : State) (hs : canon s.bytes) :
    canon (u.thenOn (execSparseTile c w0 w1 o s)).bytes := by
  unfold execSparseTile; rw [thenOn_next]
  refine dispatch_keeps (fun t ht => ?_) hs ..
  dsimp only
  have hb : ∀ (u : State) d p n, canon u.bytes → canon ((u.badHeader c d p n).advance c 2).bytes := fun u d p n hu => by simp [hu]
  split
  · refine ite_keeps (by simp [ht]) (ite_keeps (by simp [ht]) (ite_keeps (by simp [ht]) (ite_keeps ?_ ?_)))
    · split
      · exact ite_keeps (by simp [ht]) (hb _ _ _ _ (by simpa using ht))
      · exact hb _ _ _ _ (by simpa using ht)
    · split
      · exact hb _ _ _ _ (by simpa using ht)
      · refine ite_keeps (hb _ _ _ _ (by simpa using ht)) ?_
        split
        · simp [ht]
        · rw [advance_bytes]
          exact ite_keeps (ite_keeps (by simp [ht]) (by simp [ht])) (by rw [fault_bytes]; exact ite_keeps (by simp [ht]) (by simp [ht]))
  · simp [ht]

/-! ### The functions of Machine/Dma -/

@[simp] theorem rejectDesc_bytes (s : State) (c : Nat) (k : DKind) (reason : Nat) (ctr : Nat) (loc : Nat) (len : Nat) :
    (s.rejectDesc c k reason ctr loc len).bytes = s.bytes := by
  simp [State.rejectDesc]
@[simp] theorem showTags_bytes (s : State) (c : Nat) : (s.showTags c).bytes = s.bytes := by simp [State.showTags]
@[simp] theorem modDesc_bytes (s : State) (c seq : Nat) (f : Desc → Desc) : (s.modDesc c seq f).bytes = s.bytes := (rfl)
@[simp] theorem settle_bytes (s : State) (c : Nat) : (s.settle c).bytes = s.bytes := by simp [State.settle]
@[simp] theorem issue_bytes (s : State) (c : Nat) (d : Desc) : (s.issue c d).bytes = s.bytes := by simp [State.issue]
@[simp] theorem issueCompressed_bytes (s : State) (c : Nat) (d : Desc) : (s.issueCompressed c d).bytes = s.bytes := by
  unfold State.issueCompressed
  dsimp only
  split <;> simp
@[simp] theorem dma_bytes (s : State) (c : Nat) (w0 : Word) (w1 : Word) (w2 : Word) (w3 : Word) (w4 : Word) (o : Obs) (k : DKind) :
    (s.dma c w0 w1 w2 w3 w4 o k).bytes = s.bytes := by
  refine dispatch_bytes (fun t => ?_) s c w0 o false false
  extract_lets d u q reason
  have hu : u.bytes = t.bytes := (advance_bytes ..).trans (observe_bytes ..)
  clear_value u reason
  split
  · exact (rejectDesc_bytes ..).trans hu
  · exact ite_bytes_eq ((issueCompressed_bytes ..).trans hu) ((issue_bytes ..).trans hu)
@[simp] theorem execDramRead_bytes (u : State) (c : CoreIx) (w0 : Word) (w1 : Word) (w2 : Word) (w3 : Word) (w4 : Word) (o : Obs) (s : State) :
    (u.thenOn (execDramRead c w0 w1 w2 w3 w4 o s)).bytes = s.bytes := by
  simp [execDramRead]
@[simp] theorem execDramWrite_bytes (u : State) (c : CoreIx) (w0 : Word) (w1 : Word) (w2 : Word) (w3 : Word) (w4 : Word) (o : Obs) (s : State) :
    (u.thenOn (execDramWrite c w0 w1 w2 w3 w4 o s)).bytes = s.bytes := by
  simp [execDramWrite]
@[simp] theorem execCorePush_bytes (u : State) (c : CoreIx) (w0 : Word) (w1 : Word) (w2 : Word) (w3 : Word) (w4 : Word) (o : Obs) (s : State) :
    (u.thenOn (execCorePush c w0 w1 w2 w3 w4 o s)).bytes = s.bytes := by
  simp [execCorePush]
@[simp] theorem execReduceSendExponents_bytes (u : State) (c : CoreIx) (w0 : Word) (w1 : Word) (w2 : Word) (w3 : Word) (w4 : Word) (o : Obs) (s :
    State) : (u.thenOn (execReduceSendExponents c w0 w1 w2 w3 w4 o s)).bytes = s.bytes := by
  simp [execReduceSendExponents]
@[simp] theorem execReduceSendValues_bytes (u : State) (c : CoreIx) (w0 : Word) (w1 : Word) (w2 : Word) (w3 : Word) (w4 : Word) (o : Obs) (s : State)
    : (u.thenOn (execReduceSendValues c w0 w1 w2 w3 w4 o s)).bytes = s.bytes := by
  simp [execReduceSendValues]
@[simp] theorem execDramCopy_bytes (u : State) (c : CoreIx) (w0 : Word) (w1 : Word) (w2 : Word) (w3 : Word) (w4 : Word) (o : Obs) (s : State) :
    (u.thenOn (execDramCopy c w0 w1 w2 w3 w4 o s)).bytes = s.bytes := by
  simp [execDramCopy]
@[simp] theorem execGather_canon (u : State) (c : CoreIx) (w0 : Word) (w1 : Word) (w2 : Word) (o : Obs) (s : State) (hs : canon s.bytes) :
    canon (u.thenOn (execGather c w0 w1 w2 o s)).bytes := by
  unfold execGather; rw [thenOn_next]
  refine dispatch_keeps (fun t ht => ?_) hs ..
  dsimp only
  split
  · simp [ht]
  · refine ite_keeps (by simp [ht]) ?_
    rw [issue_bytes]
    exact foldl_keepsBytes (fun u e hu => ite_keeps (by simp [hu]) hu) _ (by simpa using ht)
@[simp] theorem execMirror_bytes (u : State) (c : CoreIx) (w : Word) (o : Obs) (s : State) : (u.thenOn (execMirror c w o s)).bytes = s.bytes := by
  unfold execMirror
  rw [thenOn_next]
  refine dispatch_bytes (fun t => ?_) s c w o false false
  extract_lets src n ctr u q reason
  have hu : u.bytes = t.bytes := (advance_bytes ..).trans (observe_bytes ..)
  clear_value u reason
  split
  · exact (rejectDesc_bytes ..).trans hu
  · split
    · exact (count_bytes ..).trans hu
    · exact ite_bytes_eq ((count_bytes ..).trans hu) ((issue_bytes ..).trans hu)
@[simp] theorem failSlice_canon (s : State) (c : Nat) (d : Desc) (off : Nat) (len : Nat) (hs : canon s.bytes) : canon (s.failSlice c d off len).bytes :=
  by
  simp [State.failSlice, hs]
@[simp] theorem descFault_bytes (s : State) (c : Nat) (seq : Nat) (e : Ev) (detail : Nat) : (s.descFault c seq e detail).bytes = s.bytes := by
  unfold State.descFault
  split <;> simp
@[simp] theorem accessFault_bytes (s : State) (c : Nat) (seq : Nat) (detail : Nat) : (s.accessFault c seq detail).bytes = s.bytes := by
  simp [State.accessFault]
@[simp] theorem noteReceiver_bytes (s : State) (c : Nat) (k : Pkt) : (s.noteReceiver c k).bytes = s.bytes := by simp [State.noteReceiver]
@[simp] theorem noteSent_bytes (s : State) (c : Nat) (k : Pkt) : (s.noteSent c k).bytes = s.bytes := by simp [State.noteSent]
@[simp] theorem execPacketIssue_canon (u : State) (c : CoreIx) (seq : BitVec 16) (how : Issue) (s : State) (hs : canon s.bytes) :
    canon (u.thenOn (execPacketIssue c seq how s)).bytes := by
  unfold execPacketIssue; rw [thenOn_next]
  have h0 : canon (s.bumpF F.dmaTagStall_cycles c how.cycles).bytes := by simpa using hs
  dsimp only
  split
  · exact h0
  split
  · exact h0
  refine ite_keeps (by simpa using hs) ?_
  split
  · simp [hs]
  split
  · exact h0
  refine ite_keeps h0 ?_
  rw [settle_bytes, noteSent_bytes, inject_bytes, modDesc_bytes, modCore_bytes]
  exact ite_keeps (by simpa using hs) (by simpa using hs)
@[simp] theorem freeTag_bytes (s : State) (c : Nat) (t : TagUse) : (s.freeTag c t).bytes = s.bytes := by simp [State.freeTag]
@[simp] theorem backOff_bytes (s : State) (c : Nat) (cls : Nat) : (s.backOff c cls).bytes = s.bytes := by simp [State.backOff]
@[simp] theorem slowed_bytes (s : State) (c : Nat) (k : Pkt) (t : TagUse) : (s.slowed c k t).bytes = s.bytes := by simp [State.slowed]
@[simp] theorem askResend_bytes (s : State) (k : Pkt) (frm : Nat) : (s.askResend k frm).bytes = s.bytes := by simp [State.askResend]
theorem checked_keeps {P : Memory × Memory → Prop} {go : State → Pkt → Bool → State} (hg : ∀ (t : State) k b, P t.bytes → P (go t k b).bytes)
    {s : State} (hs : P s.bytes) (n : Nat) (k : Pkt) (ok : Bool) : P (s.checked n k ok go).bytes := by
  have hc : P (s.consume (s.seen k)).bytes := hs
  unfold State.checked
  dsimp only
  split_ifs
  · exact hg _ _ _ hc
  · simpa using hc
  · exact hg _ _ _ hc
  · exact hc
@[simp] theorem checked_bytes {go : State → Pkt → Bool → State} (hg : ∀ (t : State) k b, (go t k b).bytes = t.bytes) (s : State) (n : Nat)
    (k : Pkt) (ok : Bool) : (s.checked n k ok go).bytes = s.bytes :=
  checked_keeps (P := (· = s.bytes)) (fun t k b h => (hg t k b).trans h) rfl n k ok
@[simp] theorem isolate_bytes (s : State) (c : Nat) (k : Pkt) : (s.isolate c k).bytes = s.bytes := by simp [State.isolate]
theorem answer_keeps {P : Memory × Memory → Prop} {go : State → Pkt → Bool → TagUse → State}
    (hg : ∀ (t : State) k b u, P t.bytes → P (go t k b u).bytes) {s : State} (hs : P s.bytes) (c : Nat) (k : Pkt) (ok : Bool) :
    P (s.answer c k ok go).bytes := by
  unfold State.answer
  split
  · exact hs
  · refine checked_keeps (fun t k b ht => ?_) hs c k ok
    split
    · simpa using ht
    · split
      · exact ht
      · exact hg _ _ _ _ ht
@[simp] theorem answer_bytes {go : State → Pkt → Bool → TagUse → State} (hg : ∀ (t : State) k b u, (go t k b u).bytes = t.bytes) (s : State)
    (c : Nat) (k : Pkt) (ok : Bool) : (s.answer c k ok go).bytes = s.bytes :=
  answer_keeps (P := (· = s.bytes)) (fun t k b u h => (hg t k b u).trans h) rfl c k ok
@[simp] theorem answered_bytes (s : State) (c : Nat) (t : TagUse) (k : Pkt) : (s.answered c t k).bytes = s.bytes := by simp [State.answered]
@[simp] theorem execAcknowledgement_bytes (u : State) (c : CoreIx) (a : Answer) (s : State) : (u.thenOn (execAcknowledgement c a s)).bytes = s.bytes :=
  by
  simp [execAcknowledgement]
@[simp] theorem execFencedAcknowledgement_bytes (u : State) (c : CoreIx) (a : Answer) (s : State) :
    (u.thenOn (execFencedAcknowledgement c a s)).bytes = s.bytes := by
  simp [execFencedAcknowledgement]
@[simp] theorem execRefusedAcknowledgement_canon (u : State) (c : CoreIx) (a : Answer) (s : State) (hs : canon s.bytes) :
    canon (u.thenOn (execRefusedAcknowledgement c a s)).bytes := by
  unfold execRefusedAcknowledgement; rw [thenOn_next]
  refine answer_keeps (fun t k b u ht => ?_) hs c a.pkt a.ok
  rw [answered_bytes, accessFault_bytes]
  split <;> simp [ht]
@[simp] theorem execResendRequest_bytes (u : State) (n : NodeIx) (a : Answer) (s : State) : (u.thenOn (execResendRequest n a s)).bytes = s.bytes := by
  unfold execResendRequest
  rw [thenOn_next]
  extract_lets k
  split
  · simp
  · simp
@[simp] theorem execTagTimeout_canon (u : State) (c : CoreIx) (tag : TagExpiry) (s : State) (hs : canon s.bytes) :
    canon (u.thenOn (execTagTimeout c tag s)).bytes := by
  unfold execTagTimeout; rw [thenOn_next]
  split
  · exact hs
  · rename_i t _
    have h1 : canon (if tag.lost then s.consume t.pkt else s).bytes := ite_keeps (by simpa using hs) hs
    dsimp only
    rw [freeTag_bytes, descFault_bytes, bumpF_bytes, modCore_bytes]
    split
    · exact failSlice_canon _ _ _ _ _ h1
    · exact h1
@[simp] theorem execRateRecovery_bytes (u : State) (c : CoreIx) (cls : Fin 3) (s : State) : (u.thenOn (execRateRecovery c cls s)).bytes = s.bytes :=
  by
  simp [execRateRecovery]
@[simp] theorem depend_bytes (s : State) (c : Nat) (k : Pkt) : (s.depend c k).bytes = s.bytes := by
  unfold State.depend
  split
  · rfl
  · extract_lets e t q
    have ht : t.bytes = s.bytes := modCore_bytes ..
    clear_value t
    split
    · simpa using ht
    · simp [ht]
@[simp] theorem landBlock_bytes (s : State) (c : Nat) (b : Nat) (unit : Nat) (k : Pkt) (poison : Bool) (bad : Bool) :
    (s.landBlock c b unit k poison bad).bytes = s.bytes := by
  simp [State.landBlock]
@[simp] theorem land_canon (s : State) (c : Nat) (a : Nat) (k : Pkt) (poison : Bool) (fails : Nat) (unit : Nat) (seen : NSet) (hs : canon s.bytes) :
    canon (s.land c a k poison fails unit seen).bytes := by
  simp [State.land, hs]
@[simp] theorem landTag_canon (s : State) (c : Nat) (d : Desc) (t : TagUse) (k : Pkt) (poison : Bool) (fails : Nat) (hs : canon s.bytes) :
    canon (s.landTag c d t k poison fails).bytes := by
  simp [State.landTag, hs]
@[simp] theorem slowReads_bytes (s : State) (c : Nat) (k : Pkt) : (s.slowReads c k).bytes = s.bytes := by simp [State.slowReads]
@[simp] theorem landFor_canon (s : State) (c : Nat) (k : Pkt) (bad : Bool) (fails : Nat) (t : TagUse) (hs : canon s.bytes) :
    canon (s.landFor c k bad fails t).bytes := by
  unfold State.landFor
  split <;> simp [hs]
@[simp] theorem execReadResponse_canon (u : State) (c : CoreIx) (k : Pkt) (ok : Bool) (fails : Nat) (o : Obs) (s : State) (hs : canon s.bytes) :
    canon (u.thenOn (execReadResponse c k ok fails o s)).bytes := by
  unfold execReadResponse; rw [thenOn_next]
  exact answer_keeps (fun t k b u ht => by simp [ht]) hs c k ok
theorem original_keeps {P : Memory × Memory → Prop} {go : State → Pkt → Bool → State} (hg : ∀ (t : State) k b, P t.bytes → P (go t k b).bytes)
    {s : State} (hs : P s.bytes) (c : Nat) (k : Pkt) (ok : Bool) : P (s.original c k ok go).bytes := by
  unfold State.original
  split
  · simpa using hs
  · refine checked_keeps (fun t k b ht => ?_) hs c k ok
    split_ifs
    · simpa using ht
    · simpa using ht
    · simpa using hg _ _ _ ht
@[simp] theorem countIn_bytes (s : State) (c : Nat) (k : Pkt) : (s.countIn c k).bytes = s.bytes := by simp [State.countIn]
@[simp] theorem execCorePushData_canon (u : State) (c : CoreIx) (k : Pkt) (ok : Bool) (fails : Nat) (o : Obs) (s : State) (hs : canon s.bytes) :
    canon (u.thenOn (execCorePushData c k ok fails o s)).bytes := by
  unfold execCorePushData; rw [thenOn_next]
  exact original_keeps (fun t k b ht => by simp [ht]) hs c k ok
@[simp] theorem execMirrorData_canon (u : State) (c : CoreIx) (k : Pkt) (ok : Bool) (o : Obs) (s : State) (hs : canon s.bytes) :
    canon (u.thenOn (execMirrorData c k ok o s)).bytes := by
  unfold execMirrorData; rw [thenOn_next]
  exact original_keeps (fun t k b ht => by simp [ht]) hs c k ok
@[simp] theorem execStreamDelivery_canon (u : State) (c : CoreIx) (k : Pkt) (ok : Bool) (fails : Nat) (o : Obs) (s : State) (hs : canon s.bytes) :
    canon (u.thenOn (execStreamDelivery c k ok fails o s)).bytes := by
  unfold execStreamDelivery; rw [thenOn_next]
  refine ite_keeps (by simp [hs]) (ite_keeps (by simp [hs]) (checked_keeps (fun t k b ht => ?_) hs _ k ok))
  exact ite_keeps (by simp [ht]) (ite_keeps ht (foldl_keepsBytes (fun u x hu => by simp [hu]) _ (by simpa using ht)))
@[simp] theorem putByteRun_canon (s : State) (c : Nat) (byte : Nat) (bs : List Nat) (poison : Bool) (hs : canon s.bytes) :
    canon (s.putByteRun c byte bs poison).bytes := foldl_keepsBytes (fun t a ht => by simp [ht]) _ hs
@[simp] theorem execAgreedBytes_canon (u : State) (c : CoreIx) (k : Pkt) (ok : Bool) (o : Obs) (s : State) (hs : canon s.bytes) :
    canon (u.thenOn (execAgreedBytes c k ok o s)).bytes := by
  unfold execAgreedBytes; rw [thenOn_next]
  exact answer_keeps (fun t k b u ht => by simp [ht]) hs c k ok

/-! ### The functions of Machine/Ledger -/

@[simp] theorem setMeta_bytes (s : State) (b : Nat) (v : BlkMeta) : (s.setMeta b v).bytes = s.bytes := (rfl)
@[simp] theorem ledgerFault_bytes (s : State) (site : Nat) (p : Nat) (e : Ev) (detail : Nat) : (s.ledgerFault site p e detail).bytes = s.bytes :=
  (ledgerFault_space ..).bytes
@[simp] theorem wakeChannel_bytes (s : State) (m : Nat) (ch : Nat) : (s.wakeChannel m ch).bytes = s.bytes := (wakeChannel_space ..).bytes
@[simp] theorem verify_bytes (s : State) (b : Nat) (owner : Nat) (misreads : Nat) : (s.verify b owner misreads).bytes = s.bytes :=
  (verify_space ..).bytes
@[simp] theorem markDirty_bytes (s : State) (site : Nat) (p : Nat) (a : Nat) : (s.markDirty site p a).bytes = s.bytes := by simp [State.markDirty]
@[simp] theorem awaitBuffer_bytes (s : State) (site : Nat) (p : Nat) (a : Nat) : (s.awaitBuffer site p a).bytes = s.bytes :=
  (awaitBuffer_space ..).bytes
@[simp] theorem copyAhead_bytes (s : State) (p : Nat) (a : Nat) (x : Place) : (s.copyAhead p a x).bytes = s.bytes := (copyAhead_space ..).bytes
@[simp] theorem storeDram_canon (s : State) (k : Nat) (n : Nat) (v : Nat) (hs : canon s.bytes) : canon (s.storeDram k n v).bytes :=
  storeDram_memWf s _ _ _ hs
@[simp] theorem putDram_canon (s : State) (p : Nat) (a : Nat) (n : Nat) (v : Nat) (poison : Bool) (hs : canon s.bytes) :
    canon (s.putDram p a n v poison).bytes := putDram_memWf s p a n v poison hs
@[simp] theorem putBlock_canon (s : State) (p : Nat) (a : Nat) (v : Nat) (poison : Bool) (crc : BitVec 32) (hs : canon s.bytes) :
    canon (s.putBlock p a v poison crc).bytes := putBlock_memWf s _ _ _ _ _ hs
@[simp] theorem verifyAll_bytes (s : State) (l : List (Nat × Nat)) (misreads : Nat) : (s.verifyAll l misreads).bytes = s.bytes := by
  simp [State.verifyAll]
@[simp] theorem noteProv_bytes (s : State) (x : Place) (k : Pkt) : (s.noteProv x k).bytes = s.bytes := by simp [State.noteProv]
@[simp] theorem injectAll_bytes (s : State) (l : List Pkt) : (s.injectAll l).bytes = s.bytes := by simp [State.injectAll]
@[simp] theorem refuse_bytes (s : State) (site : Nat) (k : Pkt) (a : Nat) (reason : Nat) : (s.refuse site k a reason).bytes = s.bytes := by
  simp [State.refuse]
theorem takeAt_keeps {P : Memory × Memory → Prop} {f : State → Pkt → State} (hf : ∀ (t : State) k, P t.bytes → P (f t k).bytes)
    {s : State} (hs : P s.bytes) (m : Nat) (k : Pkt) (ok : Bool) : P (s.takeAt m k ok f).bytes :=
  checked_keeps (fun t _ _ => hf t _) hs _ k ok
@[simp] theorem takeAt_bytes {f : State → Pkt → State} (hf : ∀ (t : State) k, (f t k).bytes = t.bytes) (s : State) (m : Nat)
    (k : Pkt) (ok : Bool) : (s.takeAt m k ok f).bytes = s.bytes := checked_bytes (fun t _ _ => hf t _) s _ k ok
@[simp] theorem fetch_bytes (s : State) (k : Pkt) (x : Place) (n : Nat) : (s.fetch k x n).1.bytes = s.bytes := by
  unfold State.fetch
  split
  · rfl
  · refine (modSite_bytes ..).trans ?_
    split
    · rfl
    · exact verify_bytes ..
@[simp] theorem execReadRequest_bytes (u : State) (m : SiteIx) (k : Pkt) (ok : Bool) (misreads : Nat) (s : State) :
    (u.thenOn (execReadRequest m k ok misreads s)).bytes = s.bytes := by
  unfold execReadRequest
  rw [thenOn_next]
  refine takeAt_bytes (fun t k => ?_) s m k ok
  split
  · rename_i x _ _
    have hr : ((t.wakeChannel x.site x.chan).fetch k x misreads).1.bytes = t.bytes := (fetch_bytes ..).trans (wakeChannel_bytes ..)
    refine ite_bytes_eq ((foldl_bytes (fun u w => ?_) _ _).trans hr) ((inject_bytes ..).trans hr)
    split
    · exact inject_bytes ..
    · exact refuse_bytes ..
  · exact refuse_bytes ..
@[simp] theorem closeBlock_canon (s : State) (m : Nat) (l : List Pkt) (k : Pkt) (x : Place) (hs : canon s.bytes) : canon (s.closeBlock m l k x).bytes :=
  by
  simp [State.closeBlock, hs]
@[simp] theorem execWriteData_canon (u : State) (m : SiteIx) (k : Pkt) (ok : Bool) (s : State) (hs : canon s.bytes) :
    canon (u.thenOn (execWriteData m k ok s)).bytes := by
  unfold execWriteData; rw [thenOn_next]
  refine takeAt_keeps (fun t k ht => ?_) hs m k ok
  split
  · split
    · simp [ht]
    · exact ite_keeps (by simp [ht]) (ite_keeps (by simp [ht]) (by simp [ht]))
  · simp [ht]
@[simp] theorem execGatherRequest_bytes (u : State) (m : SiteIx) (k : Pkt) (ok : Bool) (s : State) :
    (u.thenOn (execGatherRequest m k ok s)).bytes = s.bytes := by
  unfold execGatherRequest
  rw [thenOn_next]
  refine takeAt_bytes (fun t k => ?_) s m k ok
  dsimp only
  split
  · exact refuse_bytes ..
  · exact (foldl_bytes (fun u e => inject_bytes ..) _ _).trans (foldl_bytes (fun u x => wakeChannel_bytes ..) _ t)
@[simp] theorem serveStream_bytes (s : State) (m : Nat) (reqs : List Pkt) (x : StreamPkt) (misreads : Nat) :
    (s.serveStream m reqs x misreads).bytes = s.bytes := by
  unfold State.serveStream
  split
  · rfl
  · dsimp only
    split
    · exact foldl_bytes (fun t k => refuse_bytes ..) _ s
    · split <;> simp
@[simp] theorem servePrivate_bytes (s : State) (m : Nat) (reqs : List Pkt) : (s.servePrivate m reqs).bytes = s.bytes := by
  refine foldl_bytes (fun t b => ?_) _ s
  split <;> simp
@[simp] theorem deactivate_bytes (s : State) (m : Nat) (g : Nat) (p : Nat) : (s.deactivate m g p).bytes = s.bytes := by simp [State.deactivate]
@[simp] theorem dropMember_bytes (s : State) (m : Nat) (g : Nat) (p : Nat) : (s.dropMember m g p).bytes = s.bytes := by simp [State.dropMember]
@[simp] theorem joinRead_bytes (s : State) (m : Nat) (k : Pkt) (x : StreamPkt) (more : Bool) (misreads : Nat) :
    (s.joinRead m k x more misreads).bytes = s.bytes := by
  simp [State.joinRead]
@[simp] theorem execStreamReceive_bytes (u : State) (m : SiteIx) (k : Pkt) (ok : Bool) (more : Bool) (misreads : Nat) (s : State) :
    (u.thenOn (execStreamReceive m k ok more misreads s)).bytes = s.bytes := by
  unfold execStreamReceive
  rw [thenOn_next]
  refine takeAt_bytes (fun t k => ?_) s m k ok
  split
  · simp
  · exact ite_bytes_eq (joinRead_bytes ..) ((foldl_bytes (fun x p => dropMember_bytes ..) _ _).trans (modSite_bytes ..))
@[simp] theorem execGroupPacketRead_bytes (u : State) (m : SiteIx) (g : Fin 64) (off : Nat) (misreads : Nat) (s : State) :
    (u.thenOn (execGroupPacketRead m g off misreads s)).bytes = s.bytes := by
  unfold execGroupPacketRead
  rw [thenOn_next]
  extract_lets at_ mine
  split
  · rfl
  · refine ite_bytes_eq rfl ?_
    split
    · exact modSite_bytes ..
    · split
      · exact (foldl_bytes (fun t k => refuse_bytes ..) _ _).trans (modSite_bytes ..)
      · exact (serveStream_bytes ..).trans (modSite_bytes ..)
@[simp] theorem execGroupWaitExpiry_bytes (u : State) (m : SiteIx) (g : Fin 64) (off : Nat) (s : State) :
    (u.thenOn (execGroupWaitExpiry m g off s)).bytes = s.bytes := by
  unfold execGroupWaitExpiry
  dsimp only
  split <;> simp
@[simp] theorem execGroupDrop_bytes (u : State) (m : SiteIx) (c : Ctl) (s : State) : (u.thenOn (execGroupDrop m c s)).bytes = s.bytes := by
  unfold execGroupDrop
  split <;> simp
@[simp] theorem execRefresh_bytes (u : State) (m : SiteIx) (ch : Fin 32) (hot : Bool) (s : State) :
    (u.thenOn (execRefresh m ch hot s)).bytes = s.bytes := by
  simp [execRefresh]
@[simp] theorem execSelfRefreshEntry_bytes (u : State) (m : SiteIx) (ch : Fin 32) (s : State) :
    (u.thenOn (execSelfRefreshEntry m ch s)).bytes = s.bytes := by
  simp [execSelfRefreshEntry]
@[simp] theorem execTestSlice_bytes (u : State) (m : SiteIx) (ch : Fin 32) (repaired : Nat) (unrepairable : Bool) (misreads : List Nat) (s : State) :
    (u.thenOn (execTestSlice m ch repaired unrepairable misreads s)).bytes = s.bytes := by
  simp [execTestSlice]

/-! ### The functions of Machine/Link -/

@[simp] theorem setConn_bytes (s : State) (c : Conn) : (s.setConn c).bytes = s.bytes := by
  unfold State.setConn
  split <;> rfl
@[simp] theorem sendOn_bytes (s : State) (c : Conn) (f : KlFrame) : (s.sendOn c f).bytes = s.bytes := by simp [State.sendOn]
@[simp] theorem klSend_bytes (s : State) (p k : Nat) (b : KlBody) (x y : Bool) : ((s.klSend p k b x y).getD s).bytes = s.bytes := by
  unfold State.klSend
  cases s.route p k <;> simp
@[simp] theorem toPeers_bytes (s : State) (p : Nat) (body : KlBody) (poison : Bool) : (s.toPeers p body poison).bytes = s.bytes := by
  simp [State.toPeers]
@[simp] theorem takeFrame_bytes (s : State) (f : KlFrame) : (s.takeFrame f).bytes = s.bytes := by simp [State.takeFrame]

/-! ### The functions of Machine/Reduction -/

@[simp] theorem setRed_bytes (s : State) (m : Nat) (r : RedBlk) : (s.setRed m r).bytes = s.bytes := by simp [State.setRed]
@[simp] theorem putArea_canon (s : State) (p : Nat) (a : Nat) (n : Nat) (v : Nat) (hs : canon s.bytes) : canon (s.putArea p a n v).bytes := by
  unfold State.putArea
  split <;> simp [hs]
@[simp] theorem showBlk_canon (s : State) (p : Nat) (st : Stream) (r : RedBlk) (hs : canon s.bytes) : canon (s.showBlk p st r).bytes := by
  unfold State.showBlk
  refine putArea_canon _ _ _ _ _ (ite_keeps (foldl_keepsBytes (fun t a ht => ?_) _ hs) (ite_keeps hs (ite_keeps ?_ ?_))) <;> simp [*]
@[simp] theorem keepBlk_canon (s : State) (m : Nat) (p : Nat) (st : Stream) (r : RedBlk) (hs : canon s.bytes) : canon (s.keepBlk m p st r).bytes := by
  simp [State.keepBlk, hs]
@[simp] theorem refuseRed_bytes (s : State) (m : Nat) (k : Pkt) (h : RedHdr) (reason : Nat) : (s.refuseRed m k h reason).bytes = s.bytes := by
  simp [State.refuseRed]
theorem takeRed_keeps {P : Memory × Memory → Prop} {f : State → Pkt → RedHdr → Stream → State}
    (hf : ∀ (t : State) k h x, P t.bytes → P (f t k h x).bytes) {s : State} (hs : P s.bytes) (m : Nat) (k : Pkt) (ok : Bool) :
    P (s.takeRed m k ok f).bytes := by
  refine takeAt_keeps (fun t k ht => ?_) hs m k ok
  split
  · simpa using ht
  · split
    · exact ite_keeps (by simpa using ht) (hf _ _ _ _ ht)
    · simpa using ht
@[simp] theorem giveBytes_bytes (s : State) (m p i : Nat) (st : Stream) (b : Nat) : (s.giveBytes m p i st b).bytes = s.bytes := by
  unfold State.giveBytes
  refine foldl_bytes (fun t k => ?_) _ s
  dsimp only
  split <;> simp
@[simp] theorem sendMax_bytes (s : State) (p : Nat) (i : Nat) (st : Stream) (r : RedBlk) : (s.sendMax p i st r).bytes = s.bytes := by
  simp [State.sendMax]
@[simp] theorem execExponentContribution_canon (u : State) (m : SiteIx) (k : Pkt) (ok : Bool) (s : State) (hs : canon s.bytes) :
    canon (u.thenOn (execExponentContribution m k ok s)).bytes := by
  unfold execExponentContribution; rw [thenOn_next]
  refine takeRed_keeps (fun t k h st ht => ?_) hs m k ok
  exact foldl_keepsBytes (fun u b hu => by simp [hu]) _ (foldl_keepsBytes (fun u e hu => by simp [hu]) _ ht)
@[simp] theorem ackClosed_bytes (s : State) (m p i : Nat) (st : Stream) (b : Nat) : (s.ackClosed m p i st b).bytes = s.bytes := by
  unfold State.ackClosed
  refine foldl_bytes (fun t k => ?_) _ s
  dsimp only
  split <;> simp
@[simp] theorem sendSum_bytes (s : State) (p : Nat) (i : Nat) (st : Stream) (r : RedBlk) : (s.sendSum p i st r).bytes = s.bytes := by
  unfold State.sendSum
  dsimp only
  split <;> simp
@[simp] theorem resumTensor_bytes (s : State) (m : Nat) (p : Nat) (i : Nat) (st : Stream) (b : Nat) : (s.resumTensor m p i st b).bytes = s.bytes := by
  simp [State.resumTensor]
@[simp] theorem tryClose_canon (s : State) (m : Nat) (p : Nat) (i : Nat) (st : Stream) (b : Nat) (hs : canon s.bytes) :
    canon (s.tryClose m p i st b).bytes := by
  simp [State.tryClose, hs]
@[simp] theorem askRaw_bytes (s : State) (m : Nat) (p : Nat) (i : Nat) (b : Nat) (core : Nat) : (s.askRaw m p i b core).bytes = s.bytes := by
  simp [State.askRaw]
@[simp] theorem reopenBlk_canon (s : State) (m : Nat) (p : Nat) (i : Nat) (st : Stream) (b : Nat) (hs : canon s.bytes) :
    canon (s.reopenBlk m p i st b).bytes := by
  simp [State.reopenBlk, hs]
@[simp] theorem extendReopen_canon (s : State) (m : Nat) (p : Nat) (i : Nat) (st : Stream) (b : Nat) (byte : Nat) (hs : canon s.bytes) :
    canon (s.extendReopen m p i st b byte).bytes := by
  simp [State.extendReopen, hs]
@[simp] theorem execContribution_canon (u : State) (m : SiteIx) (k : Pkt) (ok : Bool) (s : State) (hs : canon s.bytes) :
    canon (u.thenOn (execContribution m k ok s)).bytes := by
  unfold execContribution; rw [thenOn_next]
  refine takeRed_keeps (fun t k h st ht => ?_) hs m k ok
  refine foldl_keepsBytes (fun u b hu => by simp [hu]) _ (foldl_keepsBytes (fun u b hu => by simp [hu]) _ (foldl_keepsBytes (fun u e hu => ?_) _ ht))
  exact ite_keeps (by simp [hu]) (ite_keeps (by simp [hu]) (by simp [hu]))
@[simp] theorem execTreeContribution_canon (u : State) (m : SiteIx) (k : Pkt) (ok : Bool) (s : State) (hs : canon s.bytes) :
    canon (u.thenOn (execTreeContribution m k ok s)).bytes := by
  unfold execTreeContribution; rw [thenOn_next]
  refine takeRed_keeps (fun t k h st ht => ?_) hs m k ok
  exact foldl_keepsBytes (fun u b hu => by simp [hu]) _ (foldl_keepsBytes (fun u e hu => by simp [hu]) _ ht)
@[simp] theorem execRetraction_canon (u : State) (m : SiteIx) (k : Pkt) (ok : Bool) (s : State) (hs : canon s.bytes) :
    canon (u.thenOn (execRetraction m k ok s)).bytes := by
  unfold execRetraction; rw [thenOn_next]
  refine takeRed_keeps (fun t k h st ht => ?_) hs m k ok
  rw [injectAll_bytes]
  refine foldl_keepsBytes (fun u e hu => ?_) _ (by simpa using ht)
  extract_lets r had q old again r' lacks u1 u2
  have h2 : canon u2.bytes := ite_keeps (by simp [u1, hu]) (by simp [u1, hu])
  exact ite_keeps (by simp [h2]) h2
@[simp] theorem execRawResend_canon (u : State) (m : SiteIx) (k : Pkt) (ok : Bool) (s : State) (hs : canon s.bytes) :
    canon (u.thenOn (execRawResend m k ok s)).bytes := by
  unfold execRawResend; rw [thenOn_next]
  refine takeRed_keeps (fun t k h st ht => ?_) hs m k ok
  refine ite_keeps (by simpa using ht) (ite_keeps (by simpa using ht) ?_)
  have hk : ∀ r, canon ((t.inject (pktAnswer k .ack (siteNode m))).keepBlk m k.part st r).bytes := fun r => keepBlk_canon _ _ _ _ _ ht
  refine tryClose_canon _ _ _ _ _ _ ?_
  rw [giveBytes_bytes]
  exact ite_keeps (by rw [toPeers_bytes]; exact hk _) (hk _)
@[simp] theorem execResendRaw_bytes (u : State) (c : CoreIx) (ask : RawAsk) (s : State) : (u.thenOn (execResendRaw c ask s)).bytes = s.bytes := by
  unfold execResendRaw
  rw [thenOn_next]
  refine ite_bytes_eq (takeCtl_bytes (fun _ => rfl) ..) ?_
  split
  · dsimp only
    split
    · split
      · exact ite_bytes_eq (bumpF_bytes ..) (by simp)
      · exact bumpF_bytes ..
    · exact (takeCtl_bytes (fun _ => rfl) ..).trans (bumpF_bytes ..)
  · rfl
@[simp] theorem homeToken_canon (s : State) (m : Nat) (p : Nat) (core : Nat) (epoch : Nat) (pass : Bool) (hs : canon s.bytes) :
    canon (s.homeToken m p core epoch pass).bytes := by
  unfold State.homeToken
  refine ite_keeps (by simp [hs]) (foldl_keepsBytes (fun t a ht => ?_) _ (by simp [hs]))
  dsimp only
  split <;> simp [ht]
@[simp] theorem execExpMax_canon (u : State) (f : KlFrame) (s : State) (hs : canon s.bytes) : canon (u.thenOn (execExpMax f s)).bytes := by
  unfold execExpMax; rw [thenOn_next]
  dsimp only
  split
  · split
    · simpa using hs
    · exact foldl_keepsBytes (fun t e ht => ite_keeps (by simp [ht]) (by simp [ht])) _ (by simpa using hs)
  · simpa using hs
@[simp] theorem execModuleSum_canon (u : State) (f : KlFrame) (s : State) (hs : canon s.bytes) : canon (u.thenOn (execModuleSum f s)).bytes := by
  unfold execModuleSum; rw [thenOn_next]
  dsimp only
  split
  · split <;> simp [hs]
  · simpa using hs
@[simp] theorem ackWaiting_bytes (s : State) (m : Nat) (l : List RedBlk) : (s.ackWaiting m l).bytes = s.bytes := by simp [State.ackWaiting]
@[simp] theorem discardSums_canon (s : State) (p : Nat) (hs : canon s.bytes) : canon (s.discardSums p).bytes := by
  refine foldl_keepsBytes (fun t m ht => ?_) _ hs
  simp only [modSite_bytes]
  refine foldl_keepsBytes (fun u r hu => ?_) _ (by simp [ht])
  split <;> simp [hu]

/-! ### The functions of Machine/Update -/

@[simp] theorem readRec_bytes (s : State) (p : Nat) (g : Nat) : (s.readRec p g).bytes = s.bytes := by
  unfold State.readRec
  split <;> simp
@[simp] theorem engineWrite_canon (s : State) (p : Nat) (a : Nat) (n : Nat) (v : Nat) (hs : canon s.bytes) : canon (s.engineWrite p a n v).bytes :=
  putDram_memWf s p a n v false hs
@[simp] theorem seal_bytes (s : State) (p : Nat) (a : Nat) (n : Nat) (out : List Nat) : (s.seal p a n out).bytes = s.bytes := by
  refine foldl_bytes (fun t b => ?_) _ s
  split <;> simp
@[simp] theorem storeSr_canon (s : State) (p a : Nat) (f : Fmt) (t x i : Nat) (v : Val) (h : canon s.bytes) :
    canon (s.storeSr p a f t x i v).1.bytes := by simp [State.storeSr, h]
theorem storeOpt_keeps {P : Memory × Memory → Prop} {f : State → Val → State × Flags} (hf : ∀ (t : State) v, P t.bytes → P (f t v).1.bytes)
    {r : State × Flags} (hr : P r.1.bytes) (v : Option Val) : P (State.storeOpt r v f).1.bytes := by
  cases v with
  | none => exact hr
  | some x => exact hf _ _ hr
@[simp] theorem updateStream_canon (s : State) (p : Nat) (g : UpdGroup) (rc : GroupRec) (i : Nat) (st : Stream) (hs : canon s.bytes) :
    canon (s.updateStream p g rc i st).bytes := by
  unfold State.updateStream
  extract_lets _ _ grad c1 c2 prog cols kept fac s1 put s2
  have h1 : canon s1.bytes := by
    refine foldl_keepsBytes (fun t e ht => ite_keeps ht ?_) _ hs
    rw [orUpdFlags_bytes]
    refine storeOpt_keeps (fun u v hu => ?_) (storeOpt_keeps (fun u v hu => storeSr_canon _ _ _ _ _ _ _ _ hu)
      (storeOpt_keeps (fun u v hu => storeSr_canon _ _ _ _ _ _ _ _ hu) ht _) _) _
    split
    · exact engineWrite_canon _ _ _ _ _ hu
    · exact storeSr_canon _ _ _ _ _ _ _ _ hu
  have hp (t : State) (a : Nat) (l : List FV) (g : Nat → Nat) (ht : canon t.bytes) : canon (put t a l g).bytes :=
    foldl_keepsBytes (fun t e ht => ite_keeps ht (by rw [orUpdFlags_bytes]; exact storeSr_canon _ _ _ _ _ _ _ _ ht)) _ ht
  clear_value s1 put
  have h2 : canon s2.bytes := ite_keeps (hp _ _ _ _ (hp _ _ _ _ h1)) h1
  exact foldl_keepsBytes (fun t x ht => by rwa [seal_bytes]) _ h2
@[simp] theorem openBlocks_canon (s : State) (p : Nat) (g : Nat) (hs : canon s.bytes) : canon (s.openBlocks p g).bytes := by
  refine foldl_keepsBytes (fun t m ht => ?_) _ hs
  simp only [modSite_bytes]
  refine foldl_keepsBytes (fun u r hu => ?_) _ (by simp [ht])
  split <;> simp [hu]
@[simp] theorem resolveGroup_canon (s : State) (p : Nat) (g : Nat) (verdict : Nat) (row0 : Nat) (hs : canon s.bytes) :
    canon (s.resolveGroup p g verdict row0).bytes := by
  unfold State.resolveGroup
  split
  · exact hs
  · extract_lets s1 rc0 rc sites commit sts s1' s2 clean full n s3 s4 s5 s6
    have h1 : canon s1.bytes := by rwa [readRec_bytes]
    have h2 : canon s2.bytes := ite_keeps (foldl_keepsBytes (fun t e ht => updateStream_canon _ _ _ _ _ _ ht) _
      (foldl_keepsBytes (fun t e ht => foldl_keepsBytes (fun u x hu => by rwa [verifyAll_bytes]) _ ht) _ h1)) h1
    have h4 : canon s4.bytes := foldl_keepsBytes (fun t m ht => by simpa using ht) _ (openBlocks_canon _ _ _ h2)
    have h6 : canon s6.bytes := by rw [setReg_bytes]; exact engineWrite_canon _ _ _ _ _ h4
    split
    · rwa [policy_bytes, raise_bytes]
    · rwa [raise_bytes]
    · exact h6
@[simp] theorem endIncomplete_canon (s : State) (p : Nat) (hs : canon s.bytes) :
    canon (s.endIncomplete p).bytes := foldl_keepsBytes (fun t g ht => ite_keeps (by simp [ht]) ht) _ (by simp [hs])
@[simp] theorem retireEngine_bytes (s : State) (m : Nat) : (s.retireEngine m).bytes = s.bytes := by
  unfold State.retireEngine
  dsimp only
  split <;> simp

/-! ### The functions of Machine/Barrier -/

@[simp] theorem choosePlan_bytes (s : State) (p : Nat) : (s.choosePlan p).1.bytes = s.bytes := by
  simp [State.choosePlan, apply_ite Prod.fst]
@[simp] theorem loadPlan_bytes (s : State) (p : Nat) (n : Nat) (uniform : Bool) : (s.loadPlan p n uniform).bytes = s.bytes := by
  unfold State.loadPlan
  extract_lets t
  split
  · exact (modPart_bytes ..).trans (setB_bytes ..)
  · exact setB_bytes ..
@[simp] theorem boundary_bytes (s : State) (p : Nat) (n : Nat) : (s.boundary p n).bytes = s.bytes := by simp [State.boundary]
@[simp] theorem loadHomes_bytes (s : State) (p : Nat) : (s.loadHomes p).bytes = s.bytes := by simp [State.loadHomes]
@[simp] theorem zeroCounts_bytes (s : State) (c : Nat) : (s.zeroCounts c).bytes = s.bytes := by simp [State.zeroCounts]
@[simp] theorem restoreBoundary_bytes (s : State) (c : Nat) (b : Boundary) : (s.restoreBoundary c b).bytes = s.bytes := by
  simp [State.restoreBoundary]
@[simp] theorem freshMicroStep_bytes (s : State) (c : Nat) : (s.freshMicroStep c).bytes = s.bytes := by
  unfold State.freshMicroStep
  simp only [modCore_bytes, setB_bytes, setF_bytes, zeroCounts_bytes]
@[simp] theorem mirrorCommit_canon (s : State) (p : Nat) (c : Nat) (hs : canon s.bytes) : canon (s.mirrorCommit p c).bytes := by
  simp [State.mirrorCommit, hs]
@[simp] theorem formVerdict_bytes (s : State) (p : Nat) (g : Nat) : (s.formVerdict p g).bytes = s.bytes := by simp [State.formVerdict]
@[simp] theorem takeReadOut_bytes (s : State) (o : OrderSt) : (s.takeReadOut o).bytes = s.bytes := by simp [State.takeReadOut]
@[simp] theorem enterPause_bytes (s : State) (p : Nat) : (s.enterPause p).bytes = s.bytes := by
  unfold State.enterPause
  dsimp only
  split <;> simp
@[simp] theorem creditTokens_bytes (s : State) (p : Nat) (g : Nat) : (s.creditTokens p g).bytes = s.bytes := by simp [State.creditTokens]
@[simp] theorem release_bytes (s : State) (p : Nat) : (s.release p).bytes = s.bytes := by simp [State.release]
@[simp] theorem tryRelease_bytes (s : State) (p : Nat) : (s.tryRelease p).bytes = s.bytes := by
  unfold State.tryRelease
  dsimp only
  split <;> simp
@[simp] theorem allArrived_bytes (s : State) (p : Nat) : (s.allArrived p).bytes = s.bytes := by
  unfold State.allArrived
  split <;> simp
@[simp] theorem execBarArrive_bytes (u : State) (p : PartIx) (msgs : List Ctl) (nodes : List CoreIx) (moves : List (CoreIx × Bool)) (s : State) :
    (u.thenOn (execBarArrive p msgs nodes moves s)).bytes = s.bytes := by
  unfold execBarArrive
  rw [thenOn_next]
  extract_lets t v
  have hv : v.bytes = s.bytes := (modPart_bytes ..).trans (foldl_bytes (fun x y => bumpF_bytes ..) _ s)
  refine (foldl_bytes (fun x m => takeCtl_bytes (fun y => ?_) x m) _ v).trans hv
  split
  · simp
  · exact ite_bytes_eq (modPart_bytes ..) ((foldl_bytes (fun z c => send_bytes ..) _ _).trans (modPart_bytes ..))
  · rfl
@[simp] theorem execBarRelease_canon (u : State) (c : CoreIx) (m : Ctl) (s : State) (hs : canon s.bytes) :
    canon (u.thenOn (execBarRelease c m s)).bytes := by
  unfold execBarRelease; rw [thenOn_next]
  refine takeCtl_keeps (fun t ht => ite_keeps ht ?_) hs m
  split
  · simp [ht]
  · simp [ht]
  · exact ht
@[simp] theorem execGroupResolved_canon (u : State) (p : PartIx) (g : BitVec 12) (retired : List SiteIx) (s : State) (hs : canon s.bytes) :
    canon (u.thenOn (execGroupResolved p g retired s)).bytes := by
  unfold execGroupResolved
  split <;> simp [hs]
@[simp] theorem execPrepared_bytes (u : State) (f : KlFrame) (s : State) : (u.thenOn (execPrepared f s)).bytes = s.bytes := by
  unfold execPrepared
  dsimp only
  split <;> simp
@[simp] theorem forwardToken_bytes (s : State) (p : Nat) (edge : Nat) (core : Nat) (epoch : Nat) (pass : Bool) (retract : Bool) :
    (s.forwardToken p edge core epoch pass retract).bytes = s.bytes := by
  simp [State.forwardToken]
@[simp] theorem execProofToken_canon (u : State) (m : Ctl) (s : State) (hs : canon s.bytes) : canon (u.thenOn (execProofToken m s)).bytes := by
  unfold execProofToken; rw [thenOn_next]
  refine takeCtl_keeps (fun t ht => ?_) hs m
  split
  · exact ite_keeps (by simp [ht]) (ite_keeps (by simp [ht]) (ite_keeps (by simp [ht]) (ite_keeps (by simp [ht]) ht)))
  · exact ht
@[simp] theorem execRetractToken_canon (u : State) (m : Ctl) (s : State) (hs : canon s.bytes) : canon (u.thenOn (execRetractToken m s)).bytes := by
  unfold execRetractToken; rw [thenOn_next]
  refine takeCtl_keeps (fun t ht => ?_) hs m
  split
  · exact ite_keeps (by simp [ht]) (by simp [ht])
  · exact ht
@[simp] theorem execHold_canon (u : State) (p : PartIx) (m : Ctl) (s : State) (hs : canon s.bytes) : canon (u.thenOn (execHold p m s)).bytes := by
  unfold execHold; rw [thenOn_next]
  refine takeCtl_keeps (fun t ht => ?_) hs m
  split <;> simp [ht]
@[simp] theorem execAliasUpdate_bytes (u : State) (c : CoreIx) (m : Ctl) (s : State) : (u.thenOn (execAliasUpdate c m s)).bytes = s.bytes := by
  unfold execAliasUpdate
  dsimp only
  split <;> simp
@[simp] theorem endRun_canon (s : State) (p : Nat) (code : Nat) (discard : Bool) (hs : canon s.bytes) : canon (s.endRun p code discard).bytes := by
  simp [State.endRun, hs]
@[simp] theorem execEnd_canon (u : State) (c : CoreIx) (w : Word) (o : Obs) (s : State) (hs : canon s.bytes) :
    canon (u.thenOn (execEnd c w o s)).bytes := by
  unfold execEnd; rw [thenOn_next]
  refine dispatch_keeps (fun t ht => ite_keeps (by simp [ht]) (ite_keeps (by simp [ht]) ?_)) hs ..
  dsimp only
  split
  · simp [ht]
  · exact ite_keeps (by simp [ht]) (by simp [ht])

/-! ### The functions of Machine/Notify -/

@[simp] theorem touch_bytes (s : State) (path : Path) : (s.touch path).bytes = s.bytes := by simp [State.touch]
theorem ifAdmitted_keeps {P : Memory × Memory → Prop} {f : State → State} (hf : ∀ t : State, P t.bytes → P (f t).bytes) {s : State}
    (hs : P s.bytes) (path : Path) : P (s.ifAdmitted path f).bytes := by
  unfold State.ifAdmitted
  split
  · exact hf _ hs
  · exact hs
@[simp] theorem ifAdmitted_bytes {f : State → State} (hf : ∀ t : State, (f t).bytes = t.bytes) (s : State) (path : Path) :
    (s.ifAdmitted path f).bytes = s.bytes := ifAdmitted_keeps (P := (· = s.bytes)) (fun t h => (hf t).trans h) rfl path
@[simp] theorem judgeClass_bytes (s : State) (k : Nat) (c : Nat) : (s.judgeClass k c).bytes = s.bytes := by simp [State.judgeClass]
@[simp] theorem notices_bytes (s : State) : s.notices.bytes = s.bytes := by
  unfold State.notices
  extract_lets from_ n t
  refine (modEvc_bytes ..).trans (foldl_bytes (fun u k => ite_bytes_eq (foldl_bytes (fun v i => ?_) _ u) rfl) _ s)
  split
  · exact emit_bytes ..
  · rfl
@[simp] theorem deliver_bytes (s : State) (k : Nat) : (s.deliver k).bytes = s.bytes := by simp [State.deliver]
@[simp] theorem occur_bytes (s : State) (k : Nat) (c : Nat) : (s.occur k c).bytes = s.bytes := by simp [State.occur]
@[simp] theorem countEvent_bytes (s : State) (k : Nat) (n : Nat) : (s.countEvent k n).bytes = s.bytes := by simp [State.countEvent]
@[simp] theorem evArrive_bytes (s : State) (k : Nat) (e : EvRec) : (s.evArrive k e).bytes = s.bytes := by simp [State.evArrive]
@[simp] theorem execEventRecord_bytes (u : State) (k : CtrlIx) (e : EvRec) (s : State) : (u.thenOn (execEventRecord k e s)).bytes = s.bytes := by
  simp [execEventRecord]
@[simp] theorem execCoalesceTimerExpiry_bytes (u : State) (k : CtrlIx) (cls : Fin 16) (s : State) :
    (u.thenOn (execCoalesceTimerExpiry k cls s)).bytes = s.bytes := by
  simp [execCoalesceTimerExpiry]
@[simp] theorem execEvtCompleteWrite_bytes (u : State) (path : Path) (v : BitVec 32) (s : State) :
    (u.thenOn (execEvtCompleteWrite path v s)).bytes = s.bytes := by
  simp [execEvtCompleteWrite]
@[simp] theorem execEvtCommitWrite_bytes (u : State) (path : Path) (v : BitVec 32) (s : State) :
    (u.thenOn (execEvtCommitWrite path v s)).bytes = s.bytes := by
  simp [execEvtCommitWrite]
@[simp] theorem execEvtRqHeadWrite_bytes (u : State) (path : Path) (v : BitVec 32) (s : State) :
    (u.thenOn (execEvtRqHeadWrite path v s)).bytes = s.bytes := by
  simp [execEvtRqHeadWrite]
@[simp] theorem execEvtCtrlWrite_bytes (u : State) (path : Path) (v : BitVec 32) (s : State) : (u.thenOn (execEvtCtrlWrite path v s)).bytes = s.bytes :=
  by
  simp [execEvtCtrlWrite]
@[simp] theorem execEvtEventEnableWrite_bytes (u : State) (path : Path) (n : Fin 512) (v : BitVec 32) (s : State) :
    (u.thenOn (execEvtEventEnableWrite path n v s)).bytes = s.bytes := by
  simp [execEvtEventEnableWrite]

/-! ### The functions of Machine/Recovery -/

@[simp] theorem sendAlias_bytes (s : State) (p : Nat) (e : Nat) (new : Nat) : (s.sendAlias p e new).bytes = s.bytes := by simp [State.sendAlias]
@[simp] theorem showStandbys_bytes (s : State) (p : Nat) : (s.showStandbys p).bytes = s.bytes := by simp [State.showStandbys]
@[simp] theorem aliasSwitch_bytes (s : State) (p : Nat) (n : Nat) (sb : Nat × Nat) : (s.aliasSwitch p n sb).bytes = s.bytes := by
  simp [State.aliasSwitch]
@[simp] theorem returnStandby_bytes (s : State) (p : Nat) (c : Nat) : (s.returnStandby p c).bytes = s.bytes := by
  unfold State.returnStandby
  refine ite_bytes_eq rfl ?_
  split
  · simp
  · rfl
@[simp] theorem quiet_bytes (s : State) (c : Nat) : (s.quiet c).bytes = s.bytes := by simp [State.quiet]
@[simp] theorem faultedHold_canon (s : State) (p : Nat) (hs : canon s.bytes) : canon (s.faultedHold p).bytes := by simp [State.faultedHold, hs]
@[simp] theorem stepReplay_canon (s : State) (p : Nat) (hs : canon s.bytes) : canon (s.stepReplay p).bytes := by simp [State.stepReplay, hs]
@[simp] theorem chargeRetry_bytes (s : State) (p : Nat) (r : Recovery) (rep : Bool) (unit : Nat) : (s.chargeRetry p r rep unit).bytes = s.bytes := by
  unfold State.chargeRetry
  extract_lets is
  repeat' split
  all_goals simp
@[simp] theorem returnCore_bytes (s : State) (p : Nat) (r : Recovery) : (s.returnCore p r).bytes = s.bytes := by simp [State.returnCore]
@[simp] theorem execFaultRetryDone_bytes (u : State) (p : PartIx) (repeats : Bool) (digest : BitVec 32) (unit : BitVec 16) (s : State) :
    (u.thenOn (execFaultRetryDone p repeats digest unit s)).bytes = s.bytes := by
  unfold execFaultRetryDone
  dsimp only
  split <;> simp
@[simp] theorem retract_bytes (s : State) (p : Nat) (m : Nat × Nat × Nat) : (s.retract p m).bytes = s.bytes := by
  unfold State.retract
  extract_lets c t ds
  refine (foldl_bytes (fun x d => foldl_bytes (fun u e => ?_) _ x) _ t).trans (modCore_bytes ..)
  split
  · refine ite_bytes_eq rfl ?_
    split
    · rfl
    · exact (inject_bytes ..).trans ((send_bytes ..).trans (modCore_bytes ..))
  · rfl
@[simp] theorem retractFor_bytes (s : State) (p : Nat) (m : Nat × Nat × Nat) : (s.retractFor p m).bytes = s.bytes := by simp [State.retractFor]
@[simp] theorem recoverForeign_bytes (s : State) (p : Nat) (core : Nat) (epoch : Nat) : (s.recoverForeign p core epoch).bytes = s.bytes := by
  simp [State.recoverForeign]
@[simp] theorem switchIn_bytes (s : State) (p : Nat) (r : Recovery) (sb : Nat × Nat) : (s.switchIn p r sb).bytes = s.bytes := by simp [State.switchIn]
@[simp] theorem afterDrain_canon (s : State) (p : Nat) (l : List Recovery) (hs : canon s.bytes) : canon (s.afterDrain p l).bytes := by
  simp [State.afterDrain, hs]
@[simp] theorem execRecoveryDrainDone_canon (u : State) (p : PartIx) (s : State) (hs : canon s.bytes) :
    canon (u.thenOn (execRecoveryDrainDone p s)).bytes := by
  simp [execRecoveryDrainDone, hs]
/-- Copying rows from a mirror keeps the canonical form. -/
@[simp] theorem loadMirror_canon (s : State) (p n c : Nat) (hs : canon s.bytes) : canon (s.loadMirror p n c).1.bytes := by
  unfold State.loadMirror
  split
  · exact foldl_keepsBytes (fun t i ht => putRow_canon _ _ _ _ _ ht) _ hs
  · exact hs
@[simp] theorem startReplay_bytes (s : State) (p : Nat) (m : Nat × Nat) : (s.startReplay p m).bytes = s.bytes := by
  unfold State.startReplay
  dsimp only
  split <;> simp
@[simp] theorem resendTo_bytes (s : State) (p : Nat) (set : List (Nat × Nat)) : (s.resendTo p set).bytes = s.bytes := by
  refine foldl_bytes (fun t n => ite_bytes_eq rfl ?_) _ s
  split
  · rfl
  · exact foldl_bytes (fun u d => modCore_bytes ..) _ t
/-- Restoring mirrors keeps the canonical form along a list of cores. -/
theorem foldl_loadMirror_canon (l : List Nat) (p : Nat) (b : Nat → Bool → Bool → Bool) {a : State × Bool}
    (hs : canon a.1.bytes) :
    canon (l.foldl (fun (a : State × Bool) (n : Nat) => match a.1.physOf p n with
          | some c => ((a.1.loadMirror p n c).1, b n a.2 (a.1.loadMirror p n c).2)
          | none => a) a).1.bytes := by
  induction l generalizing a with
  | nil => exact hs
  | cons n l ih =>
    refine ih ?_
    dsimp only
    split
    · exact loadMirror_canon _ _ _ _ hs
    · exact hs
theorem execMirrorRestoreDone_canon (u : State) (p : PartIx) (s : State) (hs : canon s.bytes) :
    canon (u.thenOn (execMirrorRestoreDone p s)).bytes := by
  unfold execMirrorRestoreDone; rw [thenOn_next]
  split
  · exact hs
  · rename_i r _
    refine ite_keeps hs ?_
    have ht := foldl_loadMirror_canon (r.replay.map (·.1) ++ (s.part p).moved.filter (fun n => r.replay.all (fun m => m.1 ≠ n))) p
      (fun n x y => x && (y || !(s.part p).moved.contains n)) (a := (s, true)) hs
    dsimp only
    refine ite_keeps (faultedHold_canon _ _ hs) ?_
    rw [tryRelease_bytes]
    refine foldl_keepsBytes (fun v c hv => ite_keeps (by rwa [setF_bytes]) hv) _ ?_
    rw [modPart_bytes, resendTo_bytes]
    exact foldl_keepsBytes (fun v n hv => by simpa using hv) _ (ite_keeps ht (by rwa [setF_bytes]))
@[simp] theorem execHealthDecay_bytes (u : State) (unit : BitVec 16) (s : State) : (u.thenOn (execHealthDecay unit s)).bytes = s.bytes := by
  simp [execHealthDecay]
@[simp] theorem execHealthCleared_bytes (u : State) (path : Path) (v : BitVec 32) (s : State) :
    (u.thenOn (execHealthCleared path v s)).bytes = s.bytes := by
  unfold execHealthCleared
  rw [thenOn_next]
  refine ifAdmitted_bytes (fun t => ite_bytes_eq rfl ((rebuild_bytes _).trans ?_)) s path
  dsimp only
  split
  · exact ite_bytes_eq ((applyCore_bytes ..).trans (by simp)) (by simp)
  · simp
  · exact ite_bytes_eq ((showDie_bytes ..).trans (by simp)) (by simp)
  · simp
@[simp] theorem execHeartbeatSend_bytes (u : State) (p : PartIx) (s : State) : (u.thenOn (execHeartbeatSend p s)).bytes = s.bytes := by
  simp [execHeartbeatSend]
@[simp] theorem execHeartbeat_bytes (u : State) (f : KlFrame) (s : State) : (u.thenOn (execHeartbeat f s)).bytes = s.bytes := by simp [execHeartbeat]
@[simp] theorem execReduceMemberLost_canon (u : State) (p : PartIx) (rank : BitVec 14) (s : State) (hs : canon s.bytes) :
    canon (u.thenOn (execReduceMemberLost p rank s)).bytes := by
  unfold execReduceMemberLost; rw [thenOn_next]
  split
  · exact hs
  · refine ite_keeps hs (foldl_keepsBytes (fun t m ht => foldl_keepsBytes (fun u r hu => ?_) _ ht) _ ?_)
    · split
      · exact hu
      · exact ite_keeps hu (keepBlk_canon _ _ _ _ _ (by rwa [ackWaiting_bytes]))
    · rw [modPart_bytes, raise_bytes]
      exact ite_keeps hs (by simpa using hs)

/-! ### The functions of Machine/Fabric -/

@[simp] theorem execFlitReplay_bytes (u : State) (c : CoreIx) (k : Fin 7) (s : State) : (u.thenOn (execFlitReplay c k s)).bytes = s.bytes := by
  simp [execFlitReplay]
@[simp] theorem execLinkDegraded_bytes (u : State) (c : CoreIx) (k : Fin 7) (s : State) : (u.thenOn (execLinkDegraded c k s)).bytes = s.bytes := by
  simp [execLinkDegraded]
@[simp] theorem execCongestionInterval_bytes (u : State) (c : CoreIx) (blocked : Vector (BitVec 8) 5) (marks : Nat) (s : State) :
    (u.thenOn (execCongestionInterval c blocked marks s)).bytes = s.bytes := by
  simp [execCongestionInterval]
@[simp] theorem execCongReport_bytes (u : State) (m : Ctl) (s : State) : (u.thenOn (execCongReport m s)).bytes = s.bytes := by
  unfold execCongReport
  rw [thenOn_next]
  refine takeCtl_bytes (fun t => ?_) s m
  cases m.msg with
  | congReport c half l =>
    dsimp only
    refine ite_bytes_eq (Eq.trans (mk_bytes ..) ?_) ?_
    · exact (foldl_bytes (fun x p => ite_bytes_eq ((setF_bytes ..).trans (setB_bytes ..)) (setB_bytes ..)) _ _).trans
        (ite_bytes_eq ((setF_bytes ..).trans (setB_bytes ..)) (setB_bytes ..))
    · exact (foldl_bytes (fun x p => ite_bytes_eq ((setF_bytes ..).trans (setB_bytes ..)) (setB_bytes ..)) _ _).trans
        (ite_bytes_eq ((setF_bytes ..).trans (setB_bytes ..)) (setB_bytes ..))
  | _ => rfl

/-! ### The functions of Machine/Checkpoint -/

@[simp] theorem setDirty_bytes (s : State) (m : Nat) (p : Nat) (slot : Nat) (units : List Nat) (on : Bool) :
    (s.setDirty m p slot units on).bytes = s.bytes := by
  simp [State.setDirty]
theorem sendCkpt_bytes {s t : State} {p : Nat} {o : OrderSt} {h : Bool} {b d : Nat} {x : Bool} {c : BitVec 32}
    (ht : s.sendCkpt p o h b d x c = some t) : t.bytes = s.bytes := by
  unfold State.sendCkpt at ht
  split at ht
  · split at ht
    · split at ht <;> cases ht
      rfl
    · cases ht
  · obtain ⟨k, -, rfl⟩ := Option.map_eq_some_iff.1 ht
    exact sendOn_bytes ..
@[simp] theorem sendCkpt_getD_bytes (s : State) (p : Nat) (o : OrderSt) (h : Bool) (b d : Nat) (x : Bool) (c : BitVec 32) :
    ((s.sendCkpt p o h b d x c).getD s).bytes = s.bytes := by
  cases ht : s.sendCkpt p o h b d x c with
  | none => rfl
  | some t => exact sendCkpt_bytes ht
@[simp] theorem dropCopy_bytes (s : State) (p : Nat) : (s.dropCopy p).bytes = s.bytes := by simp [State.dropCopy]
@[simp] theorem takeSnapshot_bytes (s : State) (p : Nat) (c : Copy) : (s.takeSnapshot p c).bytes = s.bytes := by simp [State.takeSnapshot]
@[simp] theorem breakCopy_bytes (s : State) (p : Nat) : (s.breakCopy p).bytes = s.bytes := by
  unfold State.breakCopy
  dsimp only
  split <;> simp
@[simp] theorem failCopy_bytes (s : State) (p : Nat) : (s.failCopy p).bytes = s.bytes := by
  unfold State.failCopy
  split <;> simp
@[simp] theorem beginCopy_bytes (s : State) (p : Nat) (o : OrderSt) : (s.beginCopy p o).bytes = s.bytes := by simp [State.beginCopy]
@[simp] theorem nextCopy_bytes (n : Nat) (s : State) (p : Nat) : (s.nextCopy p n).bytes = s.bytes := by
  induction n generalizing s with
  | zero => rfl
  | succ n ih =>
    unfold State.nextCopy
    split
    · rw [ih, beginCopy_bytes, modPart_bytes]
    · rfl
@[simp] theorem endCopy_bytes (s : State) (p : Nat) : (s.endCopy p).bytes = s.bytes := by simp [State.endCopy]
@[simp] theorem tryHeader_bytes (s : State) (p : Nat) : (s.tryHeader p).bytes = s.bytes := by
  unfold State.tryHeader
  split
  · refine ite_bytes_eq rfl ?_
    extract_lets v t
    have ht : t.bytes = s.bytes := rfl
    clear_value t
    split
    · rename_i u hu
      exact (modPart_bytes ..).trans ((sendCkpt_bytes hu).trans ht)
    · exact (endCopy_bytes ..).trans ht
  · rfl
@[simp] theorem copyAnswer_bytes (s : State) (p : Nat) (block : Nat) (ok : Bool) : (s.copyAnswer p block ok).bytes = s.bytes := by
  unfold State.copyAnswer
  dsimp only
  split <;> simp
theorem takeAhead_bytes {s t : State} {m p : Nat} {e : Nat × Nat × Nat × Bool × BitVec 32} (h : s.takeAhead m p = some (e, t)) :
    t.bytes = s.bytes := by
  unfold State.takeAhead at h
  split at h <;> cases h
  · exact modSite_bytes ..
  · exact modSite_bytes ..
@[simp] theorem copyBlock_bytes (s : State) (m : Nat) (p : Nat) (misreads : Nat) : (s.copyBlock m p misreads).bytes = s.bytes := by
  unfold State.copyBlock
  split
  · extract_lets put
    have hp : ∀ t b v po crc, (put t b v po crc).bytes = t.bytes := fun t b v po crc => by
      unfold put
      split
      · rename_i u hu
        exact ((bumpF_bytes ..).trans (modPart_bytes ..)).trans (sendCkpt_bytes hu)
      · exact endCopy_bytes ..
    clear_value put
    split
    · rename_i ht
      exact (hp ..).trans (takeAhead_bytes ht)
    · split
      · simp
      · split
        · simp
        · dsimp only
          split
          · rfl
          · exact ite_bytes_eq (modSite_bytes ..) ((hp ..).trans ((verify_bytes ..).trans (modSite_bytes ..)))
  · rfl
@[simp] theorem copyBlocks_bytes (m p misreads n : Nat) (s : State) : (s.copyBlocks m p misreads n).bytes = s.bytes := by
  induction n generalizing s with
  | zero => rfl
  | succ n ih => exact (ih _).trans (copyBlock_bytes ..)
@[simp] theorem execStewardOrder_bytes (u : State) (m : SiteIx) (c : Ctl) (blocks : Nat) (misreads : Nat) (s : State) :
    (u.thenOn (execStewardOrder m c blocks misreads s)).bytes = s.bytes := by
  unfold execStewardOrder
  dsimp only
  split <;> simp
@[simp] theorem execCheckpointSnapshot_bytes (u : State) (p : PartIx) (s : State) : (u.thenOn (execCheckpointSnapshot p s)).bytes = s.bytes := by
  unfold execCheckpointSnapshot
  dsimp only
  split <;> simp
@[simp] theorem execCkptAck_bytes (u : State) (f : KlFrame) (s : State) : (u.thenOn (execCkptAck f s)).bytes = s.bytes := by
  unfold execCkptAck
  dsimp only
  split <;> simp
@[simp] theorem execCkptData_bytes (u : State) (sub : Fin 256) (f : KlFrame) (s : State) : (u.thenOn (execCkptData sub f s)).bytes = s.bytes := by
  unfold execCkptData
  dsimp only
  split <;> simp
@[simp] theorem restoreBlk_canon (s : State) (p : Nat) (b : RestoreBlk) (hs : canon s.bytes) : canon (s.restoreBlk p b).bytes := by
  unfold State.restoreBlk
  dsimp only
  split <;> simp [hs]
@[simp] theorem execRestoreDone_canon (u : State) (p : PartIx) (blocks : List RestoreBlk) (s : State) (hs : canon s.bytes) :
    canon (u.thenOn (execRestoreDone p blocks s)).bytes := by
  unfold execRestoreDone; rw [thenOn_next]
  refine ite_keeps hs ?_
  have ht : canon (blocks.foldl (fun (s : State) b => s.restoreBlk p b) s).bytes := foldl_keepsBytes (fun v b hv => by simp [hv]) _ hs
  dsimp only
  split
  · exact ht
  · exact ite_keeps (by simpa using ht) (by simpa using ht)
@[simp] theorem restoreLost_canon (s : State) (p : Nat) (block : Nat) (hs : canon s.bytes) : canon (s.restoreLost p block).bytes := by
  simp [State.restoreLost, hs]
@[simp] theorem execCxlMemCompletion_canon (u : State) (p : PartIx) (ok : Bool) (block : Nat) (read : Option RestoreBlk) (s : State) (hs : canon
    s.bytes) : canon (u.thenOn (execCxlMemCompletion p ok block read s)).bytes := by
  unfold execCxlMemCompletion
  split <;> simp [hs]

/-! ### The functions of Machine/Power -/

@[simp] theorem execForecastNote_bytes (u : State) (d : DieIx) (m : Ctl) (s : State) : (u.thenOn (execForecastNote d m s)).bytes = s.bytes := by
  unfold execForecastNote
  split <;> simp
@[simp] theorem execDroopStretch_bytes (u : State) (c : CoreIx) (ps : BitVec 8) (s : State) : (u.thenOn (execDroopStretch c ps s)).bytes = s.bytes :=
  by
  simp [execDroopStretch]
@[simp] theorem execDroopRecovery_bytes (u : State) (c : CoreIx) (cycles : Nat) (s : State) :
    (u.thenOn (execDroopRecovery c cycles s)).bytes = s.bytes := by
  simp [execDroopRecovery]
@[simp] theorem execVoltageReached_bytes (u : State) (c : CoreIx) (s : State) : (u.thenOn (execVoltageReached c s)).bytes = s.bytes := by
  unfold execVoltageReached
  dsimp only
  split <;> simp
@[simp] theorem execPhaseShed_bytes (u : State) (d : DieIx) (k : Fin 16) (s : State) : (u.thenOn (execPhaseShed d k s)).bytes = s.bytes := by
  simp [execPhaseShed]
@[simp] theorem execPhaseFault_bytes (u : State) (d : DieIx) (k : Fin 16) (s : State) : (u.thenOn (execPhaseFault d k s)).bytes = s.bytes := by
  simp [execPhaseFault]
@[simp] theorem execSupplyDistressOnset_bytes (u : State) (d : DieIx) (s : State) : (u.thenOn (execSupplyDistressOnset d s)).bytes = s.bytes := by
  simp [execSupplyDistressOnset]
@[simp] theorem execSupplyDistress_bytes (u : State) (c : CoreIx) (m : Ctl) (s : State) : (u.thenOn (execSupplyDistress c m s)).bytes = s.bytes := by
  simp [execSupplyDistress]
@[simp] theorem execDistressPersists_bytes (u : State) (d : DieIx) (s : State) : (u.thenOn (execDistressPersists d s)).bytes = s.bytes := by
  simp [execDistressPersists]
@[simp] theorem execDistressEnd_bytes (u : State) (d : DieIx) (s : State) : (u.thenOn (execDistressEnd d s)).bytes = s.bytes := by
  simp [execDistressEnd]
@[simp] theorem execThermalSample_bytes (u : State) (d : DieIx) (temp : BitVec 8) (s : State) :
    (u.thenOn (execThermalSample d temp s)).bytes = s.bytes := by
  simp [execThermalSample]
@[simp] theorem execThermalStep_bytes (u : State) (d : DieIx) (s : State) : (u.thenOn (execThermalStep d s)).bytes = s.bytes := by
  simp [execThermalStep]
@[simp] theorem execThermalRecovery_bytes (u : State) (d : DieIx) (s : State) : (u.thenOn (execThermalRecovery d s)).bytes = s.bytes := by
  simp [execThermalRecovery]
@[simp] theorem enterHold_bytes (s : State) : s.enterHold.bytes = s.bytes := by simp [State.enterHold]
@[simp] theorem beginExit_bytes (s : State) : s.beginExit.bytes = s.bytes := by simp [State.beginExit]
@[simp] theorem modeError_bytes (s : State) : s.modeError.bytes = s.bytes := by simp [State.modeError]
@[simp] theorem execModuleActiveRequest_bytes (u : State) (path : Path) (s : State) : (u.thenOn (execModuleActiveRequest path s)).bytes = s.bytes :=
  by
  simp [execModuleActiveRequest]
@[simp] theorem execModuleHoldRequest_bytes (u : State) (path : Path) (s : State) : (u.thenOn (execModuleHoldRequest path s)).bytes = s.bytes := by
  simp [execModuleHoldRequest]
@[simp] theorem execIdleHoldEntry_bytes (u : State) (s : State) : (u.thenOn (execIdleHoldEntry s)).bytes = s.bytes := by simp [execIdleHoldEntry]
@[simp] theorem capPause_bytes (s : State) (p : Nat) : (s.capPause p).bytes = s.bytes := by simp [State.capPause]
@[simp] theorem execLeakDetected_bytes (u : State) (src : BitVec 3) (s : State) : (u.thenOn (execLeakDetected src s)).bytes = s.bytes := by
  simp [execLeakDetected]
@[simp] theorem execLeakHoldEntry_bytes (u : State) (s : State) : (u.thenOn (execLeakHoldEntry s)).bytes = s.bytes := by simp [execLeakHoldEntry]
@[simp] theorem execLeakDetDeassert_bytes (u : State) (s : State) : (u.thenOn (execLeakDetDeassert s)).bytes = s.bytes := by
  simp [execLeakDetDeassert]
@[simp] theorem execCorePauseHold_bytes (u : State) (c : CoreIx) (s : State) : (u.thenOn (execCorePauseHold c s)).bytes = s.bytes := by
  unfold execCorePauseHold
  split <;> simp
@[simp] theorem execRefLossPrimary_bytes (u : State) (d : DieIx) (s : State) : (u.thenOn (execRefLossPrimary d s)).bytes = s.bytes := by
  simp [execRefLossPrimary]
@[simp] theorem execRefLossBoth_bytes (u : State) (d : DieIx) (s : State) : (u.thenOn (execRefLossBoth d s)).bytes = s.bytes := by
  simp [execRefLossBoth]
@[simp] theorem execRefReturn_bytes (u : State) (d : DieIx) (primary : Bool) (s : State) : (u.thenOn (execRefReturn d primary s)).bytes = s.bytes :=
  by
  simp [execRefReturn]
@[simp] theorem recap_bytes (s : State) : s.recap.bytes = s.bytes := by
  unfold State.recap
  extract_lets t now u v
  have hu : u.bytes = s.bytes := by
    unfold u
    split <;> simp
  clear_value u
  split
  · simpa [v] using hu
  · simpa [v] using hu
@[simp] theorem execCapRampStep_bytes (u : State) (s : State) : (u.thenOn (execCapRampStep s)).bytes = s.bytes := by simp [execCapRampStep]
@[simp] theorem execPwrCapCommit_bytes (u : State) (path : Path) (v : BitVec 32) (s : State) : (u.thenOn (execPwrCapCommit path v s)).bytes = s.bytes :=
  by
  simp [execPwrCapCommit]
@[simp] theorem showLimiting_bytes (s : State) : s.showLimiting.bytes = s.bytes := by simp [State.showLimiting]
@[simp] theorem meter_bytes (s : State) (m : Meter) : (s.meter m).bytes = s.bytes := by simp [State.meter]
@[simp] theorem execCapCheck_bytes (u : State) (m : Meter) (cores : List CoreIx) (s : State) : (u.thenOn (execCapCheck m cores s)).bytes = s.bytes :=
  by
  simp [execCapCheck]
@[simp] theorem execCapPause_bytes (u : State) (s : State) : (u.thenOn (execCapPause s)).bytes = s.bytes := by
  unfold execCapPause
  split <;> simp
@[simp] theorem setSteward_bytes (s : State) (on : Bool) : (s.setSteward on).bytes = s.bytes := by simp [State.setSteward]
@[simp] theorem execStewardModeEntered_bytes (u : State) (s : State) : (u.thenOn (execStewardModeEntered s)).bytes = s.bytes := by
  simp [execStewardModeEntered]
@[simp] theorem execStewardSet_bytes (u : State) (path : Path) (s : State) : (u.thenOn (execStewardSet path s)).bytes = s.bytes := by
  simp [execStewardSet]
@[simp] theorem execStewardModeLeft_bytes (u : State) (path : Path) (s : State) : (u.thenOn (execStewardModeLeft path s)).bytes = s.bytes := by
  simp [execStewardModeLeft]

/-! ### The functions of Machine/Capsule -/

@[simp] theorem placeBytes_canon (s : State) (p : Nat) (a : Nat) (l : List Byte) (hs : canon s.bytes) : canon (s.placeBytes p a l).bytes := by
  simp only [State.placeBytes, seal_bytes]
  exact foldl_keepsBytes (fun t e ht => by simp [ht]) _ hs
@[simp] theorem loadCapsule_canon (s : State) (p : Nat) (b : Capsule) (hs : canon s.bytes) : canon (s.loadCapsule p b).bytes := by
  unfold State.loadCapsule
  extract_lets s1 s2 s3 tab s4 s5 s6 s7 s8 sb s9
  have h2 : canon s2.bytes := foldl_keepsBytes (fun t e ht => foldl_keepsBytes (fun u x hu => placeBytes_canon _ _ _ _ hu) _
    (foldl_keepsBytes (fun u x hu => placeBytes_canon _ _ _ _ hu) _ ht)) _ (discardSums_canon _ _ hs)
  have h3 : canon s3.bytes := foldl_keepsBytes (fun t e ht => ite_keeps (placeBytes_canon _ _ _ _ (placeBytes_canon _ _ _ _ ht))
    (placeBytes_canon _ _ _ _ ht)) _ h2
  have h8 : canon s8.bytes := by rwa [setF_bytes, setB_bytes, showStandbys_bytes, setF_bytes, setReg_bytes, setReg_bytes, setReg_bytes, modPart_bytes]
  rw [loadHomes_bytes]
  exact foldl_keepsBytes (fun t c ht => by rwa [setPower_bytes, setB_bytes, modCore_bytes]) _ h8

/-! ### The functions of Machine/Sessions -/

@[simp] theorem resetRegs_bytes (s : State) (f : Reg → Nat → Bool) : (s.resetRegs f).bytes = s.bytes := (rfl)
@[simp] theorem resetController_bytes (s : State) (k : Nat) : (s.resetController k).bytes = s.bytes := by simp [State.resetController]
@[simp] theorem zeroExtents_canon (s : State) (es : List Extent) (hs : canon s.bytes) : canon (s.zeroExtents es).bytes := zeroExtents_memWf s _ hs
@[simp] theorem zeroSpad_canon (s : State) (cs : List Nat) (hs : canon s.bytes) : canon (s.zeroSpad cs).bytes := zeroSpad_memWf s _ hs
@[simp] theorem cancelRun_canon (s : State) (p : Nat) (hs : canon s.bytes) : canon (s.cancelRun p).bytes := by simp [State.cancelRun, hs]
@[simp] theorem endOrders_bytes (s : State) (p : Nat) (but : Option OrderSt) : (s.endOrders p but).bytes = s.bytes := by simp [State.endOrders]
@[simp] theorem cancelOrder_canon (s : State) (o : OrderSt) (hs : canon s.bytes) : canon (s.cancelOrder o).bytes := by simp [State.cancelOrder, hs]
@[simp] theorem dropOrders_bytes (s : State) (p : Nat) : (s.dropOrders p).bytes = s.bytes := by simp [State.dropOrders]
@[simp] theorem teardown_canon (s : State) (p : Nat) (quietly : Bool) (close : Option OrderSt) (hs : canon s.bytes) :
    canon (s.teardown p quietly close).bytes := by
  simp [State.teardown, hs]
@[simp] theorem imagePart_bytes (s : State) (p : Nat) : (s.imagePart p).bytes = s.bytes := by
  unfold State.imagePart
  split
  · rfl
  · extract_lets t
    have ht : t.bytes = s.bytes := by
      unfold t
      split <;> simp
    exact (foldl_bytes (fun u e => (setReg_bytes ..).trans (setReg_bytes ..)) _ t).trans ht
@[simp] theorem teardownDone_canon (s : State) (p : Nat) (hs : canon s.bytes) : canon (s.teardownDone p).bytes := by
  unfold State.teardownDone
  dsimp only
  split <;> simp [hs]
@[simp] theorem queueError_bytes (s : State) (k : Nat) : (s.queueError k).bytes = s.bytes := by simp [State.queueError]
@[simp] theorem execOqTailWrite_bytes (u : State) (path : Path) (v : BitVec 32) (entries : List Row) (s : State) :
    (u.thenOn (execOqTailWrite path v entries s)).bytes = s.bytes := by
  simp [execOqTailWrite]
@[simp] theorem execCqHeadWrite_bytes (u : State) (path : Path) (v : BitVec 32) (s : State) : (u.thenOn (execCqHeadWrite path v s)).bytes = s.bytes :=
  by
  simp [execCqHeadWrite]
@[simp] theorem execQueueCfgWrite_bytes (u : State) (path : Path) (cq : Bool) (v : BitVec 32) (s : State) :
    (u.thenOn (execQueueCfgWrite path cq v s)).bytes = s.bytes := by
  simp [execQueueCfgWrite]
@[simp] theorem promote_bytes (s : State) (a : Nat) (n : Nat) (k : Nat) : (s.promote a n k).bytes = s.bytes := by simp [State.promote]
@[simp] theorem takeOrder_bytes (s : State) (n k : Nat) : (s.takeOrder n k).1.bytes = s.bytes := by
  unfold State.takeOrder
  split
  · rfl
  · extract_lets t size u op o answer
    have hu : u.bytes = s.bytes := ite_bytes_eq ((setF_bytes ..).trans (modFn_bytes ..)) (modFn_bytes ..)
    have ha : ∀ n, (answer n).1.bytes = s.bytes := fun n => (post_bytes ..).trans hu
    clear_value u answer
    split_ifs
    · exact ha _
    · exact ha _
    · exact ha _
    · exact (modFn_bytes ..).trans hu
@[simp] theorem execArbitrationCycle_bytes (u : State) (a : Fin 65) (s : State) : (u.thenOn (execArbitrationCycle a s)).bytes = s.bytes := by
  unfold execArbitrationCycle
  rw [thenOn_next]
  extract_lets n t v names tenant w
  have hv : v.bytes = s.bytes :=
    (foldl_bytes (fun x k => ite_bytes_eq (promote_bytes ..) rfl) _ t).trans (modMod_bytes ..)
  have hw : w.bytes = s.bytes := by
    simp only [w, tenant, apply_ite Prod.fst]
    exact ite_bytes_eq ((takeOrder_bytes ..).trans hv) hv
  clear_value w
  split
  · exact hw
  · extract_lets mg
    have hm : mg.1.bytes = s.bytes := (takeOrder_bytes ..).trans hw
    clear_value mg
    split
    · exact ite_bytes_eq ((finish_bytes ..).trans hm) hm
    · exact hm
theorem act_keeps {P : Memory × Memory → Prop} {f : OrderSt → State} {s : State} (hf : ∀ o, P (f o).bytes) (hs : P s.bytes) (path : Path)
    (tag : Fin 4096) (op : Nat) : P (s.act path tag op f).bytes := by
  unfold State.act
  split
  · exact hs
  · split_ifs
    · exact hs
    · simpa using hs
    · exact hf _
@[simp] theorem act_bytes {f : OrderSt → State} {s : State} (hf : ∀ o, (f o).bytes = s.bytes) (path : Path) (tag : Fin 4096) (op : Nat) :
    (s.act path tag op f).bytes = s.bytes := act_keeps (P := (· = s.bytes)) hf rfl path tag op
@[simp] theorem challenge_bytes (s : State) (k : Nat) : (s.challenge k).bytes = s.bytes := by simp [State.challenge]
@[simp] theorem execChallenge_bytes (u : State) (path : Path) (s : State) : (u.thenOn (execChallenge path s)).bytes = s.bytes := by
  simp [execChallenge]
@[simp] theorem execNonceExpiry_bytes (u : State) (path : Path) (s : State) : (u.thenOn (execNonceExpiry path s)).bytes = s.bytes := by
  simp [execNonceExpiry]
@[simp] theorem failedResponse_bytes (s : State) (k : Nat) : (s.failedResponse k).bytes = s.bytes := by simp [State.failedResponse]
@[simp] theorem execOpen_bytes (u : State) (path : Path) (tag : Fin 4096) (s : State) : (u.thenOn (execOpen path tag s)).bytes = s.bytes := by
  simp [execOpen]
@[simp] theorem execLockoutEnd_bytes (u : State) (path : Path) (s : State) : (u.thenOn (execLockoutEnd path s)).bytes = s.bytes := by
  simp [execLockoutEnd]
@[simp] theorem endAdmin_bytes (s : State) (k : Nat) : (s.endAdmin k).bytes = s.bytes := by simp [State.endAdmin]
@[simp] theorem execSessionTimeout_canon (u : State) (path : Path) (s : State) (hs : canon s.bytes) :
    canon (u.thenOn (execSessionTimeout path s)).bytes := by
  simp [execSessionTimeout, hs]
@[simp] theorem execClose_canon (u : State) (path : Path) (tag : Fin 4096) (s : State) (hs : canon s.bytes) :
    canon (u.thenOn (execClose path tag s)).bytes := by
  unfold execClose; rw [thenOn_next]
  refine act_keeps (fun o => ite_keeps ?_ (by simp [hs])) hs ..
  rw [endAdmin_bytes, finish_bytes]
  refine foldl_keepsBytes (fun t x ht => ite_keeps (by simpa using ht) (cancelOrder_canon _ _ ht)) _ hs
@[simp] theorem execTeardownDone_canon (u : State) (p : PartIx) (s : State) (hs : canon s.bytes) : canon (u.thenOn (execTeardownDone p s)).bytes := by
  simp [execTeardownDone, hs]
@[simp] theorem execSharedExtentZeroing_canon (u : State) (p : PartIx) (s : State) (hs : canon s.bytes) :
    canon (u.thenOn (execSharedExtentZeroing p s)).bytes := by
  simp [execSharedExtentZeroing, hs]

/-! ### The functions of Machine/Orders -/

@[simp] theorem execLoadCapsule_bytes (u : State) (path : Path) (tag : Fin 4096) (header : BitVec 2048) (rest : List Byte) (body : Capsule) (s :
    State) : (u.thenOn (execLoadCapsule path tag header rest body s)).bytes = s.bytes := by
  simp [execLoadCapsule]
@[simp] theorem execCapsuleLoadDone_canon (u : State) (p : PartIx) (s : State) (hs : canon s.bytes) : canon (u.thenOn (execCapsuleLoadDone p s)).bytes :=
  by
  unfold execCapsuleLoadDone
  split <;> simp [hs]
theorem coverCores_bytes {p : Nat} {l : List Nat} {s t : State} (h : s.coverCores p l = some t) : t.bytes = s.bytes := by
  fun_induction State.coverCores s p l with
  | case1 => exact congrArg State.bytes (Option.some.inj h).symm
  | case2 s n l hn ih => exact ih h
  | case3 s n l c hc h1 ih => exact ih h
  | case4 => cases h
  | case5 s n l c hc h1 b t hb ih => exact (ih h).trans (aliasSwitch_bytes ..)
@[simp] theorem launch_bytes (s : State) (p : Nat) : (s.launch p).bytes = s.bytes := by simp [State.launch]
@[simp] theorem beginRun_bytes (s : State) (p : Nat) (o : OrderSt) : (s.beginRun p o).bytes = s.bytes := by
  unfold State.beginRun
  split
  · exact rejectState_bytes ..
  · rename_i t ht
    have ht := coverCores_bytes ht
    extract_lets a b n d e r f
    have hd : d.bytes = s.bytes := (foldl_bytes (fun x y => setF_bytes ..) _ b).trans (by simpa [b, a] using ht)
    have hf : f.bytes = s.bytes := (loadPlan_bytes ..).trans ((choosePlan_bytes ..).trans ((modPart_bytes ..).trans hd))
    clear_value f
    split
    · simpa using hf
    · simpa using hf
@[simp] theorem execStart_bytes (u : State) (path : Path) (tag : Fin 4096) (s : State) : (u.thenOn (execStart path tag s)).bytes = s.bytes := by
  simp [execStart]
@[simp] theorem execPause_bytes (u : State) (path : Path) (tag : Fin 4096) (s : State) : (u.thenOn (execPause path tag s)).bytes = s.bytes := by
  simp [execPause]
@[simp] theorem withdrawPauses_bytes (s : State) (p : Nat) : (s.withdrawPauses p).bytes = s.bytes := by simp [State.withdrawPauses]
@[simp] theorem resumePart_bytes (s : State) (p : Nat) : (s.resumePart p).bytes = s.bytes := by simp [State.resumePart]
@[simp] theorem endPause_bytes (s : State) (p : Nat) : (s.endPause p).bytes = s.bytes := by simp [State.endPause]
@[simp] theorem doResume_canon (s : State) (o : OrderSt) (hs : canon s.bytes) : canon (s.doResume o).bytes := by
  unfold State.doResume
  extract_lets p
  split_ifs
  · rwa [finish_bytes, resumePart_bytes]
  · rw [finish_bytes]
    split
    · rename_i t ht
      exact stepReplay_canon _ _ (by rwa [setPState_bytes, coverCores_bytes ht])
    · exact faultedHold_canon _ _ hs
  · rw [finish_bytes]
    simpa using hs
@[simp] theorem execResume_canon (u : State) (path : Path) (tag : Fin 4096) (s : State) (hs : canon s.bytes) :
    canon (u.thenOn (execResume path tag s)).bytes := by
  unfold execResume; rw [thenOn_next]
  exact act_keeps (fun o => ite_keeps (by simp [hs]) (ite_keeps (by simp [hs]) (by simp [hs]))) hs ..
@[simp] theorem execPauseExpired_bytes (u : State) (p : PartIx) (s : State) : (u.thenOn (execPauseExpired p s)).bytes = s.bytes := by
  unfold execPauseExpired
  dsimp only
  split <;> simp
@[simp] theorem execCapResume_bytes (u : State) (p : PartIx) (s : State) : (u.thenOn (execCapResume p s)).bytes = s.bytes := by
  unfold execCapResume
  rw [thenOn_next]
  refine ite_bytes_eq rfl (ite_bytes_eq ?_ ?_)
  · exact (endPause_bytes ..).trans ((showLimiting_bytes _).trans (setB_bytes ..))
  · exact (tryRelease_bytes ..).trans ((showLimiting_bytes _).trans ((setB_bytes ..).trans ((modPart_bytes ..).trans (setB_bytes ..))))
@[simp] theorem execModuleHoldExitDone_canon (u : State) (s : State) (hs : canon s.bytes) : canon (u.thenOn (execModuleHoldExitDone s)).bytes := by
  unfold execModuleHoldExitDone; rw [thenOn_next]
  refine ite_keeps hs (foldl_keepsBytes (fun t o ht => ite_keeps (ite_keeps ?_ ?_) (ite_keeps ?_ ?_)) _
    (foldl_keepsBytes (fun t p ht => ?_) _ (foldl_keepsBytes (fun t c ht => ite_keeps ?_ ?_) _ ?_)))
  all_goals simp [*]
@[simp] theorem execCancelKind0_canon (u : State) (path : Path) (tag : Fin 4096) (s : State) (hs : canon s.bytes) :
    canon (u.thenOn (execCancelKind0 path tag s)).bytes := by
  unfold execCancelKind0; rw [thenOn_next]
  refine act_keeps (fun o => ite_keeps hs ?_) hs ..
  split
  · simp [hs]
  · exact cancelOrder_canon _ _ (by simpa using hs)
@[simp] theorem execCancelKind1_canon (u : State) (path : Path) (tag : Fin 4096) (s : State) (hs : canon s.bytes) :
    canon (u.thenOn (execCancelKind1 path tag s)).bytes := by
  unfold execCancelKind1; rw [thenOn_next]
  exact act_keeps (fun o => ite_keeps hs (by simp [hs])) hs ..
@[simp] theorem execFeed_bytes (u : State) (path : Path) (tag : Fin 4096) (s : State) : (u.thenOn (execFeed path tag s)).bytes = s.bytes := by
  refine act_bytes (fun o => ?_) path tag opFeed
  split
  · simp
  · simp
@[simp] theorem putBytesAt_canon (s : State) (p : Nat) (a : Nat) (v : Nat) (x1 : Nat) (hs : canon s.bytes) : canon (s.putBytesAt p a v x1).bytes := by
  induction x1 generalizing s a v with
  | zero => exact hs
  | succ n ih => exact ih _ _ _ (by simp [hs])
@[simp] theorem execFeedTransfer_canon (u : State) (path : Path) (tag : Fin 4096) (data : Nat) (s : State) (hs : canon s.bytes) :
    canon (u.thenOn (execFeedTransfer path tag data s)).bytes := by
  unfold execFeedTransfer
  repeat' split
  all_goals simp [hs]
@[simp] theorem execReadOut_bytes (u : State) (path : Path) (tag : Fin 4096) (s : State) : (u.thenOn (execReadOut path tag s)).bytes = s.bytes := by
  simp [execReadOut]
@[simp] theorem execCheckpoint_bytes (u : State) (path : Path) (tag : Fin 4096) (s : State) : (u.thenOn (execCheckpoint path tag s)).bytes = s.bytes :=
  by
  simp [execCheckpoint]
@[simp] theorem execRestore_bytes (u : State) (path : Path) (tag : Fin 4096) (valid : Bool) (s : State) :
    (u.thenOn (execRestore path tag valid s)).bytes = s.bytes := by
  simp [execRestore]
@[simp] theorem execJoinGroup_bytes (u : State) (path : Path) (tag : Fin 4096) (s : State) : (u.thenOn (execJoinGroup path tag s)).bytes = s.bytes :=
  by
  simp [execJoinGroup]
@[simp] theorem execLeaveGroup_bytes (u : State) (path : Path) (tag : Fin 4096) (s : State) : (u.thenOn (execLeaveGroup path tag s)).bytes = s.bytes :=
  by
  simp [execLeaveGroup]

/-! ### The functions of Machine/Host -/

@[simp] theorem resetQueues_bytes (s : State) (k : Nat) : (s.resetQueues k).bytes = s.bytes := by simp [State.resetQueues]
@[simp] theorem discardFn_canon (s : State) (k : Nat) (hs : canon s.bytes) : canon (s.discardFn k).bytes := by
  unfold State.discardFn
  rw [modFn_bytes]
  exact foldl_keepsBytes (fun t p ht => by simpa using ht) _ (foldl_keepsBytes (fun t o ht => cancelOrder_canon t o ht) _ (by simpa using hs))
@[simp] theorem flrVf_canon (s : State) (p : Nat) (hs : canon s.bytes) : canon (s.flrVf p).bytes := by simp [State.flrVf, hs]
@[simp] theorem flrPf_canon (s : State) (h : Nat) (hs : canon s.bytes) :
    canon (s.flrPf h).bytes := foldl_keepsBytes (fun t p ht => by simp [ht]) _ (ite_keeps (by simp [hs]) (by simp [hs]))
@[simp] theorem execFlrVf_canon (u : State) (p : PartIx) (s : State) (hs : canon s.bytes) : canon (u.thenOn (execFlrVf p s)).bytes := by
  simp [execFlrVf, hs]
@[simp] theorem execFlrPf_canon (u : State) (h : HostIx) (s : State) (hs : canon s.bytes) : canon (u.thenOn (execFlrPf h s)).bytes := by
  simp [execFlrPf, hs]
@[simp] theorem execHotReset_canon (u : State) (h : HostIx) (s : State) (hs : canon s.bytes) : canon (u.thenOn (execHotReset h s)).bytes := by
  simp [execHotReset, hs]
@[simp] theorem execVfEnableClear_canon (u : State) (h : HostIx) (s : State) (hs : canon s.bytes) : canon (u.thenOn (execVfEnableClear h s)).bytes :=
  by
  unfold execVfEnableClear; rw [thenOn_next]
  exact foldl_keepsBytes (fun t p ht => flrVf_canon _ _ ht) _ hs
@[simp] theorem execPerstAssert_canon (u : State) (h : HostIx) (s : State) (hs : canon s.bytes) : canon (u.thenOn (execPerstAssert h s)).bytes := by
  simp [execPerstAssert, hs]
@[simp] theorem execHostLinkLost_bytes (u : State) (h : HostIx) (s : State) : (u.thenOn (execHostLinkLost h s)).bytes = s.bytes := by
  simp [execHostLinkLost]
@[simp] theorem execHostLinkRetrain_bytes (u : State) (h : HostIx) (gen : Fin 3) (width : Fin 4) (s : State) :
    (u.thenOn (execHostLinkRetrain h gen width s)).bytes = s.bytes := by
  simp [execHostLinkRetrain]

/-! ### The functions of Machine/Store -/

@[simp] theorem setFlash_bytes (s : State) (slot : Nat) (k : Nat) (b : Byte) : (s.setFlash slot k b).bytes = s.bytes := (rfl)
@[simp] theorem eraseFlash_bytes (s : State) (slot : Nat) (a : Nat) (n : Nat) : (s.eraseFlash slot a n).bytes = s.bytes := (rfl)
@[simp] theorem cfgsError_bytes (s : State) : s.cfgsError.bytes = s.bytes := by simp [State.cfgsError]
@[simp] theorem cfgsStart_bytes (s : State) (path : Path) (op : Nat) (slot : Nat) (offset : Nat) : (s.cfgsStart path op slot offset).bytes = s.bytes :=
  by
  simp [State.cfgsStart]
@[simp] theorem execErase_bytes (u : State) (path : Path) (slot : Fin 2) (s : State) : (u.thenOn (execErase path slot s)).bytes = s.bytes := by
  simp [execErase]
@[simp] theorem execProgram_bytes (u : State) (path : Path) (slot : Fin 2) (offset : BitVec 12) (s : State) :
    (u.thenOn (execProgram path slot offset s)).bytes = s.bytes := by
  simp [execProgram]
@[simp] theorem execCommit_bytes (u : State) (path : Path) (slot : Fin 2) (s : State) : (u.thenOn (execCommit path slot s)).bytes = s.bytes := by
  simp [execCommit]
@[simp] theorem execSeal_bytes (u : State) (path : Path) (s : State) : (u.thenOn (execSeal path s)).bytes = s.bytes := by simp [execSeal]
@[simp] theorem programChunk_bytes (s : State) (slot : Nat) (offset : Nat) : (s.programChunk slot offset).bytes = s.bytes := by
  simp [State.programChunk]
@[simp] theorem commitSlot_bytes (s : State) (slot : Nat) (body : Option Image) : (s.commitSlot slot body).bytes = s.bytes := by
  simp [State.commitSlot]
@[simp] theorem sealBuf_bytes (s : State) : s.sealBuf.bytes = s.bytes := by simp [State.sealBuf]
@[simp] theorem execCfgsOperationDone_bytes (u : State) (failed : Bool) (body : Option Image) (s : State) :
    (u.thenOn (execCfgsOperationDone failed body s)).bytes = s.bytes := by
  unfold execCfgsOperationDone
  rw [thenOn_next]
  split <;> simp
@[simp] theorem putRecord_bytes (s : State) (k : Nat) (l : List Byte) : (s.putRecord k l).bytes = s.bytes := by simp [State.putRecord]
@[simp] theorem compactLog_bytes (s : State) : s.compactLog.bytes = s.bytes := by
  unfold State.compactLog
  split
  · rfl
  · extract_lets half t u v
    have ht : t.bytes = s.bytes := foldl_bytes (fun a n => putRecord_bytes ..) ..
    have hu : u.bytes = t.bytes := foldl_bytes (fun a d => eraseFlash_bytes ..) ..
    have hv : v.bytes = u.bytes := foldl_bytes (fun a e => setHealth_bytes ..) ..
    exact (modMod_bytes ..).trans (hv.trans (hu.trans ht))
@[simp] theorem logEntry_bytes (s : State) (u : Nat) (h : Health) : (s.logEntry u h).bytes = s.bytes := by simp [State.logEntry]
@[simp] theorem writeHealth_bytes (s : State) (f : Health → Bool) :
    (s.writeHealth f).bytes = s.bytes := foldl_bytes (fun _ _ => logEntry_bytes ..) _ _
@[simp] theorem execHealthRecordWrite_bytes (u : State) (s : State) : (u.thenOn (execHealthRecordWrite s)).bytes = s.bytes := by
  simp [execHealthRecordWrite]
@[simp] theorem revertHealth_bytes (s : State) : s.revertHealth.bytes = s.bytes := by simp [State.revertHealth]

/-! ### The functions of Machine/Bringup -/

@[simp] theorem coldReset_canon (s : State) : canon s.coldReset.bytes := canon_nil
@[simp] theorem warmReset_canon (s : State) : canon s.warmReset.bytes := by
  obtain ⟨-, hs, hd⟩ := warmReset_boot s
  rw [State.bytes, hs, hd]
  exact canon_nil
@[simp] theorem imageLocked_bytes (s : State) (im : Image) : (s.imageLocked im).bytes = s.bytes := by simp [State.imageLocked]
@[simp] theorem imageRuntime_bytes (s : State) (im : Image) : (s.imageRuntime im).bytes = s.bytes := by simp [State.imageRuntime]
@[simp] theorem enterCores_bytes (s : State) (im : Image) : (s.enterCores im).bytes = s.bytes := by simp [State.enterCores]
@[simp] theorem enterUnits_bytes (s : State) : s.enterUnits.bytes = s.bytes := by
  unfold State.enterUnits
  refine foldl_bytes (fun t e => ?_) _ s
  dsimp only
  split <;> simp
@[simp] theorem testUnits_bytes (s : State) (b : BringUp) : (s.testUnits b).bytes = s.bytes := by simp [State.testUnits]
@[simp] theorem goReady_bytes (s : State) (b : BringUp) : (s.goReady b).bytes = s.bytes := by simp [State.goReady]
@[simp] theorem bringUp_bytes (s : State) (im : Image) (b : BringUp) : (s.bringUp im b).bytes = s.bytes := by simp [State.bringUp]
@[simp] theorem goSafe_bytes (s : State) : s.goSafe.bytes = s.bytes := by simp [State.goSafe]
@[simp] theorem coldBringUp_bytes (s : State) (b : BringUp) : (s.coldBringUp b).bytes = s.bytes := by
  unfold State.coldBringUp
  extract_lets ra rb t u v w
  have hu : u.bytes = s.bytes := by simp [u, t]
  have hv : v.bytes = s.bytes := (setF_bytes ..).trans hu
  have hi : ∀ (x : State) im, x.bytes = s.bytes → ((({ x with image := some im } : State).imageLocked im).bringUp im b).bytes = s.bytes :=
    fun x im hx => (bringUp_bytes ..).trans ((imageLocked_bytes ..).trans hx)
  clear_value u v
  split
  · split
    · exact hi _ _ hu
    · exact (goSafe_bytes _).trans hu
  · split
    · exact ite_bytes_eq ((goSafe_bytes _).trans hv) (hi _ _ (by simpa [w] using hv))
    · exact (goSafe_bytes _).trans hv
@[simp] theorem powerOff_canon (s : State) : canon s.powerOff.bytes := canon_nil
@[simp] theorem execPowerOn_canon (u : State) (b : BringUp) (s : State) (hs : canon s.bytes) : canon (u.thenOn (execPowerOn b s)).bytes := by
  simp [execPowerOn, hs]
@[simp] theorem execInputLoss_canon (u : State) (s : State) : canon (u.thenOn (execInputLoss s)).bytes := by
  simp [execInputLoss]
@[simp] theorem execModRstNAssert_canon (u : State) (held : Bool) (b : BringUp) (s : State) (hs : canon s.bytes) :
    canon (u.thenOn (execModRstNAssert held b s)).bytes := by
  simp [execModRstNAssert, hs]
theorem restart_keeps {P : Memory × Memory → Prop} {go : State → State} (hg : ∀ t : State, P t.bytes → P (go t).bytes) {s : State}
    (hs : P s.bytes) (path : Path) (b : Bool) : P (s.restart path b go).bytes := by
  unfold State.restart
  dsimp only
  split_ifs
  · exact hs
  · exact hg _ hs
  · exact hs
@[simp] theorem beforeRestart_canon (s : State) (hs : canon s.bytes) : canon s.beforeRestart.bytes := by
  simp only [State.beforeRestart, writeHealth_bytes]
  refine foldl_keepsBytes (fun t k ht => ite_keeps ?_ ht) _ (foldl_keepsBytes (fun t p ht => ite_keeps ht (by simp [ht])) _ (by simpa using hs))
  rw [endAdmin_bytes]
  exact foldl_keepsBytes (fun u o hu => cancelOrder_canon u o hu) _ ht
@[simp] theorem execWarmRestart_canon (u : State) (path : Path) (b : BringUp) (s : State) (hs : canon s.bytes) :
    canon (u.thenOn (execWarmRestart path b s)).bytes := by
  unfold execWarmRestart; rw [thenOn_next]
  refine restart_keeps (fun t ht => ?_) hs path false
  split
  · exact ht
  · rw [bringUp_bytes]
    refine foldl_keepsBytes (fun v k hv => ?_) _ (foldl_keepsBytes (fun v p hv => by rwa [setB_bytes]) _ ?_)
    · split
      · exact hv
      · exact hv
    · rw [setB_bytes, setF_bytes, modMod_bytes]
      exact warmReset_canon _
@[simp] theorem execFullReload_canon (u : State) (path : Path) (b : BringUp) (s : State) (hs : canon s.bytes) :
    canon (u.thenOn (execFullReload path b s)).bytes := by
  unfold execFullReload; rw [thenOn_next]
  exact restart_keeps (fun t _ => by simp) hs path true
@[simp] theorem enterStandby_canon (s : State) (gone : Nat → Bool) : canon (s.enterStandby gone).bytes := by
  have h : (s.enterStandby gone).bytes = ([], []) := by simp [State.enterStandby]
  rw [h]
  exact canon_nil
@[simp] theorem execThermTrip_canon (u : State) (d : DieIx) (s : State) : canon (u.thenOn (execThermTrip d s)).bytes := by
  simp [execThermTrip]
@[simp] theorem execStandbyRequest_canon (u : State) (path : Path) (s : State) (hs : canon s.bytes) :
    canon (u.thenOn (execStandbyRequest path s)).bytes := by
  unfold execStandbyRequest; rw [thenOn_next]
  exact ifAdmitted_keeps (fun t ht => ite_keeps ht (ite_keeps (by simp [ht]) (by simp))) hs path

/-! ### The functions of Machine/Ports -/

@[simp] theorem linkState_bytes (s : State) (port : Nat) (sub : Nat) (on : Bool) : (s.linkState port sub on).bytes = s.bytes := by
  simp [State.linkState]
@[simp] theorem execLinkUp_bytes (u : State) (port : Fin 34) (sub : Fin 8) (s : State) : (u.thenOn (execLinkUp port sub s)).bytes = s.bytes := by
  simp [execLinkUp]
@[simp] theorem execLinkDown_bytes (u : State) (port : Fin 34) (sub : Fin 8) (s : State) : (u.thenOn (execLinkDown port sub s)).bytes = s.bytes := by
  simp [execLinkDown]
@[simp] theorem drainChan_bytes (a b n k : Nat) (s : State) : (s.drainChan a b n k).bytes = s.bytes := by
  induction k generalizing s with
  | zero => rfl
  | succ k ih =>
    unfold State.drainChan
    extract_lets c ch
    split
    · rfl
    · exact ite_bytes_eq rfl ((ih _).trans ((sendOn_bytes ..).trans (setConn_bytes ..)))
@[simp] theorem ackChan_bytes (s : State) (sub : Nat) (peer : Nat) (n : Nat) (cum : Nat) : (s.ackChan sub peer n cum).bytes = s.bytes := by
  simp [State.ackChan]
@[simp] theorem execAck_bytes (u : State) (sub : Fin 256) (f : KlFrame) (ch : Fin 3) (s : State) : (u.thenOn (execAck sub f ch s)).bytes = s.bytes :=
  by
  simp [execAck]
@[simp] theorem refuseFrame_bytes (s : State) (sub : Nat) (f : KlFrame) : (s.refuseFrame sub f).bytes = s.bytes := by
  unfold State.refuseFrame
  split <;> simp
@[simp] theorem execKlRetransmitTimeout_bytes (u : State) (sub : Fin 256) (peer : BitVec 14) (ch : Fin 3) (seq : BitVec 32) (s : State) :
    (u.thenOn (execKlRetransmitTimeout sub peer ch seq s)).bytes = s.bytes := by
  unfold execKlRetransmitTimeout
  rw [thenOn_next]
  extract_lets c q
  split
  · rfl
  · refine ite_bytes_eq rfl (ite_bytes_eq ((emit_bytes ..).trans (setConn_bytes ..)) ?_)
    split
    · exact (foldl_bytes (fun t g => sendOn_bytes ..) _ _).trans (setConn_bytes ..)
    · exact (foldl_bytes (fun t g => refuseFrame_bytes ..) _ _).trans (setConn_bytes ..)
@[simp] theorem setPause_bytes (s : State) (sub : Nat) (prio : Nat) (quanta : Nat) : (s.setPause sub prio quanta).bytes = s.bytes := by
  simp [State.setPause]
@[simp] theorem execPfcFrame_bytes (u : State) (sub : Fin 256) (l : List (Fin 8 × BitVec 16)) (s : State) :
    (u.thenOn (execPfcFrame sub l s)).bytes = s.bytes := by
  simp [execPfcFrame]
@[simp] theorem execPfcPauseExpiry_bytes (u : State) (sub : Fin 256) (prio : Fin 8) (s : State) :
    (u.thenOn (execPfcPauseExpiry sub prio s)).bytes = s.bytes := by
  simp [execPfcPauseExpiry]
@[simp] theorem pfcSend_bytes (s : State) (sub : Nat) (prio : Nat) (over_ : Bool) : (s.pfcSend sub prio over_).bytes = s.bytes := by
  simp [State.pfcSend]
@[simp] theorem negotiate_bytes (s : State) (sub : Nat) (peer : Nat) (bitmap : Nat) : (s.negotiate sub peer bitmap).bytes = s.bytes := by
  simp [State.negotiate]
@[simp] theorem execHello_bytes (u : State) (sub : Fin 256) (f : KlFrame) (s : State) : (u.thenOn (execHello sub f s)).bytes = s.bytes := by
  unfold execHello
  dsimp only
  split <;> simp
@[simp] theorem execHelloAck_bytes (u : State) (sub : Fin 256) (f : KlFrame) (s : State) : (u.thenOn (execHelloAck sub f s)).bytes = s.bytes := by
  unfold execHelloAck
  dsimp only
  split <;> simp
@[simp] theorem execHelloRetry_bytes (u : State) (sub : Fin 256) (peer : BitVec 14) (s : State) :
    (u.thenOn (execHelloRetry sub peer s)).bytes = s.bytes := by
  simp [execHelloRetry]
@[simp] theorem klTake_bytes (s : State) (sub : Nat) (f : KlFrame) : (s.klTake sub f).bytes = s.bytes := by
  unfold State.klTake
  refine ite_bytes_eq rfl ?_
  exact (emit_bytes ..).trans ((setConn_bytes ..).trans (ackChan_bytes ..))
@[simp] theorem execFrameReceive_bytes (u : State) (sub : Fin 256) (r : RxFrame) (flow : List (Fin 8 × Bool)) (s : State) :
    (u.thenOn (execFrameReceive sub r flow s)).bytes = s.bytes := by
  unfold execFrameReceive
  rw [thenOn_next]
  extract_lets e port t v f x
  have hv : v.bytes = s.bytes := (bumpF_bytes ..).trans (foldl_bytes (fun u y => pfcSend_bytes ..) _ s)
  have hx : x.bytes = s.bytes := (bumpF_bytes ..).trans hv
  clear_value v x
  have hb : ∀ g i, (v.bumpF g i 1).bytes = s.bytes := fun g i => (bumpF_bytes ..).trans hv
  have hm : ∀ q, (x.modEdge e q).bytes = s.bytes := fun q => (modEdge_bytes ..).trans hx
  have hk : (v.klTake sub f).bytes = s.bytes := (klTake_bytes ..).trans hv
  refine ite_bytes_eq (hb ..) (ite_bytes_eq (hb ..) (ite_bytes_eq (ite_bytes_eq hx (ite_bytes_eq (hm _) ?_)) ?_))
  · exact (raise_bytes ..).trans ((modEdge_bytes ..).trans (hm _))
  · simp [hb, hk, hv]
@[simp] theorem execExceptionService_bytes (u : State) (e : EdgeIx) (s : State) : (u.thenOn (execExceptionService e s)).bytes = s.bytes := by
  unfold execExceptionService
  dsimp only
  split <;> simp
@[simp] theorem execActivation_bytes (u : State) (sub : Fin 256) (f : KlFrame) (s : State) : (u.thenOn (execActivation sub f s)).bytes = s.bytes := by
  unfold execActivation
  dsimp only
  split <;> simp
@[simp] theorem execToken_bytes (u : State) (f : KlFrame) (s : State) : (u.thenOn (execToken f s)).bytes = s.bytes := by
  unfold execToken
  dsimp only
  split <;> simp

/-! ### The functions of Machine/Window -/

@[simp] theorem wakeSpad_bytes (s : State) (c : Nat) : (s.wakeSpad c).1.bytes = s.bytes := by
  simp [State.wakeSpad, apply_ite Prod.fst]
@[simp] theorem windowRead_bytes (s : State) (path : Path) (off size : Nat) : (s.windowRead path off size).1.bytes = s.bytes := by
  unfold State.windowRead
  extract_lets held t x
  have ht : t.bytes = s.bytes := modFn_bytes ..
  clear_value t x held
  split
  · exact ht
  · split
    · exact ht
    · dsimp only
      split
      · simp [apply_ite Prod.fst, ht]
      · split
        · exact ht
        · split
          · exact (modFn_bytes ..).trans ht
          · cases held <;> exact ht
      · exact ht
@[simp] theorem plainWrite_bytes (s : State) (r : Reg) (i : Nat) (b : Nat) (v : Nat) : (s.plainWrite r i b v).bytes = s.bytes := by
  simp [State.plainWrite]
@[simp] theorem pinmux_bytes (s : State) (v : Nat) : (s.pinmux v).bytes = s.bytes := by simp [State.pinmux]
@[simp] theorem modeWrite_canon (s : State) (path : Path) (v : BitVec 32) (hs : canon s.bytes) : canon (s.modeWrite path v).bytes := by
  unfold State.modeWrite
  dsimp only
  have h1 : canon (if bit v 8 = true then s.setB F.pwrMode_error 0 false else s).bytes := ite_keeps (by simpa using hs) hs
  have h2 : ∀ t : State, canon t.bytes → canon (if bit v 2 = true then t.thenOn (execStewardSet path t) else t).bytes :=
    fun t ht => ite_keeps (by simpa using ht) ht
  have h3 : ∀ t : State, canon t.bytes → canon (if bit v 3 = true then t.thenOn (execStewardModeLeft path t) else t).bytes :=
    fun t ht => ite_keeps (by simpa using ht) ht
  refine h3 _ (h2 _ ?_)
  split <;> simp [hs]
@[simp] theorem leakWrite_bytes (s : State) (v : BitVec 32) : (s.leakWrite v).bytes = s.bytes := by simp [State.leakWrite]
@[simp] theorem writeReg_canon (s : State) (path : Path) (r : Reg) (i : Nat) (b : Nat) (v : BitVec 32) (hs : canon s.bytes) :
    canon (s.writeReg path r i b v).bytes := by
  unfold State.writeReg
  repeat' split
  all_goals simp [hs]
@[simp] theorem spadWindow_canon (s : State) (c : Nat) (off : Nat) (size : Nat) (v : Nat) (hs : canon s.bytes) :
    canon (s.spadWindow c off size v).bytes := by
  simp [State.spadWindow, hs]
@[simp] theorem write4_canon (s : State) (path : Path) (off : Nat) (v : BitVec 32) (hs : canon s.bytes) : canon (s.write4 path off v).bytes := by
  unfold State.write4
  extract_lets t
  refine ite_keeps hs ?_
  cases t with
  | reg r i b => simp [hs]
  | area a o =>
    cases a with
    | spad c => exact ite_keeps (by simp [hs]) (by simpa using hs)
    | _ => simp [hs]
  | _ => exact hs
@[simp] theorem windowWrite_canon (s : State) (path : Path) (off : Nat) (size : Nat) (v : Word) (hs : canon s.bytes) :
    canon (s.windowWrite path off size v).bytes := by
  simp [State.windowWrite, hs]
@[simp] theorem windowAccess_canon (s : State) (path : Path) (off : Nat) (size : Nat) (data : Option Word) (hs : canon s.bytes) :
    canon (s.windowAccess path off size data).bytes := by
  unfold State.windowAccess
  split <;> simp [hs]
@[simp] theorem execRegisterWrite_canon (u : State) (path : Path) (off : BitVec 26) (size : Fin 9) (v : Word) (s : State) (hs : canon s.bytes) :
    canon (u.thenOn (execRegisterWrite path off size v s)).bytes := by
  simp [execRegisterWrite, hs]
@[simp] theorem execLatchedRead_canon (u : State) (path : Path) (off : BitVec 26) (size : Fin 9) (s : State) (hs : canon s.bytes) :
    canon (u.thenOn (execLatchedRead path off size s)).bytes := by
  simp [execLatchedRead, hs]
@[simp] theorem execApertureAccess_canon (u : State) (path : Path) (off : BitVec 24) (size : Fin 9) (data : Option Word) (s : State) (hs : canon
    s.bytes) : canon (u.thenOn (execApertureAccess path off size data s)).bytes := by
  unfold execApertureAccess
  split <;> simp [hs]
@[simp] theorem execScratchpadWindowAccess_canon (u : State) (path : Path) (off : BitVec 24) (size : Fin 9) (data : Option Word) (corrected : Bool)
    (bad : Bool) (s : State) (hs : canon s.bytes) : canon (u.thenOn (execScratchpadWindowAccess path off size data corrected bad s)).bytes := by
  unfold execScratchpadWindowAccess; rw [thenOn_next]
  split
  · simp [hs]
  · refine windowAccess_canon _ _ _ _ _ ?_
    dsimp only
    split
    · exact ite_keeps (ite_keeps (by simp [hs]) (ite_keeps hs (by simpa using hs))) hs
    · exact hs
@[simp] theorem execScratchpadRetentionReturn_bytes (u : State) (c : CoreIx) (s : State) :
    (u.thenOn (execScratchpadRetentionReturn c s)).bytes = s.bytes := by
  simp [execScratchpadRetentionReturn]

/-! ### The functions of Machine/Manage -/

@[simp] theorem execMgmtOrder_bytes (u : State) (m : Fin 2) (src : Nat) (magic : BitVec 16) (ver : BitVec 8) (entry : Row) (s : State) :
    (u.thenOn (execMgmtOrder m src magic ver entry s)).bytes = s.bytes := by
  simp [execMgmtOrder]
@[simp] theorem execMgmtRegisterRead_bytes (u : State) (m : Fin 2) (src : Nat) (magic : BitVec 16) (ver : BitVec 8) (seq : BitVec 32) (off : BitVec
    26) (size : Fin 9) (s : State) : (u.thenOn (execMgmtRegisterRead m src magic ver seq off size s)).bytes = s.bytes := by
  simp [execMgmtRegisterRead]
@[simp] theorem execMgmtRegisterWrite_canon (u : State) (m : Fin 2) (src : Nat) (magic : BitVec 16) (ver : BitVec 8) (off : BitVec 26) (size : Fin 9)
    (v : Word) (s : State) (hs : canon s.bytes) : canon (u.thenOn (execMgmtRegisterWrite m src magic ver off size v s)).bytes := by
  simp [execMgmtRegisterWrite, hs]
@[simp] theorem execMgmtChallenge_bytes (u : State) (m : Fin 2) (src : Nat) (magic : BitVec 16) (ver : BitVec 8) (seq : BitVec 32) (s : State) :
    (u.thenOn (execMgmtChallenge m src magic ver seq s)).bytes = s.bytes := by
  simp [execMgmtChallenge]
@[simp] theorem answerSmbus_bytes (s : State) (target : Fin 2) (code : Nat) (value : Nat) : (s.answerSmbus target code value).bytes = s.bytes := by
  simp [State.answerSmbus]
@[simp] theorem execPoutMax_bytes (u : State) (target : Fin 2) (w : Option (BitVec 16)) (s : State) :
    (u.thenOn (execPoutMax target w s)).bytes = s.bytes := by
  unfold execPoutMax
  dsimp only
  split <;> simp
@[simp] theorem execStatusWord_bytes (u : State) (target : Fin 2) (s : State) : (u.thenOn (execStatusWord target s)).bytes = s.bytes := by
  simp [execStatusWord]
@[simp] theorem execReadVin_bytes (u : State) (target : Fin 2) (s : State) : (u.thenOn (execReadVin target s)).bytes = s.bytes := by
  simp [execReadVin]
@[simp] theorem execReadIin_bytes (u : State) (target : Fin 2) (s : State) : (u.thenOn (execReadIin target s)).bytes = s.bytes := by
  simp [execReadIin]
@[simp] theorem execReadTemperature1_bytes (u : State) (target : Fin 2) (inlet : BitVec 8) (s : State) :
    (u.thenOn (execReadTemperature1 target inlet s)).bytes = s.bytes := by
  simp [execReadTemperature1]
@[simp] theorem execReadPout_bytes (u : State) (target : Fin 2) (s : State) : (u.thenOn (execReadPout target s)).bytes = s.bytes := by
  simp [execReadPout]
@[simp] theorem execAlertResponse_bytes (u : State) (s : State) : (u.thenOn (execAlertResponse s)).bytes = s.bytes := by simp [execAlertResponse]
@[simp] theorem execUartCommand_bytes (u : State) (line : List Byte) (s : State) : (u.thenOn (execUartCommand line s)).bytes = s.bytes := by
  simp [execUartCommand]
@[simp] theorem execBypass_bytes (u : State) (s : State) : (u.thenOn (execBypass s)).bytes = s.bytes := by simp [execBypass]
@[simp] theorem execIdcode_bytes (u : State) (s : State) : (u.thenOn (execIdcode s)).bytes = s.bytes := by simp [execIdcode]
@[simp] theorem execSamplePreload_bytes (u : State) (pins : Nat) (load : Nat) (s : State) : (u.thenOn (execSamplePreload pins load s)).bytes = s.bytes :=
  by
  simp [execSamplePreload]
@[simp] theorem execExtest_bytes (u : State) (pins : Nat) (load : Nat) (s : State) : (u.thenOn (execExtest pins load s)).bytes = s.bytes := by
  simp [execExtest]
@[simp] theorem execPwrcapWindow_bytes (u : State) (duty : Fin 1001) (s : State) : (u.thenOn (execPwrcapWindow duty s)).bytes = s.bytes := by
  simp [execPwrcapWindow]
@[simp] theorem execPwrcapLevelChange_bytes (u : State) (high : Bool) (s : State) : (u.thenOn (execPwrcapLevelChange high s)).bytes = s.bytes := by
  simp [execPwrcapLevelChange]
@[simp] theorem execPinmuxSwitch_bytes (u : State) (path : Path) (v : BitVec 32) (s : State) : (u.thenOn (execPinmuxSwitch path v s)).bytes = s.bytes :=
  by
  simp [execPinmuxSwitch]
@[simp] theorem execPinmuxSwitchEnd_bytes (u : State) (pin : Fin 13) (s : State) : (u.thenOn (execPinmuxSwitchEnd pin s)).bytes = s.bytes := by
  simp [execPinmuxSwitchEnd]
@[simp] theorem execFlowTachPulse_bytes (u : State) (s : State) : (u.thenOn (execFlowTachPulse s)).bytes = s.bytes := by simp [execFlowTachPulse]
@[simp] theorem execLedTestPulse_bytes (u : State) (n : Fin 4) (low : Bool) (s : State) : (u.thenOn (execLedTestPulse n low s)).bytes = s.bytes := by
  simp [execLedTestPulse]

/-! ### Every command and every step -/

/-- Every command keeps scratchpads and DRAM in their canonical form: those listed write them, the others leave both as they are. -/
theorem exec_canon (u : State) (i : Instr) (s : State) (hs : canon s.bytes) : canon (u.thenOn (exec i s)).bytes := by
  cases i with
  | powerOn => exact execPowerOn_canon (hs := hs) ..
  | inputLoss => exact execInputLoss_canon ..
  | modRstNAssert => exact execModRstNAssert_canon (hs := hs) ..
  | warmRestart => exact execWarmRestart_canon (hs := hs) ..
  | fullReload => exact execFullReload_canon (hs := hs) ..
  | endProgram => exact execEnd_canon (hs := hs) ..
  | stream => exact execStream_canon (hs := hs) ..
  | vecAdd => exact execVecAdd_canon (hs := hs) ..
  | vecSub => exact execVecSub_canon (hs := hs) ..
  | vecMul => exact execVecMul_canon (hs := hs) ..
  | vecFma => exact execVecFma_canon (hs := hs) ..
  | vecMax => exact execVecMax_canon (hs := hs) ..
  | vecMin => exact execVecMin_canon (hs := hs) ..
  | vecCmpEq => exact execVecCmpEq_canon (hs := hs) ..
  | vecCmpLt => exact execVecCmpLt_canon (hs := hs) ..
  | vecCmpLe => exact execVecCmpLe_canon (hs := hs) ..
  | vecCvt => exact execVecCvt_canon (hs := hs) ..
  | vecExp => exact execVecExp_canon (hs := hs) ..
  | vecRecip => exact execVecRecip_canon (hs := hs) ..
  | vecRsqrt => exact execVecRsqrt_canon (hs := hs) ..
  | vecRsum => exact execVecRsum_canon (hs := hs) ..
  | vecRmax => exact execVecRmax_canon (hs := hs) ..
  | vecBexp => exact execVecBexp_canon (hs := hs) ..
  | vecQgrid => exact execVecQgrid_canon (hs := hs) ..
  | vecMxscale => exact execVecMxscale_canon (hs := hs) ..
  | sparseTile => exact execSparseTile_canon (hs := hs) ..
  | gather => exact execGather_canon (hs := hs) ..
  | packetIssue => exact execPacketIssue_canon (hs := hs) ..
  | writeData => exact execWriteData_canon (hs := hs) ..
  | readResponse => exact execReadResponse_canon (hs := hs) ..
  | refusedAcknowledgement => exact execRefusedAcknowledgement_canon (hs := hs) ..
  | corePushData => exact execCorePushData_canon (hs := hs) ..
  | mirrorData => exact execMirrorData_canon (hs := hs) ..
  | streamDelivery => exact execStreamDelivery_canon (hs := hs) ..
  | exponentContribution => exact execExponentContribution_canon (hs := hs) ..
  | agreedBytes => exact execAgreedBytes_canon (hs := hs) ..
  | contribution => exact execContribution_canon (hs := hs) ..
  | retraction => exact execRetraction_canon (hs := hs) ..
  | rawResend => exact execRawResend_canon (hs := hs) ..
  | treeContribution => exact execTreeContribution_canon (hs := hs) ..
  | tagTimeout => exact execTagTimeout_canon (hs := hs) ..
  | groupResolved => exact execGroupResolved_canon (hs := hs) ..
  | barRelease => exact execBarRelease_canon (hs := hs) ..
  | proofToken => exact execProofToken_canon (hs := hs) ..
  | retractToken => exact execRetractToken_canon (hs := hs) ..
  | hold => exact execHold_canon (hs := hs) ..
  | sessionTimeout => exact execSessionTimeout_canon (hs := hs) ..
  | closeSession => exact execClose_canon (hs := hs) ..
  | teardownDone => exact execTeardownDone_canon (hs := hs) ..
  | sharedExtentZeroing => exact execSharedExtentZeroing_canon (hs := hs) ..
  | resume => exact execResume_canon (hs := hs) ..
  | cancelKind0 => exact execCancelKind0_canon (hs := hs) ..
  | cancelKind1 => exact execCancelKind1_canon (hs := hs) ..
  | feedTransfer => exact execFeedTransfer_canon (hs := hs) ..
  | recoveryDrainDone => exact execRecoveryDrainDone_canon (hs := hs) ..
  | mirrorRestoreDone => exact execMirrorRestoreDone_canon (hs := hs) ..
  | reduceMemberLost => exact execReduceMemberLost_canon (hs := hs) ..
  | expMax => exact execExpMax_canon (hs := hs) ..
  | moduleSum => exact execModuleSum_canon (hs := hs) ..
  | flrVf => exact execFlrVf_canon (hs := hs) ..
  | flrPf => exact execFlrPf_canon (hs := hs) ..
  | hotReset => exact execHotReset_canon (hs := hs) ..
  | vfEnableClear => exact execVfEnableClear_canon (hs := hs) ..
  | mgmtRegisterWrite => exact execMgmtRegisterWrite_canon (hs := hs) ..
  | thermTrip => exact execThermTrip_canon ..
  | standbyRequest => exact execStandbyRequest_canon (hs := hs) ..
  | scratchpadWindowAccess => exact execScratchpadWindowAccess_canon (hs := hs) ..
  | apertureAccess => exact execApertureAccess_canon (hs := hs) ..
  | latchedRead => exact execLatchedRead_canon (hs := hs) ..
  | registerWrite => exact execRegisterWrite_canon (hs := hs) ..
  | perstAssert => exact execPerstAssert_canon (hs := hs) ..
  | cxlMemCompletion => exact execCxlMemCompletion_canon (hs := hs) ..
  | capsuleLoadDone => exact execCapsuleLoadDone_canon (hs := hs) ..
  | restoreDone => exact execRestoreDone_canon (hs := hs) ..
  | moduleHoldExitDone => exact execModuleHoldExitDone_canon (hs := hs) ..
  | _ => simpa [exec] using hs
/-- Settles O53: what steps write, they write in canonical form. -/
theorem memoryStaysCanonical : Obligations.MemoryStaysCanonical := by
  intro s t hs h
  have hw : canon (s.thenOn (step s)).bytes := by
    unfold step
    split
    · rwa [thenOn_next, tick_bytes]
    · exact exec_canon _ _ _ hs
  rwa [h, thenOn_next] at hw

end Sys2Proof.Machine
end

section
/-! SUPPORT. What taking a descriptor changes (R57 to R63): the observation of a core, the counters, the descriptor put in flight, completed
at once or rejected. -/
namespace Sys2Proof.Machine
open Host

/-! ### What a core's observation can do -/

/-- Registers that observing a core writes, beside those of the fault policy. -/
def obsRegs : List Reg := [.corePhaseStall, .seqRampStall, .vregPoint, .coreSpadEcc, .coreConflictCount, .coreConflictLog]
/-- Observing a core poisons rows, writes its tallies and raises its faults, and does nothing else. -/
def State.observed (s t : State) : Prop :=
  t = { s with regs := t.regs, cores := t.cores, parts := t.parts, ctl := t.ctl, fab := t.fab, evSeq := t.evSeq, evNet := t.evNet,
               spadPoison := t.spadPoison } ∧
  (∀ r i, r ∉ faultRegs ++ obsRegs → t.reg r i = s.reg r i) ∧
  (∀ c, t.core c = { s.core c with state := (t.core c).state, epochFail := (t.core c).epochFail })
theorem State.observed.refl (s : State) : s.observed s := ⟨rfl, fun _ _ _ => rfl, fun _ => rfl⟩
theorem State.observed.trans {s t u : State} (h : s.observed t) (k : t.observed u) : s.observed u := by
  obtain ⟨h1, h2, h3⟩ := h
  obtain ⟨k1, k2, k3⟩ := k
  exact ⟨by rw [k1, h1], fun r i a => (k2 r i a).trans (h2 r i a), fun c => by rw [k3 c, h3 c]⟩
theorem State.faultOnly.observed {s t : State} (h : s.faultOnly t) : s.observed t := by
  obtain ⟨h1, h2, -, h4⟩ := h
  exact ⟨by rw [h1], fun r i a => h2 r i (fun hr => a (List.mem_append_left _ hr)), h4⟩
theorem State.observed.getF {s t : State} (h : s.observed t) (g : RF) (i : Nat) (hg : g.reg ∉ faultRegs ++ obsRegs) : t.getF g i = s.getF g i := by
  simp only [State.getF]; rw [h.2.1 _ _ hg]
theorem setReg_observed (s : State) (r : Reg) (i : Nat) (v : Word) (h : r ∈ obsRegs) : s.observed (s.setReg r i v) :=
  ⟨rfl, fun _ _ a => reg_setReg_ne _ _ _ _ (Or.inl (fun e => a (List.mem_append_right _ (e ▸ h)))), fun _ => rfl⟩
theorem bumpF_observed (s : State) (f : RF) (i n : Nat) (h : f.reg ∈ obsRegs) : s.observed (s.bumpF f i n) := setReg_observed _ _ _ _ h
theorem logF_observed (s : State) (f : RF) (i v : Nat) (h : f.reg ∈ obsRegs) : s.observed (s.logF f i v) := by
  unfold State.logF
  exact iteInduction (motive := fun t => s.observed t) (fun _ => .refl s) (fun _ => setReg_observed _ _ _ _ h)
theorem poisonRows_observed (s : State) (c r n : Nat) : s.observed (s.poisonRows c r n) := ⟨rfl, fun _ _ _ => rfl, fun _ => rfl⟩
theorem clash_observed (c : Nat) (l : List Access) (s : State) : s.observed (s.clash c l) := by
  fun_induction State.clash s c l with
  | case1 s a b t pr w s' ih =>
    exact ((((bumpF_observed s _ _ _ (by decide)).trans (logF_observed _ _ _ _ (by decide))).trans (fault_faultOnly ..).observed)).trans ih
  | case2 => exact .refl _
theorem spadUe_observed (c : Nat) (l : List (Fin 131072)) (s : State) : s.observed (s.spadUe c l) := by
  induction l generalizing s with
  | nil => exact .refl s
  | cons r t ih =>
    exact (iteInduction (motive := fun u => s.observed u) (fun _ => .refl s) (fun _ =>
      ((poisonRows_observed s c r 1).trans (bumpF_observed _ _ _ _ (by decide))).trans (fault_faultOnly ..).observed)).trans (ih _)
theorem observeRows_observed (s : State) (c : Nat) (o : Obs) : s.observed (s.observeRows c o) :=
  foldl_keeps (fun t => s.observed t) _ (fun t _ h => h.trans (clash_observed ..)) _ _
    ((bumpF_observed s _ _ _ (by decide)).trans (spadUe_observed ..))
theorem observe_observed (s : State) (c : Nat) (o : Obs) : s.observed (s.observe c o) := by
  have h : s.observed ((s.bumpF F.corePhaseStall_cycles c o.phaseStall).bumpF F.seqRampStall_cycles c o.rampStall) :=
    (bumpF_observed s _ _ _ (by decide)).trans (bumpF_observed _ _ _ _ (by decide))
  refine (h.trans ?_).trans (observeRows_observed ..)
  unfold State.showWindow
  exact iteInduction (motive := fun t => State.observed _ t) (fun _ => .refl _) (fun _ => setReg_observed _ _ _ _ (by decide))
theorem State.observed.ownerOf {s t : State} (h : s.observed t) (c : Nat) : t.ownerOf c = s.ownerOf c := by rw [h.1]; rfl
theorem taken_ownerOf (s : State) (c d : Nat) (o : Obs) : (s.taken c o).ownerOf d = s.ownerOf d := by rw [(taken_coreOnly s c o).1]; rfl

/-! ### Counters and the pc -/

/-- Nothing differs but the contents of scratchpads. -/
def State.spadOnly (s t : State) : Prop := t = { s with spad := t.spad, spadPoison := t.spadPoison, spadChk := t.spadChk }
theorem State.spadOnly.refl (s : State) : s.spadOnly s := rfl
theorem State.spadOnly.trans {s t u : State} (h : s.spadOnly t) (k : t.spadOnly u) : s.spadOnly u := by
  unfold State.spadOnly at h k ⊢
  rw [k, h]
theorem State.spadOnly.core {s t : State} (h : s.spadOnly t) (c : Nat) : t.core c = s.core c := by rw [h]; rfl
theorem State.spadOnly.getF {s t : State} (h : s.spadOnly t) (g : RF) (i : Nat) : t.getF g i = s.getF g i := by rw [h]; rfl
theorem State.spadOnly.net {s t : State} (h : s.spadOnly t) : t.net = s.net := by rw [h]
/-- Nothing differs but registers and what cores hold. -/
def State.unitsOnly (s t : State) : Prop := t = { s with regs := t.regs, cores := t.cores }
theorem State.unitsOnly.trans {s t u : State} (h : s.unitsOnly t) (k : t.unitsOnly u) : s.unitsOnly u := by
  unfold State.unitsOnly at h k ⊢
  rw [k, h]
theorem State.unitsOnly.memory {s t : State} (h : s.unitsOnly t) : s.sameMemory t := by rw [h]; exact ⟨rfl, rfl, rfl, rfl, rfl, rfl⟩
theorem State.unitsOnly.net {s t : State} (h : s.unitsOnly t) : t.net = s.net := by rw [h]
theorem State.coreOnly.unitsOnly {s t : State} {c : Nat} {l : List Reg} (h : s.coreOnly t c l) : s.unitsOnly t := h.1

/-- A descriptor completed adds one to its counter, which saturates (R63, R68). -/
theorem getF_count (s : State) (c n : Nat) (h : n < 64) :
    (s.count c n).getF F.seqCount_value (c * 64 + n) = min (s.getF F.seqCount_value (c * 64 + n) + 1) (2 ^ 32 - 1) := by
  rw [State.count, if_pos h]
  exact getF_bumpF_same _ _ _ _ (by decide)
theorem count_unitsOnly (s : State) (c n : Nat) : s.unitsOnly (s.count c n) := by
  unfold State.count; split <;> rfl
theorem count_reg (s : State) (c n : Nat) (r : Reg) (i : Nat) (h : r ≠ .seqCount) : (s.count c n).reg r i = s.reg r i := by
  unfold State.count; split
  · exact reg_setF_ne _ _ _ _ _ (Or.inl h)
  · rfl
@[simp] theorem count_core (s : State) (c n d : Nat) : (s.count c n).core d = s.core d := by
  unfold State.count; split <;> rfl
@[simp] theorem countOpt_core (s : State) (c : Nat) (n : Option Nat) (d : Nat) : (s.countOpt c n).core d = s.core d := by
  cases n with
  | none => rfl
  | some n => exact count_core s c n d
/-- What neither the pc nor the open bodies saw has gone as far. -/
theorem State.movedOn.of_same {s t u : State} {c n : Nat} (h : s.movedOn t c n) (hp : u.getF F.seqPc_addr c = t.getF F.seqPc_addr c)
    (hl : (u.core c).loops = (t.core c).loops) : s.movedOn u c n := ⟨hp.trans h.1, hl.trans h.2⟩

/-! ### Descriptors put in flight (R57, R58, R61, R63) -/

/-- What issue does to the core before it puts the descriptor in flight or completes it. -/
def State.numbered (s : State) (c : Nat) (d : Desc) : State :=
  s.modCore c (fun q => { q with
    nextSeq := (q.nextSeq + 1) % 65536
    offered := if d.kind = .reduceSend ∧ bit (BitVec.ofNat 64 d.remote) 31 then
      q.offered ++ [(d.remote % 4096, bits (BitVec.ofNat 64 d.remote) 12 19, d.len)] else q.offered })
/-- A descriptor of no bytes completes at issue (R61). -/
theorem issue_empty (s : State) (c : Nat) (d : Desc) (h : d.len = 0) : s.issue c d = (s.numbered c d).countOpt c d.ctr :=
  if_pos (by simp [h])
/-- A descriptor in flight: the last of its core's. -/
def State.launched (s : State) (c : Nat) (d : Desc) : State :=
  ((if d.kind = .corePush ∨ d.kind = .reduceSend then s.modCore c (fun q => { q with sentLog := q.sentLog ++ [d] }) else s).modCore c
    (fun q => { q with descs := q.descs ++ [d] })).showPhase c
/-- A descriptor that carries bytes goes in flight where no suppression mark stands. -/
theorem issue_open (s : State) (c : Nat) (d : Desc) (h : d.len ≠ 0) (hs : (s.core c).suppress = none) :
    s.issue c d = (s.numbered c d).launched c { d with seq := (s.core c).nextSeq, epoch := s.getF F.seqUstep_epoch c } :=
  if_neg (by simp [h, hs])
/-- Every descriptor taken is numbered, and then completes at once or goes in flight. -/
theorem issue_cases (s : State) (c : Nat) (d : Desc) : s.issue c d = (s.numbered c d).countOpt c d.ctr ∨
    s.issue c d = (s.numbered c d).launched c { d with seq := (s.core c).nextSeq, epoch := s.getF F.seqUstep_epoch c } := ite_eq_or_eq ..
theorem countOpt_unitsOnly (s : State) (c : Nat) (n : Option Nat) : s.unitsOnly (s.countOpt c n) := by
  cases n with
  | none => rfl
  | some n => exact count_unitsOnly s c n
theorem launched_unitsOnly (s : State) (c : Nat) (d : Desc) : s.unitsOnly (s.launched c d) := by
  unfold State.launched; split <;> rfl
/-- Taking a descriptor changes registers and what cores hold alone. -/
theorem issue_unitsOnly (s : State) (c : Nat) (d : Desc) : s.unitsOnly (s.issue c d) := by
  have hn : s.unitsOnly (s.numbered c d) := rfl
  rcases issue_cases s c d with h | h <;> rw [h]
  · exact hn.trans (countOpt_unitsOnly ..)
  · exact hn.trans (launched_unitsOnly ..)
theorem countOpt_getF (s : State) (c : Nat) (n : Option Nat) (g : RF) (i : Nat) (h : g.reg ≠ .seqCount) :
    (s.countOpt c n).getF g i = s.getF g i := by
  cases n with
  | none => rfl
  | some n => exact congrArg (bits · g.lo g.len) (count_reg s c n g.reg i h)
theorem launched_getF (s : State) (c : Nat) (d : Desc) (g : RF) (i : Nat) (h : g.reg ≠ .corePhase) : (s.launched c d).getF g i = s.getF g i := by
  refine (getF_setReg_ne _ _ _ _ _ (Or.inl h)).trans ?_
  split <;> rfl
/-- Of the registers, a descriptor taken writes its counter and the core's phase. -/
theorem issue_getF (s : State) (c : Nat) (d : Desc) (g : RF) (i : Nat) (h : g.reg ≠ .seqCount) (h' : g.reg ≠ .corePhase) :
    (s.issue c d).getF g i = s.getF g i := by
  rcases issue_cases s c d with e | e <;> rw [e]
  · exact countOpt_getF _ _ _ _ _ h
  · exact launched_getF _ _ _ _ _ h'
theorem launched_core (s : State) (c : Nat) (d : Desc) : ((s.launched c d).core c) =
    { s.core c with descs := (s.core c).descs ++ [d], sentLog := ((s.launched c d).core c).sentLog } := by
  simp only [State.launched, State.showPhase, State.setF_core, core_modCore_same]
  split <;> simp
/-- The core counts the descriptor's number; bodies and tags are as they were. -/
theorem issue_core (s : State) (c : Nat) (d : Desc) : ((s.issue c d).core c).nextSeq = ((s.core c).nextSeq + 1) % 65536 ∧
    ((s.issue c d).core c).loops = (s.core c).loops ∧ ((s.issue c d).core c).tags = (s.core c).tags := by
  rcases issue_cases s c d with e | e <;> rw [e]
  · simp [State.numbered]
  · rw [launched_core]
    simp [State.numbered]
/-- A descriptor of no bytes is never in flight. -/
theorem issue_descs_empty (s : State) (c : Nat) (d : Desc) (h : d.len = 0) : ((s.issue c d).core c).descs = (s.core c).descs := by
  rw [issue_empty s c d h, countOpt_core]
  simp [State.numbered]
theorem issue_descs_open (s : State) (c : Nat) (d : Desc) (h : d.len ≠ 0) (hs : (s.core c).suppress = none) :
    ((s.issue c d).core c).descs = (s.core c).descs ++ [{ d with seq := (s.core c).nextSeq, epoch := s.getF F.seqUstep_epoch c }] := by
  rw [issue_open s c d h hs, launched_core]
  simp [State.numbered]
/-- A descriptor that carries bytes counts nothing at issue. -/
theorem issue_count_open (s : State) (c : Nat) (d : Desc) (h : d.len ≠ 0) (hs : (s.core c).suppress = none) (n : Nat) :
    (s.issue c d).getF F.seqCount_value n = s.getF F.seqCount_value n := by
  rw [issue_open s c d h hs, launched_getF _ _ _ _ _ (by decide)]
  rfl
theorem issue_count_empty (s : State) (c : Nat) (d : Desc) (n : Nat) (h : d.len = 0) (hc : d.ctr = some n) (hn : n < 64) :
    (s.issue c d).getF F.seqCount_value (c * 64 + n) = min (s.getF F.seqCount_value (c * 64 + n) + 1) (2 ^ 32 - 1) := by
  rw [issue_empty s c d h, hc]
  exact getF_count _ c n hn

/-! ### DMA instructions (R57, R59) -/

/-- What a core stands at once it has taken an instruction of five words. -/
theorem advance_ready_facts (s : State) (c n : Nat) : s.unitsOnly (s.advance c n) ∧ (∀ g i, g.reg ≠ .seqPc → (s.advance c n).getF g i = s.getF g i) ∧
    (s.advance c n).core c = { s.core c with loops := ((s.advance c n).core c).loops, afterStep := ((s.advance c n).core c).afterStep } :=
  ⟨(advance_movedOn s c n).2.unitsOnly, fun g i h => getF_setReg_ne _ g c i _ (Or.inl h), by simp [State.advance, State.goto]⟩

section
variable {c : Nat} {w0 w1 w2 w3 w4 : Word} {o : Obs} {s : State} {k : DKind}

/-- A ready DMA instruction whose descriptor is accepted. -/
theorem dma_accepted (h : s.ready c w0 false false) (hw : bits w0 0 56 = 0)
    (hr : ((s.taken c o).observe c o).descReason ((s.ownerOf c).getD 255) (DescF.of w1 w2 w3 w4) k = none)
    (hc : (DescF.of w1 w2 w3 w4).compress = false ∨ (DescF.of w1 w2 w3 w4).len = 0) :
    s.dma c w0 w1 w2 w3 w4 o k = (((s.taken c o).observe c o).advance c 5).issue c ((DescF.of w1 w2 w3 w4).desc k) := by
  have ho : (((s.taken c o).observe c o).advance c 5).ownerOf c = s.ownerOf c := (observe_observed _ c o).ownerOf c |>.trans (taken_ownerOf s c c o)
  rw [State.dma, dispatch_ready h]
  dsimp only
  rw [ho, show (((s.taken c o).observe c o).advance c 5).descReason _ _ _ = none from hr]
  have hn : ¬ ((DescF.of w1 w2 w3 w4).compress = true ∧ (DescF.of w1 w2 w3 w4).len ≠ 0) := by
    rintro ⟨a, b⟩
    rcases hc with hc | hc
    · simp [hc] at a
    · exact b hc
  simp [hw, hn]
/-- A ready DMA instruction whose descriptor is rejected. -/
theorem dma_rejected {r : Nat} (h : s.ready c w0 false false) (hw : bits w0 0 56 = 0)
    (hr : ((s.taken c o).observe c o).descReason ((s.ownerOf c).getD 255) (DescF.of w1 w2 w3 w4) k = some r) :
    s.dma c w0 w1 w2 w3 w4 o k = (((s.taken c o).observe c o).advance c 5).rejectDesc c k r (DescF.of w1 w2 w3 w4).ctr
      (DescF.of w1 w2 w3 w4).loc (DescF.of w1 w2 w3 w4).len := by
  have ho : (((s.taken c o).observe c o).advance c 5).ownerOf c = s.ownerOf c := (observe_observed _ c o).ownerOf c |>.trans (taken_ownerOf s c c o)
  rw [State.dma, dispatch_ready h]
  dsimp only
  rw [ho, show (((s.taken c o).observe c o).advance c 5).descReason _ _ _ = some r from hr]
  simp [hw]
end

end Sys2Proof.Machine
end

section
/-! SUPPORT. Rejected descriptors, and the obligations on descriptors: O56, O17 and O18. -/
namespace Sys2Proof.Machine
open Host

/-! ### Rejection (R59) -/

/-- Poisoning rows adds those of the scratchpad to the poisoned ones. -/
theorem rowPoison_poisonRows (s : State) (c r n k : Nat) (h : r ≤ k) (h' : k < r + n) (hk : k < spadRows) :
    (s.poisonRows c r n).rowPoison c k = true := by
  have add : ∀ (l : List Nat) (t : NSet), (t.contains (c * 2 ^ 18 + k) = true ∨ k ∈ l) →
      (l.foldl (fun t k => NSet.add (c * 2 ^ 18 + k) t) t).contains (c * 2 ^ 18 + k) = true := by
    intro l
    induction l with
    | nil => intro t ht; simpa using ht
    | cons a l ih =>
      intro t ht
      refine ih _ ?_
      simp only [NSet.contains_add, Bool.or_eq_true, decide_eq_true_eq, List.mem_cons] at ht ⊢
      rcases ht with ht | rfl | ht
      · exact Or.inl (Or.inr ht)
      · exact Or.inl (Or.inl rfl)
      · exact Or.inr ht
  exact add _ _ (Or.inr (List.mem_filter.2 ⟨mem_rangeFrom.2 ⟨h, h'⟩, by simpa using hk⟩))
/-- A log register that held nothing shows what it took. -/
theorem getF_logF_fresh (s : State) (f g : RF) (i v : Nat) (h : s.getF f i = 0) (hg : g.reg = f.reg) :
    (s.logF f i v).getF g i = bits (BitVec.ofNat 64 (v + 2 ^ f.lo)) g.lo g.len := by
  rw [State.logF, if_neg (by simp [State.flagF, h]), State.getF, hg, reg_setReg_same]
theorem logF_getF_ne (s : State) (f g : RF) (i j v : Nat) (h : g.reg ≠ f.reg) : (s.logF f i v).getF g j = s.getF g j := by
  unfold State.logF; split
  · rfl
  · exact getF_setReg_ne _ _ _ _ _ (Or.inl h)
/-- What a rejected descriptor leaves in the log where it was clear: its reason and its sequence number. -/
theorem descError_fields (s : State) (c r seq : Nat) (h : s.getF F.dmaDescError_valid c = 0) (hr : r < 16) :
    (s.logF F.dmaDescError_valid c (r + (seq % 65536) <<< 4)).getF F.dmaDescError_valid c = 1 ∧
    (s.logF F.dmaDescError_valid c (r + (seq % 65536) <<< 4)).getF F.dmaDescError_reason c = r ∧
    (s.logF F.dmaDescError_valid c (r + (seq % 65536) <<< 4)).getF F.dmaDescError_seq c = seq % 65536 := by
  have hs : seq % 65536 < 65536 := Nat.mod_lt _ (by decide)
  generalize seq % 65536 = q at hs
  have hw : (BitVec.ofNat 64 (r + q <<< 4 + 2 ^ 63)).toNat = r + q * 16 + 2 ^ 63 := by
    rw [BitVec.toNat_ofNat, Nat.shiftLeft_eq]
    exact Nat.mod_eq_of_lt (by omega)
  rw [getF_logF_fresh s _ F.dmaDescError_valid c _ h rfl, getF_logF_fresh s _ F.dmaDescError_reason c _ h rfl,
    getF_logF_fresh s _ F.dmaDescError_seq c _ h rfl]
  refine ⟨?_, ?_, ?_⟩ <;> simp only [bits, F.dmaDescError_valid, F.dmaDescError_reason, F.dmaDescError_seq, hw, Nat.shiftRight_eq_div_pow] <;> omega

/-- A rejected descriptor before its fault is raised: numbered, its inbound rows poisoned. -/
def State.refusedDesc (s : State) (c : Nat) (k : DKind) (loc len : Nat) : State :=
  let t := s.modCore c (fun q => { q with nextSeq := (q.nextSeq + 1) % 65536 })
  if k.inbound then t.poisonRows c (loc / 64) (cdiv (loc % 64 + len) 64) else t
/-- A rejected descriptor is numbered, logged, raised as a fault and counted. -/
theorem rejectDesc_eq (s : State) (c : Nat) (k : DKind) (r ctr loc len : Nat) : s.rejectDesc c k r ctr loc len =
    (((s.refusedDesc c k loc len).logF F.dmaDescError_valid c (r + ((s.core c).nextSeq % 65536) <<< 4)).fault c .dmaDescError
      (r + ((s.core c).nextSeq % 65536) <<< 4 + 2 ^ 63)).count c ctr := rfl
theorem refusedDesc_facts (s : State) (c : Nat) (k : DKind) (loc len : Nat) : (s.refusedDesc c k loc len).net = s.net ∧
    (s.refusedDesc c k loc len).spad = s.spad ∧ (s.refusedDesc c k loc len).dram = s.dram ∧
    (∀ g i, (s.refusedDesc c k loc len).getF g i = s.getF g i) ∧
    (s.refusedDesc c k loc len).core c = { s.core c with nextSeq := ((s.core c).nextSeq + 1) % 65536 } := by
  unfold State.refusedDesc
  dsimp only
  split <;> simp
/-- A rejected descriptor sends nothing, is not in flight and changes no byte; its log and its counter show it. -/
theorem rejectDesc_spec (s : State) (c : Nat) (k : DKind) (r ctr loc len : Nat) (hr : r < 16) :
    let t := s.rejectDesc c k r ctr loc len
    t.net = s.net ∧ t.spad = s.spad ∧ t.dram = s.dram ∧ (t.core c).descs = (s.core c).descs ∧ (t.core c).loops = (s.core c).loops ∧
    t.getF F.seqPc_addr c = s.getF F.seqPc_addr c ∧
    (k.inbound = true → ∀ j, loc / 64 ≤ j → j < loc / 64 + cdiv (loc % 64 + len) 64 → j < spadRows → t.rowPoison c j = true) ∧
    (s.getF F.dmaDescError_valid c = 0 → t.getF F.dmaDescError_valid c = 1 ∧ t.getF F.dmaDescError_reason c = r ∧
      t.getF F.dmaDescError_seq c = (s.core c).nextSeq % 65536) ∧
    (ctr < 64 → t.getF F.seqCount_value (c * 64 + ctr) = min (s.getF F.seqCount_value (c * 64 + ctr) + 1) (2 ^ 32 - 1)) := by
  intro t
  obtain ⟨un, us, ud, ug, uc⟩ := refusedDesc_facts s c k loc len
  have hp : k.inbound = true → ∀ j, loc / 64 ≤ j → j < loc / 64 + cdiv (loc % 64 + len) 64 → j < spadRows →
      (s.refusedDesc c k loc len).rowPoison c j = true := fun hk j h1 h2 h3 => by
    rw [State.refusedDesc, if_pos hk]
    exact rowPoison_poisonRows _ c _ _ j h1 h2 h3
  have ht : t = _ := rejectDesc_eq s c k r ctr loc len
  generalize s.refusedDesc c k loc len = u at un us ud ug uc hp ht
  have hl := fun h => descError_fields u c r (s.core c).nextSeq h hr
  have hln := fun g i h => logF_getF_ne u F.dmaDescError_valid g c i (r + ((s.core c).nextSeq % 65536) <<< 4) h
  have hle := logF_eq u F.dmaDescError_valid c (r + ((s.core c).nextSeq % 65536) <<< 4)
  generalize u.logF F.dmaDescError_valid c (r + ((s.core c).nextSeq % 65536) <<< 4) = v at ht hl hln hle
  have hf := fault_faultOnly v c .dmaDescError (r + ((s.core c).nextSeq % 65536) <<< 4 + 2 ^ 63)
  generalize v.fault c .dmaDescError (r + ((s.core c).nextSeq % 65536) <<< 4 + 2 ^ 63) = w at ht hf
  have hreg : ∀ g : RF, ∀ i, g.reg ≠ .seqCount → t.getF g i = w.getF g i :=
    fun g i h => ht ▸ congrArg (bits · g.lo g.len) (count_reg w c ctr g.reg i h)
  have hm : u.sameMemory t := by
    refine sameMemory_trans (sameMemory_trans (t := v) ?_ hf.memory) (ht ▸ (count_unitsOnly w c ctr).memory)
    rw [hle]
    exact ⟨rfl, rfl, rfl, rfl, rfl, rfl⟩
  have hcore : t.core c = { u.core c with state := (w.core c).state, epochFail := (w.core c).epochFail } := by
    rw [ht, count_core, hf.2.2.2 c, show v.core c = u.core c by rw [hle]; rfl]
  have hnet : t.net = u.net := (ht ▸ (count_unitsOnly w c ctr).net : t.net = w.net).trans (by rw [hf.1, hle])
  have hlog : ∀ g : RF, g.reg = .dmaDescError → t.getF g c = v.getF g c :=
    fun g h => (hreg g c (h ▸ by decide)).trans (hf.getF _ _ (h ▸ by decide))
  refine ⟨hnet.trans un, hm.1.trans us, hm.2.2.2.1.trans ud, by rw [hcore, uc], by rw [hcore, uc], ?_, fun hk j h1 h2 h3 => ?_, fun h => ?_,
    fun h => ?_⟩
  · rw [hreg _ _ (by decide), hf.getF _ _ (by decide), hln _ _ (by decide), ug]
  · rw [rowPoison_of_memory hm]
    exact hp hk j h1 h2 h3
  · rw [hlog _ rfl, hlog _ rfl, hlog _ rfl]
    exact hl ((ug ..).trans h)
  · rw [ht, getF_count w c ctr h, hf.getF _ _ (by decide), hln _ _ (by decide), ug]

/-! ### The instructions of one descriptor -/

/-- The instructions that carry a descriptor of R57, each with the remote word and the kind it is issued with. -/
abbrev descInstrs (c : CoreIx) (w0 w1 w2 w3 w4 : Word) (o : Obs) : List (Instr × Word × DKind) :=
  [(.dramRead c w0 w1 w2 w3 w4 o, w3, .dramRead), (.dramWrite c w0 w1 w2 w3 w4 o, w3, .dramWrite),
    (.corePush c w0 w1 w2 w3 w4 o, w3, .corePush), (.reduceSendExponents c w0 w1 w2 w3 w4 o, setBits w3 31 1 1, .reduceSend),
    (.reduceSendValues c w0 w1 w2 w3 w4 o, setBits w3 31 1 0, .reduceSend), (.dramCopy c w0 w1 w2 w3 w4 o, w3, .dramCopy)]
theorem exec_descInstr {c : CoreIx} {w0 w1 w2 w3 w4 : Word} {o : Obs} {x : Instr × Word × DKind} (h : x ∈ descInstrs c w0 w1 w2 w3 w4 o) (s : State) :
    exec x.1 s = .next (s.dma c w0 w1 w2 x.2.1 w4 o x.2.2) := by
  simp only [List.mem_cons, List.not_mem_nil, or_false] at h
  rcases h with rfl | rfl | rfl | rfl | rfl | rfl <;> rfl
/-- The reasons of R59 are 1 to 7. -/
theorem descReason_lt {s : State} {p : Nat} {d : DescF} {k : DKind} {r : Nat} (h : s.descReason p d k = some r) : r < 16 := by
  unfold State.descReason at h
  dsimp only at h
  split_ifs at h <;> (cases h; decide)
/-- A core that goes past an instruction, writes rows and takes a descriptor: memory and fabric are as they were after the rows. -/
theorem advance_issue_spec (u z : State) (c n : Nat) (d : Desc) (hz : (u.advance c n).spadOnly z) : let t := z.issue c d
    u.movedOn t c n ∧ z.sameMemory t ∧ t.net = u.net ∧ (t.core c).nextSeq = ((u.core c).nextSeq + 1) % 65536 ∧ (t.core c).tags = (u.core c).tags ∧
    (d.len ≠ 0 → (u.core c).suppress = none →
      (t.core c).descs = (u.core c).descs ++ [{ d with seq := (u.core c).nextSeq, epoch := u.getF F.seqUstep_epoch c }] ∧
      ∀ m, t.getF F.seqCount_value m = u.getF F.seqCount_value m) ∧
    (d.len = 0 → (t.core c).descs = (u.core c).descs ∧ ∀ m, d.ctr = some m → m < 64 →
      t.getF F.seqCount_value (c * 64 + m) = min (u.getF F.seqCount_value (c * 64 + m) + 1) (2 ^ 32 - 1)) := by
  intro t
  obtain ⟨ha, hg, hc⟩ := advance_ready_facts u c n
  have hmv := (advance_movedOn u c n).1
  have ht : t = z.issue c d := rfl
  generalize u.advance c n = v at hz ha hg hc hmv
  have hzc := hz.core c
  obtain ⟨k1, k2, k3⟩ := issue_core z c d
  have hi := issue_unitsOnly z c d
  refine ⟨hmv.of_same ?_ (ht ▸ k2.trans (by rw [hzc])), ht ▸ hi.memory, (ht ▸ hi.net : t.net = z.net).trans (hz.net.trans ha.net), ?_, ?_,
    fun hl hs => ?_, fun hl => ⟨?_, fun m hm h64 => ?_⟩⟩
  · rw [ht, issue_getF _ _ _ _ _ (by decide) (by decide), hz.getF]
  · rw [ht, k1, hzc, hc]
  · rw [ht, k3, hzc, hc]
  · have hvs : (z.core c).suppress = none := by rw [hzc, hc]; exact hs
    refine ⟨?_, fun m => ?_⟩
    · rw [ht, issue_descs_open z c d hl hvs, hzc, hc, hz.getF, hg _ _ (by decide)]
    · rw [ht, issue_count_open z c d hl hvs, hz.getF, hg _ _ (by decide)]
  · rw [ht, issue_descs_empty z c d hl, hzc, hc]
  · rw [ht, issue_count_empty z c d m hl hm h64, hz.getF, hg _ _ (by decide)]
/-- An accepted descriptor names a counter. -/
theorem descReason_ctr {s : State} {p : Nat} {d : DescF} {k : DKind} (h : s.descReason p d k = none) : d.ctr < 64 := by
  unfold State.descReason at h
  dsimp only at h
  split_ifs at h with _ _ _ _ h5
  simp only [Bool.or_eq_true, decide_eq_true_eq, not_or] at h5
  omega

/-- Settles O17. -/
theorem descriptorsIssue : Obligations.DescriptorsIssue := by
  intro c w0 w1 w2 w3 w4 o s hs hw x hx d u hr hc hsup
  obtain ⟨h1, h2, h3, h4, -, h6, h7⟩ := advance_issue_spec u _ c 5 (d.desc x.2.2) (.refl _)
  refine ⟨_, (exec_descInstr hx s).trans (congrArg _ (dma_accepted hs hw hr (Or.inl hc))), h1, sameMemory_trans (advance_ready_facts u c 5).1.memory h2, h3, h4, fun hl => h6 hl hsup, fun hl => ?_⟩
  obtain ⟨k1, k2⟩ := h7 hl
  exact ⟨k1, k2 _ rfl (descReason_ctr hr)⟩
/-- Settles O56. -/
theorem zeroLengthDescriptors : Obligations.ZeroLengthDescriptors := by
  intro c w0 w1 w2 w3 w4 o s hs hw x hx d u hl
  refine ⟨fun hr => ?_, fun r hr => ?_⟩
  · obtain ⟨h1, h2, h3, -, h5, -, h7⟩ := advance_issue_spec u _ c 5 (d.desc x.2.2) (.refl _)
    obtain ⟨k1, k2⟩ := h7 hl
    exact ⟨_, (exec_descInstr hx s).trans (congrArg _ (dma_accepted hs hw hr (Or.inr hl))), h1,
      sameMemory_trans (advance_ready_facts u c 5).1.memory h2, h3, k1, h5,
      congrArg (fun l : List Desc => l.any (·.active)) k1, k2 _ rfl (descReason_ctr hr)⟩
  · obtain ⟨h1, -, -, h4, -, -, -, h8, -⟩ := rejectDesc_spec (u.advance c 5) c x.2.2 r d.ctr d.loc d.len (descReason_lt hr)
    obtain ⟨ha, hg, hc⟩ := advance_ready_facts u c 5
    refine ⟨_, (exec_descInstr hx s).trans (congrArg _ (dma_rejected hs hw hr)), h1.trans ha.net, h4.trans (by rw [hc]), fun hv => ?_⟩
    exact (h8 ((hg _ _ (by decide)).trans hv)).2.1

end Sys2Proof.Machine
end

section
/-! SUPPORT. Rows written in a run, and the obligation on rejected descriptors, GATHER and MIRROR: O18. -/
namespace Sys2Proof.Machine
open Host

/-! ### Runs of rows -/

/-- A run of numbers is the library's. -/
theorem rangeFrom_eq_range' (a n : Nat) : rangeFrom a n = List.range' a n := by
  induction n generalizing a with
  | zero => rfl
  | succ n ih => rw [rangeFrom, ih, List.range'_succ]

theorem putRows_spadOnly (l : List Row) (s : State) (c r : Nat) (p : Bool) : s.spadOnly (s.putRows c r l p) := by
  induction l generalizing s r with
  | nil => rfl
  | cons d l ih => exact State.spadOnly.trans (t := s.putRow c r d p) rfl (ih ..)
/-- Rows written in a run: each holds its own data and the run's poison, and every other row what it held. -/
theorem putRows_spec (l : List Row) (s : State) (c r : Nat) (p : Bool) (c' k : Nat) (h : r + l.length ≤ 262144) (hk : k < 262144) :
    (s.putRows c r l p).row c' k = (if c' = c ∧ r ≤ k ∧ k < r + l.length then l.getD (k - r) 0 else s.row c' k) ∧
    (s.putRows c r l p).rowPoison c' k = if c' = c ∧ r ≤ k ∧ k < r + l.length then p else s.rowPoison c' k := by
  induction l generalizing s r with
  | nil =>
    have hn : ¬ (c' = c ∧ r ≤ k ∧ k < r + ([] : List Row).length) := by rw [List.length_nil]; omega
    rw [if_neg hn, if_neg hn]
    exact ⟨rfl, rfl⟩
  | cons d l ih =>
    rw [List.length_cons] at h ⊢
    obtain ⟨h1, h2⟩ := ih (s.putRow c r d p) (r + 1) (by omega)
    rw [State.putRows, h1, h2, row_putRow _ _ _ _ _ _ _ (by omega) hk, rowPoison_putRow _ _ _ _ _ _ _ (by omega) hk]
    by_cases hin : c' = c ∧ r + 1 ≤ k ∧ k < r + 1 + l.length
    · rw [if_pos hin, if_pos hin, if_pos (by omega), if_pos (by omega)]
      obtain ⟨-, h3, -⟩ := hin
      rw [show k - r = (k - (r + 1)) + 1 by omega]
      exact ⟨rfl, rfl⟩
    · rw [if_neg hin, if_neg hin]
      by_cases he : c' = c ∧ k = r
      · obtain ⟨rfl, rfl⟩ := he
        simp
      · rw [if_neg he, if_neg he, if_neg (by omega), if_neg (by omega)]
        exact ⟨rfl, rfl⟩
theorem State.rowsBut.refl (s : State) (c r n : Nat) : s.rowsBut s c r n := fun _ _ _ _ => ⟨rfl, rfl⟩
theorem State.rowsBut.trans {s t u : State} {c r n : Nat} (h : s.rowsBut t c r n) (k : t.rowsBut u c r n) : s.rowsBut u c r n :=
  fun d j hj hd => ⟨(k d j hj hd).1.trans (h d j hj hd).1, (k d j hj hd).2.trans (h d j hj hd).2⟩
theorem State.rowsBut.mono {s t : State} {c r n r' n' : Nat} (h : s.rowsBut t c r n) (h1 : r' ≤ r) (h2 : r + n ≤ r' + n') :
    s.rowsBut t c r' n' := fun d j hj hd => h d j hj (by omega)
theorem State.sameMemory.rowsBut {s t : State} (h : s.sameMemory t) (c r n : Nat) : s.rowsBut t c r n :=
  fun d k _ _ => ⟨by rw [State.row, h.1, State.row], rowPoison_of_memory h d k⟩
theorem putRows_rowsBut (s : State) (c r : Nat) (l : List Row) (p : Bool) (h : r + l.length ≤ 262144) :
    s.rowsBut (s.putRows c r l p) c r l.length := fun d k hk hd => by
  obtain ⟨h1, h2⟩ := putRows_spec l s c r p d k h hk
  exact ⟨h1.trans (if_neg (by omega)), h2.trans (if_neg (by omega))⟩

/-! ### GATHER (R86) -/

/-- The rows of indices that are not fetched, from the `j`-th on, zero and poisoned. -/
def State.zeroMissing (s : State) (c dst rl j : Nat) (l : List (Option Nat)) : State :=
  (l.zipIdx j).foldl (fun s e => if e.1.isNone then s.putRows c (dst + e.2 * rl) (List.replicate rl 0) true else s) s
/-- Zeroing them changes no other row, and each of their rows is zero and poisoned. -/
theorem zeroMissing_spec (c dst rl : Nat) (l : List (Option Nat)) (s : State) (j : Nat) (h : dst + (j + l.length) * rl ≤ 262144) :
    s.spadOnly (s.zeroMissing c dst rl j l) ∧ s.rowsBut (s.zeroMissing c dst rl j l) c (dst + j * rl) (l.length * rl) ∧
    ∀ i, l[i]? = some none → ∀ k < rl, (s.zeroMissing c dst rl j l).row c (dst + (j + i) * rl + k) = 0 ∧
      (s.zeroMissing c dst rl j l).rowPoison c (dst + (j + i) * rl + k) = true := by
  induction l generalizing s j with
  | nil => exact ⟨.refl s, State.rowsBut.refl _ _ _ _, fun i hi => by simp at hi⟩
  | cons a l ih =>
    let s' := if a.isNone then s.putRows c (dst + j * rl) (List.replicate rl 0) true else s
    have e1 : (j + (a :: l).length) * rl = j * rl + rl + l.length * rl := by rw [List.length_cons]; ring
    have e2 : (j + 1) * rl = j * rl + rl := by ring
    have e3 : (j + 1 + l.length) * rl = j * rl + rl + l.length * rl := by ring
    have e4 : (a :: l).length * rl = rl + l.length * rl := by rw [List.length_cons]; ring
    obtain ⟨h1, h2, h3⟩ := ih s' (j + 1) (by omega)
    have ht : s.zeroMissing c dst rl j (a :: l) = s'.zeroMissing c dst rl (j + 1) l := rfl
    have hb : s.rowsBut s' c (dst + j * rl) rl := iteInduction (motive := fun t => s.rowsBut t c (dst + j * rl) rl)
      (fun _ => by simpa using putRows_rowsBut s c (dst + j * rl) (List.replicate rl 0) true (by simp; omega)) (fun _ => State.rowsBut.refl _ _ _ _)
    rw [ht]
    refine ⟨State.spadOnly.trans (iteInduction (motive := fun t => s.spadOnly t) (fun _ => putRows_spadOnly ..) (fun _ => .refl s)) h1,
      (hb.mono (by omega) (by omega)).trans (h2.mono (by omega) (by omega)), fun i hi k hk => ?_⟩
    cases i with
    | zero =>
      have ha : a = none := by simpa using hi
      obtain ⟨k1, k2⟩ := h2 c (dst + j * rl + k) (by omega) (Or.inr (Or.inl (by omega)))
      rw [show j + 0 = j from rfl, k1, k2]
      obtain ⟨g1, g2⟩ := putRows_spec (List.replicate rl 0) s c (dst + j * rl) true c (dst + j * rl + k) (by simp; omega) (by omega)
      have hs : s' = s.putRows c (dst + j * rl) (List.replicate rl 0) true := if_pos (by simp [ha])
      rw [hs, g1, g2, if_pos (by simp; omega), if_pos (by simp; omega)]
      simp [hk]
    | succ i =>
      have := h3 i (by simpa using hi) k hk
      rwa [show j + 1 + i = j + (i + 1) by omega] at this
/-- The descriptor a GATHER puts in flight. -/
def gatherDesc (ctr n rl dst base : Nat) (idx : List (Option Nat)) : Desc :=
  { seq := 0, kind := .gather, ctr := some ctr, remCtr := 0, compress := false, bchk := false, len := 64 * n * rl
    loc := 64 * dst, remote := base, addr2 := 0, list := idx, rowLen := rl, sent := 0, open_ := 0, parts := [], active := true
    faulted := false, packed := none, again := false, epoch := 0 }
/-- A ready GATHER that is accepted: the rows of missing indices are zeroed and its descriptor taken. -/
theorem execGather_accepted {c : CoreIx} {w0 w1 w2 : Word} {o : Obs} {s : State} (h : s.ready c w0 false false) (hn : bits w1 0 17 ≠ 0)
    (hn' : bits w1 0 17 ≤ 65536) (hrl : bits w1 32 16 ≠ 0) (hl : rowsOk (bits w0 38 18) (cdiv (bits w1 0 17) 16) = true)
    (hd : rowsOk (bits w0 20 18) (bits w1 0 17 * bits w1 32 16) = true)
    (hz : bits w0 0 12 + bits w1 17 15 + bits w1 48 16 + bits w2 48 16 = 0) (hc : bits w0 12 8 < 64) :
    let u := (s.taken c o).observe c o
    let idx := (rangeFrom 0 (bits w1 0 17)).map (fun i => if u.rowPoison c (bits w0 38 18 + i / 16) then none else some (u.wordAt c (bits w0 38 18) i))
    exec (.gather c w0 w1 w2 o) s = .next (((u.advance c 3).zeroMissing c (bits w0 20 18) (bits w1 32 16) 0 idx).issue c
      (gatherDesc (bits w0 12 8) (bits w1 0 17) (bits w1 32 16) (bits w0 20 18) (bits w2 0 48) idx)) := by
  show execGather c w0 w1 w2 o s = _
  rw [execGather, dispatch_ready h]
  have h1 : ¬ (65536 < bits w1 0 17 ∨ bits w1 32 16 = 0) := by omega
  simp only [if_neg h1, hl, hd, hz, if_neg hn, if_neg (Nat.not_le.2 hc), Bool.and_true, Bool.not_true, Bool.false_eq_true, if_false, ne_eq,
    not_true_eq_false, decide_false]
  rfl
/-- Where a core's index list runs beyond the scratchpad's rows, nothing of it is accepted. -/
theorem rowsOk_le {r n : Nat} (h : rowsOk r n = true) (hn : n ≠ 0) : r + n ≤ spadRows := by
  simpa [rowsOk, hn] using h

/-! ### MIRROR (R87) -/

/-- The descriptor a MIRROR puts in flight. -/
def mirrorDesc (ctr n src start b : Nat) : Desc :=
  { seq := 0, kind := .mirror, ctr := some ctr, remCtr := ctr, compress := false, bchk := false, len := 64 * n
    loc := 64 * src, remote := 64 * (src - start), addr2 := b, list := [], rowLen := 0, sent := 0, open_ := 0, parts := []
    active := true, faulted := false, packed := none, again := false, epoch := 0 }
/-- A core that goes past an instruction and counts at once. -/
theorem advance_count_spec (u : State) (c n m : Nat) (hm : m < 64) : let t := (u.advance c n).count c m
    u.movedOn t c n ∧ t.net = u.net ∧ u.sameMemory t ∧ (t.core c).descs = (u.core c).descs ∧
    t.getF F.seqCount_value (c * 64 + m) = min (u.getF F.seqCount_value (c * 64 + m) + 1) (2 ^ 32 - 1) := by
  intro t
  obtain ⟨ha, hg, hc⟩ := advance_ready_facts u c n
  have hk := count_unitsOnly (u.advance c n) c m
  have hcore : t.core c = (u.advance c n).core c := count_core ..
  refine ⟨(advance_movedOn u c n).1.of_same ?_ (by rw [hcore]), hk.net.trans ha.net, sameMemory_trans ha.memory hk.memory, by rw [hcore, hc], ?_⟩
  · exact congrArg (bits · _ _) (count_reg _ c m _ c (by decide))
  · rw [← hg _ _ (by decide)]
    exact getF_count _ c m hm
/-- A ready MIRROR of rows that lie in the scratchpad completes at dispatch, or is taken as a descriptor where rows go to a buddy. -/
theorem execMirror_cases {c : CoreIx} {w : Word} {o : Obs} {s : State} (h : s.ready c w false false) (hr : rowsOk (bits w 38 18) (bits w 20 18) = true)
    (hz : bits w 0 12 = 0) (hc : bits w 12 8 < 64) : let u := (s.taken c o).observe c o
    (u.buddyOf ((s.ownerOf c).getD 255) c = none ∨ bits w 20 18 = 0 → exec (.mirror c w o) s = .next ((u.advance c 1).count c (bits w 12 8))) ∧
    ∀ b, u.buddyOf ((s.ownerOf c).getD 255) c = some b → bits w 20 18 ≠ 0 → ∃ d : Desc, exec (.mirror c w o) s = .next ((u.advance c 1).issue c d) ∧
      d.kind = .mirror ∧ d.len = 64 * bits w 20 18 ∧ d.loc = 64 * bits w 38 18 ∧ d.addr2 = b ∧ d.ctr = some (bits w 12 8) ∧ d.remCtr = bits w 12 8 := by
  intro u
  have ho : (u.advance c 1).ownerOf c = s.ownerOf c := (observe_observed _ c o).ownerOf c |>.trans (taken_ownerOf s c c o)
  have hb : (u.advance c 1).buddyOf ((s.ownerOf c).getD 255) c = u.buddyOf ((s.ownerOf c).getD 255) c := by
    unfold State.buddyOf
    rw [(advance_ready_facts u c 1).2.1 _ _ (by decide)]
    rfl
  refine ⟨fun hn => ?_, fun b hb' hn => ?_⟩
  · show execMirror c w o s = _
    rw [execMirror, dispatch_ready h]
    simp only [hr, hz, if_neg (Nat.not_le.2 hc), not_true_eq_false, if_false, ne_eq]
    rw [ho, hb]
    rcases hn with hn | hn
    · rw [hn]
    · rw [hn]
      split <;> rfl
  · refine ⟨mirrorDesc (bits w 12 8) (bits w 20 18) (bits w 38 18) ?k b, ?he, rfl, rfl, rfl, rfl, rfl, rfl⟩
    case he =>
      show execMirror c w o s = _
      rw [execMirror, dispatch_ready h]
      simp only [hr, hz, if_neg (Nat.not_le.2 hc), not_true_eq_false, if_false, ne_eq]
      rw [ho, hb, hb']
      simp only [if_neg hn]
      rfl

/-- Settles O18: the rejected descriptor by `rejectDesc_spec`, GATHER and MIRROR by `advance_issue_spec`. -/
theorem otherDescriptors : Obligations.OtherDescriptors := by
  refine ⟨?_, fun c w0 w1 w2 o s hs => ⟨?_, ?_⟩⟩
  · intro c w0 w1 w2 w3 w4 o s r hs hw x hx d u hr
    have hx' : x ∈ descInstrs c w0 w1 w2 w3 w4 o := by
      simp only [List.mem_cons, List.not_mem_nil, or_false] at hx ⊢
      tauto
    obtain ⟨h1, h2, h3, h4, h5, h6, h7, h8, h9⟩ := rejectDesc_spec (u.advance c 5) c x.2.2 r d.ctr d.loc d.len (descReason_lt hr)
    obtain ⟨ha, hg, hc⟩ := advance_ready_facts u c 5
    refine ⟨_, (exec_descInstr hx' s).trans (congrArg _ (dma_rejected hs hw hr)), (advance_movedOn u c 5).1.of_same h6 h5, h1.trans ha.net,
      h4.trans (by rw [hc]), h2.trans ha.memory.1, h3.trans ha.memory.2.2.2.1, fun hk j hj hj' hj3 => ?_, fun hv => ?_, fun hn => ?_⟩
    · refine h7 (by rw [hk]; rfl) j hj ?_ hj3
      unfold cdiv at hj' ⊢
      omega
    · rw [show (u.core c).nextSeq = ((u.advance c 5).core c).nextSeq by rw [hc]]
      exact h8 ((hg _ _ (by decide)).trans hv)
    · rw [← hg _ _ (by decide)]
      exact h9 hn
  · intro list dst n rl hn hn' hrl hl hd hz hc hsup
    set u := (s.taken c o).observe c o
    have he := execGather_accepted (o := o) hs hn hn' hrl hl hd hz hc
    set idx := (rangeFrom 0 n).map (fun i => if u.rowPoison c (list + i / 16) then none else some (u.wordAt c list i))
    have hlen : idx.length = n := by simp [idx, rangeFrom_eq_range']
    have hle : dst + n * rl ≤ spadRows := rowsOk_le hd (Nat.mul_ne_zero hn hrl)
    obtain ⟨z1, z2, z3⟩ := zeroMissing_spec c dst rl idx (u.advance c 3) 0 (by rw [hlen, Nat.zero_add]; exact hle.trans (by decide))
    obtain ⟨h1, h2, h3, -, -, h6, -⟩ := advance_issue_spec u _ c 3 (gatherDesc (bits w0 12 8) n rl dst (bits w2 0 48) idx) z1
    refine ⟨_, _, he, h1, h3, ?_, (h6 ?_ hsup).1, rfl, rfl, rfl, rfl, ?_, fun i hi hp k hk => ?_⟩
    · exact h2.2.2.2.1.trans ((congrArg State.dram z1).trans (advance_ready_facts u c 3).1.memory.2.2.2.1)
    · exact Nat.mul_ne_zero (Nat.mul_ne_zero (by decide) hn) hrl
    · refine State.rowsBut.trans (t := (u.advance c 3).zeroMissing c dst rl 0 idx) ?_ (h2.rowsBut c dst (n * rl))
      have hz2 := ((advance_ready_facts u c 3).1.memory.rowsBut c dst (n * rl)).trans (z2.mono (by omega) (by rw [hlen]; omega))
      exact hz2
    · have hi' : idx[i]? = some none := by simp [idx, rangeFrom_eq_range', hi, hp]
      obtain ⟨r1, r2⟩ := z3 i hi' k hk
      rw [Nat.zero_add] at r1 r2
      exact ⟨(row_of_memory h2 c _).trans r1, (rowPoison_of_memory h2 c _).trans r2⟩
  · intro src n ctr hr hz hc
    set u := (s.taken c o).observe c o
    obtain ⟨m1, m2⟩ := execMirror_cases (o := o) hs hr hz hc
    by_cases hb : u.buddyOf ((s.ownerOf c).getD 255) c = none ∨ n = 0
    · obtain ⟨h1, h2, h3, h4, h5⟩ := advance_count_spec u c 1 ctr hc
      refine ⟨_, m1 hb, h1, h2, h3, fun _ => ⟨h4, h5⟩, fun b hb' hn => ?_⟩
      rcases hb with hb | hb
      · rw [hb] at hb'; cases hb'
      · exact absurd hb hn
    · obtain ⟨hb1, hb2⟩ := not_or.1 hb
      obtain ⟨b, hb'⟩ := Option.ne_none_iff_exists'.1 hb1
      obtain ⟨d, he, k1, k2, k3, k4, k5, k6⟩ := m2 b hb' hb2
      obtain ⟨h1, h2, h3, -, -, h6, -⟩ := advance_issue_spec u _ c 1 d (.refl _)
      refine ⟨_, he, h1, h3, sameMemory_trans (advance_ready_facts u c 1).1.memory h2, fun h => absurd h hb, fun b' e _ hsup => ?_⟩
      have hbb : b' = b := Option.some.inj (e.symm.trans hb')
      exact ⟨_, (h6 (by rw [k2]; omega) hsup).1, k1, k2, k3, k4.trans hbb.symm, k5, k6⟩

end Sys2Proof.Machine
end

section
/-! SUPPORT. A run of bytes written to a scratchpad: what is read back, what stays, whose poison (R45, R52). -/
namespace Sys2Proof.Machine
open Host

/-! ### Rows as one number -/

theorem toRows_length (v n : Nat) : (toRows v n).length = n := by
  induction n generalizing v with
  | zero => rfl
  | succ n ih => rw [toRows, List.length_cons, ih]
theorem ofRows_lt (l : List Row) : ofRows l < 2 ^ (512 * l.length) := by
  induction l with
  | nil => exact Nat.one_pos
  | cons d l ih =>
    have hd : d.toNat < 2 ^ 512 := d.isLt
    rw [ofRows, List.length_cons, show 512 * (l.length + 1) = 512 + 512 * l.length by ring, pow_add]
    calc d.toNat + 2 ^ 512 * ofRows l < 2 ^ 512 * (ofRows l + 1) := by rw [Nat.mul_add]; omega
      _ ≤ 2 ^ 512 * 2 ^ (512 * l.length) := Nat.mul_le_mul_left _ ih
/-- Cut into rows and joined again, a number is as it was but for what lies beyond the rows. -/
theorem ofRows_toRows (v n : Nat) : ofRows (toRows v n) = v % 2 ^ (512 * n) := by
  induction n generalizing v with
  | zero => rw [Nat.mul_zero, pow_zero, Nat.mod_one]; rfl
  | succ n ih =>
    rw [toRows, ofRows, ih, BitVec.toNat_ofNat, show 512 * (n + 1) = 512 + 512 * n by ring, pow_add, Nat.mod_mul]
theorem toRows_mod (v n : Nat) : toRows (v % 2 ^ (512 * n)) n = toRows v n := by
  induction n generalizing v with
  | zero => rfl
  | succ n ih =>
    have e : v % 2 ^ (512 * (n + 1)) = v % 2 ^ 512 + 2 ^ 512 * (v / 2 ^ 512 % 2 ^ (512 * n)) := by
      rw [show 512 * (n + 1) = 512 + 512 * n by ring, pow_add, Nat.mod_mul]
    have hlt : v % 2 ^ 512 < 2 ^ 512 := Nat.mod_lt _ (by positivity)
    rw [toRows, toRows, e, Nat.add_mul_div_left _ _ (by positivity), Nat.div_eq_of_lt hlt, Nat.zero_add, ih]
    refine congrArg (· :: _) (BitVec.eq_of_toNat_eq ?_)
    rw [BitVec.toNat_ofNat, BitVec.toNat_ofNat, Nat.add_mul_mod_self_left, Nat.mod_mod]
/-- The rows of a run read as one number. -/
theorem rows_lt (s : State) (c r n : Nat) : s.rows c r n < 2 ^ (512 * n) := by
  have := ofRows_lt ((rangeFrom r n).map (s.row c))
  rwa [List.length_map, rangeFrom_eq_range', List.length_range', ← rangeFrom_eq_range'] at this
/-- Byte `b` of a run's first row is byte `b` of the run. -/
theorem byteAt_rows (s : State) (c r n b : Nat) (hb : b < 64) : s.byteAt c r b = elem (s.rows c r (n + 1)) 8 b := by
  have e : s.rows c r (n + 1) = (s.row c r).toNat + 2 ^ 512 * s.rows c (r + 1) n := rfl
  have hd : (2 : Nat) ^ 512 = 2 ^ (b * 8) * (2 ^ 8 * 2 ^ (504 - b * 8)) := by
    rw [← pow_add, ← pow_add, show b * 8 + (8 + (504 - b * 8)) = 512 by omega]
  rw [State.byteAt, show b / 64 = 0 by omega, show b % 64 = b by omega, Nat.add_zero, elem, elem, e, Nat.shiftRight_eq_div_pow,
    Nat.shiftRight_eq_div_pow, hd, Nat.mul_assoc, Nat.add_mul_div_left _ _ (by positivity), Nat.mul_assoc, Nat.add_mul_mod_self_left]

/-! ### Rows written one by one -/

/-- Rows written from the `j`-th of a run on, each with the poison its number has. -/
def State.putEach (s : State) (c r j : Nat) (f : Nat → Bool) (l : List Row) : State :=
  (l.zipIdx j).foldl (fun t x => t.putRow c (r + x.2) x.1 (f (r + x.2))) s
theorem putEach_spadOnly (l : List Row) (s : State) (c r j : Nat) (f : Nat → Bool) : s.spadOnly (s.putEach c r j f l) := by
  induction l generalizing s j with
  | nil => rfl
  | cons d l ih => exact State.spadOnly.trans (t := s.putRow c (r + j) d (f (r + j))) rfl (ih ..)
theorem putEach_spec (l : List Row) (s : State) (c r j : Nat) (f : Nat → Bool) (c' k : Nat) (h : r + j + l.length ≤ 262144) (hk : k < 262144) :
    (s.putEach c r j f l).row c' k = (if c' = c ∧ r + j ≤ k ∧ k < r + j + l.length then l.getD (k - (r + j)) 0 else s.row c' k) ∧
    (s.putEach c r j f l).rowPoison c' k = if c' = c ∧ r + j ≤ k ∧ k < r + j + l.length then f k else s.rowPoison c' k := by
  induction l generalizing s j with
  | nil =>
    have hn : ¬ (c' = c ∧ r + j ≤ k ∧ k < r + j + ([] : List Row).length) := by rw [List.length_nil]; omega
    rw [if_neg hn, if_neg hn]
    exact ⟨rfl, rfl⟩
  | cons d l ih =>
    rw [List.length_cons] at h ⊢
    obtain ⟨h1, h2⟩ := ih (s.putRow c (r + j) d (f (r + j))) (j + 1) (by omega)
    have he : s.putEach c r j f (d :: l) = (s.putRow c (r + j) d (f (r + j))).putEach c r (j + 1) f l := rfl
    rw [he, h1, h2, row_putRow _ _ _ _ _ _ _ (by omega) hk, rowPoison_putRow _ _ _ _ _ _ _ (by omega) hk]
    by_cases hin : c' = c ∧ r + (j + 1) ≤ k ∧ k < r + (j + 1) + l.length
    · rw [if_pos hin, if_pos hin, if_pos (by omega), if_pos (by omega)]
      obtain ⟨-, h3, -⟩ := hin
      rw [show k - (r + j) = (k - (r + (j + 1))) + 1 by omega]
      exact ⟨rfl, rfl⟩
    · rw [if_neg hin, if_neg hin]
      by_cases he : c' = c ∧ k = r + j
      · obtain ⟨rfl, rfl⟩ := he
        simp
      · rw [if_neg he, if_neg he, if_neg (by omega), if_neg (by omega)]
        exact ⟨rfl, rfl⟩
/-- The rows written are read back. -/
theorem rows_putEach (l : List Row) (s : State) (c r : Nat) (f : Nat → Bool) (h : r + l.length ≤ 262144) :
    (s.putEach c r 0 f l).rows c r l.length = ofRows l := by
  rw [State.rows]
  congr 1
  refine List.ext_getElem (by simp [rangeFrom_eq_range']) fun i h1 h2 => ?_
  have hi : i < l.length := h2
  rw [List.getElem_map]
  simp only [rangeFrom_eq_range', List.getElem_range', Nat.one_mul]
  rw [(putEach_spec l s c r 0 f c (r + i) (by omega) (by omega)).1, if_pos ⟨rfl, by omega, by omega⟩]
  rw [show r + i - (r + 0) = i by omega, List.getD_eq_getElem _ _ hi]

/-! ### A run of bytes (R45, R52) -/

/-- A run of rows with bits `[lo, lo+w)` replaced. -/
def State.spliced (s : State) (c r k lo w v : Nat) : BitVec (512 * k) := setBits (BitVec.ofNat (512 * k) (s.rows c r k)) lo w v
theorem putSpan_eq (s : State) (c a n v : Nat) (p : Bool) (seen : NSet) : s.putSpan c a n v p seen =
    s.putEach c (a / 64) 0 (s.partPoison c a n p seen) (toRows (s.spliced c (a / 64) (cdiv (a % 64 + n) 64) (8 * (a % 64)) (8 * n) v).toNat
      (cdiv (a % 64 + n) 64)) := by
  have hlt := rows_lt s c (a / 64) (cdiv (a % 64 + n) 64)
  have hw : (BitVec.ofNat (512 * cdiv (a % 64 + n) 64) (s.rows c (a / 64) (cdiv (a % 64 + n) 64))).toNat =
      s.rows c (a / 64) (cdiv (a % 64 + n) 64) := by rw [BitVec.toNat_ofNat, Nat.mod_eq_of_lt hlt]
  rw [State.spliced, setBits, BitVec.toNat_ofNat, toRows_mod, bits, hw, ← Nat.shiftLeft_eq, ← Nat.shiftLeft_eq]
  rfl
/-- What a write of bytes does: they are read back; rows beside theirs stay, and so do the bytes before them; each row takes its poison. -/
theorem putSpan_spec (s : State) (c a n v : Nat) (p : Bool) (seen : NSet) (h : a + n ≤ spadBytes) (hn : n ≠ 0) :
    let t := s.putSpan c a n v p seen
    s.spadOnly t ∧ t.span c a n = v % 2 ^ (8 * n) ∧ s.rowsBut t c (a / 64) (cdiv (a % 64 + n) 64) ∧
    (∀ r, a / 64 ≤ r → r < a / 64 + cdiv (a % 64 + n) 64 → t.rowPoison c r = s.partPoison c a n p seen r) ∧
    ∀ b, b < a % 64 → t.byteAt c (a / 64) b = s.byteAt c (a / 64) b := by
  intro t
  have hb : a + n ≤ 8388608 := h
  have hk : a / 64 + cdiv (a % 64 + n) 64 ≤ 262144 ∧ a % 64 + n ≤ 64 * cdiv (a % 64 + n) 64 ∧ cdiv (a % 64 + n) 64 ≠ 0 := by
    unfold cdiv; omega
  obtain ⟨hk1, hk2, hk3⟩ := hk
  have ht : t = _ := putSpan_eq s c a n v p seen
  set k := cdiv (a % 64 + n) 64
  set x := s.spliced c (a / 64) k (8 * (a % 64)) (8 * n) v with hx
  have hl : (toRows x.toNat k).length = k := toRows_length ..
  have hrows : t.rows c (a / 64) k = x.toNat := by
    have := rows_putEach (toRows x.toNat k) s c (a / 64) (s.partPoison c a n p seen) (by rw [hl]; exact hk1)
    rw [hl, ofRows_toRows, Nat.mod_eq_of_lt x.isLt] at this
    rw [ht]
    exact this
  have hput := fun c' j => putEach_spec (toRows x.toNat k) s c (a / 64) 0 (s.partPoison c a n p seen) c' j (by rw [hl]; exact hk1)
  rw [hl, Nat.add_zero] at hput
  refine ⟨ht ▸ putEach_spadOnly .., ?_, fun d j hj hd => ?_, fun r hr hr' => ?_, fun b hb => ?_⟩
  · rw [State.span, hrows]
    exact bits_setBits_same _ _ _ _ (by omega)
  · obtain ⟨h1, h2⟩ := hput d j hj
    rw [if_neg (by omega)] at h1 h2
    exact ⟨ht ▸ h1, ht ▸ h2⟩
  · have h2 := (hput c r (by omega)).2
    rw [if_pos ⟨rfl, hr, hr'⟩] at h2
    exact ht ▸ h2
  · obtain ⟨m, hm⟩ := Nat.exists_eq_succ_of_ne_zero hk3
    rw [byteAt_rows t c _ m b (by omega), byteAt_rows s c _ m b (by omega), ← Nat.succ_eq_add_one, ← hm, hrows]
    have := bits_setBits_ne (BitVec.ofNat (512 * k) (s.rows c (a / 64) k)) (8 * (a % 64)) (8 * n) v (b * 8) 8 (by omega) (by omega)
    rw [bits, bits, BitVec.toNat_ofNat, Nat.mod_eq_of_lt (rows_lt ..)] at this
    exact this

end Sys2Proof.Machine
end

section
/-! SUPPORT. Packets that a core takes: bytes landed, dependencies noted, tags given back (R60, R63, R106). -/
namespace Sys2Proof.Machine
open Host

/-! ### What landing can change -/

/-- Nothing differs but registers, what cores hold, and the contents of scratchpads. -/
def State.localOnly (s t : State) : Prop :=
  t = { s with regs := t.regs, cores := t.cores, spad := t.spad, spadPoison := t.spadPoison, spadChk := t.spadChk }
theorem State.localOnly.trans {s t u : State} (h : s.localOnly t) (k : t.localOnly u) : s.localOnly u := by
  unfold State.localOnly at h k ⊢
  rw [k, h]
theorem State.localOnly.refl (s : State) : s.localOnly s := rfl
theorem State.unitsOnly.localOnly {s t : State} (h : s.unitsOnly t) : s.localOnly t := by rw [h]; rfl
theorem State.spadOnly.localOnly {s t : State} (h : s.spadOnly t) : s.localOnly t := by rw [h]; rfl
theorem State.localOnly.net {s t : State} (h : s.localOnly t) : t.net = s.net := by rw [h]
theorem State.localOnly.dram {s t : State} (h : s.localOnly t) : t.dram = s.dram := by rw [h]
theorem State.spadOnly.regs {s t : State} (h : s.spadOnly t) : t.regs = s.regs := by rw [h]
/-- Scratchpads hold the same bytes with the same poison. -/
def State.sameSpad (s t : State) : Prop := t.spad = s.spad ∧ t.spadPoison = s.spadPoison
theorem State.sameSpad.trans {s t u : State} (h : s.sameSpad t) (k : t.sameSpad u) : s.sameSpad u := ⟨k.1.trans h.1, k.2.trans h.2⟩
theorem State.sameMemory.sameSpad {s t : State} (h : s.sameMemory t) : s.sameSpad t := ⟨h.1, h.2.1⟩
theorem State.unitsOnly.sameSpad {s t : State} (h : s.unitsOnly t) : s.sameSpad t := h.memory.sameSpad
theorem State.sameSpad.row {s t : State} (h : s.sameSpad t) (c r : Nat) : t.row c r = s.row c r := by rw [State.row, h.1, State.row]
theorem State.sameSpad.rowPoison {s t : State} (h : s.sameSpad t) (c r : Nat) : t.rowPoison c r = s.rowPoison c r := by
  rw [State.rowPoison, h.2, State.rowPoison]
theorem State.sameSpad.rowsBut {s t : State} (h : s.sameSpad t) (c r n : Nat) : s.rowsBut t c r n := fun d k _ _ => ⟨h.row d k, h.rowPoison d k⟩
theorem State.sameSpad.span {s t : State} (h : s.sameSpad t) (c a n : Nat) : t.span c a n = s.span c a n := by
  unfold State.span State.rows
  rw [show t.row c = s.row c from funext (h.row c)]
theorem State.sameSpad.byteAt {s t : State} (h : s.sameSpad t) (c r i : Nat) : t.byteAt c r i = s.byteAt c r i := by
  rw [State.byteAt, h.row, State.byteAt]

/-- What the core holds of the blocks that land, and the check entry of a block that landed whole. -/
theorem landBlock_facts (s : State) (c b unit : Nat) (k : Pkt) (p : Bool) : let t := s.landBlock c b unit k p false
    s.localOnly t ∧ s.sameSpad t ∧ t.regs = s.regs ∧ t.core c = { s.core c with landing := (t.core c).landing } := by
  let l := Tab.get (fun _ => Landing.init) (s.core c).landing b
  let m : Landing := ⟨l.bytes + k.len, l.bad || false, l.taint || p⟩
  let u := s.modCore c (fun q => { q with landing := Tab.put (fun _ => Landing.init) b (if 4096 ≤ m.bytes then Landing.init else m) q.landing })
  have hu : u.core c = { s.core c with landing := (u.core c).landing } := by rw [core_modCore_same]
  have ht : s.landBlock c b unit k p false = u ∨ ∃ x, s.landBlock c b unit k p false = { u with spadChk := x } := by
    unfold State.landBlock
    dsimp only
    split
    · exact Or.inr ⟨_, by simp [u, m, l]; rfl⟩
    · exact Or.inl (by simp [u, m, l])
  rcases ht with ht | ⟨x, ht⟩ <;> rw [ht] <;> exact ⟨rfl, ⟨rfl, rfl⟩, rfl, hu⟩
/-- A packet's bytes land at their place (R45, R52). -/
theorem land_spec (s : State) (c a : Nat) (k : Pkt) (p : Bool) (unit : Nat) (seen : NSet) (h : a + k.len ≤ spadBytes) (hn : k.len ≠ 0) :
    let t := s.land c a k p 0 unit seen
    s.localOnly t ∧ t.regs = s.regs ∧ t.core c = { s.core c with landing := (t.core c).landing } ∧
    t.span c a k.len = ofRows k.data % 2 ^ (8 * k.len) ∧ s.rowsBut t c (a / 64) (cdiv (a % 64 + k.len) 64) ∧
    (p = true → ∀ r, a / 64 ≤ r → r < a / 64 + cdiv (a % 64 + k.len) 64 → t.rowPoison c r = true) ∧
    ∀ b, b < a % 64 → t.byteAt c (a / 64) b = s.byteAt c (a / 64) b := by
  intro t
  let po := p || false || (k.bchk && (Tab.get (fun _ => Landing.init) (s.core c).landing (a / 4096)).bad)
  let u := s.putSpan c a k.len (ofRows k.data) po seen
  obtain ⟨h1, h2, h3, h4, h5⟩ := putSpan_spec s c a k.len (ofRows k.data) po seen h hn
  have hp : p = true → ∀ r, s.partPoison c a k.len po seen r = true := fun hp r => by
    have hpo : po = true := by simp [po, hp]
    unfold State.partPoison
    simp [hpo]
  have hu : s.localOnly u ∧ u.sameSpad u ∧ u.regs = s.regs ∧ u.core c = { s.core c with landing := (u.core c).landing } :=
    ⟨h1.localOnly, ⟨rfl, rfl⟩, h1.regs, by rw [show u.core c = s.core c from h1.core c]⟩
  have ht : s.localOnly t ∧ u.sameSpad t ∧ t.regs = s.regs ∧ t.core c = { s.core c with landing := (t.core c).landing } := by
    have ht : t = if k.bchk then u.landBlock c (a / 4096) unit k p false else u := rfl
    obtain ⟨k1, k2, k3, k4⟩ := landBlock_facts u c (a / 4096) unit k p
    rw [ht]
    split
    · exact ⟨hu.1.trans k1, k2, k3.trans hu.2.2.1, by rw [k4, hu.2.2.2]⟩
    · exact hu
  obtain ⟨t1, t2, t3, t4⟩ := ht
  have hb : s.rowsBut t c (a / 64) (cdiv (a % 64 + k.len) 64) := State.rowsBut.trans h3 (t2.rowsBut _ _ _)
  exact ⟨t1, t3, t4, (t2.span ..).trans h2, hb, fun e r hr hr' => (t2.rowPoison ..).trans ((h4 r hr hr').trans (hp e r)),
    fun b hb => (t2.byteAt ..).trans (h5 b hb)⟩

/-! ### What a core that answers changes beside -/

theorem backOff_facts (s : State) (c n : Nat) : s.unitsOnly (s.backOff c n) ∧
    (s.backOff c n).core c = { s.core c with cutAt := ((s.backOff c n).core c).cutAt } := by
  unfold State.backOff
  dsimp only
  split
  · exact ⟨rfl, rfl⟩
  · exact ⟨rfl, by simp⟩
theorem slowReads_facts (s : State) (c : Nat) (k : Pkt) : s.unitsOnly (s.slowReads c k) ∧
    (s.slowReads c k).core c = { s.core c with cutAt := ((s.slowReads c k).core c).cutAt } := by
  unfold State.slowReads
  split
  · exact backOff_facts ..
  · exact ⟨rfl, rfl⟩
theorem slowed_facts (s : State) (c : Nat) (k : Pkt) (g : TagUse) : s.unitsOnly (s.slowed c k g) ∧
    (s.slowed c k g).core c = { s.core c with cutAt := ((s.slowed c k g).core c).cutAt } := by
  unfold State.slowed
  split
  · exact backOff_facts ..
  · exact ⟨rfl, rfl⟩
theorem setB_unitsOnly (s : State) (f : RF) (i : Nat) (b : Bool) : s.unitsOnly (s.setB f i b) := rfl
/-- A dependency noted changes what the core holds of them and its count of them (R106). -/
theorem depend_facts (s : State) (c : Nat) (k : Pkt) : s.unitsOnly (s.depend c k) ∧
    (s.depend c k).core c = { s.core c with got := ((s.depend c k).core c).got, deps := ((s.depend c k).core c).deps } ∧
    ∀ g i, g.reg ≠ .intEpoch → (s.depend c k).getF g i = s.getF g i := by
  unfold State.depend
  split
  · exact ⟨rfl, rfl, fun _ _ _ => rfl⟩
  · have hm : s.unitsOnly (s.modCore c (fun q => { q with got := q.got ++ [(k.prod.1, k.prod.2.1, s.getF F.seqUstep_epoch c)] })) := rfl
    dsimp only
    split
    · exact ⟨rfl, by simp only [core_modCore_same], fun _ _ _ => rfl⟩
    · split
      · exact ⟨hm.trans (setB_unitsOnly ..), by simp only [core_modCore_same, State.setB_core], fun g i h => getF_setReg_ne (r := .intEpoch) _ g c i _ (Or.inl h)⟩
      · exact ⟨rfl, by simp only [core_modCore_same, State.setF_core], fun g i h => getF_setReg_ne (r := .intEpoch) _ g c i _ (Or.inl h)⟩
theorem modDesc_facts (s : State) (c n : Nat) (f : Desc → Desc) : s.unitsOnly (s.modDesc c n f) ∧
    (s.modDesc c n f).core c = { s.core c with descs := (s.core c).descs.map (fun d => if d.seq = n then f d else d) } :=
  ⟨rfl, core_modCore_same ..⟩
/-- Descriptors completed: the local counters count; the core holds those still open, its tags as they were. -/
theorem settle_facts (s : State) (c : Nat) : s.unitsOnly (s.settle c) ∧
    (s.settle c).core c = { s.core c with descs := ((s.core c).descs.filter (fun d => !d.isDone)).map (fun d =>
      { d with active := d.active && (d.kind.inbound || decide (d.sent < d.len)) }) } := by
  have hf : ∀ (l : List Desc) (t : State), t.unitsOnly (l.foldl (fun s d => if d.again then s else s.countOpt c d.ctr) t) ∧
      (l.foldl (fun s d => if d.again then s else s.countOpt c d.ctr) t).core c = t.core c := fun l t =>
    foldl_keeps (fun u => t.unitsOnly u ∧ u.core c = t.core c) _ (fun u d hu => by
      split
      · exact hu
      · exact ⟨hu.1.trans (countOpt_unitsOnly ..), (countOpt_core ..).trans hu.2⟩) l t ⟨rfl, rfl⟩
  unfold State.settle
  dsimp only
  obtain ⟨h1, h2⟩ := hf ((s.core c).descs.filter (·.isDone)) (s.modCore c (fun q => { q with
    descs := (q.descs.filter (fun d => !d.isDone)).map (fun d =>
      { d with active := d.active && (d.kind.inbound || decide (d.sent < d.len)) }) }))
  refine ⟨State.unitsOnly.trans (t := s.modCore c _) rfl (h1.trans rfl), ?_⟩
  show State.core _ c = _
  exact h2.trans (core_modCore_same ..)
/-- A tag given back leaves the others (R63). -/
theorem freeTag_facts (s : State) (c : Nat) (g : TagUse) : s.unitsOnly (s.freeTag c g) ∧
    ((s.freeTag c g).core c).tags = (s.core c).tags.filter (fun u => u.num ≠ g.num) := by
  let u := (s.modCore c (fun q => { q with tags := q.tags.filter (fun u => u.num ≠ g.num) })).modDesc c g.desc (fun d => { d with open_ := d.open_ - 1 })
  obtain ⟨h1, h2⟩ := settle_facts u c
  have h0 : s.unitsOnly u := rfl
  refine ⟨h0.trans h1, ?_⟩
  show ((u.settle c).core c).tags = _
  rw [h2, (modDesc_facts _ c g.desc _).2, core_modCore_same]

end Sys2Proof.Machine
end

section
/-! SUPPORT. Answers and packets that a core takes, and the obligations on them: O20 and O21. -/
namespace Sys2Proof.Machine
open Host

/-- An answer in good order to a tag of a core in service goes on to its own effect (R60). -/
theorem answer_taken {s : State} {c : Nat} {k : Pkt} {g : TagUse} {go : State → Pkt → Bool → TagUse → State} (hs : (s.core c).state < 2)
    (hp : some k.part = s.ownerOf c) (hg : s.tagOf c k = some g) :
    s.answer c k true go = go (s.consume (s.seen k)) (s.seen k) false g := by
  have h1 : ¬ (some (s.seen k).part ≠ (s.consume (s.seen k)).ownerOf c) := not_not.2 hp
  have h2 : (s.consume (s.seen k)).tagOf c (s.seen k) = some g := hg
  rw [State.answer, if_neg (by omega), State.checked]
  simp only [if_true, if_neg h1, h2]
/-- A multicast delivery or a read's data that one tag waits for lands for it (R230). -/
theorem execStreamDelivery_taken {s : State} {c : CoreIx} {k : Pkt} {g : TagUse} {o : Obs} (hs : (s.core c).state < 2)
    (hp : some k.part = s.ownerOf c) (hg : s.wants c k = [g]) : exec (.streamDelivery c k true 0 o) s =
      .next ((((s.consume (s.seen k)).observe c o).slowReads c (s.seen k)).landFor c (s.seen k) false 0 g) := by
  have hw : (s.consume (s.seen k)).wants c (s.seen k) = [g] := hg
  have hm : (s.consume (s.seen k)).mayTake c (s.seen k) = true := by
    have : some (s.seen k).part = (s.consume (s.seen k)).ownerOf c := hp
    simp [State.mayTake, this]
  have ho : decide (2 ≤ (s.core c).state) = false := by simpa using hs
  show execStreamDelivery c k true 0 o s = _
  rw [execStreamDelivery]
  simp only [ho, hg, State.checked, hm, hw, List.isEmpty_cons, Bool.or_false, Bool.and_false, Bool.false_eq_true, if_false, if_true,
    Bool.not_true, List.foldl_cons, List.foldl_nil]
/-- Data that lands for a tag: its bytes at their place, its tag given back (R45, R58, R63). -/
theorem landFor_spec (v : State) (c : Nat) (k : Pkt) (g : TagUse) (d : Desc) (hd : v.descOf c g.desc = some d)
    (ha : d.loc + g.off + k.len ≤ spadBytes) (hn : k.len ≠ 0) :
    let a := d.loc + g.off
    let t := (v.slowReads c k).landFor c k false 0 g
    v.localOnly t ∧ t.span c a k.len = ofRows k.data % 2 ^ (8 * k.len) ∧ v.rowsBut t c (a / 64) (cdiv (a % 64 + k.len) 64) ∧
    (k.poison = true → ∀ r, a / 64 ≤ r → r < a / 64 + cdiv (a % 64 + k.len) 64 → t.rowPoison c r = true) ∧
    (∀ b, b < a % 64 → t.byteAt c (a / 64) b = v.byteAt c (a / 64) b) ∧
    (t.core c).tags = (v.core c).tags.filter (fun u => u.num ≠ g.num) := by
  intro a t
  obtain ⟨w1, w2⟩ := slowReads_facts v c k
  have hd' : (v.slowReads c k).descOf c g.desc = some d := by rw [State.descOf, w2]; exact hd
  have ht : t = (((v.slowReads c k).landTag c d g k (k.poison || false) 0).depend c k).freeTag c g := by
    show State.landFor _ c k false 0 g = _
    rw [State.landFor, hd']
  generalize v.slowReads c k = w at w1 w2 hd' ht
  obtain ⟨l1, -, l3, l4, l5, l6, l7⟩ := land_spec w c a k (k.poison || false) (w.chanOf k) d.parts ha hn
  have hl : w.landTag c d g k (k.poison || false) 0 =
      (w.land c a k (k.poison || false) 0 (w.chanOf k) d.parts).modDesc c d.seq (fun d => d.landed a k.len (k.poison || false)) := rfl
  rw [hl] at ht
  generalize w.land c a k (k.poison || false) 0 (w.chanOf k) d.parts = x at l1 l3 l4 l5 l6 l7 ht
  obtain ⟨m1, m2⟩ := modDesc_facts x c d.seq (fun d => d.landed a k.len (k.poison || false))
  generalize x.modDesc c d.seq _ = y at m1 m2 ht
  obtain ⟨n1, n2, -⟩ := depend_facts y c k
  generalize y.depend c k = z at n1 n2 ht
  obtain ⟨f1, f2⟩ := freeTag_facts z c g
  rw [← ht] at f1 f2
  have hx : x.unitsOnly t := (m1.trans n1).trans f1
  refine ⟨(w1.localOnly.trans l1).trans hx.localOnly, (hx.sameSpad.span ..).trans l4, ?_, fun hp r h1 h2 => ?_, fun b hb => ?_, ?_⟩
  · exact ((w1.sameSpad.rowsBut _ _ _).trans l5).trans (hx.sameSpad.rowsBut _ _ _)
  · exact (hx.sameSpad.rowPoison ..).trans (l6 (by simp [hp]) r h1 h2)
  · exact ((hx.sameSpad.byteAt ..).trans (l7 b hb)).trans (w1.sameSpad.byteAt ..)
  · rw [f2, n2, m2, l3, w2]
/-- What a core stands at where it has taken a packet off the fabric and observed its rows. -/
theorem consume_observe_core (s : State) (c : Nat) (k : Pkt) (o : Obs) : let v := (s.consume k).observe c o
    v.core c = { s.core c with state := (v.core c).state, epochFail := (v.core c).epochFail } ∧ v.dram = s.dram ∧ v.net = dropPkt k s.net := by
  intro v
  have h := observe_observed (s.consume k) c o
  exact ⟨h.2.2 c, (congrArg State.dram h.1 : _), (congrArg State.net h.1 : _)⟩

/-- Settles O20. -/
theorem answerDataLands : Obligations.AnswerDataLands := by
  intro c k o s g d stream v a hs hp hd ha hn hg hw
  obtain ⟨hc, hdram, -⟩ := consume_observe_core s c (s.seen k) o
  have hd' : v.descOf c g.desc = some d := by rw [State.descOf, show v.core c = _ from hc]; exact hd
  obtain ⟨h1, h2, h3, h4, h5, h6⟩ := landFor_spec v c (s.seen k) g d hd' ha hn
  have he : exec (if stream then .streamDelivery c k true 0 o else .readResponse c k true 0 o) s =
      .next ((v.slowReads c (s.seen k)).landFor c (s.seen k) false 0 g) := by
    cases stream with
    | true => exact execStreamDelivery_taken hs hp (hw rfl)
    | false => exact congrArg _ (answer_taken hs hp (hg rfl))
  exact ⟨_, he, h2, h3, h4, h5, h6.trans (by rw [show v.core c = _ from hc]), h1.dram.trans hdram⟩

/-! ### Packets that a core sends another (R63, R106, R247, R352) -/

/-- A core out of service answers FENCED, whatever comes (R291). -/
theorem original_fenced {s : State} {c : Nat} {k : Pkt} {ok : Bool} {go : State → Pkt → Bool → State} (hs : 2 ≤ (s.core c).state) :
    s.original c k ok go = (s.consume k).inject (pktAnswer (s.seen k) .fenced c) := if_pos hs
/-- A packet in good order to a core in service is taken and acknowledged. -/
theorem original_taken {s : State} {c : Nat} {k : Pkt} {go : State → Pkt → Bool → State} (hs : (s.core c).state < 2)
    (hp : some k.part = s.ownerOf c) (hu : (s.core c).suppress = none) :
    s.original c k true go = (go (s.consume (s.seen k)) (s.seen k) false).inject (pktAnswer (s.seen k) .ack c) := by
  have h1 : ¬ (some (s.seen k).part ≠ (s.consume (s.seen k)).ownerOf c) := not_not.2 hp
  have h2 : (s.consume (s.seen k)).stale c (s.seen k) = false := by
    show ((s.core c).suppress.isSome && _) = false
    rw [hu]; rfl
  rw [State.original, if_neg (by omega), State.checked]
  simp only [if_true, if_neg h1, h2, Bool.false_eq_true, if_false]
/-- The last packet of its descriptor counts at its remote counter (R63). -/
theorem countIn_last (s : State) (c : Nat) (k : Pkt) (hi : (s.core c).inbound = []) (ht : k.total ≤ 1) (hn : k.remCtr < 64) :
    s.unitsOnly (s.countIn c k) ∧ (∀ g i, g.reg ≠ .seqCount → (s.countIn c k).getF g i = s.getF g i) ∧
    (s.countIn c k).getF F.seqCount_value (c * 64 + k.remCtr) = min (s.getF F.seqCount_value (c * 64 + k.remCtr) + 1) (2 ^ 32 - 1) := by
  have e : s.countIn c k = (s.modCore c (fun q => { q with inbound := [] })).count c k.remCtr := by
    unfold State.countIn
    simp only [hi, List.find?_nil, List.filter_nil, Option.map_none, Option.getD_none, Nat.zero_add, if_pos ht]
  have h0 : s.unitsOnly (s.modCore c (fun q => { q with inbound := [] })) := rfl
  rw [e]
  exact ⟨h0.trans (count_unitsOnly ..), fun g i h => congrArg (bits · g.lo g.len) (count_reg _ c _ g.reg i h), getF_count _ c _ hn⟩
/-- Of the fields that neither faults nor tallies hold, an observation keeps each. -/
theorem consume_observe_getF (s : State) (c : Nat) (k : Pkt) (o : Obs) (g : RF) (i : Nat) (h : g.reg ∉ faultRegs ++ obsRegs) :
    ((s.consume k).observe c o).getF g i = s.getF g i := (observe_observed (s.consume k) c o).getF g i h
/-- A packet taken: its bytes land, and its descriptor's last packet counts, where the step between keeps the memory and the count. -/
theorem landed_countIn (v : State) (c a : Nat) (k : Pkt) (unit : Nat) (f : State → State) (hf : ∀ w : State, w.unitsOnly (f w))
    (hi : ∀ w : State, ((f w).core c).inbound = (w.core c).inbound) (hg : ∀ (w : State) i, (f w).getF F.seqCount_value i = w.getF F.seqCount_value i)
    (hv : (v.core c).inbound = []) (ht : k.total ≤ 1) (hr : k.remCtr < 64) (ha : a + k.len ≤ spadBytes) (hn : k.len ≠ 0) :
    let u := f (v.land c a k (k.poison || false) 0 unit [])
    let t := u.countIn c k
    v.localOnly t ∧ t.span c a k.len = ofRows k.data % 2 ^ (8 * k.len) ∧ v.rowsBut t c (a / 64) (cdiv (a % 64 + k.len) 64) ∧
    t.getF F.seqCount_value (c * 64 + k.remCtr) = min (v.getF F.seqCount_value (c * 64 + k.remCtr) + 1) (2 ^ 32 - 1) ∧
    ∀ g i, g.reg ≠ .seqCount → t.getF g i = u.getF g i := by
  intro u t
  obtain ⟨l1, l2, l3, l4, l5, -, -⟩ := land_spec v c a k (k.poison || false) unit [] ha hn
  have hu : u = f (v.land c a k (k.poison || false) 0 unit []) := rfl
  generalize v.land c a k (k.poison || false) 0 unit [] = w at l1 l2 l3 l4 l5 hu
  have hwu : w.unitsOnly u := hu ▸ hf w
  have hui : (u.core c).inbound = [] := by rw [hu, hi, l3]; exact hv
  obtain ⟨c1, c2, c3⟩ := countIn_last u c k hui ht hr
  have hwt := hwu.trans c1
  refine ⟨l1.trans hwt.localOnly, (hwt.sameSpad.span ..).trans l4, l5.trans (hwt.sameSpad.rowsBut _ _ _), ?_, c2⟩
  rw [c3, hu, hg]
  exact congrArg (fun r => min (bits (Tab.get regDefault r _) _ _ + 1) _) l2

/-! ### Bytes written one by one (R247) -/

theorem byteAt_zero (s : State) (c x : Nat) : s.byteAt c 0 x = bits (s.row c (x / 64)) (8 * (x % 64)) 8 := by
  rw [State.byteAt, Nat.zero_add, elem, bits, Nat.mul_comm]
/-- One byte written. -/
def State.putByte (s : State) (c y v : Nat) (p : Bool) : State :=
  s.putRow c (y / 64) (setBits (s.row c (y / 64)) (8 * (y % 64)) 8 v) (p || s.rowPoison c (y / 64))
theorem byteAt_putByte (s : State) (c y v x : Nat) (p : Bool) (hy : y < 16777216) (hx : x < 16777216) :
    (s.putByte c y v p).byteAt c 0 x = if x = y then v % 256 else s.byteAt c 0 x := by
  rw [byteAt_zero, byteAt_zero, State.putByte, row_putRow _ _ _ _ _ _ _ (by omega) (by omega)]
  by_cases hr : x / 64 = y / 64
  · rw [if_pos ⟨rfl, hr⟩]
    by_cases he : x = y
    · rw [if_pos he, he]
      exact bits_setBits_same _ _ _ _ (by omega)
    · rw [if_neg he, hr]
      exact bits_setBits_ne _ _ _ _ _ _ (by omega) (by omega)
  · rw [if_neg (fun h => hr h.2), if_neg (fun h => hr (congrArg (· / 64) h))]
/-- Bytes from `y` on, one by one. -/
def State.putBytesFrom (s : State) (c y : Nat) (p : Bool) : List Nat → State
  | [] => s
  | v :: l => (s.putByte c y v p).putBytesFrom c (y + 1) p l
theorem putByteRun_eq (s : State) (c a : Nat) (l : List Nat) (p : Bool) : s.putByteRun c a l p = s.putBytesFrom c a p l := by
  have h : ∀ (l : List Nat) (j : Nat) (s : State), (l.zipIdx j).foldl (fun (s : State) (b : Nat × Nat) => s.putByte c (a + b.2) b.1 p) s =
      s.putBytesFrom c (a + j) p l := by
    intro l
    induction l with
    | nil => intro j s; rfl
    | cons v l ih => intro j s; exact ih (j + 1) _
  exact h l 0 s
/-- Bytes written one by one are read back, and rows and bytes beside theirs stay. -/
theorem putBytesFrom_spec (l : List Nat) (s : State) (c y : Nat) (p : Bool) (h : y + l.length ≤ spadBytes) :
    let t := s.putBytesFrom c y p l
    s.spadOnly t ∧ s.rowsBut t c (y / 64) (cdiv (y % 64 + l.length) 64) ∧ (∀ x < y, t.byteAt c 0 x = s.byteAt c 0 x) ∧
    ∀ i < l.length, t.byteAt c 0 (y + i) = l.getD i 0 % 256 := by
  have hs : spadBytes = 8388608 := rfl
  induction l generalizing s y with
  | nil => exact ⟨rfl, State.rowsBut.refl _ _ _ _, fun _ _ => rfl, fun i hi => absurd hi (Nat.not_lt_zero i)⟩
  | cons v l ih =>
    rw [List.length_cons] at h
    obtain ⟨h1, h2, h3, h4⟩ := ih (s.putByte c y v p) (y + 1) (by omega)
    have hp : s.rowsBut (s.putByte c y v p) c (y / 64) 1 := fun d k hk hd => by
      rw [State.putByte, row_putRow _ _ _ _ _ _ _ (by omega) hk, rowPoison_putRow _ _ _ _ _ _ _ (by omega) hk, if_neg (by omega), if_neg (by omega)]
      exact ⟨rfl, rfl⟩
    refine ⟨State.spadOnly.trans (t := s.putByte c y v p) rfl h1, ?_, fun x hx => ?_, fun i hi => ?_⟩
    · rw [List.length_cons]
      exact (hp.mono (Nat.le_refl _) (by unfold cdiv; omega)).trans (h2.mono (by omega) (by unfold cdiv; omega))
    · rw [show s.putBytesFrom c y p (v :: l) = (s.putByte c y v p).putBytesFrom c (y + 1) p l from rfl, h3 x (by omega),
        byteAt_putByte _ _ _ _ _ _ (by omega) (by omega), if_neg (by omega)]
    · rw [show s.putBytesFrom c y p (v :: l) = (s.putByte c y v p).putBytesFrom c (y + 1) p l from rfl]
      cases i with
      | zero => rw [show y + 0 = y from rfl, h3 y (by omega), byteAt_putByte _ _ _ _ _ _ (by omega) (by omega), if_pos rfl]; rfl
      | succ i =>
        rw [List.length_cons] at hi
        have := h4 i (by omega)
        rwa [show y + 1 + i = y + (i + 1) by omega] at this

/-- Settles O21: a packet taken by `landed_countIn`, agreed bytes by `putBytesFrom_spec`. -/
theorem returnsLand : Obligations.ReturnsLand := by
  refine ⟨?_, ?_⟩
  · intro c k ok o s mirror v a i
    refine ⟨fun hs => ?_, fun hs hp hok hu ha hn ht hi hr => ?_⟩
    · cases mirror <;> exact congrArg _ (original_fenced hs)
    subst hok
    obtain ⟨hc, hdram, hnet⟩ := consume_observe_core s c (s.seen k) o
    have hvi : (v.core c).inbound = [] := by rw [show v.core c = _ from hc]; exact hi
    have hcnt : v.getF F.seqCount_value (c * 64 + k.remCtr) = s.getF F.seqCount_value (c * 64 + k.remCtr) :=
      consume_observe_getF s c (s.seen k) o _ _ (by decide)
    cases mirror with
    | false =>
      obtain ⟨h1, h2, h3, h4, -⟩ := landed_countIn v c a (s.seen k) (unitCore (s.seen k).src) (fun w => w.depend c (s.seen k))
        (fun w => (depend_facts w c _).1) (fun w => by rw [(depend_facts w c _).2.1]) (fun w j => (depend_facts w c _).2.2 _ j (by decide)) hvi ht hr ha hn
      have he : exec (.corePushData c k true 0 o) s = .next (State.inject (State.countIn (((v.land c a (s.seen k) ((s.seen k).poison || false) 0
          (unitCore (s.seen k).src) []).depend c (s.seen k))) c (s.seen k)) (pktAnswer (s.seen k) .ack c)) := congrArg Outcome.next (original_taken hs hp hu)
      refine ⟨_, he, h2, h3, congrArg (· ++ _) (h1.net.trans hnet), h1.dram.trans hdram, h4.trans ?_, fun h => by cases h⟩
      exact congrArg (fun n => min (n + 1) _) hcnt
    | true =>
      let f (w : State) : State := (w.setB F.intMirror_pending c true).modCore c (fun q => { q with mirrored := true })
      obtain ⟨h1, h2, h3, h4, h5⟩ := landed_countIn v c a (s.seen k) 0 f (fun w => rfl) (fun w => by rw [core_modCore_same]; rfl)
        (fun w j => getF_setReg_ne (r := .intMirror) w _ c j _ (Or.inl (by decide))) hvi ht hr ha hn
      have he : exec (.mirrorData c k true o) s = .next (State.inject (State.countIn (f (v.land c a (s.seen k) ((s.seen k).poison || false) 0 0 []))
          c (s.seen k)) (pktAnswer (s.seen k) .ack c)) := congrArg Outcome.next (original_taken hs hp hu)
      refine ⟨_, he, h2, h3, congrArg (· ++ _) (h1.net.trans hnet), h1.dram.trans hdram, h4.trans (congrArg (fun n => min (n + 1) _) hcnt),
        fun _ => (h5 _ c (by decide)).trans (getF_setB_same _ _ _ _ (by decide) (by decide))⟩
  · intro c k o s g hs hp hg ha
    let v := (s.consume (s.seen k)).observe c o
    let l := (rangeFrom 0 k.len).map (elem (ofRows k.data) 8)
    have hl : l.length = k.len := by simp [l, rangeFrom_eq_range']
    obtain ⟨hc, hdram, -⟩ := consume_observe_core s c (s.seen k) o
    obtain ⟨p1, p2, -, p4⟩ := putBytesFrom_spec l v c k.addr (k.poison || false) (by rw [hl]; exact ha)
    have he : exec (.agreedBytes c k true o) s =
        .next (((v.putByteRun c k.addr l (k.poison || false)).slowed c (s.seen k) g).freeTag c g) := by
      show execAgreedBytes c k true o s = _
      rw [execAgreedBytes, answer_taken hs hp hg]
      rfl
    rw [putByteRun_eq] at he
    generalize v.putBytesFrom c k.addr (k.poison || false) l = w at p1 p2 p4 he
    obtain ⟨s1, s2⟩ := slowed_facts w c (s.seen k) g
    generalize w.slowed c (s.seen k) g = x at s1 s2 he
    obtain ⟨f1, f2⟩ := freeTag_facts x c g
    have hw := s1.trans f1
    rw [hl] at p2 p4
    refine ⟨_, he, fun i hi => ?_, State.rowsBut.trans p2 (hw.sameSpad.rowsBut _ _ _), ?_, hw.localOnly.dram.trans (p1.localOnly.dram.trans hdram)⟩
    · rw [hw.sameSpad.byteAt, p4 i hi]
      simp [l, rangeFrom_eq_range', hi, elem]
    · rw [f2, s2, p1.core, show v.core c = _ from hc]

end Sys2Proof.Machine
end

section
/-! SUPPORT. Tags taken and given back, and the obligation on them: O19. -/
namespace Sys2Proof.Machine
open Host

/-! ### What an answer leaves alone before its tag goes back -/

/-- Two descriptors with the same number, the same bytes sent and the same counter. -/
def Desc.alike (d d' : Desc) : Prop :=
  d'.seq = d.seq ∧ d'.sent = d.sent ∧ d'.len = d.len ∧ d'.open_ = d.open_ ∧ d'.ctr = d.ctr ∧ d'.again = d.again
theorem Desc.alike.refl (d : Desc) : d.alike d := ⟨rfl, rfl, rfl, rfl, rfl, rfl⟩
theorem Desc.alike.trans {d e f : Desc} (h : d.alike e) (k : e.alike f) : d.alike f := by
  obtain ⟨h1, h2, h3, h4, h5, h6⟩ := h
  obtain ⟨k1, k2, k3, k4, k5, k6⟩ := k
  exact ⟨k1.trans h1, k2.trans h2, k3.trans h3, k4.trans h4, k5.trans h5, k6.trans h6⟩
/-- What answers do before they give a tag back: packets, DRAM, tags, generations, counts and the descriptors' progress are as they were. -/
def State.answering (s t : State) (c : Nat) : Prop :=
  t.net = s.net ∧ t.dram = s.dram ∧ (t.core c).tags = (s.core c).tags ∧ (t.core c).gens = (s.core c).gens ∧
  (∃ f : Desc → Desc, (∀ d, Desc.alike d (f d)) ∧ (t.core c).descs = (s.core c).descs.map f) ∧
  ∀ g i, g.reg = .seqCount ∨ g.reg = .fabStat → t.getF g i = s.getF g i
theorem State.answering.refl (s : State) (c : Nat) : s.answering s c := ⟨rfl, rfl, rfl, rfl, ⟨id, .refl, (List.map_id _).symm⟩, fun _ _ _ => rfl⟩
theorem State.answering.trans {s t u : State} {c : Nat} (h : s.answering t c) (k : t.answering u c) : s.answering u c := by
  obtain ⟨h1, h2, h3, h4, ⟨f, hf, h5⟩, h6⟩ := h
  obtain ⟨k1, k2, k3, k4, ⟨f', hf', k5⟩, k6⟩ := k
  exact ⟨k1.trans h1, k2.trans h2, k3.trans h3, k4.trans h4, ⟨f' ∘ f, fun d => (hf d).trans (hf' _), by rw [k5, h5, List.map_map]⟩,
    fun g i hg => (k6 g i hg).trans (h6 g i hg)⟩
theorem State.faultOnly.answering {s t : State} (h : s.faultOnly t) (c : Nat) : s.answering t c := by
  have hc := h.2.2.2 c
  refine ⟨by rw [h.1], h.memory.2.2.2.1, by rw [hc], by rw [hc], ⟨id, .refl, by rw [hc, List.map_id]⟩, fun g i hg => h.getF g i ?_⟩
  rcases hg with hg | hg <;> rw [hg] <;> decide
theorem backOff_getF (s : State) (c n : Nat) (g : RF) (i : Nat) (hg : g.reg ≠ .rtrRate) : (s.backOff c n).getF g i = s.getF g i := by
  have hr : (rateField n).reg = .rtrRate := by
    unfold rateField
    split_ifs <;> rfl
  unfold State.backOff
  dsimp only
  split
  · rfl
  · exact getF_setReg_ne _ _ _ _ _ (Or.inl (hr ▸ hg))
theorem slowed_answering (s : State) (c : Nat) (k : Pkt) (g : TagUse) : s.answering (s.slowed c k g) c := by
  obtain ⟨h1, h2⟩ := slowed_facts s c k g
  refine ⟨h1.net, h1.memory.2.2.2.1, by rw [h2], by rw [h2], ⟨id, .refl, by rw [h2, List.map_id]⟩, fun f i hf => ?_⟩
  unfold State.slowed
  split
  · exact backOff_getF _ _ _ _ _ (by rcases hf with hf | hf <;> rw [hf] <;> decide)
  · rfl
/-- An update of one descriptor that leaves its progress. -/
theorem modDesc_answering (s : State) (c n : Nat) (f : Desc → Desc) (h : ∀ d, Desc.alike d (f d)) : s.answering (s.modDesc c n f) c := by
  obtain ⟨h1, h2⟩ := modDesc_facts s c n f
  refine ⟨rfl, rfl, by rw [h2], by rw [h2], ⟨fun d => if d.seq = n then f d else d, fun d => ?_, by rw [h2]⟩, fun _ _ _ => rfl⟩
  dsimp only
  split
  · exact h d
  · exact .refl d
theorem putSpan_spadOnly (s : State) (c a n v : Nat) (p : Bool) (seen : NSet) : s.spadOnly (s.putSpan c a n v p seen) := by
  rw [putSpan_eq]
  exact putEach_spadOnly ..
theorem State.spadOnly.answering {s t : State} (h : s.spadOnly t) (c : Nat) : s.answering t c :=
  ⟨h.net, h.localOnly.dram, by rw [h.core], by rw [h.core], ⟨id, .refl, by rw [h.core, List.map_id]⟩, fun g i _ => h.getF g i⟩
theorem landed_alike (d : Desc) (a n : Nat) (p : Bool) : d.alike (d.landed a n p) := ⟨rfl, rfl, rfl, rfl, rfl, rfl⟩
theorem failSlice_answering (s : State) (c : Nat) (d : Desc) (a n : Nat) : s.answering (s.failSlice c d a n) c := by
  unfold State.failSlice
  split
  · have h := (putSpan_spadOnly s c (d.loc + a) n 0 true d.parts).answering c
    generalize s.putSpan c (d.loc + a) n 0 true d.parts = t at h ⊢
    exact h.trans (modDesc_answering t c d.seq (fun e => e.landed (e.loc + a) n true) (fun e => landed_alike e _ _ _))
  · exact .refl s c
theorem descFault_answering (s : State) (c n : Nat) (e : Ev) (x : Nat) : s.answering (s.descFault c n e x) c := by
  unfold State.descFault
  split
  · split
    · exact .refl s c
    · exact (modDesc_answering s c n (fun d => { d with faulted := true }) (fun _ => ⟨rfl, rfl, rfl, rfl, rfl, rfl⟩)).trans ((fault_faultOnly ..).answering c)
  · exact .refl s c
theorem descFault_memory (s : State) (c n : Nat) (e : Ev) (x : Nat) : s.sameMemory (s.descFault c n e x) := by
  unfold State.descFault
  split
  · split
    · exact ⟨rfl, rfl, rfl, rfl, rfl, rfl⟩
    · exact sameMemory_trans (modDesc_facts s c n _).1.memory (fault_faultOnly ..).memory
  · exact ⟨rfl, rfl, rfl, rfl, rfl, rfl⟩

/-! ### Tags given back (R63, R292) -/

theorem getF_setF_ne (s : State) (f g : RF) (i j v : Nat) (h : g.reg ≠ f.reg) : (s.setF f i v).getF g j = s.getF g j :=
  getF_setReg_ne _ _ _ _ _ (Or.inl h)
theorem showTags_getF (s : State) (c : Nat) (g : RF) (i : Nat) (h : g.reg ≠ .dmaTagStat) : (s.showTags c).getF g i = s.getF g i :=
  (getF_setF_ne _ F.dmaTagStat_high_water g c i _ h).trans (getF_setF_ne _ F.dmaTagStat_in_use g c i _ h)
/-- Completing descriptors writes their counters and what the core shows of its phase and tags. -/
theorem settle_getF (s : State) (c : Nat) (g : RF) (i : Nat) (h1 : g.reg ≠ .seqCount) (h2 : g.reg ≠ .corePhase) (h3 : g.reg ≠ .dmaTagStat) :
    (s.settle c).getF g i = s.getF g i := by
  have hf : ∀ (l : List Desc) (t : State), (l.foldl (fun s d => if d.again then s else s.countOpt c d.ctr) t).getF g i = t.getF g i := fun l t =>
    foldl_keeps (fun u => u.getF g i = t.getF g i) _ (fun u d hu => by
      split
      · exact hu
      · exact (countOpt_getF _ _ _ _ _ h1).trans hu) l t rfl
  refine (showTags_getF _ c g i h3).trans ((getF_setF_ne _ F.corePhase_phase g c i _ h2).trans ((hf _ _).trans rfl))
/-- The last open descriptor of a core completes, and counts once (R63). -/
theorem settle_last (s : State) (c : Nat) (d : Desc) (n : Nat) (hd : (s.core c).descs = [d]) (hl : d.len ≤ d.sent) (ho : d.open_ = 0)
    (hc : d.ctr = some n) (hn : n < 64) (ha : d.again = false) : ((s.settle c).core c).descs = [] ∧
    (s.settle c).getF F.seqCount_value (c * 64 + n) = min (s.getF F.seqCount_value (c * 64 + n) + 1) (2 ^ 32 - 1) := by
  have hdone : d.isDone = true := by simp [Desc.isDone, hl, ho]
  refine ⟨by rw [(settle_facts s c).2, hd]; simp [hdone], ?_⟩
  rw [State.settle, hd]
  simp only [List.filter_cons, hdone, if_true, List.filter_nil, List.foldl_cons, List.foldl_nil, ha, Bool.false_eq_true, if_false, hc, State.countOpt]
  rw [showTags_getF _ _ _ _ (by decide), State.showPhase, getF_setF_ne _ _ _ _ _ _ (by decide), getF_count _ _ _ hn]
  rfl
/-- The last tag of a core's one open descriptor, given back: the tag is free, and the descriptor complete and counted. -/
theorem freeTag_last (s : State) (c : Nat) (g : TagUse) (d : Desc) (n : Nat) (hd : (s.core c).descs = [d]) (hg : d.seq = g.desc)
    (hl : d.sent = d.len) (ho : d.open_ = 1) (hc : d.ctr = some n) (hn : n < 64) (ha : d.again = false) :
    ((s.freeTag c g).core c).descs = [] ∧
    (s.freeTag c g).getF F.seqCount_value (c * 64 + n) = min (s.getF F.seqCount_value (c * 64 + n) + 1) (2 ^ 32 - 1) := by
  let u := (s.modCore c (fun q => { q with tags := q.tags.filter (fun u => u.num ≠ g.num) })).modDesc c g.desc (fun d => { d with open_ := d.open_ - 1 })
  have hu : (u.core c).descs = [{ d with open_ := d.open_ - 1 }] := by
    rw [(modDesc_facts _ c g.desc _).2, core_modCore_same]
    simp [hd, hg]
  exact settle_last u c _ n hu (by simp [hl]) (by simp [ho]) hc hn ha
/-- A tag given back changes neither fabric nor DRAM nor generations, and of the registers only counters and what the core shows. -/
theorem freeTag_frame (s : State) (c : Nat) (g : TagUse) : (s.freeTag c g).net = s.net ∧ s.sameMemory (s.freeTag c g) ∧
    ((s.freeTag c g).core c).gens = (s.core c).gens ∧ ∀ i, (s.freeTag c g).getF F.fabStat_lost i = s.getF F.fabStat_lost i := by
  let u := (s.modCore c (fun q => { q with tags := q.tags.filter (fun u => u.num ≠ g.num) })).modDesc c g.desc (fun d => { d with open_ := d.open_ - 1 })
  obtain ⟨h1, -⟩ := freeTag_facts s c g
  refine ⟨h1.net, h1.memory, ?_, fun i => settle_getF u c _ i (by decide) (by decide) (by decide)⟩
  show ((u.settle c).core c).gens = _
  rw [(settle_facts u c).2, (modDesc_facts _ c g.desc _).2, core_modCore_same]

/-- A tag's generation advanced and its loss counted. -/
def State.noteLost (s : State) (c : Nat) (g : TagUse) : State :=
  (s.modCore c (fun q => { q with gens := Tab.put (fun _ => 0) g.num ((g.pkt.gen + 1) % 16) q.gens })).bumpF F.fabStat_lost 0 1
theorem noteLost_facts (s : State) (c : Nat) (g : TagUse) : (s.noteLost c g).net = s.net ∧ (s.noteLost c g).dram = s.dram ∧
    ((s.noteLost c g).core c).tags = (s.core c).tags ∧ Tab.get (fun _ => 0) ((s.noteLost c g).core c).gens g.num = (g.pkt.gen + 1) % 16 ∧
    (s.noteLost c g).getF F.fabStat_lost 0 = min (s.getF F.fabStat_lost 0 + 1) (2 ^ F.fabStat_lost.len - 1) := by
  unfold State.noteLost
  rw [State.bumpF_core, core_modCore_same, State.bumpF_net, State.bumpF_dram, getF_bumpF_same _ _ _ _ (by decide), State.modCore_getF,
    State.modCore_net, State.modCore_dram]
  refine ⟨rfl, rfl, rfl, ?_, rfl⟩
  exact Tab.get_put_same ..

/-- A tag held past its timeout is given back with its generation advanced, and counted lost (R292). -/
theorem execTagTimeout_spec (c : CoreIx) (tag : BitVec 8) (lost : Bool) (s : State) (g : TagUse)
    (hg : (s.core c).tags.find? (fun t => t.num = tag.toNat) = some g) :
    ∃ t, exec (.tagTimeout c ⟨tag, lost⟩) s = .next t ∧ (t.core c).tags = (s.core c).tags.filter (fun u => u.num ≠ tag.toNat) ∧
      Tab.get (fun _ => 0) (t.core c).gens tag.toNat = (g.pkt.gen + 1) % 16 ∧
      t.getF F.fabStat_lost 0 = min (s.getF F.fabStat_lost 0 + 1) (2 ^ F.fabStat_lost.len - 1) ∧
      t.net = (if lost then dropPkt g.pkt s.net else s.net) ∧ t.dram = s.dram := by
  have hnum : g.num = tag.toNat := by simpa using List.find?_some hg
  -- the lost packet off the fabric, and the slice it stood for failed
  let u := if lost then s.consume g.pkt else s
  let v := match u.descOf c g.desc with
    | some d => u.failSlice c d g.off (g.bytes d)
    | none => u
  have hu : u.net = (if lost then dropPkt g.pkt s.net else s.net) ∧ u.dram = s.dram ∧ u.core c = s.core c ∧ ∀ f i, u.getF f i = s.getF f i := by
    cases lost <;> exact ⟨rfl, rfl, rfl, fun _ _ => rfl⟩
  have hv : u.answering v c := by
    simp only [v]
    split
    · exact failSlice_answering ..
    · exact .refl u c
  -- its generation advanced, the loss counted
  have he : exec (.tagTimeout c ⟨tag, lost⟩) s = .next (((v.noteLost c g).descFault c g.desc .packetLost g.desc).freeTag c g) := by
    show execTagTimeout c ⟨tag, lost⟩ s = _
    rw [execTagTimeout]
    simp only [hg]
    rfl
  obtain ⟨u1, u2, u3, u4⟩ := hu
  obtain ⟨v1, v2, v3, -, -, v6⟩ := hv
  clear_value v u
  obtain ⟨w1, w2, w3, w4, w5⟩ := noteLost_facts v c g
  generalize v.noteLost c g = w at w1 w2 w3 w4 w5 he
  obtain ⟨x1, x2, x3, x4, -, x6⟩ := descFault_answering w c g.desc .packetLost g.desc
  generalize w.descFault c g.desc .packetLost g.desc = x at x1 x2 x3 x4 x6 he
  obtain ⟨f1, f2, f3, f4⟩ := freeTag_frame x c g
  refine ⟨_, he, ?_, ?_, ?_, ?_, ?_⟩
  · rw [(freeTag_facts x c g).2, x3, w3, v3, u3, hnum]
  · rw [f3, x4, ← hnum, w4]
  · rw [f4, x6 _ _ (Or.inr rfl), w5, v6 _ _ (Or.inr rfl), u4]
  · rw [f1, x1, w1, v1, u1]
  · rw [f2.2.2.2.1, x2, w2, v2, u2]
/-- A RESEND to a core sends its tag's packet again and keeps the tag (R289). -/
theorem execResendRequest_spec (n : NodeIx) (c : CoreIx) (k : Pkt) (s : State) (g : TagUse) (hn : n.val = c.val) (hs : (s.core c).state < 2)
    (hp : some k.part = s.ownerOf c) (hc : s.fab.copies = []) (hg : s.tagOf c k = some g) :
    ∃ t, exec (.resendRequest n ⟨k, true⟩) s = .next t ∧ t.net = dropPkt (s.seen k) s.net ++ [(resendPkt g (s.seen k)).sealed] ∧
      (t.core c).tags.map (·.num) = (s.core c).tags.map (·.num) ∧ (t.core c).descs = (s.core c).descs ∧ s.sameMemory t := by
  have hlt : n.val < 4096 := hn ▸ c.isLt
  let u := (s.consume (s.seen k)).slowed c (s.seen k) g
  obtain ⟨u1, u2⟩ := slowed_facts (s.consume (s.seen k)) c (s.seen k) g
  let f (q : CoreSt) : CoreSt := { q with tags := q.tags.map (fun u =>
    if u.num = g.num then { u with pkt := { u.pkt with resend := min 2 (u.pkt.resend + 1) } } else u) }
  have he : exec (.resendRequest n ⟨k, true⟩) s = .next ((u.modCore c f).inject (resendPkt g (s.seen k))) := by
    show execResendRequest n ⟨k, true⟩ s = _
    rw [execResendRequest]
    simp only [hc, List.find?_nil, if_pos hlt]
    rw [hn, answer_taken hs hp hg]
  have hcore : (u.modCore c f).core c = f (u.core c) := core_modCore_same ..
  refine ⟨_, he, congrArg (· ++ _) u1.net, ?_, ?_, u1.memory⟩
  · rw [State.inject_core, hcore, show u.core c = _ from u2]
    show List.map _ (List.map _ _) = _
    rw [List.map_map]
    refine List.map_congr_left fun a _ => ?_
    show TagUse.num (if _ then _ else _) = _
    split <;> rfl
  · rw [State.inject_core, hcore, show u.core c = _ from u2]
    rfl

/-! ### The last answer (R60, R63, R106) -/

/-- An answer that takes the last of a tag's acknowledgements gives the tag back. -/
theorem answered_last (s : State) (c : Nat) (g : TagUse) (k : Pkt) (h : g.acks ≤ 1) : s.answered c g k = s.freeTag c g := if_pos (Or.inl h)
/-- An acknowledgement, FENCED or REFUSED, whatever it says, ends in the tag going back. -/
theorem exec_lastAnswer {c : CoreIx} {k : Pkt} {s : State} {g : TagUse} {d : Desc} (hs : (s.core c).state < 2) (hp : some k.part = s.ownerOf c)
    (hg : s.tagOf c k = some g) (ha : g.acks ≤ 1) (hd : s.descOf c g.desc = some d) {i : Instr}
    (hi : i ∈ [Instr.fencedAcknowledgement c ⟨k, true⟩, .refusedAcknowledgement c ⟨k, true⟩] ++
      (if k.poison = false then [Instr.acknowledgement c ⟨k, true⟩] else [])) :
    ∃ x, exec i s = .next (x.freeTag c g) ∧ (s.consume (s.seen k)).answering x c ∧ (d.kind.inbound = false → s.sameMemory x) := by
  let v := s.consume (s.seen k)
  let w := v.slowed c (s.seen k) g
  have hw : v.answering w c := slowed_answering ..
  obtain ⟨w1, w2⟩ := slowed_facts v c (s.seen k) g
  have hi' : i = .fencedAcknowledgement c ⟨k, true⟩ ∨ i = .refusedAcknowledgement c ⟨k, true⟩ ∨ (k.poison = false ∧ i = .acknowledgement c ⟨k, true⟩) := by
    split at hi <;> simp_all
  rcases hi' with rfl | rfl | ⟨hk, rfl⟩
  · refine ⟨w, ?_, hw, fun _ => w1.memory⟩
    show execFencedAcknowledgement c ⟨k, true⟩ s = _
    rw [execFencedAcknowledgement, answer_taken hs hp hg, answered_last _ _ _ _ ha]
  · have hwd : w.descOf c g.desc = some d := by rw [State.descOf, show w.core c = _ from w2]; exact hd
    let x := (w.failSlice c d g.off (g.bytes d)).accessFault c g.desc (refuseWord 0 g.pkt.part g.pkt.addr)
    have hx : w.answering x c := (failSlice_answering ..).trans (descFault_answering ..)
    refine ⟨x, ?_, hw.trans hx, fun hin => ?_⟩
    · show execRefusedAcknowledgement c ⟨k, true⟩ s = _
      rw [execRefusedAcknowledgement, answer_taken hs hp hg]
      dsimp only
      rw [answered_last _ _ _ _ ha, show State.descOf _ c g.desc = some d from hwd]
    · have hf : w.failSlice c d g.off (g.bytes d) = w := if_neg (by simp [hin])
      have hm : w.sameMemory x := by
        simp only [x, hf]
        exact descFault_memory ..
      exact sameMemory_trans w1.memory hm
  · refine ⟨w, ?_, hw, fun _ => w1.memory⟩
    have hn : ¬ ((s.seen k).poison = true ∧ g.tries < 2) := by
      rw [show (s.seen k).poison = k.poison from rfl, hk]
      simp
    show execAcknowledgement c ⟨k, true⟩ s = _
    rw [execAcknowledgement, answer_taken hs hp hg]
    dsimp only
    rw [if_neg hn, answered_last _ _ _ _ ha]
/-- The last answer to the last tag of a core's one open descriptor (R63): the tag is free, the descriptor complete and counted once. -/
theorem lastAnswer_spec {c : CoreIx} {k : Pkt} {s : State} {g : TagUse} {d : Desc} {n : Nat} (hs : (s.core c).state < 2) (hp : some k.part = s.ownerOf c)
    (hg : s.tagOf c k = some g) (ha : g.acks ≤ 1) (hd : (s.core c).descs = [d]) (hq : d.seq = g.desc) (hl : d.sent = d.len) (ho : d.open_ = 1)
    (hc : d.ctr = some n) (hn : n < 64) (hag : d.again = false) {i : Instr}
    (hi : i ∈ [Instr.fencedAcknowledgement c ⟨k, true⟩, .refusedAcknowledgement c ⟨k, true⟩] ++
      (if k.poison = false then [Instr.acknowledgement c ⟨k, true⟩] else [])) :
    ∃ t, exec i s = .next t ∧ (t.core c).tags = (s.core c).tags.filter (fun u => u.num ≠ g.num) ∧ (t.core c).descs = [] ∧
      t.net = dropPkt (s.seen k) s.net ∧ t.dram = s.dram ∧
      t.getF F.seqCount_value (c * 64 + n) = min (s.getF F.seqCount_value (c * 64 + n) + 1) (2 ^ 32 - 1) ∧
      (d.kind.inbound = false → s.sameMemory t) := by
  have hdo : s.descOf c g.desc = some d := by rw [State.descOf, hd]; simp [hq]
  obtain ⟨x, he, ⟨x1, x2, x3, -, ⟨f, hf, x5⟩, x6⟩, hm⟩ := exec_lastAnswer hs hp hg ha hdo hi
  obtain ⟨a1, a2, a3, a4, a5, a6⟩ := hf d
  have hxd : (x.core c).descs = [f d] := x5.trans (congrArg (List.map f) hd)
  obtain ⟨k1, k2⟩ := freeTag_last x c g (f d) n hxd (a1.trans hq) (by rw [a2, a3, hl]) (a4.trans ho) (a5.trans hc) hn (a6.trans hag)
  obtain ⟨f1, f2, -, -⟩ := freeTag_frame x c g
  refine ⟨_, he, ?_, k1, f1.trans x1, f2.2.2.2.1.trans x2, ?_, fun h => sameMemory_trans (hm h) f2⟩
  · rw [(freeTag_facts x c g).2, x3]
    rfl
  · rw [k2, x6 _ _ (Or.inl rfl)]
    rfl

/-! ### Packets formed (R62, R64, R282) -/

/-- Only a GATHER's packets name list entries. -/
theorem nextSlice_idx {s : State} {p : Nat} {d : Desc} {x : Slice} (h : s.nextSlice p d = some x) (hk : d.kind ≠ .gather) : x.idx = [] := by
  unfold State.nextSlice at h
  split at h
  · cases h
  · cases hd : d.kind <;> rw [hd] at h hk <;> dsimp only at h
    case gather => exact absurd rfl hk
    case reduceSend => split_ifs at h <;> cases h <;> rfl
    all_goals cases h; rfl
/-- What a packet says of itself: source, destination, partition, tag, generation, sequence number, address and bytes. -/
def pktNamed (k : Pkt) : Nat × Nat × Nat × Nat × Nat × Nat × Nat × Nat := (k.src, k.dst, k.part, k.tag, k.gen, k.seq, k.addr, k.len)
/-- Sealing a packet changes none of it. -/
theorem pktNamed_sealed (k : Pkt) : pktNamed k.sealed = pktNamed k := rfl
/-- A packet formed carries its source, its tag with the generation the core holds of it, its number and its partition. -/
theorem formPkt_named (s : State) (p c : Nat) (d : Desc) (x : Slice) (dst tag : Nat) (more : List Nat) (hk : d.kind ≠ .gather) :
    pktNamed (s.formPkt p c d x dst tag more) = (c, dst, p, tag, Tab.get (fun _ => 0) (s.core c).gens tag, d.seq, x.addr, x.len) := by
  rw [State.formPkt, pktNamed_sealed]
  cases hd : d.kind
  case gather => exact absurd hd hk
  all_goals rfl
/-- Where a packet has left, the core notes what it sent: memory, fabric and tags are as they were. -/
theorem noteSent_facts (s : State) (c : Nat) (k : Pkt) : s.unitsOnly (s.noteSent c k) ∧ ((s.noteSent c k).core c).tags = (s.core c).tags := by
  refine ⟨rfl, ?_⟩
  unfold State.noteSent State.noteReceiver
  rw [State.setF_core, core_modCore_same, core_modCore_same]
/-- A core that sends a packet holds the packet's tag besides those it held. -/
theorem sent_facts (v : State) (c n : Nat) (k : Pkt) (l : List TagUse) (f : Desc → Desc) :
    let u := (v.modCore c (fun q => { q with tags := q.tags ++ l })).modDesc c n f
  let t := ((u.inject k).noteSent c k).settle c
  t.net = v.net ++ [k.sealed] ∧ v.sameMemory t ∧ (t.core c).tags = (v.core c).tags ++ l := by
  intro u t
  have hu : (u.core c).tags = (v.core c).tags ++ l := by
    rw [(modDesc_facts _ c n f).2, core_modCore_same]
  have hn : u.net = v.net := rfl
  have hm : v.sameMemory u := ⟨rfl, rfl, rfl, rfl, rfl, rfl⟩
  clear_value u
  obtain ⟨n1, n2⟩ := noteSent_facts (u.inject k) c k
  obtain ⟨s1, s2⟩ := settle_facts ((u.inject k).noteSent c k) c
  refine ⟨?_, ?_, ?_⟩
  · rw [s1.net, n1.net, State.inject_net, hn]
  · exact sameMemory_trans hm (sameMemory_trans n1.memory s1.memory)
  · rw [show t.core c = _ from s2, n2]
    exact hu
/-- The state a packet leaves from: rows observed, and a block check that failed raised. -/
def State.leaving (s : State) (c : Nat) (o : Obs) (d : Desc) (x : Slice) : State :=
  let v := s.observeRows c o
  let ck := if d.checked then some (v.outCheck c d x) else none
  if ck ≠ d.blkChk ∧ ck.any (·.2.2) = true then v.fault c .blockCheckMismatch 0 else v
/-- It leaves packets and tags as they were, and memory as the observed rows do. -/
theorem leaving_facts (s : State) (c : Nat) (o : Obs) (d : Desc) (x : Slice) :
    (s.leaving c o d x).net = s.net ∧ (s.observeRows c o).sameMemory (s.leaving c o d x) ∧
    ((s.leaving c o d x).core c).tags = (s.core c).tags := by
  have hv := observeRows_observed s c o
  have hw : (s.observeRows c o).faultOnly (s.leaving c o d x) :=
    iteInduction (motive := fun t => State.faultOnly _ t) (fun _ => fault_faultOnly ..) (fun _ => .refl _)
  refine ⟨?_, hw.memory, ?_⟩
  · rw [hw.1, hv.1]
  · rw [hw.2.2.2 c, hv.2.2 c]
/-- A descriptor's next packet (R62, R64): it takes the lowest free tag, or the descriptor waits. -/
theorem execPacketIssue_spec (c : CoreIx) (seq : BitVec 16) (cycles : Nat) (o : Obs) (s : State) (d : Desc) (x : Slice) (dst : Nat)
    (hf : (s.core c).descs.find? (fun d => d.seq = seq.toNat) = some d) (hk : d.kind ≠ .gather)
    (hx : (s.bumpF F.dmaTagStall_cycles c cycles).nextSlice ((s.ownerOf c).getD 255) d = some x)
    (hr : (s.bumpF F.dmaTagStall_cycles c cycles).routeOf ((s.ownerOf c).getD 255) c d x = .inl dst) :
    let u := s.bumpF F.dmaTagStall_cycles c cycles
    let p := (s.ownerOf c).getD 255
    (∀ tag, freeTag (s.core c).tags = some tag → ∃ t k, exec (.packetIssue c seq ⟨cycles, o⟩) s = .next t ∧ t.net = s.net ++ [k] ∧
      pktNamed k = (c.val, dst, p, tag, Tab.get (fun _ => 0) (s.core c).gens tag, d.seq, x.addr, x.len) ∧
      (t.core c).tags.map (·.num) = (s.core c).tags.map (·.num) ++ [tag] ∧ (u.observeRows c o).sameMemory t) ∧
    (freeTag (s.core c).tags = none → exec (.packetIssue c seq ⟨cycles, o⟩) s = .next u) := by
  intro u p
  have hi := nextSlice_idx hx hk
  have ht : x.tags d = 1 := by rw [Slice.tags, hi]; rfl
  have hu : u.core c = s.core c := State.bumpF_core ..
  have hs : decide (d.kind = .gather) = false := decide_eq_false hk
  have hexec : exec (.packetIssue c seq ⟨cycles, o⟩) s = execPacketIssue c seq ⟨cycles, o⟩ s := rfl
  have hown : u.ownerOf c = s.ownerOf c := rfl
  rw [hexec]
  unfold execPacketIssue
  dsimp only
  rw [hown, hu, hf]
  dsimp only
  rw [hx]
  dsimp only
  rw [hs, Bool.false_and, if_neg Bool.false_ne_true, hr, ht]
  dsimp only
  constructor
  · intro tag hg
    obtain ⟨rest, hl⟩ : ∃ rest, freeTags (s.core c).tags = tag :: rest := ⟨_, List.eq_cons_of_mem_head? hg⟩
    rw [hl]
    obtain ⟨l1, l2, l3⟩ := leaving_facts u c o d x
    let k := (u.observeRows c o).formPkt p c d x dst tag []
    have hn : pktNamed k = (c.val, dst, p, tag, Tab.get (fun _ => 0) (s.core c).gens tag, d.seq, x.addr, x.len) := by
      rw [formPkt_named _ _ _ _ _ _ _ _ hk, (observeRows_observed u c o).2.2 c, hu]
    let ck := if d.checked then some ((u.observeRows c o).outCheck c d x) else none
    obtain ⟨e1, e2, e3⟩ := sent_facts (u.leaving c o d x) c d.seq k (tagUses d x k [])
      (fun d => { d with sent := d.sent + x.len, open_ := d.open_ + 1 + 0, blkChk := ck })
    have ht : k.tag = tag := congrArg (fun a => a.2.2.2.1) hn
    have e4 := congrArg (List.map TagUse.num) (e3.trans (congrArg (· ++ tagUses d x k []) (l3.trans (congrArg CoreSt.tags hu))))
    refine ⟨_, k.sealed, rfl, e1.trans (congrArg (· ++ _) l1), hn, e4.trans ?_, sameMemory_trans l2 e2⟩
    rw [List.map_append]
    exact congrArg (fun n => _ ++ [n]) ht
  · intro hg
    have hl : freeTags (s.core c).tags = [] := List.head?_eq_none_iff.1 hg
    rw [hl]
    rfl
/-- Settles O19, by the packet a descriptor forms, the answer that frees its last tag, the packet a resend sends again and the tag a timeout
takes back. -/
theorem tagsComeAndGo : Obligations.TagsComeAndGo := by
  unfold Obligations.TagsComeAndGo
  refine ⟨⟨⟨?_, ?_⟩, ?_⟩, ?_⟩
  · intro c seq cycles o s d x dst u p hf hk hx hr
    obtain ⟨h1, h2⟩ := execPacketIssue_spec c seq cycles o s d x dst hf hk hx hr
    refine ⟨fun tag ht => ?_, h2⟩
    obtain ⟨t, k, e, hn, hk, hrest⟩ := h1 tag ht
    simp only [pktNamed, Prod.mk.injEq] at hk
    obtain ⟨k1, k2, k3, k4, k5, k6, k7, k8⟩ := hk
    exact ⟨t, k, e, hn, k1, k2, k3, k4, k5, k6, k7, k8, hrest⟩
  · intro c k s g d n hs hp hg ha hd hq hl ho hc hn hag i hi
    exact lastAnswer_spec hs hp hg ha hd hq hl ho hc hn hag hi
  · intro n c k s g hn hs hp hc hg
    obtain ⟨t, e, hnet, hrest⟩ := execResendRequest_spec n c k s g hn hs hp hc hg
    refine ⟨t, e, fun h => ?_, fun h h' => ?_, hrest⟩
    · rw [hnet, resendPkt, if_neg (by rintro ⟨a, b⟩; exact h.elim (· a) (b ·))]
    · rw [hnet, resendPkt, if_pos ⟨h, h'⟩]
      rfl
  · exact execTagTimeout_spec

end Sys2Proof.Machine
end

section
/-! SUPPORT. Packets at a memory site, and the obligation on reads, copies, writes and gathers: O22. -/
namespace Sys2Proof.Machine
open Host

/-! ### A packet a site takes (R214, R289) -/

/-- A packet that its check passes leaves the fabric and is acted on as the site sees it. -/
theorem takeAt_taken (s : State) (m : Nat) (k : Pkt) (f : State → Pkt → State) :
    s.takeAt m k true f = f (s.consume (s.seen k)) (s.seen k) := by
  have h : ({ s.seen k with poison := (s.seen k).poison || false } : Pkt) = s.seen k := by rw [Bool.or_false]
  unfold State.takeAt State.checked
  dsimp only
  rw [if_pos rfl, h]
/-- A packet's leaving changes the fabric alone: sites judge by the state as it was. -/
theorem consume_place (s : State) (k : Pkt) (p a : Nat) : (s.consume k).place p a = s.place p a := rfl
theorem consume_memory (s : State) (k : Pkt) : s.sameMemory (s.consume k) := ⟨rfl, rfl, rfl, rfl, rfl, rfl⟩
theorem consume_chanOk (s : State) (k : Pkt) (m ch : Nat) : (s.consume k).chanOk m ch = s.chanOk m ch := by
  rw [State.chanOk, State.consume_getF, State.chanOk]
theorem consume_refusal (s : State) (k : Pkt) (m p a : Nat) (w : Bool) : (s.consume k).refusal m p a w = s.refusal m p a w := by
  have hg : ∀ g, (s.consume k).groupActive g = s.groupActive g := fun _ => rfl
  simp only [State.refusal, consume_place, hg, consume_chanOk]
/-- A channel that wakes keeps packets, memory and where addresses lie. -/
theorem modSite_setF_facts (s : State) (m i v : Nat) (f : SiteSt → SiteSt) (g : RF) :
    ((s.modSite m f).setF g i v).net = s.net ∧ s.sameMemory ((s.modSite m f).setF g i v) ∧
    ∀ p a, ((s.modSite m f).setF g i v).place p a = s.place p a := ⟨rfl, ⟨rfl, rfl, rfl, rfl, rfl, rfl⟩, fun _ _ => rfl⟩
theorem wakeChannel_facts (s : State) (m ch : Nat) : (s.wakeChannel m ch).net = s.net ∧ s.sameMemory (s.wakeChannel m ch) ∧
    ∀ p a, (s.wakeChannel m ch).place p a = s.place p a := modSite_setF_facts ..
/-- An access that the lowest reason of R214 does not refuse is served where its address lies. -/
theorem place_site_of_refusal {s : State} {m p a : Nat} {w : Bool} {x : Place} (h : s.refusal m p a w = none) (hx : s.place p a = some x) :
    x.site = m := by
  unfold State.refusal at h
  rw [hx] at h
  by_contra hne
  dsimp only at h
  split_ifs at h

/-! ### Reads (R58, R212, R217, R218) -/

/-- A read without a block check returns the bytes that stand there. -/
theorem fetch_unchecked (s : State) (k : Pkt) (x : Place) (n : Nat) (h : k.bchk = false) :
    s.fetch k x n = (s, Memory.readNat s.dram x.key k.len, (s.blkMeta x.blk).poison, 0) := by
  rw [State.fetch, h, Bool.not_false, if_pos rfl]
/-- A DRAM_COPY's data goes in one packet where its destination lies in one block. -/
theorem copyPieces_whole (k : Pkt) (v : Nat) (poison : Bool) (crc : BitVec 32) (pr : Option (Nat × Nat × Nat))
    (h : k.addr2 % 4096 + k.len ≤ 4096) :
    copyPieces k v poison crc pr = [({ k with
      kind := .writeData, addr := k.addr2, addr2 := 0, len := k.len
      data := toRows (v % 2 ^ (8 * k.len)) (cdiv k.len 64), poison := poison, crc := crc } : Pkt).withProv pr] := by
  have hn : min k.len (4096 - k.addr2 % 4096) = k.len := min_eq_left (by omega)
  unfold copyPieces
  dsimp only
  rw [hn, if_neg (lt_irrefl _)]
/-- The response that a read request draws. -/
def readAnswer (s : State) (m : Nat) (k : Pkt) (x : Place) : Pkt :=
  ({ pktAnswer k .readResp (siteNode m) with
    data := toRows (Memory.readNat s.dram x.key k.len) (cdiv k.len 64), poison := (s.blkMeta x.blk).poison || k.poison, bchk := false,
    crc := 0 } : Pkt).withProv (s.provOf k.part [x.blk])
/-- The write data that a copy request sends on. -/
def copyData (s : State) (k : Pkt) (x y : Place) : Pkt :=
  { ({ k with
        kind := .writeData, addr := k.addr2, addr2 := 0, len := k.len
        data := toRows (Memory.readNat s.dram x.key k.len % 2 ^ (8 * k.len)) (cdiv k.len 64),
        poison := (s.blkMeta x.blk).poison || k.poison, crc := 0 } : Pkt).withProv (s.provOf k.part [x.blk]) with dst := siteNode y.site }
/-- What an accepted read or copy request sends: its data to the copy's destination, where it names one, or the response. -/
def readReply (s : State) (m : Nat) (k : Pkt) (x : Place) : Option Place → Pkt
  | some y => copyData s k x y
  | none => readAnswer s m k x
theorem inject_memory (s : State) (k : Pkt) : s.sameMemory (s.inject k) := ⟨rfl, rfl, rfl, rfl, rfl, rfl⟩
/-- A site whose channel wakes and sends one packet keeps its memory. -/
theorem wake_inject_facts (s : State) (m ch : Nat) (k : Pkt) :
    ((s.wakeChannel m ch).inject k).net = s.net ++ [k.sealed] ∧ s.sameMemory ((s.wakeChannel m ch).inject k) := by
  obtain ⟨w1, w2, -⟩ := wakeChannel_facts s m ch
  exact ⟨by rw [State.inject_net, w1], sameMemory_trans w2 (inject_memory ..)⟩
/-- A read or copy request that its site accepts (R58, R212, R218). -/
theorem execReadRequest_accepted (m : SiteIx) (k : Pkt) (misreads : Nat) (s : State) (x : Place) (hr : s.refusal m k.part k.addr false = none)
    (hx : s.place k.part k.addr = some x) (hb : k.bchk = false) (y : Option Place)
    (hy : k.kind = .readReq ∧ y = none ∨
      k.kind = .copyReq ∧ k.addr2 % 4096 + k.len ≤ 4096 ∧ y.isSome = true ∧ s.place k.part k.addr2 = y) :
    execReadRequest m k true misreads s = .next (((s.consume (s.seen k)).wakeChannel x.site x.chan).inject
      (readReply (s.consume (s.seen k)) m (s.seen k) x y)) := by
  have hr' : (s.consume (s.seen k)).refusal m (s.seen k).part (s.seen k).addr false = none := (consume_refusal ..).trans hr
  have hx' : (s.consume (s.seen k)).place (s.seen k).part (s.seen k).addr = some x := hx
  have hb' : (s.seen k).bchk = false := hb
  have hy' : (s.seen k).kind = .readReq ∧ y = none ∨ (s.seen k).kind = .copyReq ∧ (s.seen k).addr2 % 4096 + (s.seen k).len ≤ 4096 ∧
      y.isSome = true ∧ (s.consume (s.seen k)).place (s.seen k).part (s.seen k).addr2 = y := hy
  rw [execReadRequest, takeAt_taken]
  clear hr hx hb hy
  generalize s.consume (s.seen k) = u at *
  generalize s.seen k = q at *
  obtain ⟨-, ⟨-, -, -, w1, w2, -⟩, w3⟩ := wakeChannel_facts u x.site x.chan
  have w4 : (u.wakeChannel x.site x.chan).blkMeta x.blk = u.blkMeta x.blk := by rw [State.blkMeta, w2, State.blkMeta]
  rw [hr', hx']
  dsimp only
  rw [fetch_unchecked _ _ _ _ hb', w1, w4]
  rcases hy' with ⟨hk, rfl⟩ | ⟨hk, hl, ho, hy⟩
  · rw [if_neg (by rw [hk]; decide), readReply, readAnswer, hb']
  · obtain ⟨y', rfl⟩ := Option.isSome_iff_exists.1 ho
    rw [if_pos hk, copyPieces_whole _ _ _ _ _ hl]
    dsimp only [List.foldl, Pkt.withProv]
    rw [w3, hy]
    dsimp only
    rw [readReply, copyData, Pkt.withProv]
theorem execReadRequest_spec (m : SiteIx) (k : Pkt) (misreads : Nat) (s : State) (x : Place) (hr : s.refusal m k.part k.addr false = none)
    (hx : s.place k.part k.addr = some x) (hb : k.bchk = false) (y : Option Place)
    (hy : k.kind = .readReq ∧ y = none ∨
      k.kind = .copyReq ∧ k.addr2 % 4096 + k.len ≤ 4096 ∧ y.isSome = true ∧ s.place k.part k.addr2 = y) :
    ∃ t, exec (.readRequest m k true misreads) s = .next t ∧
      t.net = dropPkt (s.seen k) s.net ++ [(readReply s m (s.seen k) x y).sealed] ∧ s.sameMemory t := by
  have hc : readReply (s.consume (s.seen k)) m (s.seen k) x y = readReply s m (s.seen k) x y := by
    cases y <;> rfl
  obtain ⟨t1, t2⟩ := wake_inject_facts (s.consume (s.seen k)) x.site x.chan (readReply s m (s.seen k) x y)
  refine ⟨_, (execReadRequest_accepted m k misreads s x hr hx hb y hy).trans (by rw [hc]), t1, sameMemory_trans (consume_memory ..) t2⟩
/-- What the response says. -/
theorem readAnswer_fields (s : State) (m : Nat) (k : Pkt) (x : Place) :
    let r := (readAnswer s m k x).sealed
    r.prov = (s.provOf k.part [x.blk]).isSome ∧ r.kind = .readResp ∧ r.dst = k.src ∧ r.src = siteNode m ∧ r.tag = k.tag ∧ r.gen = k.gen ∧
    r.seq = k.seq ∧ r.data = toRows (Memory.readNat s.dram x.key k.len) (cdiv k.len 64) ∧
    r.poison = ((s.blkMeta x.blk).poison || k.poison) := ⟨rfl, rfl, rfl, rfl, rfl, rfl, rfl, rfl, rfl⟩
/-- What the write data says. -/
theorem copyData_fields (s : State) (k : Pkt) (x y : Place) :
    let w := (copyData s k x y).sealed
    w.kind = .writeData ∧ w.dst = siteNode y.site ∧ w.src = k.src ∧ w.addr = k.addr2 ∧ w.len = k.len ∧
    w.data = toRows (Memory.readNat s.dram x.key k.len % 2 ^ (8 * k.len)) (cdiv k.len 64) := ⟨rfl, rfl, rfl, rfl, rfl, rfl⟩

end Sys2Proof.Machine
end

section
/-! SUPPORT. What a site's accesses leave alone: the block checks and fault counts of R217, R237 and R349. -/
namespace Sys2Proof.Machine
open Host

/-- What no check of block `b` and no fault counted touches: packets, bytes, the poison of rows, the waits counted for buffer space, what is
kept of every other block, and the blocks of reductions with their counts. -/
structure SiteView where
  net : List Pkt
  spad : Memory
  rows : NSet
  dram : Memory
  waits : Nat → Nat
  others : Nat → Option BlkMeta
  blocks : Nat → List RedBlk
  stats : Nat → Word
def State.siteView (s : State) (b : Nat) : SiteView :=
  ⟨s.net, s.spad, s.spadPoison, s.dram, s.getF F.ldgCkptStat_write_waits, fun n => if n = b then none else some (s.blkMeta n),
    fun m => (s.site m).blocks, s.reg .ldgRedStat⟩
theorem ite_siteView {c : Prop} [Decidable c] {s t : State} {b : Nat} {v : SiteView} (h : s.siteView b = v) (k : t.siteView b = v) :
    (if c then s else t).siteView b = v := by
  split
  · exact h
  · exact k

/-! ### Single updates -/
theorem setReg_siteView (s : State) (r : Reg) (i : Nat) (v : Word) (b : Nat) (h : r ∉ [.ldgCkptStat, .ldgRedStat]) :
    (s.setReg r i v).siteView b = s.siteView b := by
  have hw : (s.setReg r i v).getF F.ldgCkptStat_write_waits = s.getF F.ldgCkptStat_write_waits :=
    funext fun _ => getF_setReg_ne _ _ _ _ _ (Or.inl fun e => h (e ▸ List.mem_cons_self))
  have hs : (s.setReg r i v).reg .ldgRedStat = s.reg .ldgRedStat :=
    funext fun _ => reg_setReg_ne _ _ _ _ (Or.inl fun e => h (e ▸ List.mem_cons_of_mem _ List.mem_cons_self))
  unfold State.siteView
  rw [hw, hs]
  rfl
theorem setF_siteView (s : State) (f : RF) (i v b : Nat) (h : f.reg ∉ [.ldgCkptStat, .ldgRedStat]) : (s.setF f i v).siteView b = s.siteView b :=
  setReg_siteView _ _ _ _ _ h
theorem setB_siteView (s : State) (f : RF) (i : Nat) (v : Bool) (b : Nat) (h : f.reg ∉ [.ldgCkptStat, .ldgRedStat]) :
    (s.setB f i v).siteView b = s.siteView b := setF_siteView _ _ _ _ _ h
theorem bumpF_siteView (s : State) (f : RF) (i n b : Nat) (h : f.reg ∉ [.ldgCkptStat, .ldgRedStat]) : (s.bumpF f i n).siteView b = s.siteView b :=
  setF_siteView _ _ _ _ _ h
theorem modCore_siteView (s : State) (c b : Nat) (f : CoreSt → CoreSt) : (s.modCore c f).siteView b = s.siteView b := rfl
theorem modSite_siteView (s : State) (m b : Nat) (f : SiteSt → SiteSt) (h : ∀ q, (f q).blocks = q.blocks) :
    (s.modSite m f).siteView b = s.siteView b := by
  have hb : ∀ n, ((s.modSite m f).site n).blocks = (s.site n).blocks := fun n => by
    by_cases e : n = m
    · rw [e, site_modSite_same, h]
    · rw [site_modSite_ne _ _ e]
  have hn : (fun n => ((s.modSite m f).site n).blocks) = fun n => (s.site n).blocks := funext hb
  unfold State.siteView
  rw [hn]
  rfl
theorem setHealth_siteView (s : State) (u b : Nat) (h : Health) : (s.setHealth u h).siteView b = s.siteView b := rfl
theorem setMeta_siteView (s : State) (b : Nat) (v : BlkMeta) : (s.setMeta b v).siteView b = s.siteView b := by
  have hm : ∀ n, n ≠ b → (s.setMeta b v).blkMeta n = s.blkMeta n := fun n hn =>
    Tab.get_put_ne _ _ _ hn
  unfold State.siteView
  congr 1
  funext n
  split
  · rfl
  · rw [hm n ‹_›]
theorem State.faultOnly.siteView {s t : State} (h : s.faultOnly t) (b : Nat) : t.siteView b = s.siteView b := by
  have hw : t.getF F.ldgCkptStat_write_waits = s.getF F.ldgCkptStat_write_waits := funext fun i => h.getF _ i (by decide)
  have hs : t.reg .ldgRedStat = s.reg .ldgRedStat := funext fun i => h.2.1 _ i (by decide)
  unfold State.siteView
  rw [hw, hs, h.1]
  rfl

/-! ### Faults counted against units (R349, R350) -/
theorem showDie_siteView (s : State) (d b : Nat) : (s.showDie d).siteView b = s.siteView b := by
  unfold State.showDie
  exact forAll_keeps (fun t => t.siteView b = s.siteView b) _ (fun t c h => (setF_siteView _ _ _ _ _ (by decide)).trans h) _ _
    (setF_siteView _ _ _ _ _ (by decide))
theorem applyCore_siteView (s : State) (c n b : Nat) : (s.applyCore c n).siteView b = s.siteView b := by
  unfold State.applyCore
  extract_lets t
  have ht : t.siteView b = s.siteView b := modCore_siteView ..
  clear_value t
  have hv : ∀ v, (t.setF F.vregPoint_mv c v).siteView b = s.siteView b := fun v => (setF_siteView _ _ _ _ _ (by decide)).trans ht
  split
  · exact ite_siteView ht (hv _)
  · exact hv _
theorem shedPhase_siteView (s : State) (d k b : Nat) : (s.shedPhase d k).siteView b = s.siteView b := by
  unfold State.shedPhase
  extract_lets w n t
  have ht : t.siteView b = s.siteView b := ((raise_faultOnly ..).siteView b).trans
    ((setF_siteView _ _ _ _ _ (by decide)).trans (setF_siteView _ _ _ _ _ (by decide)))
  clear_value t
  refine ite_siteView rfl (ite_siteView ?_ ht)
  exact (showDie_siteView ..).trans (((raise_faultOnly ..).siteView b).trans ((setB_siteView _ _ _ _ _ (by decide)).trans ht))
theorem applyUnit_siteView (s : State) (u n b : Nat) : (s.applyUnit u n).siteView b = s.siteView b := by
  have port : ∀ k, (if n ≠ 3 then s else if k < 32 then s.setF F.epdLink_up k 0 else s.setF F.epdHost_up (k - 32) 0).siteView b = s.siteView b :=
    fun k => ite_siteView rfl (ite_siteView (setF_siteView _ _ _ _ _ (by decide)) (setF_siteView _ _ _ _ _ (by decide)))
  unfold State.applyUnit
  split
  · exact applyCore_siteView ..
  · exact ite_siteView (((raise_faultOnly ..).siteView b).trans (setF_siteView _ _ _ _ _ (by decide))) rfl
  · exact port _
  · exact port _
  · exact (setF_siteView _ _ _ _ _ (by decide)).trans (ite_siteView (shedPhase_siteView ..) rfl)
  · rfl
theorem setUnit_siteView (s : State) (u n b : Nat) (h : Health) : (s.setUnit u n h).siteView b = s.siteView b := by
  unfold State.setUnit
  extract_lets t v w x
  have hw : w.siteView b = s.siteView b :=
    (applyUnit_siteView ..).trans ((setF_siteView _ _ _ _ _ (by decide)).trans (setHealth_siteView ..))
  clear_value w
  exact ((rebuild_faultOnly _).siteView b).trans (ite_siteView (((raise_faultOnly ..).siteView b).trans hw) hw)
theorem charge_siteView (s : State) (u k b : Nat) (r : Bool) : (s.charge u k r).siteView b = s.siteView b := by
  unfold State.charge
  exact ite_siteView ((setF_siteView _ _ _ _ _ (by decide)).trans (setHealth_siteView ..)) (setUnit_siteView ..)

/-! ### Block checks (R217) and the copy buffer (R237) -/
theorem ledgerFault_siteView (s : State) (m p d b : Nat) (e : Ev) : (s.ledgerFault m p e d).siteView b = s.siteView b := by
  unfold State.ledgerFault
  exact ((policy_faultOnly ..).siteView b).trans ((raise_faultOnly ..).siteView b)
theorem wakeChannel_siteView (s : State) (m ch b : Nat) : (s.wakeChannel m ch).siteView b = s.siteView b := by
  unfold State.wakeChannel
  exact (setF_siteView _ _ _ _ _ (by decide)).trans (modSite_siteView _ _ _ _ fun _ => rfl)
/-- A whole-block read changes what is kept of the block and nothing else of the view. -/
theorem verify_siteView (s : State) (b o n : Nat) : (s.verify b o n).siteView b = s.siteView b := by
  unfold State.verify
  have hk := wakeChannel_siteView s (blkSite b) (blkChan b) b
  generalize s.wakeChannel (blkSite b) (blkChan b) = t at hk ⊢
  refine ite_siteView ((setMeta_siteView ..).trans hk) (ite_siteView ((bumpF_siteView _ _ _ _ _ (by decide)).trans hk) ?_)
  refine (charge_siteView ..).trans ((ledgerFault_siteView ..).trans ((bumpF_siteView _ _ _ _ _ (by decide)).trans ?_))
  exact (setMeta_siteView ..).trans ((bumpF_siteView _ _ _ _ _ (by decide)).trans hk)
/-- A block not listed finds no full buffer. -/
theorem awaitBuffer_of_not_listed (s : State) (m p a : Nat) (h : s.listed m p a = false) : s.awaitBuffer m p a = s := by
  rw [State.awaitBuffer, State.copyFull, h, Bool.false_and, if_neg Bool.false_ne_true]
/-- What a copy takes of a block before a write is told by the wait for buffer space. -/
theorem copyAhead_siteView (s : State) (p a : Nat) (x : Place) :
    (s.copyAhead p a x).siteView x.blk = (s.awaitBuffer x.site p a).siteView x.blk := by
  unfold State.copyAhead
  split
  · refine (modSite_siteView _ _ _ _ ?_).trans (verify_siteView ..)
    exact fun _ => rfl
  · rw [awaitBuffer_of_not_listed _ _ _ _ (Bool.eq_false_iff.2 ‹_›)]

end Sys2Proof.Machine
end

section
/-! SUPPORT. Bytes stored at a site, and the writes of O22. -/
namespace Sys2Proof.Machine
open Host

/-! ### Copy buffer space (R237) -/
theorem wakeChannel_copying (s : State) (m ch n : Nat) :
    ((s.wakeChannel m ch).site n).copying = (s.site n).copying ∧ ((s.wakeChannel m ch).site n).ahead = (s.site n).ahead := by
  unfold State.wakeChannel
  extract_lets asleep last at_
  rw [show ∀ (t : State) f i v, (t.setF f i v).site n = t.site n from fun _ _ _ _ => rfl]
  by_cases h : n = m
  · subst h
    rw [site_modSite_same]
    exact ⟨rfl, rfl⟩
  · rw [site_modSite_ne _ _ h]
    exact ⟨rfl, rfl⟩
theorem wakeChannel_copyFull (s : State) (m ch n p a : Nat) : (s.wakeChannel m ch).copyFull n p a = s.copyFull n p a := by
  obtain ⟨h1, h2⟩ := wakeChannel_copying s m ch n
  simp only [State.copyFull, State.listed, h1, h2]
/-- A register written is told by the waits alone. -/
theorem setReg_siteView_waits (s : State) (r : Reg) (i b : Nat) (v : Word) (h : .ldgRedStat ≠ r) :
    (s.setReg r i v).siteView b = { s.siteView b with waits := ((s.setReg r i v).siteView b).waits } := by
  have hs : (s.setReg r i v).reg .ldgRedStat = s.reg .ldgRedStat := funext fun _ => reg_setReg_ne _ _ _ _ (Or.inl h)
  unfold State.siteView
  rw [hs]
  rfl
theorem bumpF_siteView_waits (s : State) (f : RF) (i n b : Nat) (h : .ldgRedStat ≠ f.reg) :
    (s.bumpF f i n).siteView b = { s.siteView b with waits := ((s.bumpF f i n).siteView b).waits } := setReg_siteView_waits _ _ _ _ _ h
/-- A write that finds the buffer full is counted as waiting, and else nothing is: the rest of what a site's accesses leave alone stands. -/
theorem awaitBuffer_siteView (s : State) (m p a b : Nat) :
    (s.awaitBuffer m p a).siteView b = { s.siteView b with waits := ((s.awaitBuffer m p a).siteView b).waits } ∧
    ((s.awaitBuffer m p a).siteView b).waits m =
      min (s.getF F.ldgCkptStat_write_waits m + (if s.copyFull m p a then 1 else 0)) (2 ^ F.ldgCkptStat_write_waits.len - 1) := by
  unfold State.awaitBuffer
  split
  · generalize hu : s.modSite m _ = u
    have hv : u.siteView b = s.siteView b := hu ▸ modSite_siteView _ _ _ _ fun _ => rfl
    have hg : u.getF F.ldgCkptStat_write_waits = s.getF F.ldgCkptStat_write_waits := congrArg SiteView.waits hv
    refine ⟨?_, ?_⟩
    · rw [← hv]
      exact bumpF_siteView_waits _ _ _ _ _ (by decide)
    · rw [← hg]
      exact getF_bumpF_same u F.ldgCkptStat_write_waits m 1 rfl
  · have hl := getF_lt s F.ldgCkptStat_write_waits m
    exact ⟨rfl, (min_eq_left (Nat.le_sub_one_of_lt hl)).symm⟩

/-! ### A store inside one block (R216, R218) -/
/-- What a write finds once a copy has had the block. -/
theorem writeReady_facts (s : State) (p a : Nat) (x : Place) :
    let t := (s.wakeChannel x.site x.chan).copyAhead p a x
    t.siteView x.blk = { s.siteView x.blk with waits := (t.siteView x.blk).waits } ∧
    t.getF F.ldgCkptStat_write_waits x.site =
      min (s.getF F.ldgCkptStat_write_waits x.site + (if s.copyFull x.site p a then 1 else 0)) (2 ^ F.ldgCkptStat_write_waits.len - 1) := by
  intro t
  have hw := wakeChannel_siteView s x.site x.chan x.blk
  have ht := copyAhead_siteView (s.wakeChannel x.site x.chan) p a x
  obtain ⟨a1, a2⟩ := awaitBuffer_siteView (s.wakeChannel x.site x.chan) x.site p a x.blk
  rw [wakeChannel_copyFull] at a2
  have hg : (s.wakeChannel x.site x.chan).getF F.ldgCkptStat_write_waits = s.getF F.ldgCkptStat_write_waits := congrArg SiteView.waits hw
  rw [hg, ← ht] at a2
  refine ⟨?_, a2⟩
  rw [← hw]
  exact ht.trans (a1.trans (by rw [ht]))
/-- Bytes stored and what is kept of their block put in place, the block's GiB marked dirty. -/
def State.storeAt (s : State) (x : Place) (a n v : Nat) (w : BlkMeta) : State :=
  ((s.storeDram x.key n v).setMeta x.blk w).markDirty x.site x.ext.owner a
theorem storeAt_facts (s : State) (x : Place) (a n v : Nat) (w : BlkMeta) :
    let t := s.storeAt x a n v w
    t.net = s.net ∧ t.spad = s.spad ∧ t.spadPoison = s.spadPoison ∧ t.dram = Memory.writeNat s.dram x.key n v ∧ t.regs = s.regs ∧
    t.blkMeta x.blk = w ∧ ∀ b, b ≠ x.blk → t.blkMeta b = s.blkMeta b :=
  ⟨rfl, rfl, rfl, rfl, rfl, Tab.get_put_same .., fun _ h => Tab.get_put_ne _ _ _ h⟩
/-- Bytes written at a block: they are there and no other byte changes, the block's check is gone, and its poison comes with the data. -/
theorem putDram_facts (s : State) (p a n v : Nat) (poison : Bool) (x : Place) (hx : s.place p a = some x) :
    let t := s.putDram p a n v poison
    t.net = s.net ∧ t.spad = s.spad ∧ t.spadPoison = s.spadPoison ∧ t.dram = Memory.writeNat s.dram x.key n v ∧
    t.getF F.ldgCkptStat_write_waits x.site =
      min (s.getF F.ldgCkptStat_write_waits x.site + (if s.copyFull x.site p a then 1 else 0)) (2 ^ F.ldgCkptStat_write_waits.len - 1) ∧
    (t.blkMeta x.blk).held = false ∧ (poison = true → (t.blkMeta x.blk).poison = true) ∧
    ∀ b, b ≠ x.blk → t.blkMeta b = s.blkMeta b := by
  obtain ⟨r1, r2⟩ := writeReady_facts s p a x
  unfold State.putDram
  rw [hx]
  dsimp only
  generalize (s.wakeChannel x.site x.chan).copyAhead p a x = u at *
  have hb : ∀ b, b ≠ x.blk → u.blkMeta b = s.blkMeta b := fun b hb => by
    have h := congrFun (congrArg SiteView.others r1) b
    simpa only [State.siteView, if_neg hb, Option.some.injEq] using h
  generalize hw : (BlkMeta.mk _ _ _ _) = w
  obtain ⟨t1, t2, t3, t4, t5, t6, t7⟩ := storeAt_facts u x a n v w
  have hg : (u.storeAt x a n v w).getF F.ldgCkptStat_write_waits x.site = u.getF F.ldgCkptStat_write_waits x.site := by
    simp only [State.getF, State.reg, t5]
  change (u.storeAt x a n v w).net = _ ∧ (u.storeAt x a n v w).spad = _ ∧ (u.storeAt x a n v w).spadPoison = _ ∧
    (u.storeAt x a n v w).dram = _ ∧ (u.storeAt x a n v w).getF _ _ = _ ∧ ((u.storeAt x a n v w).blkMeta x.blk).held = false ∧
    (poison = true → ((u.storeAt x a n v w).blkMeta x.blk).poison = true) ∧ ∀ b, b ≠ x.blk → (u.storeAt x a n v w).blkMeta b = _
  rw [t6]
  refine ⟨t1.trans (congrArg SiteView.net r1), t2.trans (congrArg SiteView.spad r1), t3.trans (congrArg SiteView.rows r1),
    t4.trans ?_, hg.trans r2, ?_, ?_, fun b h => (t7 b h).trans (hb b h)⟩
  · rw [show u.dram = s.dram from congrArg SiteView.dram r1]
  · rw [← hw]
  · intro h
    rw [← hw, h]
    rfl

/-! ### WRITE_DATA (R214, R216, R218) -/
theorem noteProv_facts (s : State) (x : Place) (k : Pkt) : let t := s.noteProv x k
    t.net = s.net ∧ t.spad = s.spad ∧ t.spadPoison = s.spadPoison ∧ t.dram = s.dram ∧ t.regs = s.regs ∧ t.blk = s.blk := by
  unfold State.noteProv
  exact iteInduction (motive := fun t : State => t.net = s.net ∧ t.spad = s.spad ∧ t.spadPoison = s.spadPoison ∧ t.dram = s.dram ∧
    t.regs = s.regs ∧ t.blk = s.blk) (fun _ => ⟨rfl, rfl, rfl, rfl, rfl, rfl⟩) (fun _ => ⟨rfl, rfl, rfl, rfl, rfl, rfl⟩)
theorem consume_sumAreaAt (s : State) (k : Pkt) (p a n : Nat) : (s.consume k).sumAreaAt p a n = s.sumAreaAt p a n := by
  have h : (s.consume k).plan p = s.plan p := by
    simp only [State.plan, State.consume_getF]
    rfl
  rw [State.sumAreaAt, h, State.sumAreaAt]
/-- What is read where a number's bytes were stored, and elsewhere. -/
theorem readBytes_writeNat (d : Memory) (k n v : Nat) : Memory.readBytes (Memory.writeNat d k n v) k n = leBytes v n := by
  have h := Memory.readBytes_writeBytes (leBytes v n) d k
  rwa [leBytes_length] at h
theorem read_writeNat_out (d : Memory) (k n v a : Nat) (h : a < k ∨ k + n ≤ a) : Memory.read (Memory.writeNat d k n v) a = Memory.read d a :=
  Memory.read_writeBytes_out _ _ _ _ (by rwa [leBytes_length])
/-- An accepted write without a block check: stored where it lies, and acknowledged. -/
theorem execWriteData_accepted (m : SiteIx) (k : Pkt) (s : State) (x : Place) (hr : s.refusal m k.part k.addr true = none)
    (hx : s.place k.part k.addr = some x) (ha : s.sumAreaAt k.part k.addr k.len = none) (hb : k.bchk = false) :
    execWriteData m k true s = .next (((((s.consume (s.seen k)).putDram k.part k.addr k.len (ofRows k.data) k.poison)).noteProv x (s.seen k)).inject
      (pktAnswer (s.seen k) .ack (siteNode m))) := by
  have hr' : (s.consume (s.seen k)).refusal m (s.seen k).part (s.seen k).addr true = none := (consume_refusal ..).trans hr
  have hx' : (s.consume (s.seen k)).place (s.seen k).part (s.seen k).addr = some x := (consume_place ..).trans hx
  have ha' : (s.consume (s.seen k)).sumAreaAt (s.seen k).part (s.seen k).addr (s.seen k).len = none := (consume_sumAreaAt ..).trans ha
  have hb' : (s.seen k).bchk = false := hb
  rw [execWriteData, takeAt_taken]
  dsimp only
  rw [hr', hx']
  dsimp only
  rw [ha']
  dsimp only
  rw [hb', Bool.not_false, if_pos rfl]
  rfl
theorem execWriteData_spec (m : SiteIx) (k : Pkt) (s : State) (x : Place) (hr : s.refusal m k.part k.addr true = none)
    (hx : s.place k.part k.addr = some x) (ha : s.sumAreaAt k.part k.addr k.len = none) (hb : k.bchk = false) :
    ∃ t, exec (.writeData m k true) s = .next t ∧ t.net = dropPkt (s.seen k) s.net ++ [(pktAnswer (s.seen k) .ack (siteNode m)).sealed] ∧
      t.getF F.ldgCkptStat_write_waits m =
        min (s.getF F.ldgCkptStat_write_waits m + (if s.copyFull m k.part k.addr then 1 else 0)) (2 ^ F.ldgCkptStat_write_waits.len - 1) ∧
      Memory.readBytes t.dram x.key k.len = leBytes (ofRows k.data) k.len ∧
      (∀ a, a < x.key ∨ x.key + k.len ≤ a → Memory.read t.dram a = Memory.read s.dram a) ∧
      (t.blkMeta x.blk).held = false ∧ (k.poison = true → (t.blkMeta x.blk).poison = true) ∧
      (∀ b, b ≠ x.blk → t.blkMeta b = s.blkMeta b) ∧ t.spad = s.spad ∧ t.spadPoison = s.spadPoison := by
  have hm : x.site = m := place_site_of_refusal hr hx
  let u := s.consume (s.seen k)
  obtain ⟨p1, p2, p3, p4, p5, p6, p7, p8⟩ := putDram_facts u k.part k.addr k.len (ofRows k.data) k.poison x ((consume_place ..).trans hx)
  rw [hm, State.consume_getF, show u.copyFull m k.part k.addr = s.copyFull m k.part k.addr from rfl] at p5
  refine ⟨_, execWriteData_accepted m k s x hr hx ha hb, ?_⟩
  generalize u.putDram k.part k.addr k.len (ofRows k.data) k.poison = v at *
  obtain ⟨n1, n2, n3, n4, n5, n6⟩ := noteProv_facts v x (s.seen k)
  generalize v.noteProv x (s.seen k) = w at *
  have hg : w.getF F.ldgCkptStat_write_waits m = v.getF F.ldgCkptStat_write_waits m := by simp only [State.getF, State.reg, n5]
  have hk : ∀ b, w.blkMeta b = v.blkMeta b := fun b => by rw [State.blkMeta, n6, State.blkMeta]
  have hd : w.dram = Memory.writeNat s.dram x.key k.len (ofRows k.data) := n4.trans p4
  generalize hq : pktAnswer (s.seen k) .ack (siteNode m) = q
  refine ⟨?_, ?_, ?_, ?_, ?_, ?_, ?_, ?_, ?_⟩
  · rw [State.inject_net, n1, p1]
    rfl
  · exact hg.trans p5
  · show Memory.readBytes w.dram x.key k.len = _
    rw [hd, readBytes_writeNat]
  · intro a h
    show Memory.read w.dram a = _
    rw [hd, read_writeNat_out _ _ _ _ _ h]
  · exact (congrArg BlkMeta.held (hk _)).trans p6
  · exact fun h => (congrArg BlkMeta.poison (hk _)).trans (p7 h)
  · exact fun b h => (hk b).trans (p8 b h)
  · exact n2.trans p2
  · exact n3.trans p3

end Sys2Proof.Machine
end

section
/-! SUPPORT. The gathers of O22, and its settlement. -/
namespace Sys2Proof.Machine
open Host

/-! ### Packets sent one after another -/

/-- Packets that do not depend on what has left already leave in order. -/
theorem foldl_inject {α : Type} (f : State → α → Pkt) (hf : ∀ t q a, f (State.inject t q) a = f t a) (l : List α) (s : State) :
    (l.foldl (fun t a => t.inject (f t a)) s).net = s.net ++ l.map (fun a => (f s a).sealed) ∧
    s.sameMemory (l.foldl (fun t a => t.inject (f t a)) s) := by
  induction l generalizing s with
  | nil => exact ⟨(List.append_nil _).symm, rfl, rfl, rfl, rfl, rfl, rfl⟩
  | cons a l ih =>
    obtain ⟨h1, h2⟩ := ih (s.inject (f s a))
    refine ⟨?_, sameMemory_trans (inject_memory ..) h2⟩
    rw [List.foldl_cons, h1, State.inject_net, List.append_assoc]
    simp only [hf, List.map_cons, List.singleton_append]
/-- Channels that wake one after another keep packets and memory. -/
theorem foldl_wakeChannel (l : List Place) (s : State) :
    (l.foldl (fun s x => s.wakeChannel x.site x.chan) s).net = s.net ∧ s.sameMemory (l.foldl (fun s x => s.wakeChannel x.site x.chan) s) :=
  foldl_keeps (fun t => t.net = s.net ∧ s.sameMemory t) _ (fun t x h => by
    obtain ⟨w1, w2, -⟩ := wakeChannel_facts t x.site x.chan
    exact ⟨w1.trans h.1, sameMemory_trans h.2 w2⟩) _ _ ⟨rfl, rfl, rfl, rfl, rfl, rfl, rfl⟩

/-! ### Rows packed in list order (R234) -/

/-- Numbers below `2 ^ w` laid one after another from place `n` on are the packed elements. -/
theorem foldl_shift_eq_pack {α : Type} (f : α → Nat) (w : Nat) (hf : ∀ x, f x < 2 ^ w) (l : List α) (n a : Nat) :
    (l.zipIdx n).foldl (fun a r => a + f r.1 <<< (w * r.2)) a = a + 2 ^ (w * n) * pack w (l.map f) := by
  induction l generalizing n a with
  | nil => rfl
  | cons x l ih =>
    rw [List.zipIdx_cons, List.foldl_cons, ih, List.map_cons, pack, Nat.mod_eq_of_lt (hf x), Nat.shiftLeft_eq, Nat.mul_add w, Nat.pow_add, Nat.mul_one]
    ring
/-- Packed elements fill their bits and no more. -/
theorem pack_lt (w : Nat) (l : List Nat) : pack w l < 2 ^ (w * l.length) := by
  induction l with
  | nil => exact Nat.one_pos
  | cons c l ih =>
    have hc : c % 2 ^ w < 2 ^ w := Nat.mod_lt _ (Nat.two_pow_pos w)
    calc c % 2 ^ w + 2 ^ w * pack w l < 2 ^ w * (pack w l + 1) := by rw [Nat.mul_add]; omega
      _ ≤ 2 ^ w * 2 ^ (w * l.length) := Nat.mul_le_mul_left _ ih
      _ = 2 ^ (w * (c :: l).length) := by rw [← Nat.pow_add, List.length_cons, Nat.mul_add, Nat.mul_one, Nat.add_comm]
/-- An element read back from where it was packed. -/
theorem elem_pack (w : Nat) (l : List Nat) (i c : Nat) (h : l[i]? = some c) : elem (pack w l) w i = c % 2 ^ w := by
  induction l generalizing i with
  | nil => cases h
  | cons d l ih =>
    cases i with
    | zero =>
      obtain rfl : d = c := by simpa using h
      rw [elem, Nat.zero_mul, Nat.shiftRight_zero, pack, Nat.add_mul_mod_self_left, Nat.mod_mod]
    | succ i =>
      have hd : d % 2 ^ w < 2 ^ w := Nat.mod_lt _ (Nat.two_pow_pos w)
      have hi := ih i h
      rw [elem] at hi ⊢
      rw [pack, Nat.succ_mul, Nat.add_comm (i * w), Nat.shiftRight_add, Nat.shiftRight_eq_div_pow _ w,
        Nat.add_mul_div_left _ _ (Nat.two_pow_pos w), Nat.div_eq_of_lt hd, Nat.zero_add, hi]

/-! ### GATHER_REQUEST (R214, R234) -/
/-- The rows of a gather request's answer `j`. -/
def gatherRows (k : Pkt) (ps : List Place) (j : Nat) : List Place := (ps.drop (rowsPerResponse k.len * j)).take (rowsPerResponse k.len)
/-- Rows packed into one response. -/
def gatherData (s : State) (n : Nat) (l : List Place) : Nat :=
  l.zipIdx.foldl (fun a r => a + (Memory.readNat s.dram r.1.key n) <<< (8 * n * r.2)) 0
/-- One response of a gather request, `e` the answer to one of its tags and that answer's place. -/
def gatherReply (k : Pkt) (ps : List Place) (s : State) (e : Pkt × Nat) : Pkt :=
  ({ e.1 with
    len := k.len * 64 * (gatherRows k ps e.2).length
    data := toRows (gatherData s (k.len * 64) (gatherRows k ps e.2)) (k.len * (gatherRows k ps e.2).length)
    poison := k.poison || (gatherRows k ps e.2).any (fun x => (s.blkMeta x.blk).poison) } : Pkt).withProv
      (s.provOf k.part ((gatherRows k ps e.2).map Place.blk))
theorem gatherReply_fields (k : Pkt) (ps : List Place) (s : State) (e : Pkt × Nat) :
    let r := (gatherReply k ps s e).sealed
    let l := gatherRows k ps e.2
    r.kind = e.1.kind ∧ r.dst = e.1.dst ∧ r.tag = e.1.tag ∧ r.len = k.len * 64 * l.length ∧
    r.data = toRows (gatherData s (k.len * 64) l) (k.len * l.length) ∧
    r.poison = (k.poison || l.any (fun x => (s.blkMeta x.blk).poison)) := ⟨rfl, rfl, rfl, rfl, rfl, rfl⟩
/-- The rows that a gather request names. -/
def gatherAddrs (k : Pkt) : List Nat := (rangeFrom 0 k.addr2).map (fun i => k.addr + elem (ofRows k.data) 32 i * k.len * 64)
/-- A request none of whose rows is refused draws one response for each tag. -/
theorem execGatherRequest_accepted (m : SiteIx) (k : Pkt) (s : State) (ps : List Place)
    (hr : ∀ a ∈ gatherAddrs k, s.refusal m k.part a false = none) (hp : (gatherAddrs k).map (s.place k.part) = ps.map some) :
    execGatherRequest m k true s = .next ((pktAnswers (s.seen k) .readResp (siteNode m)).zipIdx.foldl
      (fun t e => t.inject (gatherReply (s.seen k) ps t e)) (ps.foldl (fun s x => s.wakeChannel x.site x.chan) (s.consume (s.seen k)))) := by
  have hr' : (gatherAddrs (s.seen k)).filterMap
      (fun a => ((s.consume (s.seen k)).refusal m (s.seen k).part a false).map (fun r => (r, a))) = [] := by
    refine List.filterMap_eq_nil_iff.2 fun a ha => ?_
    rw [consume_refusal, show s.refusal m (s.seen k).part a false = none from hr a ha]
    rfl
  have hp' : (gatherAddrs (s.seen k)).filterMap ((s.consume (s.seen k)).place (s.seen k).part) = ps := by
    have h : (gatherAddrs (s.seen k)).map (s.place (s.seen k).part) = ps.map some := hp
    have hs : (s.consume (s.seen k)).place (s.seen k).part = s.place (s.seen k).part := funext fun _ => consume_place ..
    have hf : (gatherAddrs (s.seen k)).filterMap (s.place (s.seen k).part) =
      ((gatherAddrs (s.seen k)).map (s.place (s.seen k).part)).filterMap id := by
      rw [List.filterMap_map, Function.id_comp]
    rw [hs, hf, h, List.filterMap_map]
    exact List.filterMap_some
  rw [execGatherRequest, takeAt_taken]
  rw [gatherAddrs] at hr' hp'
  dsimp only
  rw [hr', hp']
  rfl
theorem execGatherRequest_spec (m : SiteIx) (k : Pkt) (s : State) (ps : List Place)
    (hr : ∀ a ∈ gatherAddrs k, s.refusal m k.part a false = none) (hp : (gatherAddrs k).map (s.place k.part) = ps.map some) :
    ∃ t v, exec (.gatherRequest m k true) s = .next t ∧ t.net = dropPkt (s.seen k) s.net ++
      (pktAnswers (s.seen k) .readResp (siteNode m)).zipIdx.map (fun e => (gatherReply (s.seen k) ps v e).sealed) ∧
      s.sameMemory v ∧ s.sameMemory t := by
  obtain ⟨w1, w2⟩ := foldl_wakeChannel ps (s.consume (s.seen k))
  have he := execGatherRequest_accepted m k s ps hr hp
  generalize ps.foldl (fun s x => s.wakeChannel x.site x.chan) (s.consume (s.seen k)) = v at *
  obtain ⟨f1, f2⟩ := foldl_inject (gatherReply (s.seen k) ps) (fun _ _ _ => rfl) (pktAnswers (s.seen k) .readResp (siteNode m)).zipIdx v
  have hv : s.sameMemory v := sameMemory_trans (consume_memory ..) w2
  exact ⟨_, v, he, f1.trans (congrArg (· ++ _) w1), hv, sameMemory_trans hv f2⟩

/-- The bits of `n` bytes read. -/
theorem readNat_lt_bits (d : Memory) (a n : Nat) : Memory.readNat d a n < 2 ^ (8 * n) := by
  rw [Nat.pow_mul]
  exact readNat_lt d n a
/-- A row of a response is the row that stands at its place. -/
theorem gatherData_elem (s : State) (n : Nat) (l : List Place) (i : Nat) (x : Place) (h : l[i]? = some x) :
    elem (ofRows (toRows (gatherData s (n * 64) l) (n * l.length))) (512 * n) i = Memory.readNat s.dram x.key (n * 64) % 2 ^ (512 * n) := by
  have hb : 8 * (n * 64) = 512 * n := by ring
  have hv : gatherData s (n * 64) l = pack (512 * n) (l.map (fun x => Memory.readNat s.dram x.key (n * 64))) := by
    unfold gatherData
    rw [hb, foldl_shift_eq_pack (fun x : Place => Memory.readNat s.dram x.key (n * 64)) (512 * n) (fun x => hb ▸ readNat_lt_bits _ _ _) l 0 0,
      Nat.zero_add, Nat.mul_zero, pow_zero, Nat.one_mul]
  have hl := pack_lt (512 * n) (l.map (fun x => Memory.readNat s.dram x.key (n * 64)))
  rw [List.length_map, Nat.mul_assoc] at hl
  rw [ofRows_toRows, hv, Nat.mod_eq_of_lt hl]
  exact elem_pack _ _ _ _ (by rw [List.getElem?_map, h]; rfl)
/-- The answers to a gather request: the first to its own tag, the others to those it holds besides. -/
theorem pktAnswers_get (k : Pkt) (kind : PktKind) (frm j : Nat) (q : Pkt) (h : (pktAnswers k kind frm)[j]? = some q) :
    q.kind = kind ∧ (j = 0 → q.dst = k.src ∧ q.tag = k.tag) ∧ ∀ e, j ≠ 0 → k.merged[j - 1]? = some e → q.dst = e.1 ∧ q.tag = e.2.1 := by
  cases j with
  | zero =>
    obtain rfl : pktAnswer k kind frm = q := by simpa [pktAnswers] using h
    exact ⟨rfl, fun _ => ⟨rfl, rfl⟩, fun _ h => absurd rfl h⟩
  | succ j =>
    rw [pktAnswers, List.getElem?_cons_succ, List.getElem?_map] at h
    obtain ⟨e, he, rfl⟩ := Option.map_eq_some_iff.1 h
    refine ⟨rfl, fun h => absurd h (Nat.succ_ne_zero j), fun e' _ he' => ?_⟩
    obtain rfl : e = e' := Option.some.inj (he.symm.trans he')
    exact ⟨rfl, rfl⟩
/-- Settles O22, by the packets that an accepted request sends, the bytes that an accepted write stores and the rows that a gather packs. -/
theorem readsAndWrites : Obligations.ReadsAndWrites := by
  unfold Obligations.ReadsAndWrites
  refine ⟨⟨fun m k misreads s x hr hx hb => ⟨fun hk => ?_, fun y hk hl hy => ?_⟩, fun m k s x hr hx ha hb => ?_⟩, fun m k s ps => ?_⟩
  · obtain ⟨t, he, hn, hm⟩ := execReadRequest_spec m k misreads s x hr hx hb none (.inl ⟨hk, rfl⟩)
    obtain ⟨f1, f2, f3, f4, f5, f6, f7, f8, f9⟩ := readAnswer_fields s m (s.seen k) x
    exact ⟨t, _, he, hn, f1, f2, f3, f4, f5, f6, f7, f8, f9, hm⟩
  · obtain ⟨t, he, hn, hm⟩ := execReadRequest_spec m k misreads s x hr hx hb (some y) (.inr ⟨hk, hl, rfl, hy⟩)
    obtain ⟨f1, f2, f3, f4, f5, f6⟩ := copyData_fields s (s.seen k) x y
    exact ⟨t, _, he, hn, f1, f2, f3, f4, f5, f6, hm⟩
  · exact execWriteData_spec m k s x hr hx ha hb
  · intro addrs hr hp
    obtain ⟨t, v, he, hn, ⟨-, -, -, hd, hb, -⟩, hm⟩ := execGatherRequest_spec m k s ps hr hp
    refine ⟨t, _, he, hn, ?_, fun j r hj => ?_, hm⟩
    · rw [List.length_map, List.length_zipIdx, pktAnswers, List.length_cons, List.length_map]
      rfl
    · rw [List.getElem?_map, List.getElem?_zipIdx] at hj
      obtain ⟨e, he, rfl⟩ := Option.map_eq_some_iff.1 hj
      obtain ⟨q, hq, rfl⟩ := Option.map_eq_some_iff.1 he
      obtain ⟨a1, a2, a3⟩ := pktAnswers_get _ _ _ _ _ hq
      obtain ⟨f1, f2, f3, f4, f5, f6⟩ := gatherReply_fields (s.seen k) ps v (q, 0 + j)
      simp only [Nat.zero_add] at f1 f2 f3 f4 f5 f6 ⊢
      have hp : ∀ x : Place, v.blkMeta x.blk = s.blkMeta x.blk := fun x => by rw [State.blkMeta, hb, State.blkMeta]
      have hl : gatherRows (s.seen k) ps j = (ps.drop (rowsPerResponse k.len * j)).take (rowsPerResponse k.len) := rfl
      rw [← hl]
      refine ⟨f1.trans a1, fun h => ?_, fun e h h' => ?_, f4.trans ?_, ?_, fun i x hi => ?_, ?_⟩
      · exact ⟨f2.trans (a2 h).1, f3.trans (a2 h).2⟩
      · exact ⟨f2.trans (a3 e h h').1, f3.trans (a3 e h h').2⟩
      · exact congrArg (· * (gatherRows (s.seen k) ps j).length) (Nat.mul_comm k.len 64)
      · rw [f5, toRows_length]
        rfl
      · rw [f5, ← hd]
        exact gatherData_elem v k.len _ i x hi
      · rw [f6]
        simp only [hp]
        rfl

end Sys2Proof.Machine
end

section
/-! SUPPORT. Blocks of a reduction at their home: what keeping, showing and closing them leaves alone. -/
namespace Sys2Proof.Machine
open Host

/-! ### Blocks found and stored -/

/-- A block is found under its own name. -/
theorem redBlk_is (s : State) (m p i b : Nat) : (s.redBlk m p i b).is p i b = true := by
  unfold State.redBlk
  cases h : (s.site m).blocks.find? (·.is p i b) with
  | none => simp [RedBlk.is, RedBlk.init]
  | some r => exact List.find?_some (p := fun r : RedBlk => r.is p i b) h
theorem redBlk_keys (s : State) (m p i b : Nat) :
    (s.redBlk m p i b).part = p ∧ (s.redBlk m p i b).stream = i ∧ (s.redBlk m p i b).block = b := by
  have h := redBlk_is s m p i b
  simpa [RedBlk.is, and_assoc] using h
/-- Blocks are found by what the site holds of them. -/
theorem redBlk_congr {s t : State} {m : Nat} (h : (t.site m).blocks = (s.site m).blocks) (p i b : Nat) : t.redBlk m p i b = s.redBlk m p i b := by
  rw [State.redBlk, h, State.redBlk]
/-- The list of a home's blocks with one of them stored. -/
def storeBlk (r : RedBlk) (l : List RedBlk) : List RedBlk :=
  if l.any (·.is r.part r.stream r.block) then l.map (fun o => if o.is r.part r.stream r.block then r else o) else l ++ [r]
theorem setRed_blocks (s : State) (m : Nat) (r : RedBlk) : ((s.setRed m r).site m).blocks = storeBlk r (s.site m).blocks :=
  congrArg SiteSt.blocks (site_modSite_same ..)
theorem setRed_blocks_ne (s : State) {m n : Nat} (r : RedBlk) (h : n ≠ m) : ((s.setRed m r).site n).blocks = (s.site n).blocks :=
  congrArg SiteSt.blocks (site_modSite_ne _ _ h)
theorem is_self (r : RedBlk) : r.is r.part r.stream r.block = true := by simp [RedBlk.is]
/-- A block under the name of `r` is under another name just where `r` is. -/
theorem is_of_is {o r : RedBlk} (h : o.is r.part r.stream r.block = true) (p i b : Nat) : o.is p i b = r.is p i b := by
  obtain ⟨⟨h1, h2⟩, h3⟩ : (o.part = r.part ∧ o.stream = r.stream) ∧ o.block = r.block := by simpa [RedBlk.is] using h
  rw [RedBlk.is, h1, h2, h3, RedBlk.is]
theorem find?_storeBlk_same (r : RedBlk) (l : List RedBlk) : (storeBlk r l).find? (·.is r.part r.stream r.block) = some r := by
  unfold storeBlk
  split
  · obtain ⟨o, ho, hr⟩ := List.any_eq_true.1 ‹_›
    have hc : (fun o : RedBlk => o.is r.part r.stream r.block) ∘ (fun o => if o.is r.part r.stream r.block then r else o) =
        fun o => o.is r.part r.stream r.block := funext fun o => by
      by_cases h : o.is r.part r.stream r.block = true
      · rw [Function.comp, if_pos h, is_self, h]
      · rw [Function.comp, if_neg h]
    rw [List.find?_map, hc]
    obtain ⟨q, hq⟩ := Option.isSome_iff_exists.1 ((List.find?_isSome (p := fun o : RedBlk => o.is r.part r.stream r.block)).2 ⟨o, ho, hr⟩)
    have hi : q.is r.part r.stream r.block = true := List.find?_some (p := fun o : RedBlk => o.is r.part r.stream r.block) hq
    rw [hq, Option.map_some, if_pos hi]
  · have hn : l.find? (·.is r.part r.stream r.block) = none := List.find?_eq_none.2 fun o ho hi => ‹¬_› (List.any_eq_true.2 ⟨o, ho, hi⟩)
    rw [List.find?_append, hn, Option.none_or, List.find?_cons_of_pos (p := fun o : RedBlk => o.is r.part r.stream r.block) (is_self r)]
theorem find?_storeBlk_ne (r : RedBlk) (l : List RedBlk) (p i b : Nat) (h : r.is p i b = false) :
    (storeBlk r l).find? (·.is p i b) = l.find? (·.is p i b) := by
  unfold storeBlk
  split
  · have hc : (fun o : RedBlk => o.is p i b) ∘ (fun o => if o.is r.part r.stream r.block then r else o) = fun o => o.is p i b := funext fun o => by
      by_cases ho : o.is r.part r.stream r.block = true
      · rw [Function.comp, if_pos ho, h, is_of_is ho, h]
      · rw [Function.comp, if_neg ho]
    rw [List.find?_map, hc]
    cases hq : l.find? (·.is p i b) with
    | none => rfl
    | some q =>
      have hi : q.is p i b = true := List.find?_some (p := fun o : RedBlk => o.is p i b) hq
      have hn : ¬ q.is r.part r.stream r.block = true := fun e => by
        rw [is_of_is e, h] at hi
        cases hi
      rw [Option.map_some, if_neg hn]
  · rw [List.find?_append, List.find?_cons_of_neg (by simp [h]), List.find?_nil, Option.or_none]
/-- A block stored is the block found under its name; under another name the block found is as it was. -/
theorem redBlk_setRed_same (s : State) (m : Nat) (r : RedBlk) : (s.setRed m r).redBlk m r.part r.stream r.block = r := by
  rw [State.redBlk, setRed_blocks, find?_storeBlk_same, Option.getD_some]
theorem redBlk_setRed_ne (s : State) (m n : Nat) (r : RedBlk) (p i b : Nat) (h : n ≠ m ∨ r.is p i b = false) :
    (s.setRed m r).redBlk n p i b = s.redBlk n p i b := by
  by_cases hn : n = m
  · subst hn
    rw [State.redBlk, setRed_blocks, find?_storeBlk_ne _ _ _ _ _ (h.resolve_left (· rfl)), State.redBlk]
  · exact redBlk_congr (setRed_blocks_ne s r hn) p i b

/-! ### Showing a block in the sum area (R216 to R218, R252) -/

/-- What writes of the sum area leave alone: packets, scratchpads, and the homes' blocks and counts. -/
structure HomeView where
  net : List Pkt
  spad : Memory
  blocks : Nat → List RedBlk
  stats : Nat → Word
def State.homeView (s : State) : HomeView := ⟨s.net, s.spad, fun m => (s.site m).blocks, s.reg .ldgRedStat⟩
theorem homeView_of_siteView {s t : State} {b : Nat} {w : Nat → Nat} (h : t.siteView b = { s.siteView b with waits := w }) :
    t.homeView = s.homeView := by
  have h1 := congrArg SiteView.net h
  have h2 := congrArg SiteView.spad h
  have h3 := congrArg SiteView.blocks h
  have h4 := congrArg SiteView.stats h
  simp only [State.siteView] at h1 h2 h3 h4
  rw [State.homeView, State.homeView, h1, h2, h3, h4]
theorem modSite_homeView (s : State) (m : Nat) (f : SiteSt → SiteSt) (h : ∀ q, (f q).blocks = q.blocks) :
    (s.modSite m f).homeView = s.homeView := homeView_of_siteView (modSite_siteView s m 0 f h)
theorem verify_homeView (s : State) (b o n : Nat) : (s.verify b o n).homeView = s.homeView := homeView_of_siteView (verify_siteView s b o n)
theorem storeAt_homeView (s : State) (x : Place) (a n v : Nat) (w : BlkMeta) : (s.storeAt x a n v w).homeView = s.homeView := by
  unfold State.storeAt State.markDirty
  refine (modSite_homeView _ _ _ ?_).trans rfl
  exact fun _ => rfl
theorem putDram_homeView (s : State) (p a n v : Nat) (poison : Bool) : (s.putDram p a n v poison).homeView = s.homeView := by
  unfold State.putDram
  split
  · rfl
  · exact (storeAt_homeView ..).trans (homeView_of_siteView (writeReady_facts _ _ _ _).1)
theorem putArea_homeView (s : State) (p a n v : Nat) : (s.putArea p a n v).homeView = s.homeView := by
  unfold State.putArea
  split
  · rfl
  · exact (putDram_homeView ..).trans (verify_homeView ..)
theorem showBlk_homeView (s : State) (p : Nat) (st : Stream) (r : RedBlk) : (s.showBlk p st r).homeView = s.homeView := by
  unfold State.showBlk
  refine (putArea_homeView ..).trans ?_
  split
  · exact foldl_keeps (fun t => t.homeView = s.homeView) _ (fun t e h => (putArea_homeView ..).trans h) _ _ rfl
  · split
    · rfl
    · split
      · exact putArea_homeView ..
      · exact putArea_homeView ..
/-- A block kept is stored at its home; showing it changes no block. -/
theorem keepBlk_homeView (s : State) (m p : Nat) (st : Stream) (r : RedBlk) : (s.keepBlk m p st r).homeView = (s.setRed m r).homeView :=
  showBlk_homeView ..
theorem redBlk_of_homeView {s t : State} (h : t.homeView = s.homeView) (m p i b : Nat) : t.redBlk m p i b = s.redBlk m p i b :=
  redBlk_congr (congrFun (congrArg HomeView.blocks h) m) p i b
theorem getF_of_homeView {s t : State} (h : t.homeView = s.homeView) (f : RF) (hf : f.reg = .ldgRedStat) (i : Nat) : t.getF f i = s.getF f i := by
  have hr : t.reg .ldgRedStat i = s.reg .ldgRedStat i := congrFun (congrArg HomeView.stats h) i
  simp only [State.getF, hf, hr]
theorem keepBlk_redBlk_same (s : State) (m p : Nat) (st : Stream) (r : RedBlk) :
    (s.keepBlk m p st r).redBlk m r.part r.stream r.block = r :=
  (redBlk_of_homeView (keepBlk_homeView ..) ..).trans (redBlk_setRed_same ..)

/-! ### What closing a block and giving its bytes leave of every block (R247, R254) -/

/-- A block without who waits for it, what it last sent, and whether it has closed. -/
def blkCore (r : RedBlk) : RedBlk := { r with waitE := [], waitV := [], sent := none, sentBad := false, resum := false, closed := false }
/-- What the home does as a block closes or its bytes go out: packets leave, and blocks close or lose who waits; no scratchpad changes. -/
def State.tending (s t : State) : Prop :=
  t.spad = s.spad ∧ (∃ l, t.net = s.net ++ l) ∧ ∀ m p i b, blkCore (t.redBlk m p i b) = blkCore (s.redBlk m p i b)
theorem State.tending.refl (s : State) : s.tending s := ⟨rfl, ⟨[], (List.append_nil _).symm⟩, fun _ _ _ _ => rfl⟩
theorem State.tending.trans {s t u : State} (h : s.tending t) (k : t.tending u) : s.tending u := by
  obtain ⟨h1, ⟨l, h2⟩, h3⟩ := h
  obtain ⟨k1, ⟨l', k2⟩, k3⟩ := k
  exact ⟨k1.trans h1, ⟨l ++ l', by rw [k2, h2, List.append_assoc]⟩, fun m p i b => (k3 m p i b).trans (h3 m p i b)⟩
theorem tending_of_homeView {s t : State} (h : t.homeView = s.homeView) : s.tending t :=
  ⟨congrArg HomeView.spad h, ⟨[], (congrArg HomeView.net h).trans (List.append_nil _).symm⟩, fun m p i b =>
    congrArg blkCore (redBlk_of_homeView h m p i b)⟩
theorem inject_tending (s : State) (k : Pkt) : s.tending (s.inject k) := ⟨rfl, ⟨[k.sealed], rfl⟩, fun _ _ _ _ => rfl⟩
theorem injectAll_tending (s : State) (l : List Pkt) : s.tending (s.injectAll l) :=
  foldl_keeps (fun t => s.tending t) _ (fun t k h => h.trans (inject_tending t k)) _ _ (.refl s)
/-- A block stored that keeps the core of a block found. -/
theorem setRed_tending (s : State) (m p i b : Nat) (r : RedBlk) (h : blkCore r = blkCore (s.redBlk m p i b)) : s.tending (s.setRed m r) := by
  obtain ⟨k1, k2, k3⟩ := redBlk_keys s m p i b
  have hp : r.part = p := (congrArg RedBlk.part h).trans k1
  have hi : r.stream = i := (congrArg RedBlk.stream h).trans k2
  have hb : r.block = b := (congrArg RedBlk.block h).trans k3
  subst hp hi hb
  refine ⟨rfl, ⟨[], (List.append_nil _).symm⟩, fun n p i b => ?_⟩
  by_cases hn : n = m ∧ r.is p i b = true
  · obtain ⟨rfl, hr⟩ := hn
    obtain ⟨⟨rfl, rfl⟩, rfl⟩ : (r.part = p ∧ r.stream = i) ∧ r.block = b := by simpa [RedBlk.is] using hr
    rw [redBlk_setRed_same, h]
  · have hne : n ≠ m ∨ r.is p i b = false := by
      rcases Decidable.em (n = m) with e | e
      · exact .inr (Bool.eq_false_iff.2 fun hr => hn ⟨e, hr⟩)
      · exact .inl e
    rw [redBlk_setRed_ne _ _ _ _ _ _ _ hne]
theorem keepBlk_tending (s : State) (m q : Nat) (st : Stream) (p i b : Nat) (r : RedBlk) (h : blkCore r = blkCore (s.redBlk m p i b)) :
    s.tending (s.keepBlk m q st r) := (setRed_tending s m p i b r h).trans (tending_of_homeView (keepBlk_homeView ..))
theorem bumpF_tending (s : State) (f : RF) (i n : Nat) : s.tending (s.bumpF f i n) :=
  ⟨rfl, ⟨[], (List.append_nil _).symm⟩, fun _ _ _ _ => rfl⟩
/-- Every waiting packet's blocks, updated one after another. -/
theorem foldl_setRed_tending (m p i : Nat) (f : RedBlk → RedBlk) (hf : ∀ r, blkCore (f r) = blkCore r) (l : List Nat) (s : State) :
    s.tending (l.foldl (fun s b => s.setRed m (f (s.redBlk m p i b))) s) :=
  foldl_keeps (fun t => s.tending t) _ (fun t b h => h.trans (setRed_tending t m p i b _ (hf _))) _ _ (.refl s)
theorem giveBytes_tending (s : State) (m p i : Nat) (st : Stream) (b : Nat) : s.tending (s.giveBytes m p i st b) := by
  refine foldl_keeps (fun t => s.tending t) _ (fun t k h => h.trans ?_) _ _ (.refl s)
  dsimp only
  split
  · exact .refl t
  · split
    · exact (foldl_setRed_tending m p i (fun r => { r with waitE := dropFirst k r.waitE }) (fun _ => rfl) _ t).trans (injectAll_tending ..)
    · exact .refl t
theorem ackClosed_tending (s : State) (m p i : Nat) (st : Stream) (b : Nat) : s.tending (s.ackClosed m p i st b) := by
  refine foldl_keeps (fun t => s.tending t) _ (fun t k h => h.trans ?_) _ _ (.refl s)
  dsimp only
  split
  · exact .refl t
  · split
    · exact (foldl_setRed_tending m p i (fun r => { r with waitV := dropFirst k r.waitV }) (fun _ => rfl) _ t).trans (injectAll_tending ..)
    · exact .refl t
/-- Frames to peers leave a home as it is. -/
theorem emit_homeView (s : State) (o : Out) : (s.emit o).homeView = s.homeView := rfl
theorem setConn_homeView (s : State) (c : Conn) : (s.setConn c).homeView = s.homeView := by
  unfold State.setConn
  split
  · rfl
  · rfl
theorem sendOn_tending (s : State) (c : Conn) (f : KlFrame) : s.tending (s.sendOn c f) := by
  unfold State.sendOn
  exact iteInduction (motive := fun t => s.tending t) (fun _ => tending_of_homeView (emit_homeView ..)) (fun _ =>
    iteInduction (motive := fun t => s.tending t) (fun _ => tending_of_homeView (setConn_homeView ..))
      (fun _ => tending_of_homeView ((emit_homeView ..).trans (setConn_homeView ..))))
theorem toPeers_tending (s : State) (p : Nat) (body : KlBody) (poison : Bool) : s.tending (s.toPeers p body poison) := by
  refine foldl_keeps (fun t => s.tending t) _ (fun t e h => h.trans ?_) _ _ (.refl s)
  unfold State.klSend
  cases t.route p e.2 with
  | none => exact .refl t
  | some c => exact sendOn_tending ..
theorem sendSum_tending (s : State) (p i : Nat) (st : Stream) (r : RedBlk) : s.tending (s.sendSum p i st r) := by
  unfold State.sendSum
  dsimp only
  split
  · exact iteInduction (motive := fun t => s.tending t) (fun _ => toPeers_tending ..) (fun _ => toPeers_tending ..)
  · exact toPeers_tending ..
theorem resumTensor_tending (s : State) (m p i : Nat) (st : Stream) (b : Nat) : s.tending (s.resumTensor m p i st b) := by
  unfold State.resumTensor
  exact iteInduction (motive := fun t => s.tending t) (fun _ => .refl s)
    (fun _ => foldl_keeps (fun t => s.tending t) _ (fun t r h => h.trans (sendSum_tending ..)) _ _ (.refl s))
/-- What a complete block sends its peers before it closes (R255, R262). -/
def State.beforeClose (s : State) (m p i : Nat) (st : Stream) (b : Nat) (r : RedBlk) : State :=
  let s := if st.domain && (decide (r.sent ≠ some (r.moduleSum st)) || decide (r.sentBad ≠ decide (0 < r.poisoned)) || r.resum)
    then s.sendSum p i st r else s
  if r.resum then s.resumTensor m p i st b else s
theorem beforeClose_tending (s : State) (m p i : Nat) (st : Stream) (b : Nat) (r : RedBlk) : s.tending (s.beforeClose m p i st b r) := by
  have h : s.tending (if st.domain && (decide (r.sent ≠ some (r.moduleSum st)) || decide (r.sentBad ≠ decide (0 < r.poisoned)) || r.resum)
      then s.sendSum p i st r else s) := iteInduction (motive := fun t => s.tending t) (fun _ => sendSum_tending ..) (fun _ => .refl s)
  unfold State.beforeClose
  dsimp only
  exact iteInduction (motive := fun t => s.tending t) (fun _ => h.trans (resumTensor_tending ..)) (fun _ => h)
/-- A complete block as it stands once its peers have been told. -/
def RedBlk.told (r : RedBlk) (st : Stream) : RedBlk :=
  { r with sent := if st.domain then some (r.moduleSum st) else none, sentBad := decide (0 < r.poisoned), resum := false }
/-- The close itself, where every peer's sum is in. -/
def State.closeOn (s : State) (m p i : Nat) (st : Stream) (b : Nat) (r : RedBlk) (peers : List (Nat × Nat)) : State :=
  if r.sumsIn peers then (((s.keepBlk m p st { r with closed := true }).bumpF F.ldgRedStat_closed m 1).ackClosed m p i st b) else s
theorem closeOn_tending (s : State) (m p i : Nat) (st : Stream) (b : Nat) (r : RedBlk) (l : List (Nat × Nat))
    (h : blkCore r = blkCore (s.redBlk m p i b)) : s.tending (s.closeOn m p i st b r l) := by
  have hk := keepBlk_tending s m p st p i b { r with closed := true } h
  unfold State.closeOn
  generalize s.keepBlk m p st { r with closed := true } = t at *
  have hb := hk.trans (bumpF_tending t F.ldgRedStat_closed m 1)
  generalize t.bumpF F.ldgRedStat_closed m 1 = u at *
  exact iteInduction (motive := fun t => s.tending t) (fun _ => hb.trans (ackClosed_tending u m p i st b)) (fun _ => .refl s)
theorem tryClose_eq (s : State) (m p i : Nat) (st : Stream) (b : Nat) : s.tryClose m p i st b =
    if (s.redBlk m p i b).closed ∨ (s.redBlk m p i b).reopen ∨ (s.redBlk m p i b).count < st.n ∨ 0 < (s.redBlk m p i b).unproven then s
    else ((s.beforeClose m p i st b (s.redBlk m p i b)).setRed m ((s.redBlk m p i b).told st)).closeOn m p i st b
      ((s.redBlk m p i b).told st) (s.peersIf p st) := rfl
/-- Closing a block leaves every block's core. -/
theorem tryClose_tending (s : State) (m p i : Nat) (st : Stream) (b : Nat) : s.tending (s.tryClose m p i st b) := by
  rw [tryClose_eq]
  refine iteInduction (motive := fun t => s.tending t) (fun _ => .refl s) (fun _ => ?_)
  have hu := beforeClose_tending s m p i st b (s.redBlk m p i b)
  have hc : blkCore ((s.redBlk m p i b).told st) = blkCore (s.redBlk m p i b) := rfl
  have hv := hu.trans (setRed_tending _ m p i b ((s.redBlk m p i b).told st) (hc.trans (hu.2.2 m p i b).symm))
  exact hv.trans (closeOn_tending _ m p i st b _ _ (hc.trans (hv.2.2 m p i b).symm))

end Sys2Proof.Machine
end

section
/-! SUPPORT. Reduction packets that a home takes: retractions, raw resends and tree contributions of O27. -/
namespace Sys2Proof.Machine
open Host

/-! ### A reduction packet accepted (R245) -/
theorem consume_plan (s : State) (k : Pkt) (p : Nat) : (s.consume k).plan p = s.plan p := by
  simp only [State.plan, State.consume_getF]
  rfl
theorem consume_stream (s : State) (k : Pkt) (p n : Nat) : (s.consume k).stream p n = s.stream p n := by
  rw [State.stream, consume_plan, State.stream]
theorem consume_contribs (s : State) (k : Pkt) (p : Nat) (st : Stream) : (s.consume k).contribs p st = s.contribs p st := by
  rw [State.contribs, consume_plan, State.contribs]
theorem consume_redBlk (s : State) (k : Pkt) (m p i b : Nat) : (s.consume k).redBlk m p i b = s.redBlk m p i b := rfl
theorem consume_agreed (s : State) (k : Pkt) (p : Nat) (st : Stream) (r : RedBlk) : (s.consume k).agreed p st r = s.agreed p st r := rfl
theorem consume_engineLeft (s : State) (k : Pkt) (m : Nat) : (s.consume k).engineLeft m = s.engineLeft m := rfl
theorem consume_redRefusal (s : State) (q k : Pkt) (m : Nat) (h : RedHdr) : (s.consume q).redRefusal m k h = s.redRefusal m k h := by
  simp only [State.redRefusal, consume_stream, consume_contribs, consume_redBlk, consume_agreed, consume_engineLeft]
  rfl
/-- An accepted reduction packet leaves the fabric and is acted on. -/
theorem takeRed_taken {s : State} {m : Nat} {k : Pkt} {h : RedHdr} {st : Stream} (hk : k.red = some h) (hr : s.redRefusal m k h = none)
    (hp : s.pastSum k.part st = false) (hs : s.stream k.part h.stream = some st) (f : State → Pkt → RedHdr → Stream → State) :
    s.takeRed m k true f = f (s.consume (s.seen k)) (s.seen k) h st := by
  have hk' : (s.seen k).red = some h := hk
  have hr' : (s.consume (s.seen k)).redRefusal m (s.seen k) h = none := (consume_redRefusal ..).trans hr
  have hs' : (s.consume (s.seen k)).stream (s.seen k).part h.stream = some st := (consume_stream ..).trans hs
  have hp' : ¬ (s.consume (s.seen k)).pastSum (s.seen k).part st = true := by
    rw [show (s.consume (s.seen k)).pastSum (s.seen k).part st = false from hp]
    exact Bool.false_ne_true
  rw [State.takeRed, takeAt_taken, hk']
  dsimp only
  rw [hr', hs']
  dsimp only
  rw [if_neg hp']
/-- A packet of one GRID or FP32 block covers it alone. -/
theorem blocksIn_single (st : Stream) (k : Pkt) (h : RedHdr) (hp : h.pass = 0) (hk : h.kind ≠ 2) (hl : k.len = 128)
    (ht : ¬ (st.tree = true ∧ st.tfmt = 0)) : blocksIn st k h = [h.b0] := by
  unfold blocksIn
  rw [if_neg (by omega), if_neg (by omega), if_neg ht, hl]
  rfl

/-! ### Reopening a block (R259, R260) -/
theorem faultOnly_homeView {s t : State} (h : s.faultOnly t) : t.homeView = s.homeView := homeView_of_siteView (h.siteView 0)
theorem askRaw_homeView (s : State) (m p i b core : Nat) : (s.askRaw m p i b core).homeView = s.homeView := rfl
/-- A block kept: packets, scratchpads and the home's counts stand, and the block is the one kept. -/
theorem keepBlk_facts (s : State) (m p : Nat) (st : Stream) (r : RedBlk) :
    let t := s.keepBlk m p st r
    t.net = s.net ∧ t.spad = s.spad ∧ t.redBlk m r.part r.stream r.block = r ∧ ∀ f i, f.reg = .ldgRedStat → t.getF f i = s.getF f i := by
  have h := keepBlk_homeView s m p st r
  exact ⟨congrArg HomeView.net h, congrArg HomeView.spad h, keepBlk_redBlk_same .., fun f i hf => getF_of_homeView h f hf i⟩
/-- A block that reopens, `was` the byte it had. -/
def RedBlk.reopened (r : RedBlk) (was : Option Nat) : RedBlk :=
  { r with reopen := true, was := was, closed := false, e := 0, sums := [], vals := [], raws := [], rebuilt := [] }
/-- Every contributor of a block asked for its raw values. -/
def State.askAll (s : State) (m p i : Nat) (st : Stream) (b : Nat) : State := (s.contribs p st).foldl (fun s c => s.askRaw m p i b c.core) s
theorem askAll_homeView (s : State) (m p i : Nat) (st : Stream) (b : Nat) : (s.askAll m p i st b).homeView = s.homeView :=
  foldl_keeps (fun t => t.homeView = s.homeView) _ (fun t (c : Contributor) h => (askRaw_homeView t m p i b c.core).trans h) _ _ rfl
/-- The state in which a block reopens: the reopen counted and raised. -/
def State.reopening (s : State) (m p : Nat) : State := (s.bumpF F.ldgRedStat_reopens m 1).raise .reduceReopened (siteNode m) (some p) 0
theorem reopenBlk_eq (s : State) (m p i : Nat) (st : Stream) (b : Nat) : s.reopenBlk m p i st b =
    if (s.redBlk m p i b).reopen = true then s
    else ((s.reopening m p).keepBlk m p st ((s.redBlk m p i b).reopened
      (if (s.reopening m p).agreed p st (s.redBlk m p i b) then some (s.redBlk m p i b).byte else none))).askAll m p i st b := rfl
theorem reopening_facts (s : State) (m p : Nat) :
    let t := s.reopening m p
    t.net = s.net ∧ t.spad = s.spad ∧ t.getF F.ldgRedStat_retractions m = s.getF F.ldgRedStat_retractions m ∧
    t.getF F.ldgRedStat_reopens m = min (s.getF F.ldgRedStat_reopens m + 1) (2 ^ F.ldgRedStat_reopens.len - 1) := by
  have hg := getF_bumpF_same s F.ldgRedStat_reopens m 1 rfl
  have hg' := getF_bumpF_apart s F.ldgRedStat_reopens F.ldgRedStat_retractions m m 1 rfl
  have hu : (s.bumpF F.ldgRedStat_reopens m 1).net = s.net ∧ (s.bumpF F.ldgRedStat_reopens m 1).spad = s.spad :=
    ⟨State.bumpF_net .., State.bumpF_spad ..⟩
  unfold State.reopening
  generalize s.bumpF F.ldgRedStat_reopens m 1 = u at *
  have hv : (u.raise .reduceReopened (siteNode m) (some p) 0).homeView = u.homeView := faultOnly_homeView (raise_faultOnly ..)
  exact ⟨(congrArg HomeView.net hv).trans hu.1, (congrArg HomeView.spad hv).trans hu.2, (getF_of_homeView hv _ rfl m).trans hg',
    (getF_of_homeView hv _ rfl m).trans hg⟩
/-- A block reopened has lost its sum, its exponent and its values, and the reopen is counted. -/
theorem reopenBlk_facts (s : State) (m p i : Nat) (st : Stream) (b : Nat) (hr : (s.redBlk m p i b).reopen = false) :
    let t := s.reopenBlk m p i st b
    t.net = s.net ∧ t.spad = s.spad ∧ (t.redBlk m p i b).closed = false ∧ (t.redBlk m p i b).reopen = true ∧ (t.redBlk m p i b).sums = [] ∧
    (t.redBlk m p i b).e = 0 ∧ t.getF F.ldgRedStat_retractions m = s.getF F.ldgRedStat_retractions m ∧
    t.getF F.ldgRedStat_reopens m = min (s.getF F.ldgRedStat_reopens m + 1) (2 ^ F.ldgRedStat_reopens.len - 1) := by
  obtain ⟨k1, k2, k3⟩ := redBlk_keys s m p i b
  obtain ⟨v1, v2, v3, v4⟩ := reopening_facts s m p
  rw [reopenBlk_eq, if_neg (by rw [hr]; exact Bool.false_ne_true)]
  generalize s.reopening m p = v at *
  generalize hR : (s.redBlk m p i b).reopened _ = R
  obtain ⟨w1, w2, w3, w4⟩ := keepBlk_facts v m p st R
  have hn : R.part = p ∧ R.stream = i ∧ R.block = b := by
    rw [← hR]
    exact ⟨k1, k2, k3⟩
  rw [hn.1, hn.2.1, hn.2.2] at w3
  generalize v.keepBlk m p st R = w at *
  have ht := askAll_homeView w m p i st b
  generalize w.askAll m p i st b = t at *
  have hb : t.redBlk m p i b = R := (redBlk_of_homeView ht m p i b).trans w3
  have hg : ∀ f : RF, f.reg = .ldgRedStat → t.getF f m = v.getF f m := fun f hf => (getF_of_homeView ht f hf m).trans (w4 f m hf)
  dsimp only
  rw [hb, hg _ rfl, hg _ rfl, ← hR]
  exact ⟨(congrArg HomeView.net ht).trans (w1.trans v1), (congrArg HomeView.spad ht).trans (w2.trans v2), rfl, rfl, rfl, rfl, v3, v4⟩

/-! ### RETRACTION (R258, R259) -/
/-- A block without what it holds of a producer that retracts. -/
def State.retractBlk (s : State) (k : Pkt) (h : RedHdr) (st : Stream) (core : Nat) (r : RedBlk) : RedBlk :=
  { r with
    retracted := if r.retracted.contains core then r.retracted else r.retracted ++ [core]
    rebuilt := r.rebuilt.filter (fun c => c ≠ core), closed := false, raws := r.raws.filter (fun x => x.1 ≠ core), resum := r.resum || st.tree
    sums := if (r.vals.any (fun v => v.prov.any (fun x => decide (x.1 = core)))) && !h.prov.isEmpty && !st.tree
      then subSums r.sums ((rangeFrom 0 32).map (fun i => contribElem (elem (ofRows k.data) 32 (32 * 0 + i)))) else r.sums
    slots := if st.tree then r.slots.filter (fun x => x.1 ≠ s.slotOf k.part st core) else r.slots
    vals := dropProducer core k.poison r.vals }
/-- Whether a retraction takes a block of the byte `old` back to raw values. -/
def rebuilds (h : RedHdr) (st : Stream) (old : Nat) : Bool := !st.tree && (h.prov.isEmpty || decide (h.ebytes.getD 0 0 = old) || decide (old = 255))
/-- A block that a retraction covers: kept without the producer, and reopened where it goes back to raw values. -/
def State.retractAt (s : State) (m : Nat) (k : Pkt) (h : RedHdr) (st : Stream) (core : Nat) : State :=
  let r := s.redBlk m k.part h.stream h.b0
  let v := s.keepBlk m k.part st (s.retractBlk k h st core r)
  if rebuilds h st (if s.agreed k.part st r then r.byte else r.e) then v.reopenBlk m k.part h.stream st h.b0 else v
theorem bumpF_redBlk (s : State) (f : RF) (j n m p i b : Nat) : (s.bumpF f j n).redBlk m p i b = s.redBlk m p i b := rfl
theorem bumpF_agreed (s : State) (f : RF) (j n p : Nat) (st : Stream) (r : RedBlk) : (s.bumpF f j n).agreed p st r = s.agreed p st r := rfl
/-- A retraction that covers one block, which no rebuild is pending for. -/
theorem execRetraction_single {m : SiteIx} {k : Pkt} {s : State} {h : RedHdr} {st : Stream} {core epoch : Nat} (hk : k.red = some h)
    (hr : s.redRefusal m k h = none) (hp : s.pastSum k.part st = false) (hs : s.stream k.part h.stream = some st)
    (hb : blocksIn st k h = [h.b0]) (hc : h.prov = [(core, epoch)]) (ho : (s.redBlk m k.part h.stream h.b0).reopen = false) :
    execRetraction m k true s = .next ((((s.consume (s.seen k)).bumpF F.ldgRedStat_retractions m 1).retractAt m (s.seen k) h st core).injectAll
      (pktAnswers (s.seen k) .ack (siteNode m))) := by
  have hb' : blocksIn st (s.seen k) h = [h.b0] := hb
  have hd : (h.prov.head?.map (·.1)).getD (s.seen k).prod.1 = core := by rw [hc]; rfl
  have hl : (((s.consume (s.seen k)).bumpF F.ldgRedStat_retractions m 1).redBlk m (s.seen k).part h.stream h.b0).reopen = false := by
    rw [bumpF_redBlk, consume_redBlk]
    exact ho
  rw [execRetraction, takeRed_taken hk hr hp hs]
  dsimp only
  rw [hb', hd]
  clear hb hb' hd hk hr hp hs
  generalize (s.consume (s.seen k)).bumpF F.ldgRedStat_retractions m 1 = u at *
  generalize s.seen k = q at *
  unfold State.retractAt State.retractBlk rebuilds
  dsimp only [List.zipIdx_cons, List.zipIdx_nil, List.foldl_cons, List.foldl_nil]
  rw [hl, Bool.false_and, if_neg Bool.false_ne_true]
/-- What a retraction leaves of a GRID block that no rebuild is pending for. -/
theorem retractAt_facts (u : State) (m : Nat) (k : Pkt) (h : RedHdr) (st : Stream) (core : Nat)
    (ho : (u.redBlk m k.part h.stream h.b0).reopen = false) :
    let r := u.redBlk m k.part h.stream h.b0
    let old := if u.agreed k.part st r then r.byte else r.e
    let t := u.retractAt m k h st core
    let r' := t.redBlk m k.part h.stream h.b0
    t.net = u.net ∧ t.spad = u.spad ∧ r'.closed = false ∧ t.getF F.ldgRedStat_retractions m = u.getF F.ldgRedStat_retractions m ∧
    (rebuilds h st old = false → r' = u.retractBlk k h st core r) ∧
    (rebuilds h st old = true → r'.reopen = true ∧ r'.sums = [] ∧ r'.e = 0 ∧
      t.getF F.ldgRedStat_reopens m = min (u.getF F.ldgRedStat_reopens m + 1) (2 ^ F.ldgRedStat_reopens.len - 1)) := by
  intro r old t r'
  obtain ⟨k1, k2, k3⟩ := redBlk_keys u m k.part h.stream h.b0
  obtain ⟨w1, w2, w3, w4⟩ := keepBlk_facts u m k.part st (u.retractBlk k h st core r)
  have hn : (u.retractBlk k h st core r).part = k.part ∧ (u.retractBlk k h st core r).stream = h.stream ∧
    (u.retractBlk k h st core r).block = h.b0 := ⟨k1, k2, k3⟩
  rw [hn.1, hn.2.1, hn.2.2] at w3
  have ht : t = if rebuilds h st old then (u.keepBlk m k.part st (u.retractBlk k h st core r)).reopenBlk m k.part h.stream st h.b0
    else u.keepBlk m k.part st (u.retractBlk k h st core r) := rfl
  have hr' : r' = t.redBlk m k.part h.stream h.b0 := rfl
  have hcl : (u.retractBlk k h st core r).closed = false := rfl
  have hop : (u.retractBlk k h st core r).reopen = false := ho
  clear_value t r'
  generalize u.keepBlk m k.part st (u.retractBlk k h st core r) = v at *
  cases hreb : rebuilds h st old with
  | false =>
    rw [hreb, if_neg Bool.false_ne_true] at ht
    subst ht
    rw [w3] at hr'
    subst hr'
    exact ⟨w1, w2, hcl, w4 _ _ rfl, fun _ => rfl, fun e => absurd e Bool.false_ne_true⟩
  | true =>
    obtain ⟨o1, o2, o3, o4, o5, o6, o7, o8⟩ := reopenBlk_facts v m k.part h.stream st h.b0 (by rw [w3]; exact hop)
    rw [hreb, if_pos rfl] at ht
    subst ht hr'
    rw [w4 _ _ rfl] at o7 o8
    exact ⟨o1.trans w1, o2.trans w2, o3, o7, fun e => absurd e.symm Bool.false_ne_true, fun _ => ⟨o4, o5, o6, o8⟩⟩

end Sys2Proof.Machine
end

section
/-! SUPPORT. The clauses of O27, and its settlement. -/
namespace Sys2Proof.Machine
open Host

/-! ### Answers sent -/
/-- Packets sent change the fabric alone. -/
theorem injectAll_facts (l : List Pkt) (s : State) :
    (s.injectAll l).net = s.net ++ l.map Pkt.sealed ∧ (s.injectAll l).spad = s.spad ∧ (s.injectAll l).regs = s.regs ∧
    (s.injectAll l).sites = s.sites := by
  induction l generalizing s with
  | nil => exact ⟨(List.append_nil _).symm, rfl, rfl, rfl⟩
  | cons k l ih =>
    obtain ⟨h1, h2, h3, h4⟩ := ih (s.inject k)
    refine ⟨?_, h2, h3, h4⟩
    rw [State.injectAll, List.foldl_cons]
    exact h1.trans (by rw [State.inject_net, List.append_assoc]; rfl)
theorem redBlk_of_sites {s t : State} (h : t.sites = s.sites) (m p i b : Nat) : t.redBlk m p i b = s.redBlk m p i b :=
  redBlk_congr (by rw [State.site, h, State.site]) p i b
theorem getF_of_regs {s t : State} (h : t.regs = s.regs) (f : RF) (i : Nat) : t.getF f i = s.getF f i := by
  simp only [State.getF, State.reg, h]
/-- The answer to a packet's own tag is among those to all it holds. -/
theorem pktAnswer_mem (s : State) (k : Pkt) (kind : PktKind) (frm : Nat) : (pktAnswer k kind frm).sealed ∈ (s.injectAll (pktAnswers k kind frm)).net := by
  rw [(injectAll_facts _ s).1]
  exact List.mem_append_right _ (List.mem_map_of_mem List.mem_cons_self)

/-! ### RETRACTION -/
/-- What a retraction of one producer takes out of a GRID block that no byte brings back to raw values. -/
theorem retractBlk_grid (s : State) (k : Pkt) (h : RedHdr) (st : Stream) (core epoch : Nat) (r : RedBlk) (hc : h.prov = [(core, epoch)])
    (ht : st.tree = false) :
    let r' := s.retractBlk k h st core r
    r'.reopen = r.reopen ∧ r'.vals = dropProducer core k.poison r.vals ∧
    (r.vals.any (fun v => v.prov.any (fun x => decide (x.1 = core))) = true →
      r'.sums = subSums r.sums ((rangeFrom 0 32).map (fun i => contribElem (elem (ofRows k.data) 32 i)))) := by
  refine ⟨rfl, rfl, fun hv => ?_⟩
  have hcond : ((r.vals.any (fun v => v.prov.any (fun x => decide (x.1 = core)))) && !h.prov.isEmpty && !st.tree) = true := by
    rw [hv, hc, ht]
    rfl
  unfold State.retractBlk
  dsimp only
  rw [if_pos hcond]
  simp only [Nat.mul_zero, Nat.zero_add]
theorem rebuilds_grid (h : RedHdr) (st : Stream) (core epoch old : Nat) (hc : h.prov = [(core, epoch)]) (ht : st.tree = false) :
    rebuilds h st old = (decide (h.ebytes.getD 0 0 = old) || decide (old = 255)) := by
  rw [rebuilds, hc, ht, Bool.not_false, Bool.true_and, List.isEmpty_cons, Bool.false_or]
theorem execRetraction_spec (m : SiteIx) (k : Pkt) (h : RedHdr) (st : Stream) (core epoch : Nat) (s : State) (hk : k.red = some h)
    (hr : s.redRefusal m k h = none) (hp : s.pastSum k.part st = false) (hs : s.stream k.part h.stream = some st) (h0 : h.pass = 0)
    (h1 : h.kind = 1) (hc : h.prov = [(core, epoch)]) (hl : k.len = 128) (htr : st.tree = false) :
    let r := s.redBlk m k.part h.stream h.b0
    let old := if s.agreed k.part st r then r.byte else r.e
    r.reopen = false →
    ∃ t, exec (.retraction m k true) s = .next t ∧
      let r' := t.redBlk m k.part h.stream h.b0
      r'.closed = false ∧ t.getF F.ldgRedStat_retractions m =
        min (s.getF F.ldgRedStat_retractions m + 1) (2 ^ F.ldgRedStat_retractions.len - 1) ∧
      (pktAnswer (s.seen k) .ack (siteNode m)).sealed ∈ t.net ∧ t.spad = s.spad ∧
      (h.ebytes.getD 0 0 ≠ old → old ≠ 255 → r'.reopen = false ∧ r'.vals = dropProducer core k.poison r.vals ∧
        (r.vals.any (fun v => v.prov.any (fun x => decide (x.1 = core))) = true →
          r'.sums = subSums r.sums ((rangeFrom 0 32).map (fun i => contribElem (elem (ofRows k.data) 32 i))))) ∧
      (h.ebytes.getD 0 0 = old → r'.reopen = true ∧ r'.sums = [] ∧ r'.e = 0 ∧
        t.getF F.ldgRedStat_reopens m = min (s.getF F.ldgRedStat_reopens m + 1) (2 ^ F.ldgRedStat_reopens.len - 1)) := by
  intro r old ho
  have hb := blocksIn_single st k h h0 (by omega) hl (by rw [htr]; simp)
  refine ⟨_, execRetraction_single hk hr hp hs hb hc ho, ?_⟩
  have g1 := getF_bumpF_same (s.consume (s.seen k)) F.ldgRedStat_retractions m 1 rfl
  have g2 := getF_bumpF_apart (s.consume (s.seen k)) F.ldgRedStat_retractions F.ldgRedStat_reopens m m 1 rfl
  rw [State.consume_getF] at g1 g2
  have hru : ((s.consume (s.seen k)).bumpF F.ldgRedStat_retractions m 1).redBlk m k.part h.stream h.b0 = r := by
    rw [bumpF_redBlk, consume_redBlk]
  have hau : ((s.consume (s.seen k)).bumpF F.ldgRedStat_retractions m 1).agreed k.part st r = s.agreed k.part st r := by
    rw [bumpF_agreed, consume_agreed]
  have hsu : ((s.consume (s.seen k)).bumpF F.ldgRedStat_retractions m 1).spad = s.spad := by
    rw [State.bumpF_spad, State.consume_spad]
  generalize (s.consume (s.seen k)).bumpF F.ldgRedStat_retractions m 1 = u at *
  obtain ⟨-, a2, a3, a4, a5, a6⟩ := retractAt_facts u m (s.seen k) h st core (by rw [show u.redBlk m (s.seen k).part h.stream h.b0 = r from hru]; exact ho)
  rw [show u.redBlk m (s.seen k).part h.stream h.b0 = r from hru, show u.agreed (s.seen k).part st r = s.agreed k.part st r from hau] at a5 a6
  generalize u.retractAt m (s.seen k) h st core = v at *
  have hmem := pktAnswer_mem v (s.seen k) .ack (siteNode m)
  obtain ⟨-, j2, j3, j4⟩ := injectAll_facts (pktAnswers (s.seen k) .ack (siteNode m)) v
  generalize v.injectAll (pktAnswers (s.seen k) .ack (siteNode m)) = t at *
  dsimp only
  rw [redBlk_of_sites j4, getF_of_regs j3, getF_of_regs j3]
  have hreb := rebuilds_grid h st core epoch old hc htr
  refine ⟨a3, a4.trans g1, hmem, j2.trans (a2.trans hsu), fun hne hn => ?_, fun he => ?_⟩
  · have hv := a5 (hreb.trans (by rw [decide_eq_false hne, decide_eq_false hn]; rfl))
    obtain ⟨b1, b2, b3⟩ := retractBlk_grid u (s.seen k) h st core epoch r hc htr
    rw [show v.redBlk m k.part h.stream h.b0 = _ from hv]
    exact ⟨b1.trans ho, b2, b3⟩
  · obtain ⟨b1, b2, b3, b4⟩ := a6 (hreb.trans (by rw [decide_eq_true he]; rfl))
    exact ⟨b1, b2, b3, b4.trans (by rw [g2])⟩

/-! ### RAW_RESEND (R124, R125, R260) -/
/-- Raw values of one producer, as a home keeps them. -/
abbrev RawPart := Nat × List Nat × RedContrib
/-- The raw values a block holds with those a packet brings. -/
def State.rawsWith (s : State) (m : Nat) (k : Pkt) (h : RedHdr) (st : Stream) (core : Nat) (r : RedBlk) : List RawPart :=
  r.raws.filter (fun e => e.1 ≠ core) ++ [(core, (rangeFrom 0 32).map (elem (ofRows k.data) ((Fmt.ofCode st.rawFmt).getD .fp32).width),
    ⟨h.prov, s.awaiting m k.part k.prov h.prov, k.poison⟩)]
/-- A block with its exponent formed from raw values, before they are quantised. -/
def RedBlk.reformed (r : RedBlk) (f : Fmt) (raws : List RawPart) : RedBlk :=
  { r with e := raws.foldl (fun a e => max a (bexp (e.2.1.map (decode f)))) 0, raws := [], reopen := false, rebuilt := raws.map (fun e => e.1) }
/-- A block rebuilt from raw values: its exponent formed, the values quantised on its byte and summed. -/
def RedBlk.rebuiltFrom (r : RedBlk) (f : Fmt) (raws : List RawPart) : RedBlk :=
  { r.reformed f raws with
    sums := raws.foldl (fun a e => addSums a ((e.2.1.map (decode f)).map (fun x => contribElem (qgrid (r.reformed f raws).byte x).1)))
      (List.replicate 32 (some 0))
    vals := raws.map (fun e => e.2.2) }
/-- What a home does with raw values for a block of a stream of one module. -/
def State.takeRaws (s : State) (m : Nat) (k : Pkt) (h : RedHdr) (st : Stream) (r : RedBlk) (raws : List RawPart) : State :=
  if r.reopen = false then s
  else if raws.length < st.n then s.setRed m { r with raws := raws }
  else ((s.keepBlk m k.part st (r.rebuiltFrom ((Fmt.ofCode st.rawFmt).getD .fp32) raws)).giveBytes m k.part h.stream st h.b0).tryClose m k.part
    h.stream st h.b0
theorem execRawResend_taken {m : SiteIx} {k : Pkt} {s : State} {h : RedHdr} {st : Stream} {core epoch : Nat} (hk : k.red = some h)
    (hr : s.redRefusal m k h = none) (hp : s.pastSum k.part st = false) (hs : s.stream k.part h.stream = some st)
    (hc : h.prov = [(core, epoch)]) (hd : st.domain = false) :
    let u := (s.consume (s.seen k)).inject (pktAnswer (s.seen k) .ack (siteNode m))
    let r := s.redBlk m k.part h.stream h.b0
    execRawResend m k true s = .next (u.takeRaws m (s.seen k) h st r (u.rawsWith m (s.seen k) h st core r)) := by
  intro u r
  have hcore : (h.prov.head?.map (·.1)).getD 0 = core := by rw [hc]; rfl
  have hb : (s.consume (s.seen k)).redBlk m (s.seen k).part h.stream h.b0 = r := consume_redBlk ..
  rw [execRawResend, takeRed_taken hk hr hp hs]
  dsimp only
  rw [hb, hcore]
  unfold State.takeRaws State.rawsWith RedBlk.rebuiltFrom RedBlk.reformed
  simp only [hd, Bool.false_and, Bool.false_eq_true, if_false, Bool.not_eq_true']
  rfl
/-- A block stored changes what its site holds and nothing else. -/
theorem setRed_facts (s : State) (m : Nat) (r : RedBlk) : (s.setRed m r).net = s.net ∧ (s.setRed m r).spad = s.spad ∧ (s.setRed m r).dram = s.dram :=
  ⟨rfl, rfl, rfl⟩
/-- Raw values that do not complete a block are kept with it. -/
theorem takeRaws_kept (s : State) (m : Nat) (k : Pkt) (h : RedHdr) (st : Stream) (raws : List RawPart)
    (ho : (s.redBlk m k.part h.stream h.b0).reopen = true) (hn : raws.length < st.n) :
    let t := s.takeRaws m k h st (s.redBlk m k.part h.stream h.b0) raws
    t.net = s.net ∧ t.spad = s.spad ∧ t.dram = s.dram ∧
    t.redBlk m k.part h.stream h.b0 = { s.redBlk m k.part h.stream h.b0 with raws := raws } := by
  obtain ⟨k1, k2, k3⟩ := redBlk_keys s m k.part h.stream h.b0
  intro t
  have ht : t = s.setRed m { s.redBlk m k.part h.stream h.b0 with raws := raws } := by
    simp only [t, State.takeRaws, ho, Bool.true_eq_false, if_false, if_pos hn]
  generalize hR : ({ s.redBlk m k.part h.stream h.b0 with raws := raws } : RedBlk) = R at ht
  have hk : R.part = k.part ∧ R.stream = h.stream ∧ R.block = h.b0 := by
    rw [← hR]
    exact ⟨k1, k2, k3⟩
  have hs := redBlk_setRed_same s m R
  rw [hk.1, hk.2.1, hk.2.2] at hs
  obtain ⟨n1, n2, n3⟩ := setRed_facts s m R
  rw [ht]
  exact ⟨n1, n2, n3, hs⟩
/-- Raw values that complete a block rebuild it. -/
theorem takeRaws_rebuilt (s : State) (m : Nat) (k : Pkt) (h : RedHdr) (st : Stream) (raws : List RawPart)
    (ho : (s.redBlk m k.part h.stream h.b0).reopen = true) (hn : st.n ≤ raws.length) :
    let r := s.redBlk m k.part h.stream h.b0
    let t := s.takeRaws m k h st r raws
    (∃ l, t.net = s.net ++ l) ∧ t.spad = s.spad ∧
    blkCore (t.redBlk m k.part h.stream h.b0) = blkCore (r.rebuiltFrom ((Fmt.ofCode st.rawFmt).getD .fp32) raws) := by
  obtain ⟨k1, k2, k3⟩ := redBlk_keys s m k.part h.stream h.b0
  intro r t
  have ht : t = ((s.keepBlk m k.part st (r.rebuiltFrom ((Fmt.ofCode st.rawFmt).getD .fp32) raws)).giveBytes m k.part h.stream st h.b0).tryClose
      m k.part h.stream st h.b0 := by
    simp only [t, r, State.takeRaws, ho, Bool.true_eq_false, if_false, if_neg (Nat.not_lt.2 hn)]
  have hk : (r.rebuiltFrom ((Fmt.ofCode st.rawFmt).getD .fp32) raws).part = k.part ∧
    (r.rebuiltFrom ((Fmt.ofCode st.rawFmt).getD .fp32) raws).stream = h.stream ∧
    (r.rebuiltFrom ((Fmt.ofCode st.rawFmt).getD .fp32) raws).block = h.b0 := ⟨k1, k2, k3⟩
  clear_value t
  generalize r.rebuiltFrom ((Fmt.ofCode st.rawFmt).getD .fp32) raws = R at *
  obtain ⟨w1, w2, w3, -⟩ := keepBlk_facts s m k.part st R
  rw [hk.1, hk.2.1, hk.2.2] at w3
  obtain ⟨t1, ⟨l, t2⟩, t3⟩ := (giveBytes_tending (s.keepBlk m k.part st R) m k.part h.stream st h.b0).trans (tryClose_tending _ m k.part h.stream st h.b0)
  rw [ht]
  exact ⟨⟨l, by rw [t2, w1]⟩, t1.trans w2, (t3 m k.part h.stream h.b0).trans (congrArg blkCore w3)⟩
/-- The elements and lengths that a rebuilt block shows, told by its core. -/
theorem rebuiltFrom_core {r' r : RedBlk} {f : Fmt} {raws : List RawPart} (h : blkCore r' = blkCore (r.rebuiltFrom f raws)) :
    r'.reopen = false ∧ r'.raws = [] ∧ r'.rebuilt = raws.map (fun e => e.1) ∧ r'.vals.length = raws.length ∧
    r'.e = (raws.map (fun e => e.2.1.map (decode f))).foldl (fun a l => max a (bexp l)) 0 ∧
    r'.sums = (raws.map (fun e => e.2.1.map (decode f))).foldl (fun a l => addSums a (l.map (fun x => contribElem (qgrid r'.byte x).1)))
      (List.replicate 32 (some 0)) := by
  have hc : (blkCore r').byte = (blkCore (r.rebuiltFrom f raws)).byte := congrArg RedBlk.byte h
  have hb : r'.byte = (r.reformed f raws).byte := hc
  have hv : r'.vals = raws.map (fun e => e.2.2) := congrArg RedBlk.vals h
  refine ⟨congrArg RedBlk.reopen h, congrArg RedBlk.raws h, congrArg RedBlk.rebuilt h, ?_, ?_, ?_⟩
  · rw [hv, List.length_map]
  · rw [List.foldl_map]
    exact congrArg RedBlk.e h
  · rw [List.foldl_map, hb]
    exact congrArg RedBlk.sums h
theorem execRawResend_spec (m : SiteIx) (k : Pkt) (h : RedHdr) (st : Stream) (core epoch : Nat) (s : State) (hk : k.red = some h)
    (hr : s.redRefusal m k h = none) (hp : s.pastSum k.part st = false) (hs : s.stream k.part h.stream = some st)
    (hc : h.prov = [(core, epoch)]) (hd : st.domain = false) :
    let r := s.redBlk m k.part h.stream h.b0
    let n := (r.raws.filter (fun e => e.1 ≠ core)).length + 1
    let f := (Fmt.ofCode st.rawFmt).getD .fp32
    let raws := (r.raws.filter (fun e => e.1 ≠ core)).map (fun e => e.2.1.map (decode f)) ++
      [((rangeFrom 0 32).map (elem (ofRows k.data) f.width)).map (decode f)]
    ∃ t, exec (.rawResend m k true) s = .next t ∧ (pktAnswer (s.seen k) .ack (siteNode m)).sealed ∈ t.net ∧ t.spad = s.spad ∧
      let r' := t.redBlk m k.part h.stream h.b0
      (r.reopen = false → r' = r ∧ t.dram = s.dram) ∧
      (r.reopen = true → n < st.n → r'.reopen = true ∧ r'.raws.length = n ∧ r'.raws.any (fun e => decide (e.1 = core)) = true ∧ t.dram = s.dram) ∧
      (r.reopen = true → st.n ≤ n → r'.reopen = false ∧ r'.raws = [] ∧ r'.rebuilt.contains core = true ∧ r'.vals.length = n ∧
        r'.e = raws.foldl (fun a l => max a (bexp l)) 0 ∧
        r'.sums = raws.foldl (fun a l => addSums a (l.map (fun x => contribElem (qgrid r'.byte x).1))) (List.replicate 32 (some 0))) := by
  intro r n f raws
  have he := execRawResend_taken hk hr hp hs hc hd
  dsimp only at he
  have hu : ((s.consume (s.seen k)).inject (pktAnswer (s.seen k) .ack (siteNode m))).redBlk m (s.seen k).part h.stream h.b0 = r := rfl
  have hack : (pktAnswer (s.seen k) .ack (siteNode m)).sealed ∈ ((s.consume (s.seen k)).inject (pktAnswer (s.seen k) .ack (siteNode m))).net := by
    rw [State.inject_net]
    exact List.mem_append_right _ List.mem_cons_self
  have hsp : ((s.consume (s.seen k)).inject (pktAnswer (s.seen k) .ack (siteNode m))).spad = s.spad := rfl
  have hdr : ((s.consume (s.seen k)).inject (pktAnswer (s.seen k) .ack (siteNode m))).dram = s.dram := rfl
  generalize (s.consume (s.seen k)).inject (pktAnswer (s.seen k) .ack (siteNode m)) = u at *
  have hl : (u.rawsWith m (s.seen k) h st core r).length = n := List.length_append
  have hmap : (u.rawsWith m (s.seen k) h st core r).map (fun e => e.2.1.map (decode f)) = raws := List.map_append
  have hin : ∃ e ∈ u.rawsWith m (s.seen k) h st core r, e.1 = core := ⟨_, List.mem_append_right _ List.mem_cons_self, rfl⟩
  change execRawResend m k true s = .next (u.takeRaws m (s.seen k) h st r (u.rawsWith m (s.seen k) h st core r)) at he
  generalize u.rawsWith m (s.seen k) h st core r = l at *
  cases ho : r.reopen with
  | false =>
    rw [State.takeRaws, if_pos ho] at he
    exact ⟨u, he, hack, hsp, fun _ => ⟨hu, hdr⟩, fun h => absurd h Bool.false_ne_true, fun h => absurd h Bool.false_ne_true⟩
  | true =>
    have hou : (u.redBlk m (s.seen k).part h.stream h.b0).reopen = true := by rw [hu]; exact ho
    rcases Nat.lt_or_ge n st.n with hn | hn
    · obtain ⟨t1, t2, t3, t4⟩ := takeRaws_kept u m (s.seen k) h st l hou (by rw [hl]; exact hn)
      rw [hu] at t1 t2 t3 t4
      refine ⟨_, he, t1 ▸ hack, t2.trans hsp, fun h => absurd h.symm Bool.false_ne_true, fun _ _ => ?_, fun _ h => absurd hn (Nat.not_lt.2 h)⟩
      rw [show State.redBlk _ m k.part h.stream h.b0 = _ from t4]
      obtain ⟨e, hmem, hcore⟩ := hin
      exact ⟨ho, hl, List.any_eq_true.2 ⟨e, hmem, decide_eq_true hcore⟩, t3.trans hdr⟩
    · obtain ⟨⟨l', t1⟩, t2, t3⟩ := takeRaws_rebuilt u m (s.seen k) h st l hou (by rw [hl]; exact hn)
      rw [hu] at t1 t2 t3
      obtain ⟨r1, r2, r3, r4, r5, r6⟩ := rebuiltFrom_core t3
      refine ⟨_, he, ?_, t2.trans hsp, fun h => absurd h.symm Bool.false_ne_true, fun _ h => absurd h (Nat.not_lt.2 hn), fun _ _ => ?_⟩
      · rw [t1]
        exact List.mem_append_left _ hack
      · refine ⟨r1, r2, ?_, r4.trans hl, r5.trans (by rw [hmap]), r6.trans (by rw [hmap]; rfl)⟩
        obtain ⟨e, hmem, hcore⟩ := hin
        rw [show (State.redBlk _ m k.part h.stream h.b0).rebuilt = _ from r3]
        exact List.contains_iff_mem.2 (List.mem_map.2 ⟨e, hmem, hcore⟩)

/-! ### TREE_CONTRIBUTION (R257) -/
/-- A block of an FP32 tree with a producer's codes in its slot. -/
def State.slotBlk (s : State) (m : Nat) (k : Pkt) (h : RedHdr) (slot : Nat) (r : RedBlk) : RedBlk :=
  { r with
    waitV := r.waitV ++ [k]
    slots := r.slots.filter (fun x => x.1 ≠ slot) ++ [(slot, (rangeFrom 0 32).map (fun i => elem (ofRows k.data) 32 (32 * 0 + i)))]
    retracted := r.retracted.filter (fun c => h.prov.all (fun x => decide (x.1 ≠ c)))
    vals := r.vals ++ [⟨h.prov, s.awaiting m k.part k.prov h.prov, k.poison⟩] }
theorem execTreeContribution_single {m : SiteIx} {k : Pkt} {s : State} {h : RedHdr} {st : Stream} {core epoch : Nat} (hk : k.red = some h)
    (hr : s.redRefusal m k h = none) (hp : s.pastSum k.part st = false) (hs : s.stream k.part h.stream = some st)
    (hb : blocksIn st k h = [h.b0]) (hc : h.prov = [(core, epoch)]) (hf : st.tfmt = 1) :
    let u := s.consume (s.seen k)
    execTreeContribution m k true s = .next ((u.keepBlk m k.part st (u.slotBlk m (s.seen k) h (s.slotOf k.part st core)
      (s.redBlk m k.part h.stream h.b0))).tryClose m k.part h.stream st h.b0) := by
  intro u
  have hb' : blocksIn st (s.seen k) h = [h.b0] := hb
  have hd : (h.prov.head?.map (·.1)).getD 0 = core := by rw [hc]; rfl
  have hw : (if st.tfmt = 0 then 16 else 32) = 32 := by rw [hf]; rfl
  have ho : u.slotOf (s.seen k).part st core = s.slotOf k.part st core := by
    rw [State.slotOf, consume_contribs]
    rfl
  rw [execTreeContribution, takeRed_taken hk hr hp hs]
  dsimp only
  rw [hb', hd, hw, ho]
  dsimp only [List.zipIdx_cons, List.zipIdx_nil, List.foldl_cons, List.foldl_nil]
  rfl
/-- The slot of a producer holds the codes last put there. -/
theorem slotBlk_slot (s : State) (m : Nat) (k : Pkt) (h : RedHdr) (slot : Nat) (r : RedBlk) :
    (s.slotBlk m k h slot r).slots.find? (fun e => e.1 = slot) = some (slot, (rangeFrom 0 32).map (fun i => elem (ofRows k.data) 32 i)) := by
  have hn : (r.slots.filter (fun x => decide (x.1 ≠ slot))).find? (fun e => decide (e.1 = slot)) = none := by
    rw [List.find?_eq_none]
    intro e he
    simpa using (List.mem_filter.1 he).2
  rw [State.slotBlk]
  dsimp only
  rw [List.find?_append, hn, Option.none_or, List.find?_cons_of_pos (by simp)]
  simp only [Nat.mul_zero, Nat.zero_add]
theorem slotBlk_count (s : State) (m : Nat) (k : Pkt) (h : RedHdr) (slot core epoch : Nat) (r : RedBlk) (hc : h.prov = [(core, epoch)]) :
    (s.slotBlk m k h slot r).count = r.count + 1 := by
  rw [RedBlk.count, State.slotBlk, RedBlk.count, List.map_append, List.sum_append, hc]
  rfl
theorem slots_of_core {r r' : RedBlk} (h : blkCore r' = blkCore r) : r'.slots = r.slots ∧ r'.count = r.count := by
  have hs : (blkCore r').slots = (blkCore r).slots := congrArg RedBlk.slots h
  have hc : (blkCore r').count = (blkCore r).count := congrArg RedBlk.count h
  exact ⟨hs, hc⟩
theorem execTreeContribution_spec (m : SiteIx) (k : Pkt) (h : RedHdr) (st : Stream) (core epoch : Nat) (s : State) (hk : k.red = some h)
    (hr : s.redRefusal m k h = none) (hp : s.pastSum k.part st = false) (hs : s.stream k.part h.stream = some st) (h0 : h.pass = 0)
    (h1 : h.kind = 0) (hc : h.prov = [(core, epoch)]) (hf : st.tfmt = 1) (hl : k.len = 128) :
    ∃ t, exec (.treeContribution m k true) s = .next t ∧ t.spad = s.spad ∧
      let r' := t.redBlk m k.part h.stream h.b0
      r'.slots.find? (fun e => e.1 = s.slotOf k.part st core) =
        some (s.slotOf k.part st core, (rangeFrom 0 32).map (fun i => elem (ofRows k.data) 32 i)) ∧
      r'.count = (s.redBlk m k.part h.stream h.b0).count + 1 := by
  obtain ⟨k1, k2, k3⟩ := redBlk_keys s m k.part h.stream h.b0
  have hb := blocksIn_single st k h h0 (by omega) hl (by rw [hf]; simp)
  refine ⟨_, execTreeContribution_single hk hr hp hs hb hc hf, ?_⟩
  have hsp : (s.consume (s.seen k)).spad = s.spad := State.consume_spad ..
  generalize s.consume (s.seen k) = u at *
  have hslot := slotBlk_slot u m (s.seen k) h (s.slotOf k.part st core) (s.redBlk m k.part h.stream h.b0)
  have hcount := slotBlk_count u m (s.seen k) h (s.slotOf k.part st core) core epoch (s.redBlk m k.part h.stream h.b0) hc
  have hn : (u.slotBlk m (s.seen k) h (s.slotOf k.part st core) (s.redBlk m k.part h.stream h.b0)).part = k.part ∧
    (u.slotBlk m (s.seen k) h (s.slotOf k.part st core) (s.redBlk m k.part h.stream h.b0)).stream = h.stream ∧
    (u.slotBlk m (s.seen k) h (s.slotOf k.part st core) (s.redBlk m k.part h.stream h.b0)).block = h.b0 := ⟨k1, k2, k3⟩
  generalize u.slotBlk m (s.seen k) h (s.slotOf k.part st core) (s.redBlk m k.part h.stream h.b0) = R at *
  obtain ⟨-, w2, w3, -⟩ := keepBlk_facts u m k.part st R
  rw [hn.1, hn.2.1, hn.2.2] at w3
  obtain ⟨t1, -, t3⟩ := tryClose_tending (u.keepBlk m k.part st R) m k.part h.stream st h.b0
  generalize (u.keepBlk m k.part st R).tryClose m k.part h.stream st h.b0 = t at *
  have hcore : blkCore (t.redBlk m k.part h.stream h.b0) = blkCore R := (t3 m k.part h.stream h.b0).trans (congrArg blkCore w3)
  obtain ⟨hsl, hct⟩ := slots_of_core hcore
  refine ⟨t1.trans (w2.trans hsp), ?_, hct.trans hcount⟩
  rw [hsl]
  exact hslot

/-! ### RESEND_RAW (R64, R243, R260) -/
/-- A core that sends a block's raw values, the tag and the packet noted. -/
def State.sendRaw (s : State) (c tag : Nat) (k : Pkt) : State :=
  (((s.modCore c (fun q => { q with tags := q.tags ++ [⟨tag, 65536, 0, 0, 1, k⟩] })).inject k).noteReceiver c k).showTags c
theorem noteReceiver_facts (s : State) (c : Nat) (k : Pkt) : s.unitsOnly (s.noteReceiver c k) ∧ ((s.noteReceiver c k).core c).tags = (s.core c).tags := by
  refine ⟨rfl, ?_⟩
  unfold State.noteReceiver
  dsimp only
  rw [core_modCore_same]
theorem showTags_facts (s : State) (c : Nat) : s.unitsOnly (s.showTags c) ∧ (s.showTags c).core c = s.core c := by
  unfold State.showTags
  dsimp only
  refine ⟨?_, by rw [State.setF_core, State.setF_core]⟩
  generalize max (s.core c).tags.length _ = n
  rfl
theorem unitsOnly_ctl {s t : State} (h : s.unitsOnly t) : t.ctl = s.ctl := by
  rw [h]
/-- The packet leaves, and its tag is held besides those the core held. -/
theorem sendRaw_facts (s : State) (c tag : Nat) (k : Pkt) : let t := s.sendRaw c tag k
    t.net = s.net ++ [k.sealed] ∧ t.ctl = s.ctl ∧ s.sameMemory t ∧ (t.core c).tags = (s.core c).tags ++ [⟨tag, 65536, 0, 0, 1, k⟩] := by
  unfold State.sendRaw
  have hu : ((s.modCore c (fun q => { q with tags := q.tags ++ [⟨tag, 65536, 0, 0, 1, k⟩] })).core c).tags =
    (s.core c).tags ++ [⟨tag, 65536, 0, 0, 1, k⟩] := by rw [core_modCore_same]
  have hm : s.unitsOnly (s.modCore c (fun q => { q with tags := q.tags ++ [⟨tag, 65536, 0, 0, 1, k⟩] })) := rfl
  generalize s.modCore c _ = u at *
  obtain ⟨n1, n2⟩ := noteReceiver_facts (u.inject k) c k
  generalize (u.inject k).noteReceiver c k = v at *
  obtain ⟨w1, w2⟩ := showTags_facts v c
  have h1 := n1.trans w1
  dsimp only
  refine ⟨?_, ?_, ?_, ?_⟩
  · rw [h1.net, State.inject_net, hm.net]
  · rw [unitsOnly_ctl h1, State.inject_ctl, unitsOnly_ctl hm]
  · exact sameMemory_trans hm.memory (sameMemory_trans (inject_memory ..) h1.memory)
  · rw [w2, n2]
    exact hu
/-- Cycles counted against tags change no plan. -/
theorem bumpStall_plan (s : State) (c n p : Nat) : (s.bumpF F.dmaTagStall_cycles c n).plan p = s.plan p := by
  simp only [State.plan, getF_bumpF_apart s F.dmaTagStall_cycles F.partPlan_active c p n rfl]
  rfl
theorem execResendRaw_eq (c : CoreIx) (msg : Ctl) (cycles : Nat) (o : Obs) (i b n : Nat) (st : Stream) (e : Contributor) (s : State)
    (hm : msg.msg = .resendRaw i b) (hh : msg.high = false) (hs : s.stream msg.part i = some st) (hl : s.logicalOf msg.part c = some n)
    (he : (s.contribs msg.part st).find? (fun e => e.core = n) = some e) :
    let u := s.bumpF F.dmaTagStall_cycles c cycles
    let v := (u.takeCtl msg id).observeRows c o
    execResendRaw c ⟨msg, cycles, o⟩ s = .next (match freeTag (s.core c).tags with
      | some tag => if s.rawReady c i b = false then u else v.sendRaw c tag (v.rawPkt msg.part c i b st e tag)
      | none => u) := by
  intro u v
  have h1 : u.stream msg.part i = some st := by rw [State.stream, bumpStall_plan]; exact hs
  have h2 : u.logicalOf msg.part c = some n := hl
  have h3 : (u.contribs msg.part st).find? (fun e => e.core = n) = some e := by rw [State.contribs, bumpStall_plan]; exact he
  have h4 : u.core c = s.core c := State.bumpF_core ..
  have h5 : u.rawReady c i b = s.rawReady c i b := by rw [State.rawReady, h4, State.rawReady]
  unfold execResendRaw
  dsimp only
  rw [hh, if_neg Bool.false_ne_true, hm]
  dsimp only
  rw [h1, h2]
  dsimp only
  rw [h3, h4, h5]
  cases freeTag (s.core c).tags with
  | none => rfl
  | some tag =>
    cases s.rawReady c i b with
    | false => rfl
    | true => rfl
/-- The raw values' packet: whose it is, where it goes, and what it says of them. -/
theorem rawPkt_fields (s : State) (p c i b : Nat) (st : Stream) (e : Contributor) (tag : Nat) :
    let k := (s.rawPkt p c i b st e tag).sealed
    k.kind = .reduction ∧ k.src = c ∧ k.tag = tag ∧ k.dst = siteNode (streamHome st b) ∧
    ∃ hd, k.red = some hd ∧ hd.stream = i ∧ hd.b0 = b ∧ hd.kind = 2 := ⟨rfl, rfl, rfl, rfl, _, rfl, rfl, rfl, rfl⟩
/-- A message that acts as the channel carries it leaves the control network alone. -/
theorem takeCtl_low (s : State) (m : Ctl) (h : m.high = m.msg.isHigh) : s.takeCtl m id = { s with ctl := dropFirst m s.ctl } := by
  rw [State.takeCtl]
  exact if_pos h
/-- Rows observed of which no access fails and none meets another raise nothing. -/
theorem observeRows_quiet_ctl (s : State) (c : Nat) (o : Obs) (hb : o.bad = []) (hc : o.clashes = []) : (s.observeRows c o).ctl = s.ctl := by
  rw [State.observeRows, hb, hc]
  rfl
/-- Settles O27, by the block that a retraction, a raw resend or a tree contribution leaves at its home, and the packet that raw values leave on. -/
theorem retractionsAndRawValues : Obligations.RetractionsAndRawValues := by
  unfold Obligations.RetractionsAndRawValues
  refine ⟨⟨?_, ?_⟩, ?_, ?_⟩
  · intro m k h st core epoch s hk hr hp hs h0 h1 hc hl ht
    exact execRetraction_spec m k h st core epoch s hk hr hp hs h0 h1 hc hl ht
  · intro m k h st core epoch s hk hr hp hs _ _ hc hd
    exact execRawResend_spec m k h st core epoch s hk hr hp hs hc hd
  · intro m k h st core epoch s hk hr hp hs h0 h1 hc _ hf hl
    exact execTreeContribution_spec m k h st core epoch s hk hr hp hs h0 h1 hc hf hl
  · intro c msg cycles o i b n tag st e s hm hh hs hl he u v
    have hex := execResendRaw_eq c msg cycles o i b n st e s hm hh hs hl he
    have hctl : (u.takeCtl msg id).ctl = dropFirst msg s.ctl := by
      rw [takeCtl_low u msg (by rw [hh, hm]; rfl)]
      rfl
    refine ⟨fun h => ?_, fun ht hready => ?_⟩
    · rw [show exec (.resendRaw c ⟨msg, cycles, o⟩) s = _ from hex]
      cases hf : freeTag (s.core c).tags with
      | none => rfl
      | some tag' =>
        rw [h.resolve_left (by rw [hf]; exact nofun)]
        rfl
    · rw [ht, hready] at hex
      have hsend : exec (.resendRaw c ⟨msg, cycles, o⟩) s = .next (v.sendRaw c tag (v.rawPkt msg.part c i b st e tag)) := hex
      obtain ⟨f1, f2, f3, f4⟩ := sendRaw_facts v c tag (v.rawPkt msg.part c i b st e tag)
      obtain ⟨p1, p2, p3, p4, p5⟩ := rawPkt_fields v msg.part c i b st e tag
      have hv : (u.takeCtl msg id).observed v := observeRows_observed ..
      have hlow : u.takeCtl msg id = { u with ctl := dropFirst msg u.ctl } := takeCtl_low u msg (by rw [hh, hm]; rfl)
      have hnet : v.net = s.net := by
        rw [hv.1, hlow]
        rfl
      have hcore : (v.core c).tags = (s.core c).tags := by
        rw [hv.2.2 c, hlow]
        rfl
      refine ⟨_, _, hsend, f1.trans (by rw [hnet]), p1, p2, p3, p4, p5, f2, fun hb hc => ?_, ?_, f3⟩
      · rw [f2, show v.ctl = _ from observeRows_quiet_ctl _ c o hb hc, hctl]
      · rw [f4, hcore, List.map_append]
        rfl

end Sys2Proof.Machine
end

section
/-! SUPPORT. What the sequencer's own operations change (R70 to R92, R107): dispatch, holds, the pc, counters; and the settling of O2, O3, O4
and O7. -/
namespace Sys2Proof.Machine
open Host

/-! ### One core's changes -/
theorem State.coreOnly.refl (s : State) (c : Nat) (l : List Reg) : s.coreOnly s c l := ⟨rfl, fun _ _ => Or.inl rfl, fun _ _ => rfl⟩
theorem State.coreOnly.trans {s t u : State} {c : Nat} {l : List Reg} (h : s.coreOnly t c l) (k : t.coreOnly u c l) : s.coreOnly u c l := by
  obtain ⟨h1, h2, h3⟩ := h
  obtain ⟨k1, k2, k3⟩ := k
  refine ⟨by rw [k1, h1], fun r i => ?_, fun d hd => (k3 d hd).trans (h3 d hd)⟩
  rcases k2 r i with k | k
  · rw [k]
    exact h2 r i
  · exact Or.inr k
theorem State.coreOnly.mono {s t : State} {c : Nat} {l l' : List Reg} (h : s.coreOnly t c l) (hl : l ⊆ l') : s.coreOnly t c l' :=
  ⟨h.1, fun r i => (h.2.1 r i).imp_right (fun e => ⟨e.1, hl e.2⟩), h.2.2⟩
theorem setReg_coreOnly (s : State) (c : Nat) (r : Reg) (v : Word) : s.coreOnly (s.setReg r c v) c [r] := by
  refine ⟨rfl, fun r' i => ?_, fun _ _ => rfl⟩
  by_cases h : r' = r ∧ i = c
  · exact Or.inr ⟨h.2, by simp [h.1]⟩
  · exact Or.inl (reg_setReg_ne _ _ _ _ (by tauto))
theorem setF_coreOnly (s : State) (c : Nat) (f : RF) (v : Nat) : s.coreOnly (s.setF f c v) c [f.reg] := setReg_coreOnly ..
theorem modCore_coreOnly (s : State) (c : Nat) (f : CoreSt → CoreSt) : s.coreOnly (s.modCore c f) c [] :=
  ⟨rfl, fun _ _ => Or.inl rfl, fun _ hd => core_modCore_ne _ _ hd⟩
theorem State.coreOnly.getF {s t : State} {c : Nat} {l : List Reg} (h : s.coreOnly t c l) (g : RF) (i : Nat) (hg : g.reg ∉ l) :
    t.getF g i = s.getF g i := by
  rw [State.getF, (h.2.1 g.reg i).resolve_right (fun e => hg e.2), State.getF]
theorem State.coreOnly.memory {s t : State} {c : Nat} {l : List Reg} (h : s.coreOnly t c l) : s.sameMemory t := h.unitsOnly.memory
theorem State.coreOnly.net {s t : State} {c : Nat} {l : List Reg} (h : s.coreOnly t c l) : t.net = s.net := h.unitsOnly.net
theorem State.coreOnly.ctl {s t : State} {c : Nat} {l : List Reg} (h : s.coreOnly t c l) : t.ctl = s.ctl := unitsOnly_ctl h.unitsOnly
theorem State.coreOnly.now {s t : State} {c : Nat} {l : List Reg} (h : s.coreOnly t c l) : t.now = s.now := by rw [h.1]
theorem State.coreOnly.ownerOf {s t : State} {c : Nat} {l : List Reg} (h : s.coreOnly t c l) (d : Nat) : t.ownerOf d = s.ownerOf d := by
  rw [h.1]
  rfl

/-! ### Dispatch (R70, R74) -/
theorem fetchWait_core (s : State) (c : Nat) (o : Obs) (d : Nat) : (s.fetchWait c o).core d = s.core d := by
  unfold State.fetchWait
  split <;> rfl
/-- A core that takes an instruction waits at none, and is else as it was. -/
theorem taken_core (s : State) (c : Nat) (o : Obs) : (s.taken c o).core c = { s.core c with held := none } := by
  rw [State.taken, State.unhold, fetchWait_core]
  split
  next h =>
    rw [fetchWait_core]
    have hn : (s.core c).held = none := by simpa using h
    rw [← hn]
  next => rw [core_modCore_same, fetchWait_core]
theorem taken_getF (s : State) (c : Nat) (o : Obs) (g : RF) (i : Nat) (h : g.reg ≠ .seqFetchStall) : (s.taken c o).getF g i = s.getF g i :=
  (taken_coreOnly s c o).getF g i (by simpa using h)
theorem taken_reg (s : State) (c : Nat) (o : Obs) (r : Reg) (i : Nat) (h : r ≠ .seqFetchStall) : (s.taken c o).reg r i = s.reg r i :=
  ((taken_coreOnly s c o).2.1 r i).resolve_right (fun e => h (by simpa using e.2))
theorem taken_memory (s : State) (c : Nat) (o : Obs) : s.sameMemory (s.taken c o) := (taken_coreOnly s c o).memory
theorem movedOn_of_taken {s t : State} {c n : Nat} {o : Obs} (h : (s.taken c o).movedOn t c n) : s.movedOn t c n := by
  have hp := taken_getF s c o F.seqPc_addr c (by decide)
  have hl : ((s.taken c o).core c).loops = (s.core c).loops := by rw [taken_core]
  rwa [State.movedOn, hp, hl] at h
theorem faultedWith_of_taken {s t : State} {c k : Nat} {o : Obs} (h : (s.taken c o).faultedWith t c k) : s.faultedWith t c k := by
  obtain ⟨h1, h2, h3, h4, h5⟩ := h
  rw [taken_getF s c o F.seqPc_addr c (by decide)] at h2 h3
  rw [taken_getF s c o F.seqFault_valid c (by decide)] at h3 h4
  rw [taken_reg s c o .seqFault c (by decide)] at h4
  exact ⟨h1, h2, h3, h4, sameMemory_trans (taken_memory s c o) h5⟩
/-- An instruction that faults where it would dispatch. -/
theorem taken_instrFault (s : State) (c k : Nat) (o : Obs) (hk : k < 16) : s.faultedWith ((s.taken c o).instrFault c k) c k :=
  faultedWith_of_taken (instrFault_faulted _ c k hk)
/-- An instruction that goes past itself and does nothing else. -/
theorem taken_advance (s : State) (c n : Nat) (o : Obs) :
    s.movedOn ((s.taken c o).advance c n) c n ∧ (s.taken c o).coreOnly ((s.taken c o).advance c n) c [.seqPc] :=
  ⟨movedOn_of_taken (advance_movedOn _ c n).1, (advance_movedOn _ c n).2⟩
/-- Behind an instruction that waits no other one dispatches (R74). -/
theorem dispatch_behind {s : State} {c : Nat} {w h : Word} (o : Obs) (e d : Bool) (k : State → State) (hh : (s.core c).held = some h)
    (hn : h ≠ w) : s.dispatch c w o e d k = s := by
  unfold State.dispatch
  by_cases hr : s.getF F.seqStatus_state c = stRunning
  · rw [if_neg (not_not.2 hr), if_pos (by simp [hh, hn])]
  · rw [if_pos hr]
/-- An instruction that must find every earlier one complete waits while it does not (R74). -/
theorem dispatch_undrained {s : State} {c : Nat} {w : Word} (o : Obs) (e : Bool) (k : State → State) (hr : s.getF F.seqStatus_state c = stRunning)
    (hh : (s.core c).held = none ∨ (s.core c).held = some w) (hd : s.drained c = false) :
    s.dispatch c w o e true k = (s.fetchWait c o).hold c w := by
  unfold State.dispatch
  rw [if_neg (not_not.2 hr), if_neg (by rcases hh with hh | hh <;> simp [hh]), if_pos (by simp [hd])]
/-- A reserved opcode or a set bit 56 is reason 1 for every instruction (R107). -/
theorem dispatch_reserved {s : State} {c : Nat} {w : Word} (o : Obs) (e d : Bool) (k : State → State) (hr : s.getF F.seqStatus_state c = stRunning)
    (hh : (s.core c).held = none ∨ (s.core c).held = some w) (hd : s.drained c = true) (ha : s.spadActive c = false)
    (hb : badBit56 w = true ∨ reservedOp w = true) : s.dispatch c w o e d k = (s.taken c o).instrFault c 1 := by
  unfold State.dispatch
  rw [if_neg (not_not.2 hr), if_neg (by rcases hh with hh | hh <;> simp [hh]), if_neg (by simp [hd]), if_neg (by simp [ha]), if_pos (by simpa using hb)]
/-- One instruction of each unit, and what all of them are: a dispatch of their first word. -/
abbrev unitInstrs (c : CoreIx) (w w1 w2 w3 w4 : Word) (o : Obs) : List Instr :=
  [.nop c w o, .waitCount c w o, .setr c w o, .barrierStep c w o, .endProgram c w o, .loadTile c w o, .stream c w w1 o,
    .vecAdd c w w1 o, .sparseTile c w w1 o, .dramRead c w w1 w2 w3 w4 o, .gather c w w1 w2 o, .mirror c w o]
theorem exec_unitInstr {c : CoreIx} {w w1 w2 w3 w4 : Word} {o : Obs} {i : Instr} (h : i ∈ unitInstrs c w w1 w2 w3 w4 o) (s : State) :
    ∃ e d k, exec i s = .next (s.dispatch c w o e d k) := by
  simp only [List.mem_cons, List.not_mem_nil, or_false] at h
  rcases h with rfl | rfl | rfl | rfl | rfl | rfl | rfl | rfl | rfl | rfl | rfl | rfl
  on_goal 8 => exact ⟨true, false, _, congrArg Outcome.next (State.vecRun.eq_1 ..)⟩
  all_goals exact ⟨_, _, _, rfl⟩

/-! ### Control instructions (R70, R71, R76, R90, R91, R388) -/
section
variable {c : CoreIx} {w : Word} {o : Obs} {s : State}

theorem execNop_ready (h : s.ready c w false false) (hw : bits w 0 56 = 0) : exec (.nop c w o) s = .next ((s.taken c o).advance c 1) := by
  show execNop c w o s = _
  rw [execNop, dispatch_ready h, if_neg (not_not.2 hw)]
theorem execChkptMark_ready (h : s.ready c w false false) (hw : bits w 0 40 = 0) : exec (.chkptMark c w o) s =
    .next (((s.taken c o).modCore c (fun q => { q with mark := some (bits w 40 16) })).advance c 1) := by
  show execChkptMark c w o s = _
  rw [execChkptMark, dispatch_ready h, if_neg (not_not.2 hw)]
/-- A change of what the core holds beside its open bodies, then the step past the instruction. -/
theorem modCore_advance (u : State) (d n : Nat) (f : CoreSt → CoreSt) (hf : ∀ q, (f q).loops = q.loops) :
    u.movedOn ((u.modCore d f).advance d n) d n ∧ u.coreOnly ((u.modCore d f).advance d n) d [.seqPc] := by
  obtain ⟨h1, h2⟩ := advance_movedOn (u.modCore d f) d n
  refine ⟨?_, ((modCore_coreOnly u d f).mono (by simp)).trans h2⟩
  rwa [State.movedOn, State.modCore_getF, core_modCore_same, hf] at h1
theorem execChkptMark_spec (h : s.ready c w false false) (hw : bits w 0 40 = 0) : ∃ t, exec (.chkptMark c w o) s = .next t ∧ s.movedOn t c 1 ∧
    (t.core c).mark = some (bits w 40 16) ∧ (s.taken c o).coreOnly t c [.seqPc] := by
  obtain ⟨h1, h2⟩ := modCore_advance (s.taken c o) c 1 (fun q => { q with mark := some (bits w 40 16) }) (fun _ => rfl)
  refine ⟨_, execChkptMark_ready h hw, movedOn_of_taken h1, ?_, h2⟩
  rw [(advance_ready_facts _ c 1).2.2, core_modCore_same]
/-- The count of a REPEAT reads what a dispatch leaves alone. -/
theorem taken_repeatCount (s : State) (c : Nat) (o : Obs) (w : Word) : (s.taken c o).repeatCount c w = s.repeatCount c w := by
  have hp : ∀ p, (s.taken c o).part p = s.part p := fun p => by rw [(taken_coreOnly s c o).1]; rfl
  have hpl : ∀ p, (s.taken c o).plan p = s.plan p := fun p => by
    rw [State.plan, hp, taken_getF s c o F.partPlan_active p (by decide), State.plan]
  have hl : ∀ p d, (s.taken c o).logicalOf p d = s.logicalOf p d := fun p d => by rw [State.logicalOf, hp, State.logicalOf]
  simp only [State.repeatCount, taken_ownerOf, hp, hpl, hl, taken_getF s c o F.seqPc_addr c (by decide)]
theorem execRepeat_ready (h : s.ready c w false false) (hw : bits w 0 24 = 0) (hb : bits w 24 16 ≠ 0) (hd : (s.core c).loops.length < 4)
    (hl : ∀ l, (s.core c).loops.head? = some l → s.getF F.seqPc_addr c + 8 + 8 * bits w 24 16 ≤ l.stop) :
    let start := s.getF F.seqPc_addr c + 8
    let stop := start + 8 * bits w 24 16
    exec (.repeatBody c w o) s = .next (if s.repeatCount c w = 0 then (s.taken c o).goto c stop (s.core c).loops false
      else (s.taken c o).goto c start (⟨start, stop, s.repeatCount c w⟩ :: (s.core c).loops) false) := by
  intro start stop
  have hn : ¬ (bits w 24 16 = 0 ∨ 4 ≤ (s.core c).loops.length ∨ (s.core c).loops.head?.any (fun l => decide (l.stop < stop)) = true) := by
    rw [not_or, not_or]
    refine ⟨hb, by omega, ?_⟩
    cases hh : (s.core c).loops.head? with
    | none => simp
    | some l => simpa using hl l hh
  show execRepeat c w o s = _
  rw [execRepeat, dispatch_ready h]
  dsimp only
  rw [taken_repeatCount, taken_getF s c o F.seqPc_addr c (by decide), taken_core, if_neg (not_not.2 hw), if_neg hn]
/-- A body just opened is not at its end. -/
theorem closeLoops_open (start n k : Nat) (ls : List Loop) (h : n ≠ 0) :
    closeLoops start (⟨start, start + 8 * n, k⟩ :: ls) = (start, ⟨start, start + 8 * n, k⟩ :: ls) := by
  rw [closeLoops, if_neg (by dsimp only; omega)]
theorem execRepeat_spec (h : s.ready c w false false) (hw : bits w 0 24 = 0) (hb : bits w 24 16 ≠ 0) (hd : (s.core c).loops.length < 4)
    (hl : ∀ l, (s.core c).loops.head? = some l → s.getF F.seqPc_addr c + 8 + 8 * bits w 24 16 ≤ l.stop) :
    ∃ t, exec (.repeatBody c w o) s = .next t ∧ (s.taken c o).coreOnly t c [.seqPc] ∧
      (s.repeatCount c w = 0 → s.movedOn t c (1 + bits w 24 16)) ∧
      (s.repeatCount c w ≠ 0 → t.getF F.seqPc_addr c = (s.getF F.seqPc_addr c + 8) % 2 ^ 48 ∧
        (t.core c).loops = ⟨s.getF F.seqPc_addr c + 8, s.getF F.seqPc_addr c + 8 + 8 * bits w 24 16, s.repeatCount c w⟩ :: (s.core c).loops) := by
  refine ⟨_, execRepeat_ready h hw hb hd hl, ?_⟩
  by_cases hc : s.repeatCount c w = 0
  · rw [if_pos hc]
    obtain ⟨h1, h2, h3⟩ := closeLoops_goto (s.taken c o) c (s.getF F.seqPc_addr c + 8 + 8 * bits w 24 16) (s.core c).loops false
    refine ⟨h3, fun _ => ⟨?_, ?_⟩, fun hn => absurd hc hn⟩
    · rw [h1, Nat.mul_add, ← Nat.add_assoc]
    · rw [h2, Nat.mul_add, ← Nat.add_assoc]
  · rw [if_neg hc]
    obtain ⟨h1, h2, h3⟩ := closeLoops_goto (s.taken c o) c (s.getF F.seqPc_addr c + 8)
      (⟨s.getF F.seqPc_addr c + 8, s.getF F.seqPc_addr c + 8 + 8 * bits w 24 16, s.repeatCount c w⟩ :: (s.core c).loops) false
    rw [closeLoops_open _ _ _ _ hb] at h1 h2
    exact ⟨h3, fun h0 => absurd h0 hc, fun _ => ⟨h1, by rw [h2]⟩⟩
end
/-- The buffer's next block: after the newest it holds, or that of the pc. -/
def State.nextBlock (s : State) (c : Nat) : Nat := match (s.core c).ibuf.getLast? with
  | some b => b + 1
  | none => s.getF F.seqPc_addr c / 4096
theorem execProgramFetchResponse_good (c : CoreIx) (n cycles : Nat) (s : State) (hn : n < 3) : exec (.programFetchResponse c n cycles) s =
    .next ((s.bumpF F.seqFetchStall_cycles c cycles).modCore c (fun q => { q with
      ibuf := ((s.core c).ibuf ++ [s.nextBlock c]).drop ((s.core c).ibuf.length + 1 - 16) })) := by
  show execProgramFetchResponse c n cycles s = _
  have hp : (s.bumpF F.seqFetchStall_cycles c cycles).getF F.seqPc_addr c = s.getF F.seqPc_addr c := getF_bumpF_apart _ _ _ _ _ _ (by decide)
  rw [execProgramFetchResponse]
  dsimp only
  rw [if_neg (by omega), hp]
  rfl
theorem execProgramFetchResponse_spec (c : CoreIx) (n cycles : Nat) (s : State) (hn : n < 3) :
    ∃ t, exec (.programFetchResponse c n cycles) s = .next t ∧ s.coreOnly t c [.seqFetchStall] ∧
      t.getF F.seqFetchStall_cycles c = min (s.getF F.seqFetchStall_cycles c + cycles) (2 ^ 64 - 1) ∧
      (t.core c).ibuf.getLast? = some (s.nextBlock c) ∧ (t.core c).ibuf.length = min 16 ((s.core c).ibuf.length + 1) := by
  refine ⟨_, execProgramFetchResponse_good c n cycles s hn, (setF_coreOnly s c F.seqFetchStall_cycles _).trans ((modCore_coreOnly _ c _).mono (by simp)),
    ?_, ?_, ?_⟩
  · exact getF_bumpF_same s F.seqFetchStall_cycles c cycles (by decide)
  · rw [core_modCore_same]
    dsimp only
    rw [List.getLast?_drop, if_neg (by simp only [List.length_append, List.length_singleton]; omega), List.getLast?_concat]
  · rw [core_modCore_same]
    simp only [List.length_drop, List.length_append, List.length_singleton]
    omega
/-- Settles O2. -/
theorem controlInstructionsComplete : Obligations.ControlInstructionsComplete := by
  refine ⟨fun c w o s h => ⟨fun hw => ?_, fun hw => execChkptMark_spec h hw⟩, fun c n cycles s hn => ?_, fun c w o s h hw hb hd hl => ?_⟩
  · exact ⟨_, execNop_ready h hw, taken_advance s c 1 o⟩
  · exact execProgramFetchResponse_spec c n cycles s hn
  · exact execRepeat_spec h hw hb hd hl

/-! ### WAIT_COUNT (R74, R77, R82) -/
section
variable {c : CoreIx} {w : Word} {o : Obs} {s : State}
theorem execWaitCount_ready (h : s.ready c w false false) (hw : bits w 0 16 = 0) (hk : bits w 48 8 < 64) : exec (.waitCount c w o) s =
    .next (if bits w 16 32 = 0 then ((s.taken c o).count c (bits w 48 8)).advance c 1
      else if bits w 16 32 ≤ s.getF F.seqCount_value (c * 64 + bits w 48 8) then (s.taken c o).advance c 1 else (s.taken c o).hold c w) := by
  show execWaitCount c w o s = _
  rw [execWaitCount, dispatch_ready h, if_neg (not_not.2 hw), if_neg (Nat.not_le.2 hk), taken_getF s c o _ _ (by decide)]
/-- A WAIT_COUNT with a target of zero counts at once and goes on. -/
theorem count_advance_spec (u : State) (d n : Nat) (hn : n < 64) : let t := (u.count d n).advance d 1
    u.movedOn t d 1 ∧ t.getF F.seqCount_value (d * 64 + n) = min (u.getF F.seqCount_value (d * 64 + n) + 1) (2 ^ 32 - 1) ∧
    (∀ m, m ≠ d * 64 + n → t.getF F.seqCount_value m = u.getF F.seqCount_value m) ∧ u.unitsOnly t := by
  intro t
  obtain ⟨ha, hg, -⟩ := advance_ready_facts (u.count d n) d 1
  have hm := (advance_movedOn (u.count d n) d 1).1
  have hp : (u.count d n).getF F.seqPc_addr d = u.getF F.seqPc_addr d := congrArg (bits · _ _) (count_reg u d n .seqPc d (by decide))
  refine ⟨?_, ?_, fun m hmn => ?_, (count_unitsOnly u d n).trans ha⟩
  · rwa [State.movedOn, count_core, hp] at hm
  · rw [hg _ _ (by decide)]
    exact getF_count u d n hn
  · rw [hg _ _ (by decide), State.count, if_pos hn]
    exact getF_setF_unit u _ _ _ hmn
end
/-- Settles O3. -/
theorem waitCountWaits : Obligations.WaitCountWaits := by
  refine ⟨fun c w o s h hw hk => ?_, fun c w w1 w2 w3 w4 h o s hr hh hn i hi => ?_⟩
  · have he := execWaitCount_ready (o := o) h hw hk
    refine ⟨fun hv => ?_, fun hv h0 => ?_, fun h0 => ?_⟩
    · rw [if_neg (by omega), if_neg (by omega)] at he
      exact ⟨_, he, by rw [State.hold, core_modCore_same], modCore_coreOnly ..⟩
    · rw [if_neg h0, if_pos hv] at he
      exact ⟨_, he, taken_advance s c 1 o⟩
    · rw [if_pos h0] at he
      obtain ⟨h1, h2, h3, h4⟩ := count_advance_spec (s.taken c o) c _ hk
      have hg := fun n => taken_getF s c o F.seqCount_value n (by decide)
      rw [hg] at h2
      exact ⟨_, he, movedOn_of_taken h1, h2, fun n hnk => (h3 n hnk).trans (hg n), sameMemory_trans (taken_memory s c o) h4.memory,
        h4.net.trans (taken_coreOnly s c o).net, (unitsOnly_ctl h4).trans (taken_coreOnly s c o).ctl⟩
  · obtain ⟨e, d, k, he⟩ := exec_unitInstr hi s
    rw [he, dispatch_behind o e d k hh hn]

/-! ### SETR (R92) -/
/-- The register a SETR may write is one of five, and none that a dispatch or a step past the instruction writes. -/
theorem schedReg_apart {off : Nat} {r : Reg} (h : schedReg off = some r) : r ≠ .seqPc ∧ r ≠ .seqFetchStall := by
  unfold schedReg at h
  split at h <;> cases h <;> decide
theorem execSetr_ready {c : CoreIx} {w : Word} {o : Obs} {s : State} (h : s.ready c w false true) (hw : bits w 32 11 = 0) : exec (.setr c w o) s =
    .next (match schedReg (8 * bits w 43 13) with
      | none => (s.taken c o).instrFault c 5
      | some r => ((s.taken c o).setReg r c (BitVec.ofNat 64 (bits w 0 32 &&& r.mask))).advance c 1) := by
  show execSetr c w o s = _
  rw [execSetr, dispatch_ready h, if_neg (not_not.2 hw)] <;> rfl
/-- A register written, then the step past the instruction. -/
theorem setReg_advance (u : State) (c : Nat) (r : Reg) (v : Word) (h : r ≠ .seqPc) : let t := (u.setReg r c v).advance c 1
    t.reg r c = v ∧ u.movedOn t c 1 ∧ u.coreOnly t c [.seqPc, r] := by
  intro t
  obtain ⟨h1, h2⟩ := advance_movedOn (u.setReg r c v) c 1
  refine ⟨?_, ?_, ((setReg_coreOnly u c r v).mono (by simp)).trans (h2.mono (by simp))⟩
  · rw [(h2.2.1 r c).resolve_right (fun e => h (by simpa using e.2)), reg_setReg_same]
  · rwa [State.movedOn, getF_setReg_ne _ _ _ _ _ (Or.inl (Ne.symm h)), State.setReg_core] at h1
theorem execSetr_unassigned {c : CoreIx} {w : Word} {o : Obs} {s : State} (h : s.ready c w false true) (hw : bits w 32 11 = 0)
    (hr : schedReg (8 * bits w 43 13) = none) : ∃ t, exec (.setr c w o) s = .next t ∧ s.faultedWith t c 5 := by
  refine ⟨_, execSetr_ready h hw, ?_⟩
  rw [hr]
  exact taken_instrFault s c 5 o (by decide)
theorem fetchWait_coreOnly (s : State) (c : Nat) (o : Obs) : s.coreOnly (s.fetchWait c o) c [.seqFetchStall] := by
  unfold State.fetchWait
  exact iteInduction (motive := fun t => s.coreOnly t c [.seqFetchStall]) (fun _ => .refl s c _) (fun _ => setF_coreOnly s c F.seqFetchStall_cycles _)
/-- Settles O4. -/
theorem setrWritesScheduleRegisters : Obligations.SetrWritesScheduleRegisters := by
  refine ⟨fun c w o s hr hh hd => ?_, fun c w o s h hw => ⟨fun r hr => ?_, fun hr => execSetr_unassigned h hw hr⟩, fun off hoff => ?_⟩
  · refine ⟨_, congrArg Outcome.next (dispatch_undrained o false _ hr hh hd), (fetchWait_coreOnly s c o).trans ((modCore_coreOnly _ c _).mono (by simp)), ?_⟩
    rw [State.hold, core_modCore_same, fetchWait_core]
  · have he := execSetr_ready (o := o) h hw
    rw [hr] at he
    obtain ⟨h1, h2, h3⟩ := setReg_advance (s.taken c o) c r (BitVec.ofNat 64 (bits w 0 32 &&& r.mask)) (schedReg_apart hr).1
    exact ⟨_, he, h1, movedOn_of_taken h2, h3⟩
  · unfold schedReg
    split
    case h_1 => rfl
    case h_6 h _ _ _ _ => exact (if_neg h).symm
    all_goals omega

/-! ### Instruction faults (R107) -/
theorem bumpF_zero_faulted {s t : State} {c k : Nat} (f : RF) (h : (s.bumpF f c 0).faultedWith t c k) (hf : f.reg ≠ .seqPc) (hf' : f.reg ≠ .seqFault) :
    s.faultedWith t c k := by
  obtain ⟨h1, h2, h3, h4, h5⟩ := h
  have hg : ∀ g : RF, g.reg ≠ f.reg → (s.bumpF f c 0).getF g c = s.getF g c := fun g hg => getF_setF_ne _ _ _ _ _ _ hg
  rw [hg F.seqPc_addr (Ne.symm hf)] at h2 h3
  rw [hg F.seqFault_valid (Ne.symm hf')] at h3 h4
  rw [State.bumpF, reg_setF_ne _ _ _ _ _ (Or.inl (Ne.symm hf'))] at h4
  exact ⟨h1, h2, h3, h4, h5⟩
/-- Settles O7. -/
theorem instructionFaultsStop : Obligations.InstructionFaultsStop := by
  refine ⟨fun c w o s => ⟨fun h hw => ?_, fun h hw hk => ?_, execSetr_unassigned, fun h hw ha => ?_, fun h hw hk => ?_, fun n hn => ?_⟩,
    fun c w w1 w2 w3 w4 o s hr hh hd ha hb i hi => ?_⟩
  · refine ⟨_, congrArg Outcome.next (dispatch_ready h), ?_⟩
    rw [if_pos hw]
    exact taken_instrFault s c 1 o (by decide)
  · refine ⟨_, congrArg Outcome.next (dispatch_ready h), ?_⟩
    rw [if_neg (not_not.2 hw), if_pos hk]
    exact taken_instrFault s c 2 o (by decide)
  · refine ⟨_, congrArg Outcome.next (dispatch_ready h), ?_⟩
    rw [if_neg (not_not.2 hw), taken_core, if_pos (by simp [ha])]
    exact taken_instrFault s c 6 o (by decide)
  · refine ⟨_, congrArg Outcome.next (dispatch_ready h), ?_⟩
    rw [if_neg (not_not.2 hw), if_pos hk]
    exact taken_instrFault s c 7 o (by decide)
  · refine ⟨(s.bumpF F.seqFetchStall_cycles c 0).instrFault c 8, congrArg Outcome.next (if_pos hn), ?_⟩
    exact bumpF_zero_faulted _ (instrFault_faulted _ c 8 (by decide)) (by decide) (by decide)
  · have hi' : i ∈ unitInstrs c w w1 w2 w3 w4 o := by
      simp only [List.mem_cons, List.not_mem_nil, or_false] at hi ⊢
      tauto
    obtain ⟨e, d, k, he⟩ := exec_unitInstr hi' s
    exact ⟨_, he.trans (congrArg _ (dispatch_reserved o e d k hr hh hd ha hb)), taken_instrFault s c 1 o (by decide)⟩

end Sys2Proof.Machine
end

section
/-! SUPPORT. Epochs, forecasts and a core's arrival at a barrier (R83, R88, R93, R94, R100, R335), and the settling of O5 and O6. -/
namespace Sys2Proof.Machine
open Host

/-! ### The close of an epoch (R83, R335) -/
theorem closeEpoch_core (s : State) (c : Nat) : (s.closeEpoch c).core c = { s.core c with
    verdicts := (s.core c).verdicts ++ [(s.getF F.seqUstep_epoch c, (s.core c).epochFail.isNone)], epochFail := none, digest := 0
    epochEnd := (s.core c).epochEnd ++ [(s.getF F.seqUstep_epoch c, (s.core c).nextSeq)] } := by
  rw [State.closeEpoch, State.setF_core, State.setF_core, core_modCore_same]
theorem closeEpoch_coreOnly (s : State) (c : Nat) : s.coreOnly (s.closeEpoch c) c [.seqUstep, .intDigest] :=
  (((modCore_coreOnly s c _).mono (by simp)).trans ((setF_coreOnly _ c F.seqUstep_epoch _).mono (by decide))).trans
    ((setF_coreOnly _ c F.intDigest_crc 0).mono (by decide))
theorem closeEpoch_ustep (s : State) (c : Nat) : (s.closeEpoch c).getF F.seqUstep_epoch c = (s.getF F.seqUstep_epoch c + 1) % 2 ^ 16 ∧
    (s.closeEpoch c).getF F.seqUstep_number c = s.getF F.seqUstep_number c := by
  unfold State.closeEpoch
  dsimp only
  constructor
  · rw [getF_setF_apart _ F.intDigest_crc _ _ _ _ (by decide), getF_setF_same _ F.seqUstep_epoch _ _ (by decide)]
    exact Nat.mod_mod _ _
  · rw [getF_setF_apart _ F.intDigest_crc _ _ _ _ (by decide), getF_setF_apart _ F.seqUstep_epoch _ _ _ _ (by decide)]
    rfl

/-! ### PROOF (R83) -/
/-- A counter counts where the instruction names one. -/
def State.countIf (s : State) (c n : Nat) (b : Bool) : State := if b then s.count c n else s
theorem countIf_facts (s : State) (c n : Nat) (b : Bool) (hn : n < 64) : let t := s.countIf c n b
    s.unitsOnly t ∧ (∀ d, t.core d = s.core d) ∧ (∀ g i, g.reg ≠ .seqCount → t.getF g i = s.getF g i) ∧
    (b = true → t.getF F.seqCount_value (c * 64 + n) = min (s.getF F.seqCount_value (c * 64 + n) + 1) (2 ^ 32 - 1)) ∧
    ∀ m, (b = true → m ≠ c * 64 + n) → t.getF F.seqCount_value m = s.getF F.seqCount_value m := by
  cases b with
  | false => exact ⟨rfl, fun _ => rfl, fun _ _ _ => rfl, nofun, fun _ _ => rfl⟩
  | true =>
    refine ⟨count_unitsOnly s c n, count_core s c n, fun g i h => congrArg (bits · g.lo g.len) (count_reg s c n g.reg i h),
      fun _ => getF_count s c n hn, fun m hm => ?_⟩
    show (s.count c n).getF _ m = _
    rw [State.count, if_pos hn]
    exact getF_setF_unit s _ _ _ (hm rfl)
theorem execProof_ready {c : CoreIx} {w : Word} {o : Obs} {s : State} (h : s.ready c w false false) (hw : bits w 0 47 = 0) (hk : bits w 48 8 < 64)
    (h0 : bit w 47 = false → bits w 48 8 = 0) : exec (.proof c w o) s =
    .next ((((s.taken c o).closeEpoch c).countIf c (bits w 48 8) (bit w 47)).advance c 1) := by
  have h1 : ¬ (bits w 0 47 ≠ 0 ∨ (¬ bit w 47 = true ∧ bits w 48 8 ≠ 0)) := by
    rw [not_or]
    exact ⟨not_not.2 hw, fun ⟨a, b⟩ => b (h0 (by simpa using a))⟩
  show execProof c w o s = _
  rw [execProof, dispatch_ready h]
  dsimp only
  rw [if_neg h1, if_neg (by omega)]
  rfl
/-- Counting where it is told to, then going past the instruction. -/
theorem countIf_advance_facts (v : State) (c n : Nat) (b : Bool) (hn : n < 64) : let t := (v.countIf c n b).advance c 1
    v.movedOn t c 1 ∧ (∀ g i, g.reg ≠ .seqPc → g.reg ≠ .seqCount → t.getF g i = v.getF g i) ∧ (t.core c).verdicts = (v.core c).verdicts ∧
    (t.core c).epochFail = (v.core c).epochFail ∧
    (b = true → t.getF F.seqCount_value (c * 64 + n) = min (v.getF F.seqCount_value (c * 64 + n) + 1) (2 ^ 32 - 1)) ∧
    (∀ m, (b = true → m ≠ c * 64 + n) → t.getF F.seqCount_value m = v.getF F.seqCount_value m) ∧ v.sameMemory t := by
  intro t
  obtain ⟨c1, c2, c3, c4, c5⟩ := countIf_facts v c n b hn
  have ht : t = (v.countIf c n b).advance c 1 := rfl
  clear_value t
  generalize v.countIf c n b = u at *
  obtain ⟨a1, a2, a3⟩ := advance_ready_facts u c 1
  have am := (advance_movedOn u c 1).1
  rw [← ht] at a1 a2 a3 am
  clear ht
  rw [State.movedOn, c3 _ _ (by decide), c2] at am
  refine ⟨am, fun g i h1 h2 => (a2 g i h1).trans (c3 g i h2), by rw [a3, c2], by rw [a3, c2], fun hb => ?_, fun m hm => ?_,
    sameMemory_trans c1.memory a1.memory⟩
  · rw [a2 _ _ (by decide), c4 hb]
  · rw [a2 _ _ (by decide), c5 m hm]
/-- A core that closes its epoch, counts where it is told to, and goes past the instruction. -/
theorem closeEpoch_count_advance (u : State) (c n : Nat) (b : Bool) (hn : n < 64) : let t := ((u.closeEpoch c).countIf c n b).advance c 1
    u.movedOn t c 1 ∧ t.getF F.seqUstep_epoch c = (u.getF F.seqUstep_epoch c + 1) % 2 ^ 16 ∧
    t.getF F.seqUstep_number c = u.getF F.seqUstep_number c ∧
    (t.core c).verdicts = (u.core c).verdicts ++ [(u.getF F.seqUstep_epoch c, (u.core c).epochFail.isNone)] ∧ (t.core c).epochFail = none ∧
    (b = true → t.getF F.seqCount_value (c * 64 + n) = min (u.getF F.seqCount_value (c * 64 + n) + 1) (2 ^ 32 - 1)) ∧
    (∀ m, (b = true → m ≠ c * 64 + n) → t.getF F.seqCount_value m = u.getF F.seqCount_value m) ∧ u.sameMemory t := by
  intro t
  obtain ⟨a1, a2, a3, a4, a5, a6, a7⟩ := countIf_advance_facts (u.closeEpoch c) c n b hn
  have k1 := closeEpoch_coreOnly u c
  have kc := closeEpoch_core u c
  obtain ⟨k2, k3⟩ := closeEpoch_ustep u c
  change (u.closeEpoch c).movedOn t c 1 at a1
  change ∀ g i, g.reg ≠ .seqPc → g.reg ≠ .seqCount → t.getF g i = _ at a2
  change (t.core c).verdicts = _ at a3
  change (t.core c).epochFail = _ at a4
  change b = true → t.getF _ _ = _ at a5
  change ∀ m, _ → t.getF _ m = _ at a6
  change (u.closeEpoch c).sameMemory t at a7
  clear_value t
  generalize u.closeEpoch c = v at *
  rw [State.movedOn, k1.getF _ _ (by decide), kc] at a1
  refine ⟨a1, (a2 _ _ (by decide) (by decide)).trans k2, (a2 _ _ (by decide) (by decide)).trans k3, by rw [a3, kc], by rw [a4, kc], fun hb => ?_,
    fun m hm => ?_, sameMemory_trans k1.memory a7⟩
  · rw [a5 hb, k1.getF _ _ (by decide)]
  · rw [a6 m hm, k1.getF _ _ (by decide)]

/-! ### FORECAST (R88, R456) -/
/-- What goes onto the control net depends on what stands there alone. -/
theorem send_ctl_congr {s t : State} (hc : t.ctl = s.ctl) (hf : t.fab = s.fab) (m : CtlMsg) (p d q : Nat) : (t.send m p d q).ctl = (s.send m p d q).ctl := by
  simp only [State.send, hc, hf]
theorem State.coreOnly.send {s t : State} {c : Nat} {l : List Reg} (h : s.coreOnly t c l) (m : CtlMsg) (p d q : Nat) :
    (t.send m p d q).ctl = (s.send m p d q).ctl := send_ctl_congr h.ctl (by rw [h.1]) m p d q
/-- An announced level stands as pending, behind those that were. -/
def State.announceLevel (s : State) (c l : Nat) : State :=
  (s.setF F.seqForecast_pending c l).modCore c (fun q => { q with forecasts := q.forecasts ++ [l] })
theorem announceLevel_coreOnly (s : State) (c l : Nat) : s.coreOnly (s.announceLevel c l) c [.seqForecast] :=
  (setF_coreOnly s c F.seqForecast_pending l).trans ((modCore_coreOnly _ c _).mono (by simp))
theorem execForecast_ready {c : CoreIx} {w : Word} {o : Obs} {s : State} (h : s.ready c w false false) (hw : bits w 0 48 = 0) (hr : bits w 55 1 = 0)
    (hl : bits w 48 7 ≤ 64) : exec (.forecast c w o) s = .next ((((s.taken c o).announceLevel c (bits w 48 7)).send (.forecastNote (bits w 48 7))
      ((s.ownerOf c).getD 255) (0x1100 + 8 * (c.val / 512) + c.val % 64 / 8) c).advance c 1) := by
  have ho : ((s.taken c o).announceLevel c (bits w 48 7)).ownerOf c = s.ownerOf c :=
    ((announceLevel_coreOnly _ c _).ownerOf c).trans (taken_ownerOf s c c o)
  show execForecast c w o s = _
  rw [execForecast, dispatch_ready h]
  dsimp only
  rw [if_neg (by omega), ← ho]
  rfl
theorem execForecast_spec {c : CoreIx} {w : Word} {o : Obs} {s : State} (h : s.ready c w false false) (hw : bits w 0 48 = 0) (hr : bits w 55 1 = 0)
    (hl : bits w 48 7 ≤ 64) : ∃ t, exec (.forecast c w o) s = .next t ∧ s.movedOn t c 1 ∧ t.getF F.seqForecast_pending c = bits w 48 7 ∧
      t.getF F.seqForecast_matured c = s.getF F.seqForecast_matured c ∧ (t.core c).forecasts = (s.core c).forecasts ++ [bits w 48 7] ∧
      t.ctl = (s.send (.forecastNote (bits w 48 7)) ((s.ownerOf c).getD 255) (0x1100 + 8 * (c.val / 512) + c.val % 64 / 8) c).ctl ∧
      t.net = s.net ∧ s.sameMemory t := by
  refine ⟨_, execForecast_ready h hw hr hl, ?_⟩
  have hp : ((s.taken c o).announceLevel c (bits w 48 7)).getF F.seqForecast_pending c = bits w 48 7 :=
    (getF_setF_same _ F.seqForecast_pending _ _ (by decide)).trans (Nat.mod_eq_of_lt (show _ < 2 ^ 7 by omega))
  have hm : ((s.taken c o).announceLevel c (bits w 48 7)).getF F.seqForecast_matured c = s.getF F.seqForecast_matured c :=
    (getF_setF_apart _ F.seqForecast_pending _ _ _ _ (by decide)).trans (taken_getF s c o _ _ (by decide))
  have hc : ((s.taken c o).announceLevel c (bits w 48 7)).core c =
      { s.core c with held := none, forecasts := (s.core c).forecasts ++ [bits w 48 7] } := by
    rw [State.announceLevel, core_modCore_same, State.setF_core, taken_core]
  have hu : s.coreOnly ((s.taken c o).announceLevel c (bits w 48 7)) c [.seqFetchStall, .seqForecast] :=
    ((taken_coreOnly s c o).mono (by simp)).trans ((announceLevel_coreOnly _ c _).mono (by simp))
  generalize (s.taken c o).announceLevel c (bits w 48 7) = u at *
  have hs := hu.send (.forecastNote (bits w 48 7)) ((s.ownerOf c).getD 255) (0x1100 + 8 * (c.val / 512) + c.val % 64 / 8) c
  have hv := send_faultOnly u (.forecastNote (bits w 48 7)) ((s.ownerOf c).getD 255) (0x1100 + 8 * (c.val / 512) + c.val % 64 / 8) c
  have hvc : (u.send (.forecastNote (bits w 48 7)) ((s.ownerOf c).getD 255) (0x1100 + 8 * (c.val / 512) + c.val % 64 / 8) c).core c = u.core c := rfl
  have hvn : (u.send (.forecastNote (bits w 48 7)) ((s.ownerOf c).getD 255) (0x1100 + 8 * (c.val / 512) + c.val % 64 / 8) c).net = u.net := rfl
  generalize u.send _ _ _ _ = v at *
  obtain ⟨a1, a2, a3⟩ := advance_ready_facts v c 1
  have am := (advance_movedOn v c 1).1
  refine ⟨?_, ?_, ?_, ?_, (unitsOnly_ctl a1).trans hs, a1.net.trans (hvn.trans hu.net), sameMemory_trans hu.memory (sameMemory_trans hv.memory a1.memory)⟩
  · rwa [State.movedOn, hv.getF _ _ (by decide), hu.getF _ _ (by decide), hvc, hc] at am
  · rw [a2 _ _ (by decide), hv.getF _ _ (by decide), hp]
  · rw [a2 _ _ (by decide), hv.getF _ _ (by decide), hm]
  · rw [a3, hvc, hc]
theorem execForecastMatures_spec (c : CoreIx) (s : State) (l : Nat) (ls : List Nat) (h : (s.core c).forecasts = l :: ls) (hl : l ≤ 64) :
    ∃ t, exec (.forecastMatures c) s = .next t ∧ t.getF F.seqForecast_matured c = l ∧ (t.core c).forecasts = ls ∧
      (ls ≠ [] → t.getF F.seqForecast_pending c = s.getF F.seqForecast_pending c) ∧ s.coreOnly t c [.seqForecast] := by
  let u := (s.modCore c (fun q => { q with forecasts := ls })).setF F.seqForecast_matured c l
  have he : exec (.forecastMatures c) s = .next (if ls.isEmpty then u.setF F.seqForecast_pending c 0 else u) := by
    show execForecastMatures c s = _
    rw [execForecastMatures, h]
  have hu : s.coreOnly u c [.seqForecast] := ((modCore_coreOnly s c _).mono (by simp)).trans (setF_coreOnly _ c F.seqForecast_matured l)
  have hm : u.getF F.seqForecast_matured c = l :=
    (getF_setF_same _ F.seqForecast_matured _ _ (by decide)).trans (Nat.mod_eq_of_lt (show _ < 2 ^ 7 by omega))
  have hf : (u.core c).forecasts = ls := by rw [State.setF_core, core_modCore_same]
  have hp : u.getF F.seqForecast_pending c = s.getF F.seqForecast_pending c := getF_setF_apart _ F.seqForecast_matured _ _ _ _ (by decide)
  clear_value u
  refine ⟨_, he, ?_⟩
  cases ls with
  | nil => exact ⟨(getF_setF_apart _ F.seqForecast_pending _ _ _ _ (by decide)).trans hm, hf, nofun, hu.trans (setF_coreOnly u c F.seqForecast_pending 0)⟩
  | cons a ls => exact ⟨hm, hf, fun _ => hp, hu⟩
/-- Settles O5. -/
theorem epochsAndForecasts : Obligations.EpochsAndForecasts := by
  refine ⟨fun c w o s => ⟨fun h hw hk h0 => ?_, ?_⟩, fun c w o s => ⟨execForecast_spec, execForecastMatures_spec c s⟩⟩
  · obtain ⟨h1, h2, h3, h4, h5, h6, h7, h8⟩ := closeEpoch_count_advance (s.taken c o) c (bits w 48 8) (bit w 47) hk
    simp only [taken_getF s c o F.seqUstep_epoch c (by decide), taken_getF s c o F.seqUstep_number c (by decide),
      taken_getF s c o F.seqCount_value _ (by decide), taken_core] at h2 h3 h4 h6 h7
    exact ⟨_, execProof_ready h hw hk h0, movedOn_of_taken h1, h2, h3, h4, h5, h6, h7, sameMemory_trans (taken_memory s c o) h8⟩
  · refine ⟨(s.closeEpoch c).bumpF F.intEpoch_auto_closes c 1, rfl, ?_, by rw [State.bumpF_core, closeEpoch_core], ?_,
      ((closeEpoch_coreOnly s c).mono (by simp)).trans ((setF_coreOnly _ c F.intEpoch_auto_closes _).mono (by decide))⟩
    · rw [getF_bumpF_apart _ F.intEpoch_auto_closes _ _ _ _ (by decide)]
      exact (closeEpoch_ustep s c).1
    · rw [getF_bumpF_same _ _ _ _ (by decide), (closeEpoch_coreOnly s c).getF _ _ (by decide)]
      rfl

/-! ### Arrivals (R93, R94, R100) -/
/-- A core waiting at a barrier. -/
def State.waitAt (s : State) (c : Nat) (b : Bool × Nat × Nat) : State :=
  (s.setF F.seqStatus_state c stWaiting).modCore c (fun q => { q with atBar := some b })
theorem waitAt_coreOnly (s : State) (c : Nat) (b : Bool × Nat × Nat) : s.coreOnly (s.waitAt c b) c [.seqStatus] :=
  (setF_coreOnly s c F.seqStatus_state stWaiting).trans ((modCore_coreOnly _ c _).mono (by simp))
/-- What an arrival leaves: the core waits, its message is out with its mark where the barrier closes a micro-step, and nothing else has
changed. -/
theorem arrive_spec (s : State) (c : Nat) (isStep : Bool) (tag group : Nat) : let t := s.arrive c isStep tag group
    t.getF F.seqStatus_state c = stWaiting ∧
    t.ctl = (s.send (.barArrive tag 1 false isStep group (if isStep then (s.core c).mark else none)) ((s.ownerOf c).getD 255) stewardNode c).ctl ∧
    (∀ g i, g.reg ≠ .seqStatus → t.getF g i = s.getF g i) ∧ s.sameMemory t := by
  intro t
  let u := s.waitAt c (isStep, tag, group)
  have hu : s.coreOnly u c [.seqStatus] := waitAt_coreOnly ..
  have hm : (u.core c).mark = (s.core c).mark := by
    show ((s.waitAt c (isStep, tag, group)).core c).mark = _
    rw [State.waitAt, core_modCore_same]
    rfl
  have hw : u.getF F.seqStatus_state c = stWaiting := (getF_setF_same _ F.seqStatus_state c stWaiting (by decide)).trans (by decide)
  have ht : t = u.send (.barArrive tag 1 false isStep group (if isStep then (u.core c).mark else none)) ((u.ownerOf c).getD 255) stewardNode c := rfl
  clear_value u t
  rw [hm, hu.ownerOf] at ht
  subst ht
  exact ⟨hw, hu.send .., fun g i h => hu.getF g i (by simpa using h), hu.memory⟩
/-- A micro-step over its limit is marked and reported: what that leaves alone. -/
theorem overrunCheck_facts (s : State) (c : Nat) : let t := s.overrunCheck c
    (∀ g i, g.reg ∉ faultRegs → t.getF g i = s.getF g i) ∧ t.now = s.now ∧ s.sameMemory t ∧ (∀ d, t.ownerOf d = s.ownerOf d) ∧
    ∀ d, t.core d = { s.core d with state := (t.core d).state, epochFail := (t.core d).epochFail, overrun := (t.core d).overrun } := by
  intro t
  have hm : ∀ d, (s.modCore c (fun q => { q with overrun := true })).core d =
      { s.core d with overrun := ((s.modCore c (fun q => { q with overrun := true })).core d).overrun } := fun d => by
    by_cases hd : d = c
    · subst hd
      rw [core_modCore_same]
    · rw [core_modCore_ne _ _ hd]
  have hf := fault_faultOnly (s.modCore c (fun q => { q with overrun := true })) c .ustepOverrun 0
  have ht : t = if (s.core c).overrun = true ∨ s.now - (s.core c).releasedAt ≤ 100 * s.getF F.seqUstepLimit_limit c then s
    else (s.modCore c (fun q => { q with overrun := true })).fault c .ustepOverrun 0 := rfl
  clear_value t
  split at ht
  · subst ht
    exact ⟨fun _ _ _ => rfl, rfl, ⟨rfl, rfl, rfl, rfl, rfl, rfl⟩, fun _ => rfl, fun _ => rfl⟩
  · rw [← ht] at hf
    refine ⟨fun g i h => hf.getF g i h, by rw [hf.1]; rfl, hf.memory, fun d => by rw [hf.1]; rfl, fun d => ?_⟩
    rw [hf.2.2.2 d, hm d]
/-- A core at a STEP barrier: overrun checked, epoch closed, micro-step measured. -/
def State.closeMicroStep (s : State) (c : Nat) : State :=
  let t := (s.overrunCheck c).closeEpoch c
  t.setF F.seqUstepTime_longest c (max (t.getF F.seqUstepTime_longest c) (min ((t.now - (t.core c).releasedAt) / 100) (2 ^ 20 - 1)))
theorem closeMicroStep_spec (s : State) (c : Nat) :
    (s.closeMicroStep c).getF F.seqUstep_epoch c = (s.getF F.seqUstep_epoch c + 1) % 2 ^ 16 ∧
    (s.closeMicroStep c).getF F.seqUstepTime_longest c =
      max (s.getF F.seqUstepTime_longest c) (min ((s.now - (s.core c).releasedAt) / 100) (2 ^ 20 - 1)) ∧
    ((s.closeMicroStep c).core c).mark = (s.core c).mark ∧ (s.closeMicroStep c).ctl = (s.overrunCheck c).ctl ∧
    (s.closeMicroStep c).fab = (s.overrunCheck c).fab ∧ s.sameMemory (s.closeMicroStep c) ∧
    ∀ d, (s.closeMicroStep c).ownerOf d = s.ownerOf d := by
  obtain ⟨v1, v2, v3, v4, v5⟩ := overrunCheck_facts s c
  have hlt : s.getF F.seqUstepTime_longest c < 2 ^ 20 := getF_lt s F.seqUstepTime_longest c
  have hx : max (s.getF F.seqUstepTime_longest c) (min ((s.now - (s.core c).releasedAt) / 100) (2 ^ 20 - 1)) < 2 ^ 20 :=
    max_lt hlt (lt_of_le_of_lt (min_le_right _ _) (by norm_num))
  rw [State.closeMicroStep]
  generalize s.overrunCheck c = v at *
  have k1 := closeEpoch_coreOnly v c
  have k2 := closeEpoch_core v c
  obtain ⟨k3, -⟩ := closeEpoch_ustep v c
  generalize v.closeEpoch c = y at *
  have hl : y.getF F.seqUstepTime_longest c = s.getF F.seqUstepTime_longest c := (k1.getF _ _ (by decide)).trans (v1 _ _ (by decide))
  have hr : (y.core c).releasedAt = (s.core c).releasedAt := by rw [k2, v5]
  have hm : (y.core c).mark = (s.core c).mark := by rw [k2, v5]
  rw [hl, hr, k1.now, v2]
  generalize max (s.getF F.seqUstepTime_longest c) (min ((s.now - (s.core c).releasedAt) / 100) (2 ^ 20 - 1)) = x at *
  have k4 := setF_coreOnly y c F.seqUstepTime_longest x
  have k5 := getF_setF_apart y F.seqUstepTime_longest F.seqUstep_epoch c c x (by decide)
  have k6 := getF_setF_same y F.seqUstepTime_longest c x (by decide)
  have k7 := State.setF_core y F.seqUstepTime_longest c x
  have k8 := State.setF_fab y F.seqUstepTime_longest c x
  generalize y.setF F.seqUstepTime_longest c x = z at *
  refine ⟨?_, k6.trans (Nat.mod_eq_of_lt hx), (congrArg CoreSt.mark (k7 c)).trans hm, k4.ctl.trans k1.ctl, k8.trans (by rw [k1.1]),
    sameMemory_trans v3 (sameMemory_trans k1.memory k4.memory), fun d => ((k4.ownerOf d).trans (k1.ownerOf d)).trans (v4 d)⟩
  rw [k5, k3, v1 _ _ (by decide)]
theorem execBarrierStep_ready {c : CoreIx} {w : Word} {o : Obs} {s : State} (h : s.ready c w false true) (hw : bits w 0 30 = 0) (hr : bits w 46 8 = 0)
    (ht : (s.core c).tags = []) : exec (.barrierStep c w o) s = .next (((s.taken c o).closeMicroStep c).arrive c true (bits w 30 16) 0) := by
  show execBarrierStep c w o s = _
  rw [execBarrierStep, dispatch_ready h, if_neg (not_not.2 hw), if_neg (not_not.2 hr), taken_core, if_neg (by simp [ht])]
  rfl
/-- Settles O6. -/
theorem barriersArrive : Obligations.BarriersArrive := by
  refine fun c w o s => ⟨fun h hw => ?_, fun h hw hg htags => ?_⟩
  · obtain ⟨a1, a2, a3, a4⟩ := arrive_spec (s.taken c o) c false 0 (bits w 46 8)
    refine ⟨(s.taken c o).arrive c false 0 (bits w 46 8), ?_, a1, ?_, ?_, fun n => ?_, sameMemory_trans (taken_memory s c o) a4⟩
    · show execBarrierGroup c w o s = _
      rw [execBarrierGroup, dispatch_ready h, if_neg (not_not.2 hw)]
    · rw [a2, taken_ownerOf]
      exact (taken_coreOnly s c o).send ..
    · rw [a3 _ _ (by decide), taken_getF s c o _ _ (by decide)]
    · rw [a3 _ _ (by decide), taken_getF s c o _ _ (by decide)]
  · intro v
    obtain ⟨m1, m2, m3, m4, m5, m6, m7⟩ := closeMicroStep_spec (s.taken c o) c
    obtain ⟨a1, a2, a3, a4⟩ := arrive_spec ((s.taken c o).closeMicroStep c) c true (bits w 30 16) 0
    have hm : ((s.taken c o).core c).mark = (s.core c).mark := by rw [taken_core]
    have hr : ((s.taken c o).core c).releasedAt = (s.core c).releasedAt := by rw [taken_core]
    refine ⟨_, execBarrierStep_ready h hw hg htags, a1, ?_, ?_, ?_, sameMemory_trans (taken_memory s c o) (sameMemory_trans m6 a4)⟩
    · rw [a3 _ _ (by decide), m1, taken_getF s c o _ _ (by decide)]
    · rw [a3 _ _ (by decide), m2, taken_getF s c o _ _ (by decide), hr, (taken_coreOnly s c o).now]
    · rw [a2, m3, hm, m7, taken_ownerOf]
      exact send_ctl_congr m4 m5 ..

end Sys2Proof.Machine
end

section
/-! SUPPORT. What events, host answers and the fault policy leave alone (R346, R378, R393, R400), and the settling of O54 and O55. -/
namespace Sys2Proof.Machine
open Host

/-! ### Events (R400) -/
/-- Nothing differs but records on their way to the controllers, behind those that were. -/
def State.eventOnly (s t : State) : Prop := t = { s with evSeq := t.evSeq, evNet := t.evNet } ∧ s.evNet <+: t.evNet
theorem State.eventOnly.refl (s : State) : s.eventOnly s := ⟨rfl, List.prefix_rfl⟩
theorem State.eventOnly.trans {s t u : State} (h : s.eventOnly t) (k : t.eventOnly u) : s.eventOnly u := by
  obtain ⟨h1, h2⟩ := h
  obtain ⟨k1, k2⟩ := k
  exact ⟨by rw [k1, h1], h2.trans k2⟩
theorem record_eventOnly (s : State) (e : Ev) (src k p d : Nat) : s.eventOnly (s.record e src k p d) := ⟨rfl, List.prefix_append _ _⟩
theorem recordIf_eventOnly (s : State) (b : Bool) (e : Ev) (src k p d : Nat) : s.eventOnly (if b then s.record e src k p d else s) :=
  iteInduction (fun _ => record_eventOnly ..) (fun _ => .refl s)
theorem raise_eventOnly (s : State) (e : Ev) (src : Nat) (p : Option Nat) (d : Nat) : s.eventOnly (s.raise e src p d) := by
  cases p with
  | none => exact recordIf_eventOnly ..
  | some k => exact (recordIf_eventOnly ..).trans (recordIf_eventOnly ..)
section
variable (s : State) (e : Ev) (src : Nat) (p : Option Nat) (d : Nat)
theorem raise_evNet : s.evNet <+: (s.raise e src p d).evNet := (raise_eventOnly ..).2
@[simp] theorem raise_regs : (s.raise e src p d).regs = s.regs := by rw [(raise_eventOnly ..).1]
@[simp] theorem raise_cores : (s.raise e src p d).cores = s.cores := by rw [(raise_eventOnly ..).1]
@[simp] theorem raise_parts : (s.raise e src p d).parts = s.parts := by rw [(raise_eventOnly ..).1]
@[simp] theorem raise_sites : (s.raise e src p d).sites = s.sites := by rw [(raise_eventOnly ..).1]
@[simp] theorem raise_fns : (s.raise e src p d).fns = s.fns := by rw [(raise_eventOnly ..).1]
@[simp] theorem raise_image : (s.raise e src p d).image = s.image := by rw [(raise_eventOnly ..).1]
@[simp] theorem raise_ctl : (s.raise e src p d).ctl = s.ctl := by rw [(raise_eventOnly ..).1]
@[simp] theorem raise_now : (s.raise e src p d).now = s.now := by rw [(raise_eventOnly ..).1]
@[simp] theorem raise_reg (r : Reg) (i : Nat) : (s.raise e src p d).reg r i = s.reg r i := by rw [State.reg, raise_regs, State.reg]
@[simp] theorem raise_getF (g : RF) (i : Nat) : (s.raise e src p d).getF g i = s.getF g i := by rw [State.getF, raise_reg, State.getF]
@[simp] theorem raise_core (c : Nat) : (s.raise e src p d).core c = s.core c := by rw [State.core, raise_cores, State.core]
@[simp] theorem raise_part (k : Nat) : (s.raise e src p d).part k = s.part k := by rw [State.part, raise_parts, State.part]
@[simp] theorem raise_ownerOf (c : Nat) : (s.raise e src p d).ownerOf c = s.ownerOf c := by rw [(raise_eventOnly ..).1]; rfl
@[simp] theorem raise_coresOf (k : Nat) : (s.raise e src p d).coresOf k = s.coresOf k := by rw [(raise_eventOnly ..).1]; rfl
end
/-- An event that concerns a partition is among the records on their way to that partition's controller. -/
theorem raise_raisedOne (s t : State) (e : Ev) (src p d : Nat) (h : e.atPart = true) (hn : t.now = s.now) :
    s.raisedOne (t.raise e src (some p) d) e src p p d := by
  have hr : s.raisedOne (t.record e src p p d) e src p p d := raisedOne_record t e src p p d s.now hn
  unfold State.raise
  dsimp only
  rw [if_pos h]
  exact iteInduction (motive := fun u => s.raisedOne u e src p p d) (fun _ => hr.imp fun _ hq => List.mem_append_left _ hq) (fun _ => hr)
/-- A record on its way stays so while records only join it. -/
theorem State.raisedOne.mono {s t u : State} {e : Ev} {src k p d : Nat} (h : s.raisedOne t e src k p d) (hu : t.evNet <+: u.evNet) :
    s.raisedOne u e src k p d := h.imp fun _ hq => hu.subset hq

/-! ### Answers to the host (R378, R393) -/
/-- Nothing differs but what the functions are told: orders, completions, data, and events about them. -/
def State.hostOnly (s t : State) : Prop :=
  t = { s with regs := t.regs, fns := t.fns, out := t.out, evSeq := t.evSeq, evNet := t.evNet } ∧
  (∀ r i, r ≠ .partQStat → t.reg r i = s.reg r i) ∧ s.evNet <+: t.evNet
theorem State.hostOnly.refl (s : State) : s.hostOnly s := ⟨rfl, fun _ _ _ => rfl, List.prefix_rfl⟩
theorem State.hostOnly.trans {s t u : State} (h : s.hostOnly t) (k : t.hostOnly u) : s.hostOnly u := by
  obtain ⟨h1, h2, h3⟩ := h
  obtain ⟨k1, k2, k3⟩ := k
  exact ⟨by rw [k1, h1], fun r i a => (k2 r i a).trans (h2 r i a), h3.trans k3⟩
theorem State.eventOnly.hostOnly {s t : State} (h : s.eventOnly t) : s.hostOnly t := by
  have hr : t.regs = s.regs := by rw [h.1]
  exact ⟨by rw [h.1], fun r i _ => by rw [State.reg, hr, State.reg], h.2⟩
theorem modFn_hostOnly (s : State) (k : Nat) (f : FnSt → FnSt) : s.hostOnly (s.modFn k f) := ⟨rfl, fun _ _ _ => rfl, List.prefix_rfl⟩
theorem emit_hostOnly (s : State) (x : Out) : s.hostOnly (s.emit x) := ⟨rfl, fun _ _ _ => rfl, List.prefix_rfl⟩
theorem setF_hostOnly (s : State) (f : RF) (k v : Nat) (h : f.reg = .partQStat) : s.hostOnly (s.setF f k v) :=
  ⟨rfl, fun _ _ hr => reg_setF_ne _ _ _ _ _ (Or.inl (by rw [h]; exact hr)), List.prefix_rfl⟩
theorem post_hostOnly (s : State) (k : Nat) (c : Completion) : s.hostOnly (s.post k c) := by
  unfold State.post
  dsimp only
  split
  · exact modFn_hostOnly ..
  · refine .trans ?_ (raise_eventOnly ..).hostOnly
    split
    · exact emit_hostOnly ..
    · split
      · exact ((emit_hostOnly ..).trans (setF_hostOnly _ _ _ _ (by decide))).trans (setF_hostOnly _ _ _ _ (by decide))
      · exact (emit_hostOnly ..).trans (setF_hostOnly _ _ _ _ (by decide))
theorem finish_hostOnly (s : State) (o : OrderSt) (k d r : Nat) : s.hostOnly (s.finish o k d r) := (modFn_hostOnly ..).trans (post_hostOnly ..)
theorem takeReadOut_hostOnly (s : State) (o : OrderSt) : s.hostOnly (s.takeReadOut o) := (emit_hostOnly ..).trans (finish_hostOnly ..)
theorem foldl_hostOnly {α : Type} (f : State → α → State) (h : ∀ (t : State) a, t.hostOnly (f t a)) (l : List α) (s : State) : s.hostOnly (l.foldl f s) :=
  foldl_keeps (fun t => s.hostOnly t) f (fun t a ht => ht.trans (h t a)) l s (.refl s)
section
variable {s t : State} (h : s.hostOnly t)
include h
theorem State.hostOnly.getF (g : RF) (i : Nat) (hg : g.reg ≠ .partQStat) : t.getF g i = s.getF g i := by rw [State.getF, h.2.1 _ _ hg, State.getF]
theorem State.hostOnly.core (c : Nat) : t.core c = s.core c := by rw [h.1]; rfl
theorem State.hostOnly.part (p : Nat) : t.part p = s.part p := by rw [h.1]; rfl
theorem State.hostOnly.ownerOf (c : Nat) : t.ownerOf c = s.ownerOf c := by rw [h.1]; rfl
theorem State.hostOnly.coresOf (p : Nat) : t.coresOf p = s.coresOf p := by rw [h.1]; rfl
theorem State.hostOnly.ctl : t.ctl = s.ctl := by rw [h.1]
theorem State.hostOnly.now : t.now = s.now := by rw [h.1]
end

/-! ### END (R101, R388) -/
/-- A core at the end of its partition's run. -/
def State.leaveRun (s : State) (c : Nat) : State :=
  ((s.modCore c (fun q => { q with atBar := none, loops := [] })).setF F.seqStatus_state c stStopped).setPower c
    (if s.flagF F.seqStatus_standby c then vIdle else vHold)
/-- A partition that is LOADED again, with nothing pending. -/
def State.loaded (s : State) (p : Nat) : State :=
  ((s.setB F.partState_pause_pending p false).setB F.partPower_cap_paused p false).setPState p psLoaded
/-- The end of a run: the host's orders are answered, the partition is LOADED, and its cores leave. -/
theorem endRun_eq (s : State) (p code : Nat) : ∃ v f, s.hostOnly v ∧ s.endRun p code false =
((v.modPart p f).loaded p).forAll (((v.modPart p f).loaded p).coresOf p) State.leaveRun := by
  refine ⟨_, _, ?_, rfl⟩
  refine .trans ?_ (foldl_hostOnly _ (fun t o => finish_hostOnly ..) _ _)
  refine .trans ?_ (foldl_hostOnly _ (fun t o => finish_hostOnly ..) _ _)
  exact foldl_hostOnly _ (fun t o => takeReadOut_hostOnly ..) _ _
theorem setPower_coreOnly (s : State) (c n : Nat) : s.coreOnly (s.setPower c n) c [.vregPoint] := by
  unfold State.setPower
  exact iteInduction (motive := fun t => s.coreOnly t c [.vregPoint]) (fun _ => .refl s c _) (fun _ => setF_coreOnly s c F.vregPoint_state _)
theorem setPower_core (s : State) (c n d : Nat) : (s.setPower c n).core d = s.core d := by
  unfold State.setPower
  split <;> rfl
/-- A core that is not in OFF takes the state it is moved to. -/
theorem setPower_state (s : State) (c n : Nat) (h : s.getF F.vregPoint_state c ≠ vOff) (hn : n < 4) :
    (s.setPower c n).getF F.vregPoint_state c = n := by
  rw [State.setPower, if_neg h, getF_setF_same _ _ _ _ (by decide)]
  exact Nat.mod_eq_of_lt hn
/-- A core that leaves the run keeps what it ended with and is stopped; no other core and no partition sees it. -/
theorem leaveRun_facts (s : State) (c d p : Nat) : ((s.leaveRun c).core d).ended = (s.core d).ended ∧
    (s.getF F.seqStatus_state d = stStopped → (s.leaveRun c).getF F.seqStatus_state d = stStopped) ∧ (s.leaveRun c).pState p = s.pState p := by
  have hp := setPower_coreOnly ((s.modCore c (fun q => { q with atBar := none, loops := [] })).setF F.seqStatus_state c stStopped) c
    (if s.flagF F.seqStatus_standby c then vIdle else vHold)
  refine ⟨?_, fun h => ?_, ?_⟩
  · rw [State.leaveRun, setPower_core, State.setF_core]
    by_cases h : d = c
    · rw [h, core_modCore_same]
    · rw [core_modCore_ne _ _ h]
  · rw [State.leaveRun, hp.getF _ _ (by decide)]
    by_cases hd : d = c
    · rw [hd, getF_setF_same _ _ _ _ (by decide)]
      rfl
    · rw [getF_setF_unit _ _ _ _ (Ne.symm (Ne.symm hd))]
      exact h
  · rw [State.leaveRun, State.pState, hp.getF _ _ (by decide), getF_setF_ne _ _ _ _ _ _ (by decide)]
    rfl
theorem loaded_facts (s : State) (p c : Nat) : ((s.loaded p).core c) = s.core c ∧
    (s.loaded p).getF F.seqStatus_state c = s.getF F.seqStatus_state c ∧ (s.loaded p).pState p = psLoaded := by
  refine ⟨?_, ?_, ?_⟩
  · rw [State.loaded, State.setPState, State.setF_core, State.setB_core, State.setB_core]
  · rw [State.loaded, State.setPState, getF_setF_ne _ _ _ _ _ _ (by decide), State.setB, getF_setF_ne _ _ _ _ _ _ (by decide), State.setB,
      getF_setF_ne _ _ _ _ _ _ (by decide)]
  · rw [State.loaded, State.pState, State.setPState, getF_setF_same _ _ _ _ (by decide)]
    exact Nat.mod_eq_of_lt (by decide)
theorem endRun_facts (s : State) (p code c : Nat) (hs : s.getF F.seqStatus_state c = stStopped) :
    ((s.endRun p code false).core c).ended = (s.core c).ended ∧ (s.endRun p code false).getF F.seqStatus_state c = stStopped ∧
    (s.endRun p code false).pState p = psLoaded := by
  obtain ⟨v, f, hv, he⟩ := endRun_eq s p code
  have hc : (v.modPart p f).core c = s.core c := hv.core c
  have hg : (v.modPart p f).getF F.seqStatus_state c = stStopped := (hv.getF F.seqStatus_state c (by decide)).trans hs
  rw [he]
  generalize v.modPart p f = x at hc hg
  obtain ⟨h1, h2, h3⟩ := loaded_facts x p c
  generalize x.loaded p = y at h1 h2 h3
  refine forAll_keeps (fun t => (t.core c).ended = (s.core c).ended ∧ t.getF F.seqStatus_state c = stStopped ∧ t.pState p = psLoaded) _
    (fun u d ⟨h1, h2, h3⟩ => ?_) _ _ ⟨by rw [h1, hc], h2.trans hg, h3⟩
  obtain ⟨k1, k2, k3⟩ := leaveRun_facts u d c p
  exact ⟨k1.trans h1, k2 h2, k3.trans h3⟩
/-- A core whose program has finished. -/
def State.endCore (s : State) (c : Nat) : State :=
  ((s.modCore c (fun q => { q with ended := true })).setF F.seqStatus_state c stStopped).setPower c vIdle
/-- Every active core of a partition has finished its program. -/
def State.allEnded (s : State) (p : Nat) : Bool := (s.activeOf p).all (fun n => match s.physOf p n with
  | some k => (s.core k).ended
  | none => false)
/-- The run ends with the last core's END. -/
def State.endWithLast (s : State) (c : Nat) : State := match s.ownerOf c with
  | none => s
  | some p => if s.allEnded p then s.endRun p ccOk false else s
theorem execEnd_ready {c : CoreIx} {w : Word} {o : Obs} {s : State} (h : s.ready c w false false) (hw : bits w 0 56 = 0)
    (ha : (s.core c).afterStep = true) : exec (.endProgram c w o) s = .next (((s.taken c o).endCore c).endWithLast c) := by
  show execEnd c w o s = _
  rw [execEnd, dispatch_ready h, if_neg (not_not.2 hw), taken_core, if_neg (by simp [ha])]
  rfl
theorem taken_part (s : State) (c : Nat) (o : Obs) (p : Nat) : (s.taken c o).part p = s.part p := by rw [(taken_coreOnly s c o).1]; rfl
theorem State.coreOnly.part {s t : State} {c : Nat} {l : List Reg} (h : s.coreOnly t c l) (p : Nat) : t.part p = s.part p := by rw [h.1]; rfl
/-- What a core that has finished shows, and that no other core and no partition sees it. -/
theorem endCore_facts (s : State) (c : Nat) : s.coreOnly (s.endCore c) c [.seqStatus, .vregPoint] ∧
    (s.endCore c).getF F.seqStatus_state c = stStopped ∧ (∀ k, ((s.endCore c).core k).ended = (decide (k = c) || (s.core k).ended)) ∧
    (s.getF F.vregPoint_state c ≠ vOff → (s.endCore c).getF F.vregPoint_state c = vIdle) := by
  have hm := modCore_coreOnly s c (fun q => { q with ended := true })
  have hc : ∀ k, ((s.modCore c (fun q => { q with ended := true })).core k).ended = (decide (k = c) || (s.core k).ended) := fun k => by
    by_cases hk : k = c
    · rw [hk, core_modCore_same, decide_eq_true rfl, Bool.true_or]
    · rw [core_modCore_ne _ _ hk, decide_eq_false hk, Bool.false_or]
  rw [State.endCore]
  generalize s.modCore c _ = u at hm hc
  have hv : (u.setF F.seqStatus_state c stStopped).getF F.vregPoint_state c = s.getF F.vregPoint_state c :=
    (getF_setF_ne _ _ _ _ _ _ (by decide)).trans (hm.getF _ _ (by decide))
  have hs : (u.setF F.seqStatus_state c stStopped).getF F.seqStatus_state c = stStopped := getF_setF_same _ _ _ _ (by decide)
  have hk : ∀ k, (u.setF F.seqStatus_state c stStopped).core k = u.core k := fun _ => rfl
  have ho := setF_coreOnly u c F.seqStatus_state stStopped
  generalize u.setF F.seqStatus_state c stStopped = v at hv hs hk ho
  have hp := setPower_coreOnly v c vIdle
  refine ⟨((hm.mono (by simp)).trans (ho.mono (by decide))).trans (hp.mono (by decide)), (hp.getF _ _ (by decide)).trans hs, fun k => ?_, fun h => ?_⟩
  · rw [setPower_core, hk, hc]
  · exact setPower_state _ _ _ (by rw [hv]; exact h) (by decide)
/-- Whether a core's END is the last of its partition. -/
theorem allEnded_iff {s t : State} {c p : Nat} (hp : t.part p = s.part p) (he : ∀ k, (t.core k).ended = (decide (k = c) || (s.core k).ended)) :
    t.allEnded p = true ↔ ∀ n ∈ s.activeOf p, ∃ k, s.physOf p n = some k ∧ (k = c ∨ (s.core k).ended = true) := by
  have ha : t.activeOf p = s.activeOf p := by rw [State.activeOf, hp, State.activeOf]
  have hf : ∀ n, t.physOf p n = s.physOf p n := fun n => by rw [State.physOf, hp, State.physOf]
  rw [State.allEnded, ha, List.all_eq_true]
  refine forall₂_congr fun n _ => ?_
  rw [hf]
  cases hk : s.physOf p n with
  | none => simp
  | some k => simp [he]
/-- Settles O55. -/
theorem endEndsTheRun : Obligations.EndEndsTheRun := by
  refine fun c w o s h hw => ⟨fun ha => ?_, fun ha => ?_⟩
  · refine ⟨_, congrArg Outcome.next (dispatch_ready h), ?_⟩
    rw [if_neg (not_not.2 hw), taken_core, if_pos (by simp [ha])]
    exact taken_instrFault s c 6 o (by decide)
  · refine ⟨_, execEnd_ready h hw ha, ?_⟩
    obtain ⟨h1, h2, h3, h4⟩ := endCore_facts (s.taken c o) c
    have hT := taken_coreOnly s c o
    have hown : ((s.taken c o).endCore c).ownerOf c = s.ownerOf c := (h1.ownerOf c).trans (hT.ownerOf c)
    have hend : ∀ k, (((s.taken c o).endCore c).core k).ended = (decide (k = c.val) || (s.core k).ended) := fun k => by
      rw [h3 k]
      by_cases hk : k = c.val
      · rw [decide_eq_true hk, Bool.true_or, Bool.true_or]
      · rw [hT.2.2 k hk]
    have hpart := fun p => (h1.part p).trans (hT.part p)
    have hps : ∀ p, ((s.taken c o).endCore c).pState p = s.pState p := fun p =>
      (h1.getF _ _ (by decide)).trans (taken_getF s c o _ _ (by decide))
    rw [taken_getF s c o _ _ (by decide)] at h4
    generalize (s.taken c o).endCore c = u at *
    have hc : (u.core c).ended = true := by rw [hend, decide_eq_true rfl, Bool.true_or]
    rw [State.endWithLast, hown]
    cases ho : s.ownerOf c with
    | none => exact ⟨hc, h2, fun p hp => absurd hp (by simp)⟩
    | some p =>
      have hall := allEnded_iff (hpart p) hend
      obtain ⟨k1, k2, k3⟩ := endRun_facts u p ccOk c h2
      dsimp only
      by_cases hl : u.allEnded p = true
      · rw [if_pos hl]
        refine ⟨k1.trans hc, k2, fun q hq => ?_⟩
        cases hq
        exact ⟨fun _ => k3, fun hn => absurd (hall.1 hl) hn⟩
      · rw [if_neg hl]
        refine ⟨hc, h2, fun q hq => ?_⟩
        cases hq
        exact ⟨fun hn => absurd (hall.2 hn) hl, fun _ => ⟨hps p, h4⟩⟩
end Sys2Proof.Machine
end

section
/-! SUPPORT. Arrivals at the barrier root and what the fault policy leaves of them (R93 to R96, R306, R346), and the settling of O54. -/
namespace Sys2Proof.Machine
open Host

/-! ### What goes on beside the barriers (R346, R354) -/
/-- A release of a barrier. -/
def isRelease : CtlMsg → Bool
  | .barRelease .. => true
  | _ => false
/-- What the root counts and knows of a partition's cores. -/
def atRoot (q : PartSt) : Option Arrivals × List Nat × Tab Nat := (q.arrivals, q.resolved, q.aliasTab)
theorem arrivals_of_atRoot {q q' : PartSt} (h : atRoot q = atRoot q') : q.arrivals = q'.arrivals := congrArg (fun x => x.1) h
theorem resolved_of_atRoot {q q' : PartSt} (h : atRoot q = atRoot q') : q.resolved = q'.resolved := congrArg (fun x => x.2.1) h
theorem aliasTab_of_atRoot {q q' : PartSt} (h : atRoot q = atRoot q') : q.aliasTab = q'.aliasTab := congrArg (fun x => x.2.2) h
/-- A recovery that waits for its drain, its retry over, with the numbers that have failed in the step. -/
def draining (q : PartSt) : Option (Recovery × List Nat) := (q.recov.filter (fun r => decide (r.stage = 1))).map (fun r => (r, q.failedStep))
/-- What a fault leaves of a partition: what the root counts and knows, and a recovery that waits for its drain. -/
def atFault (q : PartSt) : (Option Arrivals × List Nat × Tab Nat) × Option (Recovery × List Nat) := (atRoot q, draining q)
theorem atRoot_of_atFault {q q' : PartSt} (h : atFault q = atFault q') : atRoot q = atRoot q' := congrArg Prod.fst h
/-- Records and messages join those on their way, no release among them; scratchpads and the time stay, and so does what `f` shows of every
partition and `g` of every ledger die. -/
def State.background {α β : Type} (s : State) (f : PartSt → α) (g : SiteSt → β) (t : State) : Prop :=
  s.evNet <+: t.evNet ∧ (∀ m ∈ t.ctl, m ∈ s.ctl ∨ isRelease m.msg = false) ∧ (∀ k, f (t.part k) = f (s.part k)) ∧
  (∀ m, g (t.site m) = g (s.site m)) ∧ (t.spad, t.now) = (s.spad, s.now)
section
variable {α β γ δ : Type} {f : PartSt → α} {g : SiteSt → β}
theorem State.background.of_eq {s t : State} (he : t.evNet = s.evNet) (hc : t.ctl = s.ctl) (hp : t.parts = s.parts) (hm : t.sites = s.sites)
    (hs : (t.spad, t.now) = (s.spad, s.now)) : s.background f g t :=
  ⟨by rw [he], fun m hm => Or.inl (by rw [← hc]; exact hm), fun k => by rw [State.part, hp, State.part], fun m => by rw [State.site, hm, State.site], hs⟩
theorem State.background.refl (s : State) : s.background f g s := .of_eq rfl rfl rfl rfl rfl
theorem State.background.trans {s t u : State} (h : s.background f g t) (k : t.background f g u) : s.background f g u := by
  obtain ⟨h1, h2, h3, h4, h5⟩ := h
  obtain ⟨k1, k2, k3, k4, k5⟩ := k
  refine ⟨h1.trans k1, fun m hm => ?_, fun p => (k3 p).trans (h3 p), fun m => (k4 m).trans (h4 m), k5.trans h5⟩
  rcases k2 m hm with hm | hm
  · exact h2 m hm
  · exact Or.inr hm
theorem State.background.mono {f' : PartSt → γ} {g' : SiteSt → δ} {s t : State} (h : s.background f g t) (hf : ∀ q q', f q = f q' → f' q = f' q')
    (hg : ∀ q q', g q = g q' → g' q = g' q') : s.background f' g' t :=
  ⟨h.1, h.2.1, fun k => hf _ _ (h.2.2.1 k), fun m => hg _ _ (h.2.2.2.1 m), h.2.2.2.2⟩
theorem State.eventOnly.background {s t : State} (h : s.eventOnly t) : s.background f g t := by
  refine ⟨h.2, fun m hm => Or.inl ?_, fun k => ?_, fun k => ?_, ?_⟩
  · rw [h.1] at hm
    exact hm
  · rw [h.1]
    rfl
  · rw [h.1]
    rfl
  · rw [h.1]
theorem raise_background (s : State) (e : Ev) (src : Nat) (p : Option Nat) (d : Nat) : s.background f g (s.raise e src p d) := (raise_eventOnly ..).background
theorem setReg_background (s : State) (r : Reg) (i : Nat) (v : Word) : s.background f g (s.setReg r i v) := .of_eq rfl rfl rfl rfl rfl
theorem setF_background (s : State) (x : RF) (i v : Nat) : s.background f g (s.setF x i v) := .of_eq rfl rfl rfl rfl rfl
theorem setB_background (s : State) (x : RF) (i : Nat) (b : Bool) : s.background f g (s.setB x i b) := .of_eq rfl rfl rfl rfl rfl
theorem bumpF_background (s : State) (x : RF) (i n : Nat) : s.background f g (s.bumpF x i n) := .of_eq rfl rfl rfl rfl rfl
theorem modCore_background (s : State) (c : Nat) (k : CoreSt → CoreSt) : s.background f g (s.modCore c k) := .of_eq rfl rfl rfl rfl rfl
theorem modSite_background (s : State) (m : Nat) (k : SiteSt → SiteSt) (h : ∀ q, g (k q) = g q) : s.background f g (s.modSite m k) := by
  refine ⟨List.prefix_rfl, fun m hm => Or.inl hm, fun _ => rfl, fun j => ?_, rfl⟩
  by_cases hj : j = m
  · rw [hj, site_modSite_same, h]
  · rw [site_modSite_ne _ _ hj]
theorem modPart_background (s : State) (p : Nat) (x : PartSt → PartSt) (h : ∀ q, f (x q) = f q) : s.background f g (s.modPart p x) := by
  refine ⟨List.prefix_rfl, fun m hm => Or.inl hm, fun k => ?_, fun _ => rfl, rfl⟩
  by_cases hk : k = p
  · rw [hk, part_modPart_same, h]
  · rw [part_modPart_ne _ _ hk]
theorem send_background (s : State) (m : CtlMsg) (p d q : Nat) (h : isRelease m = false) : s.background f g (s.send m p d q) := by
  refine ⟨List.prefix_rfl, fun x hx => ?_, fun _ => rfl, fun _ => rfl, rfl⟩
  rcases List.mem_append.1 hx with hx | hx
  · exact Or.inl hx
  · exact Or.inr (by rw [List.mem_singleton.1 hx]; exact h)
theorem State.hostOnly.background {s t : State} (h : s.hostOnly t) : s.background f g t :=
  ⟨h.2.2, fun m hm => Or.inl (by rw [h.ctl] at hm; exact hm), fun k => by rw [h.part], fun m => by rw [h.1]; rfl, by rw [h.1]⟩
theorem ite_background {b : Prop} [Decidable b] {s t u : State} (ht : s.background f g t) (hu : s.background f g u) :
    s.background f g (if b then t else u) := iteInduction (motive := s.background f g) (fun _ => ht) (fun _ => hu)
theorem foldl_background {ε : Type} (x : State → ε → State) (h : ∀ (t : State) a, t.background f g (x t a)) (l : List ε) (s : State) :
    s.background f g (l.foldl x s) := foldl_keeps (fun t => s.background f g t) x (fun t a ht => ht.trans (h t a)) l s (.refl s)
theorem rebuildView_background (s : State) (p : Nat) : s.background f g (s.rebuildView p) :=
  ((setF_background ..).trans (setF_background ..)).trans (record_eventOnly ..).background
theorem rebuild_background (s : State) : s.background f g s.rebuild := by
  unfold State.rebuild
  refine ite_background (.refl s) (.trans ?_ (foldl_background _ (fun t p => rebuildView_background t p) _ _))
  exact ((setF_background ..).trans (setF_background ..)).trans (record_eventOnly ..).background
theorem holdPart_background (s : State) (p : Nat) : s.background f g (s.holdPart p) :=
  .trans (send_background s (.hold 1) p 0 stewardNode rfl) (foldl_background _ (fun t _ => ite_background (setF_background ..) (.refl t)) _ _)
theorem stopPart_background (s : State) (p : Nat) (b : Bool) : s.background atFault g (s.stopPart p b) := by
  have h : s.background atFault g ((s.modPart p (fun q => { q with stopHold := true })).send (.hold (if b then 3 else 2)) p 0 stewardNode) :=
    (modPart_background s p (fun q => { q with stopHold := true }) (fun _ => rfl)).trans (send_background _ _ _ _ _ rfl)
  unfold State.stopPart
  exact ite_background ((h.trans (setF_background ..)).trans (raise_background ..)) h
theorem newFault_background (s : State) (p : Nat) (r : Recovery) (hr : r.stage = 0) : s.background atFault g (s.newFault p r) := by
  unfold State.newFault
  refine modPart_background s p _ (fun q => ?_)
  dsimp only
  split
  next ho => exact congrArg (Prod.mk (atRoot q)) (by simp [draining, hr, ho])
  next old ho =>
    split
    · exact congrArg (Prod.mk (atRoot q)) (by simp [draining, ho])
    · have : old.stage ≠ 1 := by omega
      exact congrArg (Prod.mk (atRoot q)) (by simp [draining, Option.filter, hr, ho, this])
theorem recover_background (s : State) (p c : Nat) (e : Ev) (d : Nat) : s.background atFault g (s.recover p c e d) := by
  unfold State.recover
  refine ite_background (.refl s) (.trans (.trans ?_ (modCore_background ..)) (rebuild_background _))
  split
  · exact (newFault_background _ _ _ rfl).trans (holdPart_background ..)
  · exact modPart_background _ _ _ (fun _ => rfl)
theorem policy_background (s : State) (p c : Nat) (e : Ev) (d : Nat) : s.background atFault g (s.policy p c e d) := by
  unfold State.policy
  split
  next => exact .refl s
  next k _ =>
    split
    · exact stopPart_background ..
    · refine ite_background (stopPart_background ..) (.trans ?_ (recover_background ..))
      exact ite_background (modPart_background _ _ _ (fun _ => rfl)) (.refl s)
    · exact ite_background (modCore_background ..) (.refl s)
end
/-- STOP holds the root, and a partition that runs is FAULT_STOPPED and told so (R346). -/
theorem stopPart_facts (s : State) (p : Nat) (b : Bool) : ((s.stopPart p b).part p).stopHold = true ∧
    (s.pState p = psRunning → (s.stopPart p b).pState p = psStopped ∧ s.raisedOne (s.stopPart p b) .partitionStopped stewardNode p p 0) := by
  unfold State.stopPart
  dsimp only
  have hh : (((s.modPart p (fun q => { q with stopHold := true })).send (.hold (if b then 3 else 2)) p 0 stewardNode).part p).stopHold = true := by
    rw [State.send_part, part_modPart_same]
  have hs : ((s.modPart p (fun q => { q with stopHold := true })).send (.hold (if b then 3 else 2)) p 0 stewardNode).pState p = s.pState p := rfl
  have hn : ((s.modPart p (fun q => { q with stopHold := true })).send (.hold (if b then 3 else 2)) p 0 stewardNode).now = s.now := rfl
  generalize (s.modPart p (fun q => { q with stopHold := true })).send (.hold (if b then 3 else 2)) p 0 stewardNode = u at hh hs hn
  split
  next h =>
    refine ⟨?_, fun _ => ⟨?_, raise_raisedOne s _ _ _ _ _ rfl hn⟩⟩
    · rw [raise_part]
      exact hh
    · rw [State.pState, raise_getF, getF_setF_same _ _ _ _ (by decide)]
      exact Nat.mod_eq_of_lt (by decide)
  next h => exact ⟨hh, fun hr => absurd (hs.trans hr) h⟩
/-- A class under STOP stops the partition (R346). -/
theorem policy_stop {s : State} {p k : Nat} {e : Ev} (c d : Nat) (he : e.faultClass = some k) (hb : bits (s.reg .partFaultPolicy p) (2 * k) 2 = 1) :
    s.policy p c e d = s.stopPart p (decide (k ≤ 1 ∨ k = 3 ∨ k = 4)) := by
  unfold State.policy
  simp only [he, hb]

/-! ### One arrival message at the root (R93, R306) -/
theorem takeCtl_high {m : Ctl} (s : State) (f : State → State) (h : m.high = m.msg.isHigh) : s.takeCtl m f = f { s with ctl := dropFirst m s.ctl } := by
  rw [State.takeCtl]
  exact if_pos h
theorem mem_of_mem_dropFirst {α : Type} [DecidableEq α] {a x : α} {l : List α} (h : x ∈ dropFirst a l) : x ∈ l := by
  induction l with
  | nil => exact h
  | cons b t ih =>
    unfold dropFirst at h
    split at h
    · exact List.mem_cons_of_mem _ h
    · exact (List.mem_cons.1 h).elim (fun e => e ▸ List.mem_cons_self) (fun e => List.mem_cons_of_mem _ (ih e))
/-- An arrival message that brings no moves of the governor, taken from the control net. -/
def State.arrivalTaken (s : State) (p : Nat) (m : Ctl) : State :=
  { s.modPart p (fun q => { q with moves := q.moves }) with ctl := dropFirst m s.ctl }
theorem arrivalTaken_part (s : State) (p k : Nat) (m : Ctl) : (s.arrivalTaken p m).part k = s.part k := by
  show (s.modPart p (fun q => { q with moves := q.moves })).part k = s.part k
  by_cases hk : k = p
  · rw [hk, part_modPart_same]
  · rw [part_modPart_ne _ _ hk]
/-- What the root counts once a STEP arrival has joined. -/
def State.countArrival (s : State) (p tag merged : Nat) (differ : Bool) (mark : Option Nat) : State :=
  s.modPart p (fun q => { q with arrivals := some (addArrival q.arrivals tag merged differ mark) })
/-- The arrivals a root has counted for a GROUP barrier. -/
def PartSt.groupCount (q : PartSt) (g : Nat) : Option Arrivals := (q.groupArr.find? (fun e => e.1 = g)).map (·.2)
/-- A GROUP barrier's arrivals, not all of them yet. -/
def State.keepGroup (s : State) (p g : Nat) (a : Arrivals) : State :=
  s.modPart p (fun q => { q with groupArr := (s.part p).groupArr.filter (fun e => e.1 ≠ g) ++ [(g, a)] })
/-- A GROUP barrier that releases its members. -/
def State.releaseGroup (s : State) (p g : Nat) : State :=
  let u := s.modPart p (fun q => { q with groupArr := (s.part p).groupArr.filter (fun e => e.1 ≠ g) })
  ((s.barMembers p g).filterMap (u.physOf p)).foldl (fun s c => s.send (.barRelease 0 false g) p c stewardNode) u
section
variable {p : PartIx} {m : Ctl} {tag merged g : Nat} {differ : Bool} {mark : Option Nat}
theorem execBarArrive_step (s : State) (hm : m.msg = .barArrive tag merged differ true g mark) (h : m.high = true) (hp : m.part = p.val) :
    exec (.barArrive p [m] [] []) s = .next (((s.arrivalTaken p m).countArrival p tag merged differ mark).allArrived p) := by
  have hi : m.msg.isHigh = true := by rw [hm]; rfl
  show execBarArrive p [m] [] [] s = _
  rw [execBarArrive, List.filter_nil, List.foldl_nil, List.filter_cons_of_pos (by simpa using hp), List.filter_nil, List.foldl_cons, List.foldl_nil,
    takeCtl_high _ _ (h.trans hi.symm)]
  simp only [hm]
  rfl
theorem execBarArrive_group (s : State) (hm : m.msg = .barArrive tag merged differ false g mark) (h : m.high = true) (hp : m.part = p.val) :
    let u := s.arrivalTaken p m
    let a := addArrival ((u.part p).groupCount g) tag merged differ mark
    exec (.barArrive p [m] [] []) s = .next (if a.count < (u.barMembers p g).length then u.keepGroup p g a else u.releaseGroup p g) := by
  have hi : m.msg.isHigh = true := by rw [hm]; rfl
  show execBarArrive p [m] [] [] s = _
  rw [execBarArrive, List.filter_nil, List.foldl_nil, List.filter_cons_of_pos (by simpa using hp), List.filter_nil, List.foldl_cons, List.foldl_nil,
    takeCtl_high _ _ (h.trans hi.symm)]
  simp only [hm]
  rfl
end
/-- A complete count that differs in tags or marks is refused, and the partition's policy applies (R96). -/
theorem allArrived_differ {s : State} {p : Nat} {a : Arrivals} (ha : (s.part p).arrivals = some a) (hl : (s.activeOf p).length ≤ a.count)
    (hd : a.differ = true) : s.allArrived p = (s.raise .barrierMismatch stewardNode (some p) 0).policy p 0 .barrierMismatch 0 := by
  unfold State.allArrived
  simp only [ha, hd, if_neg (Nat.not_lt.2 hl), if_true]
theorem countArrival_part (s : State) (p tag merged : Nat) (differ : Bool) (mark : Option Nat) :
    (s.countArrival p tag merged differ mark).part p = { s.part p with arrivals := some (addArrival (s.part p).arrivals tag merged differ mark) } :=
  part_modPart_same ..
/-- Settles O54. -/
theorem mismatchedArrivalsAreNotReleased : Obligations.MismatchedArrivalsAreNotReleased := by
  intro p m tag merged g differ mark b s hm hh hp hb hdiff hlen
  refine ⟨_, execBarArrive_step s hm hh hp, ?_⟩
  have hpart : ((s.arrivalTaken p m).countArrival p tag merged differ mark).part p =
      { s.part p with arrivals := some (addArrival (some b) tag merged differ mark) } := by rw [countArrival_part, arrivalTaken_part, hb]
  have hal : ((s.arrivalTaken p m).countArrival p tag merged differ mark).activeOf p = s.activeOf p := by rw [State.activeOf, hpart, State.activeOf]
  have hd : (addArrival (some b) tag merged differ mark).differ = true := by
    simp only [addArrival, Bool.or_eq_true, decide_eq_true_iff]
    tauto
  have hc : ∀ x ∈ ((s.arrivalTaken p m).countArrival p tag merged differ mark).ctl, x ∈ s.ctl := fun x hx => mem_of_mem_dropFirst hx
  have hn : ((s.arrivalTaken p m).countArrival p tag merged differ mark).now = s.now := rfl
  have hr : ∀ r i, ((s.arrivalTaken p m).countArrival p tag merged differ mark).reg r i = s.reg r i := fun _ _ => rfl
  have hmem : s.sameMemory ((s.arrivalTaken p m).countArrival p tag merged differ mark) := ⟨rfl, rfl, rfl, rfl, rfl, rfl⟩
  generalize (s.arrivalTaken p m).countArrival p tag merged differ mark = u at *
  rw [allArrived_differ (congrArg PartSt.arrivals hpart) (by rw [hal]; exact hlen) hd]
  have hv : s.raisedOne (u.raise .barrierMismatch stewardNode (some p) 0) .barrierMismatch stewardNode p p 0 := raise_raisedOne s u _ _ _ _ rfl hn
  have hvm : s.sameMemory (u.raise .barrierMismatch stewardNode (some p) 0) := sameMemory_trans hmem (raise_faultOnly ..).memory
  have hvr : ∀ r i, (u.raise .barrierMismatch stewardNode (some p.val) 0).reg r i = s.reg r i := fun r i => by rw [raise_reg, hr]
  have hvc : ∀ x ∈ (u.raise .barrierMismatch stewardNode (some p.val) 0).ctl, x ∈ s.ctl := fun x hx => hc x (by rw [raise_ctl] at hx; exact hx)
  have hva : ((u.raise .barrierMismatch stewardNode (some p.val) 0).part p).arrivals.isSome = true := by rw [raise_part, hpart]; rfl
  have hvn : (u.raise .barrierMismatch stewardNode (some p.val) 0).now = s.now := by rw [raise_now, hn]
  generalize u.raise .barrierMismatch stewardNode (some p.val) 0 = v at *
  obtain ⟨k1, k2, k3, -⟩ := policy_background (g := id) v p 0 .barrierMismatch 0
  have k4 : ((v.policy p 0 .barrierMismatch 0).part p).arrivals = (v.part p).arrivals := arrivals_of_atRoot (atRoot_of_atFault (k3 p))
  refine ⟨by rw [k4]; exact hva, fun c tag' q hx => ?_, hv.mono k1, fun hb => ?_, sameMemory_trans hvm (policy_faultOnly ..).memory⟩
  · rcases k2 _ hx with hx | hx
    · exact hvc _ hx
    · cases hx
  · rw [policy_stop (k := 9) 0 0 rfl (by rw [hvr]; exact hb)]
    obtain ⟨f1, f2⟩ := stopPart_facts v p (decide (9 ≤ 1 ∨ 9 = 3 ∨ 9 = 4))
    have hs : v.pState p = s.pState p := by rw [State.pState, State.getF, hvr, State.pState, State.getF]
    refine ⟨f1, fun hrun => ?_⟩
    obtain ⟨f3, q, f4⟩ := f2 (hs.trans hrun)
    rw [hvn] at f4
    exact ⟨f3, q, f4⟩
end Sys2Proof.Machine
end

section
/-! SUPPORT. The release of a STEP or GROUP barrier (R93, R95, R306, R328, R465), and the settling of O28. -/
namespace Sys2Proof.Machine
open Host

/-! ### Points at a release (R465) -/
/-- Nothing differs but registers, cores and dies. -/
def State.pointsOnly (s t : State) : Prop := t = { s with regs := t.regs, cores := t.cores, dies := t.dies }
theorem State.pointsOnly.refl (s : State) : s.pointsOnly s := rfl
theorem State.pointsOnly.trans {s t u : State} (h : s.pointsOnly t) (k : t.pointsOnly u) : s.pointsOnly u := by
  unfold State.pointsOnly at h k ⊢
  rw [k, h]
theorem State.pointsOnly.background {α β : Type} {f : PartSt → α} {g : SiteSt → β} {s t : State} (h : s.pointsOnly t) : s.background f g t :=
  .of_eq (by rw [h]) (by rw [h]) (by rw [h]) (by rw [h]) (by rw [h])
theorem State.unitsOnly.pointsOnly {s t : State} (h : s.unitsOnly t) : s.pointsOnly t := by
  unfold State.pointsOnly
  rw [h]
theorem setF_pointsOnly (s : State) (f : RF) (i v : Nat) : s.pointsOnly (s.setF f i v) := rfl
theorem modCore_pointsOnly (s : State) (c : Nat) (f : CoreSt → CoreSt) : s.pointsOnly (s.modCore c f) := rfl
theorem modDie_pointsOnly (s : State) (d : Nat) (f : DieSt → DieSt) : s.pointsOnly (s.modDie d f) := rfl
theorem ite_pointsOnly {b : Prop} [Decidable b] {s t u : State} (ht : s.pointsOnly t) (hu : s.pointsOnly u) : s.pointsOnly (if b then t else u) :=
  iteInduction (motive := s.pointsOnly) (fun _ => ht) (fun _ => hu)
theorem foldl_pointsOnly {α : Type} (f : State → α → State) (h : ∀ (t : State) a, t.pointsOnly (f t a)) (l : List α) (s : State) :
    s.pointsOnly (l.foldl f s) := foldl_keeps (fun t => s.pointsOnly t) f (fun t a ht => ht.trans (h t a)) l s (.refl s)
theorem showDie_pointsOnly (s : State) (d : Nat) : s.pointsOnly (s.showDie d) :=
  (setF_pointsOnly ..).trans (foldl_pointsOnly _ (fun _ _ => setF_pointsOnly ..) _ _)
theorem levelMv_pointsOnly (s : State) (c : Nat) : s.pointsOnly (s.levelMv c) :=
  foldl_pointsOnly _ (fun t _ => ite_pointsOnly (.refl t) (ite_pointsOnly (setF_pointsOnly ..) (ite_pointsOnly (setF_pointsOnly ..) (.refl t)))) _ _
theorem setPoint_pointsOnly (s : State) (c i : Nat) : s.pointsOnly (s.setPoint c i) :=
  ite_pointsOnly (modCore_pointsOnly ..)
    ((((modCore_pointsOnly ..).trans (setF_pointsOnly ..)).trans (setF_pointsOnly ..)).trans (levelMv_pointsOnly ..))
theorem govern_pointsOnly (s : State) (p : Nat) (m : Nat × Bool) : s.pointsOnly (s.govern p m) :=
  ite_pointsOnly (.refl s) (ite_pointsOnly (ite_pointsOnly (modCore_pointsOnly ..) (.refl s)) (ite_pointsOnly (modCore_pointsOnly ..) (.refl s)))
/-- Points and ceilings at a release change registers, cores and dies alone. -/
theorem pointsAtRelease_pointsOnly (s : State) (p : Nat) (l : List (Nat × Bool)) : s.pointsOnly (s.pointsAtRelease p l) := by
  refine .trans (.trans (.trans ?_ (foldl_pointsOnly _ (fun t m => govern_pointsOnly t p m) _ _)) (foldl_pointsOnly _ (fun t d => ?_) _ _))
    (foldl_pointsOnly _ (fun t c => setPoint_pointsOnly ..) _ _)
  · refine foldl_pointsOnly _ (fun t c => ?_) _ _
    refine State.pointsOnly.trans ?_ (ite_pointsOnly (modCore_pointsOnly ..) (.refl _))
    refine State.pointsOnly.trans ?_ (ite_pointsOnly (modCore_pointsOnly ..) (.refl _))
    exact ite_pointsOnly (.refl t) (modCore_pointsOnly ..)
  · refine State.pointsOnly.trans ?_ (showDie_pointsOnly ..)
    refine State.pointsOnly.trans ?_ (ite_pointsOnly (modDie_pointsOnly ..) (.refl _))
    exact ite_pointsOnly (.refl t) (modDie_pointsOnly ..)

/-! ### What a release keeps of arrivals, records and messages (R95, R328, R480) -/
/-- What a step boundary's choice of plan leaves of a partition. -/
def placed (q : PartSt) : (Option Arrivals × List Nat × Tab Nat) × Option Recovery × List Recovery × List Nat × List Nat :=
  (atRoot q, q.recov, q.faults, q.moved, q.failedStep)
theorem atRoot_of_placed (q q' : PartSt) (h : placed q = placed q') : atRoot q = atRoot q' := congrArg Prod.fst h
/-- The generations that a fit is known for. -/
def State.planGens (s : State) (p : Nat) : Nat × Nat := (s.getF F.partAliasGen_generation p, s.getF F.modFpGen_count 0)
/-- Whether the fit is known for the generations in force. -/
def State.fitKnown (s : State) (p : Nat) : Bool := match (s.part p).fitSeen with
  | some (a, b, _) => decide ((a, b) = s.planGens p)
  | none => false
/-- The fit as last seen. -/
def State.fitWas (s : State) (p : Nat) : Bool := match (s.part p).fitSeen with
  | some (_, _, f) => f
  | none => false
def State.fitNow (s : State) (p : Nat) : Bool := if s.fitKnown p then s.fitWas p else s.fits p
/-- The root notes the fit. -/
def State.noteFit (s : State) (p : Nat) : State := s.modPart p (fun q => { q with
  fitSeen := some ((s.planGens p).1, (s.planGens p).2, s.fitNow p), switched := false, fitTold := q.fitTold && s.fitKnown p })
/-- The choice of R328 with its reason, once it is known whether the placement switched, whether it fits and what count is left. -/
def State.pickPlan (s : State) (p : Nat) (switched fit : Bool) (count : Nat) : State × Nat :=
  if s.flagF F.partPlan_force_uniform p then (s, 1)
  else if switched then (s.modPart p (fun q => { q with recCount := ((q.cap.map (·.recovery)).getD 1) - 1, warmup := 0 }), 2)
  else if count ≠ 0 then
    (s.modPart p (fun q => if q.warmup ≠ 0 then { q with warmup := q.warmup - 1 } else { q with recCount := q.recCount - 1 }), 3)
  else if fit then (s, 4)
  else
    let s := s.setB F.partPlan_refused p true
    (if (s.part p).fitTold then s else (s.modPart p (fun q => { q with fitTold := true })).raise .planNormalRefused stewardNode (some p) 0, 5)
theorem choosePlan_eq (s : State) (p : Nat) : s.choosePlan p =
    let r := (s.noteFit p).pickPlan p ((s.part p).switched || (s.fitWas p && !s.fitNow p)) (s.fitNow p)
      (if (s.part p).warmup ≠ 0 then (s.part p).warmup else (s.part p).recCount)
    ((r.1.setF F.partPlan_reason p r.2).setF F.partPlan_count p (min 255 ((r.1.part p).warmup + (r.1.part p).recCount)), r.2) := rfl
section
variable {β : Type} {g : SiteSt → β}
theorem pickPlan_background (s : State) (p : Nat) (b fit : Bool) (n : Nat) : s.background placed g (s.pickPlan p b fit n).1 := by
  have h5 := (modPart_background (f := placed) (g := g) (s.setB F.partPlan_refused p true) p (fun q => { q with fitTold := true }) (fun _ => rfl)).trans
    (raise_background _ .planNormalRefused stewardNode (some p) 0)
  unfold State.pickPlan
  split
  · exact .refl _
  · split
    · exact modPart_background _ p _ (fun _ => by rfl)
    · split
      · exact modPart_background _ p _ (fun q => by split <;> rfl)
      · split
        · exact .refl _
        · exact (setB_background ..).trans (ite_background (.refl _) h5)
theorem choosePlan_background (s : State) (p : Nat) : s.background placed g (s.choosePlan p).1 := by
  rw [choosePlan_eq]
  exact .trans (.trans (modPart_background s p _ (fun _ => by rfl)) (pickPlan_background ..)) ((setF_background ..).trans (setF_background ..))
theorem loadPlan_background (s : State) (p n : Nat) (b : Bool) : s.background placed g (s.loadPlan p n b) := by
  unfold State.loadPlan
  dsimp only
  refine .trans (setB_background s F.partPlan_active p b) ?_
  split
  · exact modPart_background _ p _ (fun _ => by rfl)
  · exact .refl _
theorem boundary_background (s : State) (p n : Nat) : s.background placed g (s.boundary p n) := by
  unfold State.boundary
  refine ite_background (choosePlan_background s p) (.trans (choosePlan_background s p) ?_)
  exact (((loadPlan_background ..).trans (modPart_background _ p _ (fun _ => by rfl))).trans (bumpF_background ..)).trans (raise_background ..)
theorem creditTokens_background (s : State) (p i : Nat) : s.background placed g (s.creditTokens p i) := by
  unfold State.creditTokens
  refine .trans ?_ (modPart_background _ p _ (fun _ => by rfl))
  exact ite_background ((bumpF_background ..).trans (bumpF_background ..)) (.refl s)
end
/-- The root and the homes forget the micro-step that closes. -/
def State.closeRoot (s : State) (p : Nat) : State :=
  (s.modPart p (fun q => { q with
    arrivals := none, tokens := [], resolved := [], resolving := [], feedWait := false, planMove := false
    markNow := none, recMicro := 0, seqFault := none, moves := [], recov := none, faults := s.openFaults p })).forAll (rangeFrom 0 40) fun s m =>
      s.modSite m (fun x => { x with tokens := x.tokens.filter (fun t => t.1 ≠ p), provs := x.provs.filter (fun e => e.2.1 ≠ p) })
/-- A replay that this release ends, and the cores it returns, are told. -/
def State.tellReplay (s : State) (p : Nat) (replaying : Bool) (returned : List Nat) : State :=
  (returned.foldl (fun s c => s.raise .coreReturned stewardNode (some p) c)
    (if replaying then
      ((s.modPart p (fun q => { q with replaying := false })).bumpF F.partRecovery_replays p 1).raise .microstepReplayed stewardNode (some p) 0
     else s)).modPart p (fun q => { q with returned := [] })
/-- A release that closes a step credits it and makes the boundary's choice. -/
def State.closeStep (s : State) (p g n stepNo : Nat) : State :=
  let s := s.bumpF F.partRun_steps p 1
  let s := if s.flagF F.partPlan_active p then s.bumpF F.partPlanStat_uniform_steps p 1 else s.bumpF F.partPlanStat_normal_steps p 1
  let s := s.creditTokens p g
  let s := s.modPart p (fun q => { q with stepNo := q.stepNo + 1, stepStart := n + 1, recStep := 0, failedStep := [] })
  if stepNo + 1 < s.runSteps p then s.boundary p (n + 1) else (s.choosePlan p).1
theorem tellReplay_background {β : Type} {g : SiteSt → β} (s : State) (p : Nat) (b : Bool) (l : List Nat) : s.background atRoot g (s.tellReplay p b l) := by
  refine .trans (.trans ?_ (foldl_background _ (fun _ _ => raise_background ..) _ _)) (modPart_background _ p _ (fun _ => by rfl))
  exact ite_background (((modPart_background s p _ (fun _ => by rfl)).trans (bumpF_background ..)).trans (raise_background ..)) (.refl s)
theorem closeStep_background {β : Type} {g : SiteSt → β} (s : State) (p i n k : Nat) : s.background atRoot g (s.closeStep p i n k) := by
  unfold State.closeStep
  dsimp only
  refine State.background.trans ?_ (ite_background ((boundary_background ..).mono atRoot_of_placed (fun _ _ h => h)) ((choosePlan_background ..).mono atRoot_of_placed (fun _ _ h => h)))
  refine .trans (.trans ?_ ((creditTokens_background ..).mono atRoot_of_placed (fun _ _ h => h))) (modPart_background _ p _ (fun _ => by rfl))
  exact (bumpF_background ..).trans (ite_background (bumpF_background ..) (bumpF_background ..))
/-- What a release does before it is sent. -/
def State.beforeRelease (s : State) (p : Nat) : State :=
  let g := (((s.part p).cap.map (·.planGroup)).getD 0)
  let u := (s.closeRoot p).tellReplay p (s.part p).replaying (s.part p).returned
  let v := if !(s.dueGroups p (s.microStep p)).contains g then u else u.closeStep p g (s.microStep p) (s.part p).stepNo
  let w := v.pointsAtRelease p (s.part p).moves
  (w.running p opReadOut).foldl (fun s o => s.takeReadOut o) w
/-- The active cores of a partition. -/
def State.activeCores (s : State) (p : Nat) : List Nat := (s.activeOf p).filterMap (s.physOf p)
theorem release_eq (s : State) (p : Nat) : s.release p =
    (s.activeCores p).foldl (fun u c => u.send (.barRelease (s.microStep p % 65536) true 0) p c stewardNode) (s.beforeRelease p) := rfl
theorem beforeRelease_background {β : Type} {g : SiteSt → β} (s : State) (p : Nat) : (s.closeRoot p).background atRoot g (s.beforeRelease p) := by
  unfold State.beforeRelease
  dsimp only
  refine State.background.trans ?_ (foldl_background _ (fun t o => (takeReadOut_hostOnly t o).background) _ _)
  refine State.background.trans ?_ (pointsAtRelease_pointsOnly _ _ _).background
  exact .trans (tellReplay_background ..) (ite_background (.refl _) (closeStep_background ..))
theorem closeRoot_arrivals (s : State) (p : Nat) : ((s.closeRoot p).part p).arrivals = none := by
  unfold State.closeRoot
  refine forAll_keeps (fun t => (t.part p).arrivals = none) _ ?_ _ _ ?_
  · exact fun t m ht => ht
  · rw [part_modPart_same]
theorem foldl_send_part (m : CtlMsg) (p k q : Nat) (l : List Nat) (v : State) : (l.foldl (fun u c => u.send m p c q) v).part k = v.part k :=
  foldl_keeps (fun t => t.part k = v.part k) (fun u c => u.send m p c q) (fun _ _ h => h) l v rfl
/-- Messages on their way stay so while more are sent. -/
theorem foldl_send_prefix (m : CtlMsg) (p q : Nat) (l : List Nat) (v : State) : v.ctl <+: (l.foldl (fun u c => u.send m p c q) v).ctl :=
  foldl_keeps (fun t => v.ctl <+: t.ctl) (fun u c => u.send m p c q) (fun _ _ h => h.trans (List.prefix_append _ _)) l v List.prefix_rfl
/-- A message sent to each of a list of cores is on its way to each. -/
theorem mem_foldl_send (m : CtlMsg) (p q : Nat) {c : Nat} {l : List Nat} (h : c ∈ l) (v : State) :
    ∃ n, (⟨m, m.isHigh, p, c, q, m.modeTo c, n⟩ : Ctl) ∈ (l.foldl (fun u c => u.send m p c q) v).ctl := by
  induction l generalizing v with
  | nil => cases h
  | cons d t ih =>
    rcases List.mem_cons.1 h with rfl | h
    · exact ⟨_, (foldl_send_prefix m p q t (v.send m p c q)).subset (List.mem_append_right _ (List.mem_singleton.2 rfl))⟩
    · exact ih h _
theorem mem_activeCores {s : State} {p n c : Nat} (hn : n ∈ s.activeOf p) (hc : s.physOf p n = some c) : c ∈ s.activeCores p :=
  List.mem_filterMap.2 ⟨n, hn, hc⟩
/-- A release leaves the root with no arrivals and tells every active core. -/
theorem release_facts (s : State) (p : Nat) : ((s.release p).part p).arrivals = none ∧
    ∀ n c, n ∈ s.activeOf p → s.physOf p n = some c →
      ∃ q, (⟨.barRelease (s.microStep p % 65536) true 0, true, p, c, stewardNode, 2, q⟩ : Ctl) ∈ (s.release p).ctl := by
  rw [release_eq]
  refine ⟨?_, fun n c hn hc => mem_foldl_send _ _ _ (mem_activeCores hn hc) _⟩
  rw [foldl_send_part]
  exact (arrivals_of_atRoot ((beforeRelease_background (g := id) s p).2.2.1 p)).trans (closeRoot_arrivals s p)

/-! ### The root's decision (R94 to R97, R273, R389, R392) -/
/-- With nothing that withholds it, a complete count is a release. -/
theorem allArrived_release {s : State} {p : Nat} {a : Arrivals} (ha : (s.part p).arrivals = some a) (hl : (s.activeOf p).length ≤ a.count)
    (hd : a.differ = false) (hh : (s.modPart p (fun q => { q with markNow := a.mark })).heldBack p = false)
    (hg : (s.modPart p (fun q => { q with markNow := a.mark })).dueGroups p ((s.modPart p (fun q => { q with markNow := a.mark })).microStep p) = [])
    (hp : (s.part p).pausePend = []) (hc : (s.part p).copy = none) :
    s.allArrived p = (s.modPart p (fun q => { q with markNow := a.mark })).release p := by
  have hpart : (s.modPart p (fun q => { q with markNow := a.mark })).part p = { s.part p with markNow := a.mark } := part_modPart_same ..
  have hact : (s.modPart p (fun q => { q with markNow := a.mark })).activeOf p = s.activeOf p := by rw [State.activeOf, hpart, State.activeOf]
  unfold State.allArrived
  simp only [ha, hd, if_neg (Nat.not_lt.2 hl)]
  generalize s.modPart p (fun q => { q with markNow := a.mark }) = t at *
  unfold State.tryRelease State.snapshotDue
  simp [hpart, hact, ha, hd, hh, hg, hp, hc, hl]
/-- Nothing that a barrier reads of its partition differs but what has arrived and the mark. -/
def State.sameBarrier (s t : State) (p : Nat) : Prop :=
  t.part p = { s.part p with arrivals := (t.part p).arrivals, markNow := (t.part p).markNow } ∧ t.regs = s.regs ∧ t.cores = s.cores
section
variable {s t : State} {p : Nat} (h : s.sameBarrier t p)
include h
theorem State.sameBarrier.activeOf : t.activeOf p = s.activeOf p := by rw [State.activeOf, h.1, State.activeOf]
theorem State.sameBarrier.physOf : t.physOf p = s.physOf p := by
  funext n
  rw [State.physOf, h.1, State.physOf]
theorem State.sameBarrier.getF (g : RF) (i : Nat) : t.getF g i = s.getF g i := by rw [State.getF, State.reg, h.2.1, State.getF, State.reg]
theorem State.sameBarrier.core (c : Nat) : t.core c = s.core c := by rw [State.core, h.2.2, State.core]
theorem State.sameBarrier.microStep : t.microStep p = s.microStep p := by
  unfold State.microStep
  simp only [h.activeOf, h.physOf, h.getF]
theorem State.sameBarrier.dueGroups (n : Nat) : t.dueGroups p n = s.dueGroups p n := by rw [State.dueGroups, h.1, State.dueGroups]
theorem State.sameBarrier.passed (n c : Nat) : t.passed p n c = s.passed p n c := by
  unfold State.passed
  rw [h.core, h.getF, h.1]
theorem State.sameBarrier.heldBack : t.heldBack p = s.heldBack p := by
  unfold State.heldBack
  simp only [h.activeOf, h.physOf, h.passed]
  rw [h.1]
end
/-- What the root has once an arrival has joined: the same partition, with the new count. -/
theorem countArrival_facts (s : State) (p : Nat) (m : Ctl) (tag merged : Nat) (differ : Bool) (mark : Option Nat) :
    let u := (s.arrivalTaken p m).countArrival p tag merged differ mark
    s.sameBarrier u p ∧ u.part p = { s.part p with arrivals := some (addArrival (s.part p).arrivals tag merged differ mark) } ∧
    u.ctl = dropFirst m s.ctl ∧ s.sameMemory u := by
  intro u
  have hp : u.part p = { s.part p with arrivals := some (addArrival (s.part p).arrivals tag merged differ mark) } := by
    rw [countArrival_part, arrivalTaken_part]
  exact ⟨⟨by rw [hp], rfl, rfl⟩, hp, rfl, ⟨rfl, rfl, rfl, rfl, rfl, rfl⟩⟩
theorem allArrived_waits {s : State} {p : Nat} {a : Arrivals} (ha : (s.part p).arrivals = some a) (hl : a.count < (s.activeOf p).length) :
    s.allArrived p = s := by
  unfold State.allArrived
  simp only [ha, if_pos hl]
theorem State.sameBarrier.markNow {s t : State} {p : Nat} (h : s.sameBarrier t p) (k : Option Nat) :
    s.sameBarrier (t.modPart p (fun q => { q with markNow := k })) p := by
  refine ⟨?_, h.2.1, h.2.2⟩
  rw [part_modPart_same]
  rw [h.1]
theorem stepArrival_spec {p : PartIx} {m : Ctl} {tag merged g : Nat} {differ : Bool} {mark : Option Nat} (s : State)
    (hm : m.msg = .barArrive tag merged differ true g mark) (hh : m.high = true) (hp : m.part = p.val) :
    let a := addArrival (s.part p).arrivals tag merged differ mark
    (a.count < (s.activeOf p).length → ∃ t, exec (.barArrive p [m] [] []) s = .next t ∧ (t.part p).arrivals = some a ∧
      t.ctl = dropFirst m s.ctl ∧ s.sameMemory t) ∧
    ((s.activeOf p).length ≤ a.count → a.differ = false → s.heldBack p = false → s.dueGroups p (s.microStep p) = [] →
      (s.part p).pausePend = [] → (s.part p).copy = none →
      ∃ t, exec (.barArrive p [m] [] []) s = .next t ∧ (t.part p).arrivals = none ∧
        ∀ n c, n ∈ s.activeOf p → s.physOf p n = some c →
          ∃ q, (⟨.barRelease (s.microStep p % 65536) true 0, true, p, c, stewardNode, 2, q⟩ : Ctl) ∈ t.ctl) := by
  obtain ⟨hb, hpart, hctl, hmem⟩ := countArrival_facts s p m tag merged differ mark
  have he := execBarArrive_step s hm hh hp
  generalize (s.arrivalTaken p m).countArrival p tag merged differ mark = u at *
  have ha := congrArg PartSt.arrivals hpart
  refine ⟨fun hl => ?_, fun hl hd hheld hdue hpend hcopy => ?_⟩
  · rw [allArrived_waits ha (by rw [hb.activeOf]; exact hl)] at he
    exact ⟨u, he, ha, hctl, hmem⟩
  · have hk := hb.markNow (addArrival (s.part p).arrivals tag merged differ mark).mark
    rw [allArrived_release ha (by rw [hb.activeOf]; exact hl) hd (by rw [hk.heldBack]; exact hheld) (by rw [hk.dueGroups, hk.microStep]; exact hdue)
      (by rw [hpart]; exact hpend) (by rw [hpart]; exact hcopy)] at he
    generalize u.modPart p (fun q => { q with markNow := (addArrival (s.part p).arrivals tag merged differ mark).mark }) = v at *
    obtain ⟨k1, k2⟩ := release_facts v p
    rw [hk.activeOf, hk.physOf, hk.microStep] at k2
    exact ⟨_, he, k1, k2⟩
theorem find_group_gone (l : List (Nat × Arrivals)) (g : Nat) : (l.filter (fun e => e.1 ≠ g)).find? (fun e => e.1 = g) = none := by
  simp
/-- The count kept for a GROUP barrier is the one found again. -/
theorem find_group_put (l : List (Nat × Arrivals)) (g : Nat) (a : Arrivals) :
    (l.filter (fun e => e.1 ≠ g) ++ [(g, a)]).find? (fun e => e.1 = g) = some (g, a) := by
  rw [List.find?_append, find_group_gone]
  simp
theorem groupArrival_spec {p : PartIx} {m : Ctl} {tag merged g : Nat} {differ : Bool} {mark : Option Nat} (s : State)
    (hm : m.msg = .barArrive tag merged differ false g mark) (hh : m.high = true) (hp : m.part = p.val) :
    let old := (s.part p).groupCount g
    let n := (addArrival old tag merged differ mark).count
    ∃ t, exec (.barArrive p [m] [] []) s = .next t ∧ (t.part p).arrivals = (s.part p).arrivals ∧ s.sameMemory t ∧
      (n < (s.barMembers p g).length → t.ctl = dropFirst m s.ctl ∧ (t.part p).groupCount g = some (addArrival old tag merged differ mark)) ∧
      ((s.barMembers p g).length ≤ n → (t.part p).groupArr.find? (fun e => e.1 = g) = none ∧
        ∀ k c, k ∈ s.barMembers p g → s.physOf p k = some c → ∃ q, (⟨.barRelease 0 false g, true, p, c, stewardNode, 2, q⟩ : Ctl) ∈ t.ctl) := by
  have he := execBarArrive_group s hm hh hp
  have hpart := fun k => arrivalTaken_part s p k m
  have hb : (s.arrivalTaken p m).barMembers p g = s.barMembers p g := by
    unfold State.barMembers State.plan State.activeOf
    rw [hpart]
    rfl
  have hctl : (s.arrivalTaken p m).ctl = dropFirst m s.ctl := rfl
  have hmem : s.sameMemory (s.arrivalTaken p m) := ⟨rfl, rfl, rfl, rfl, rfl, rfl⟩
  intro old n
  dsimp only at he
  rw [hpart, hb] at he
  generalize s.arrivalTaken p m = u at *
  refine ⟨_, he, ?_⟩
  by_cases hn : n < (s.barMembers p g).length
  · rw [if_pos hn]
    refine ⟨?_, hmem, fun _ => ⟨hctl, ?_⟩, fun hle => absurd hn (Nat.not_lt.2 hle)⟩
    · rw [State.keepGroup, part_modPart_same, hpart]
    · rw [State.keepGroup, part_modPart_same, PartSt.groupCount, find_group_put]
      rfl
  · rw [if_neg hn]
    have hsend : (u.releaseGroup p g).part p = (u.modPart p (fun q => { q with groupArr := (u.part p).groupArr.filter (fun e => e.1 ≠ g) })).part p :=
      foldl_send_part ..
    rw [part_modPart_same, hpart] at hsend
    refine ⟨by rw [hsend], ?_, fun hlt => absurd hlt hn, fun _ => ⟨?_, fun k c hk hc => ?_⟩⟩
    · exact foldl_keeps (fun t => s.sameMemory t) (fun v c => v.send (.barRelease 0 false g) p c stewardNode) (fun _ _ h => h) _ _ hmem
    · rw [hsend]
      exact find_group_gone _ g
    · refine mem_foldl_send (.barRelease 0 false g) p stewardNode (List.mem_filterMap.2 ⟨k, by rw [hb]; exact hk, ?_⟩) _
      rw [State.physOf, part_modPart_same, hpart]
      exact hc
/-- A message of another partition is not counted (R306). -/
theorem execBarArrive_foreign {p : PartIx} {m : Ctl} (s : State) (h : m.part ≠ p.val) : exec (.barArrive p [m] [] []) s =
    .next (s.modPart p (fun q => { q with moves := q.moves })) := by
  show execBarArrive p [m] [] [] s = _
  rw [execBarArrive, List.filter_nil, List.foldl_nil, List.filter_cons_of_neg (by simpa using h)]
  rfl
/-- Settles O28. -/
theorem barriersRelease : Obligations.BarriersRelease := by
  refine ⟨fun p m tag merged g differ mark s hm hh hp => stepArrival_spec s hm hh hp,
    fun p m tag merged g differ mark s hm hh hp => groupArrival_spec s hm hh hp, fun p m s h => ?_⟩
  refine ⟨_, execBarArrive_foreign s h, rfl, ?_, ?_, ⟨rfl, rfl, rfl, rfl, rfl, rfl⟩⟩
  · rw [part_modPart_same]
  · rw [part_modPart_same]
end Sys2Proof.Machine
end

section
/-! SUPPORT. The ledger's work goes on beside the barriers: checks, charges, updates and sums (R264 to R274, R337, R349). -/
namespace Sys2Proof.Machine
open Host

/-! ### Units and their faults (R350) -/
theorem setHealth_background {α β : Type} {f : PartSt → α} {g : SiteSt → β} (s : State) (u : Nat) (h : Health) : s.background f g (s.setHealth u h) := .of_eq rfl rfl rfl rfl rfl
section
variable {α β : Type} {f : PartSt → α} {g : SiteSt → β}
theorem showDie_background (s : State) (d : Nat) : s.background f g (s.showDie d) := (showDie_pointsOnly ..).background
theorem applyCore_background (s : State) (c n : Nat) : s.background f g (s.applyCore c n) := by
  unfold State.applyCore
  extract_lets t
  have ht : s.background f g t := modCore_background ..
  clear_value t
  split
  · exact ite_background ht (ht.trans (setF_background ..))
  · exact ht.trans (setF_background ..)
theorem shedPhase_background (s : State) (d k : Nat) : s.background f g (s.shedPhase d k) := by
  unfold State.shedPhase
  refine ite_background (.refl s) ?_
  have h := ((setF_background (f := f) (g := g) s F.tilePhases_in_service d (s.getF F.tilePhases_in_service d - 2 ^ k)).trans
    (setF_background _ F.tilePhases_shed d (min 15 (s.getF F.tilePhases_shed d + 1)))).trans (raise_background _ .phaseShed (0x1100 + d) none 0)
  exact ite_background (h.trans (((setB_background ..).trans (raise_background ..)).trans (showDie_background ..))) h
theorem applyUnit_background (s : State) (u n : Nat) : s.background f g (s.applyUnit u n) := by
  unfold State.applyUnit
  split
  · exact applyCore_background ..
  · exact ite_background ((setF_background ..).trans (raise_background ..)) (.refl s)
  · exact ite_background (.refl s) (ite_background (setF_background ..) (setF_background ..))
  · exact ite_background (.refl s) (ite_background (setF_background ..) (setF_background ..))
  · exact (ite_background (shedPhase_background ..) (.refl s)).trans (setF_background ..)
  · exact .refl s
theorem setUnit_background (s : State) (u n : Nat) (h : Health) : s.background f g (s.setUnit u n h) := by
  unfold State.setUnit
  refine .trans (.trans ?_ (ite_background (raise_background ..) (.refl _))) (rebuild_background _)
  exact ((setHealth_background ..).trans (setF_background ..)).trans (applyUnit_background ..)
theorem charge_background (s : State) (u cause : Nat) (b : Bool) : s.background f g (s.charge u cause b) := by
  unfold State.charge
  exact ite_background ((setHealth_background ..).trans (setF_background ..)) (setUnit_background ..)

/-! ### DRAM blocks (R209, R216) -/
theorem setMeta_background (s : State) (b : Nat) (v : BlkMeta) : s.background f g (s.setMeta b v) := .of_eq rfl rfl rfl rfl rfl
theorem wakeChannel_background (s : State) (m c : Nat) : s.background f SiteSt.tokens (s.wakeChannel m c) :=
  (modSite_background _ _ _ (fun _ => by rfl)).trans (setF_background ..)
end
theorem ledgerFault_background {β : Type} {g : SiteSt → β} (s : State) (m p : Nat) (e : Ev) (d : Nat) : s.background atFault g (s.ledgerFault m p e d) :=
  (raise_background ..).trans (policy_background ..)
theorem verify_background (s : State) (b o n : Nat) : s.background atFault SiteSt.tokens (s.verify b o n) := by
  unfold State.verify
  extract_lets t m crc k site u v
  have ht : s.background atFault SiteSt.tokens t := wakeChannel_background ..
  have hu : s.background atFault SiteSt.tokens u := ht.trans (bumpF_background ..)
  have hv : s.background atFault SiteSt.tokens v := hu.trans ((setMeta_background ..).trans (bumpF_background ..))
  clear_value t u v
  exact ite_background (ht.trans (setMeta_background ..))
    (ite_background hu (hv.trans ((ledgerFault_background ..).trans (charge_background ..))))
theorem verifyAll_background (s : State) (l : List (Nat × Nat)) (n : Nat) : s.background atFault SiteSt.tokens (s.verifyAll l n) :=
  foldl_background _ (fun _ _ => verify_background ..) _ _
theorem readRec_background (s : State) (p g : Nat) : s.background atFault SiteSt.tokens (s.readRec p g) := by
  unfold State.readRec
  split
  · exact verifyAll_background ..
  · exact .refl s
theorem storeDram_background {α β : Type} {f : PartSt → α} {g : SiteSt → β} (s : State) (k n v : Nat) : s.background f g (s.storeDram k n v) := .of_eq rfl rfl rfl rfl rfl
theorem copyAhead_background (s : State) (p a : Nat) (x : Place) : s.background atFault SiteSt.tokens (s.copyAhead p a x) := by
  unfold State.copyAhead
  refine ite_background ?_ (.refl s)
  have hw : s.background atFault SiteSt.tokens (s.awaitBuffer x.site p a) := by
    unfold State.awaitBuffer
    exact ite_background ((modSite_background _ _ _ (fun _ => by rfl)).trans (bumpF_background ..)) (.refl s)
  exact (hw.trans (verify_background ..)).trans (modSite_background _ _ _ (fun _ => by rfl))
theorem putDram_background (s : State) (p a n v : Nat) (b : Bool) : s.background atFault SiteSt.tokens (s.putDram p a n v b) := by
  unfold State.putDram
  split
  · exact .refl s
  · next x _ =>
    extract_lets t m parts clean u
    have ht : s.background atFault SiteSt.tokens t := (wakeChannel_background ..).trans (copyAhead_background ..)
    have hu : s.background atFault SiteSt.tokens u := ht.trans (storeDram_background ..)
    clear_value t u
    exact hu.trans ((setMeta_background ..).trans (modSite_background _ _ _ (fun _ => by rfl)))
theorem engineWrite_background (s : State) (p a n v : Nat) : s.background atFault SiteSt.tokens (s.engineWrite p a n v) := putDram_background ..
theorem seal_background (s : State) (p a n : Nat) (l : List Nat) : s.background atFault SiteSt.tokens (s.seal p a n l) := by
  unfold State.seal
  refine foldl_background _ (fun t b => ?_) _ _
  split
  · exact setMeta_background ..
  · exact .refl t

/-! ### Sums and updates (R264 to R274) -/
theorem inject_background {α β : Type} {f : PartSt → α} {g : SiteSt → β} (s : State) (k : Pkt) : s.background f g (s.inject k) := .of_eq rfl rfl rfl rfl rfl
theorem injectAll_background {α β : Type} {f : PartSt → α} {g : SiteSt → β} (s : State) (l : List Pkt) : s.background f g (s.injectAll l) :=
  foldl_background _ (fun t k => inject_background t k) _ _
theorem ackWaiting_background {α β : Type} {f : PartSt → α} {g : SiteSt → β} (s : State) (m : Nat) (l : List RedBlk) : s.background f g (s.ackWaiting m l) :=
  foldl_background _ (fun _ _ => injectAll_background ..) _ _
theorem putArea_background (s : State) (p a n v : Nat) : s.background atFault SiteSt.tokens (s.putArea p a n v) := by
  unfold State.putArea
  split
  · exact .refl s
  · exact (verify_background ..).trans (putDram_background ..)
theorem showBlk_background (s : State) (p : Nat) (st : Stream) (r : RedBlk) : s.background atFault SiteSt.tokens (s.showBlk p st r) := by
  unfold State.showBlk
  refine State.background.trans ?_ (putArea_background ..)
  refine ite_background (foldl_background _ (fun t e => putArea_background ..) _ _) (ite_background (.refl s) ?_)
  exact ite_background (putArea_background ..) (putArea_background ..)
/-- The blocks of a group or partition shown open again. -/
theorem showBlks_background (s : State) (p : Nat) (l : List RedBlk) (g : RedBlk → RedBlk) : s.background atFault SiteSt.tokens
    (l.foldl (fun s r => match s.stream p r.stream with
      | some st => s.showBlk p st (g r)
      | none => s) s) := by
  refine foldl_background _ (fun t r => ?_) _ _
  split
  · exact showBlk_background ..
  · exact .refl t
theorem openBlocks_background (s : State) (p g : Nat) : s.background atFault SiteSt.tokens (s.openBlocks p g) := by
  unfold State.openBlocks
  refine foldl_background _ (fun t m => ?_) _ _
  extract_lets mine u v
  have hu : t.background atFault SiteSt.tokens u := ackWaiting_background ..
  have hv : u.background atFault SiteSt.tokens v := showBlks_background ..
  clear_value u v
  exact (hu.trans hv).trans (modSite_background _ _ _ (fun _ => by rfl))
/-- Nothing of a ledger die. -/
def noSite (_ : SiteSt) : Unit := ()
theorem State.background.anySite {α β : Type} {f : PartSt → α} {g : SiteSt → β} {s t : State} (h : s.background f g t) : s.background f noSite t :=
  h.mono (fun _ _ h => h) (fun _ _ _ => rfl)
theorem discardSums_background (s : State) (p : Nat) : s.background atFault noSite (s.discardSums p) := by
  unfold State.discardSums
  refine foldl_background _ (fun t m => ?_) _ _
  extract_lets mine u v
  have hu : t.background atFault SiteSt.tokens u := ackWaiting_background ..
  have hv : u.background atFault SiteSt.tokens v := showBlks_background ..
  clear_value u v
  exact (hu.trans hv).anySite.trans (modSite_background _ _ _ (fun _ => by rfl))
theorem orUpdFlags_background {α β : Type} {f : PartSt → α} {g : SiteSt → β} (s : State) (m : Nat) (x : Flags) : s.background f g (s.orUpdFlags m x) := .of_eq rfl rfl rfl rfl rfl
theorem storeSr_background (s : State) (p a : Nat) (f : Fmt) (t x i : Nat) (v : Val) : s.background atFault SiteSt.tokens (s.storeSr p a f t x i v).1 :=
  engineWrite_background ..
theorem storeOpt_background {f : State → Val → State × Flags} (h : ∀ (t : State) x, t.background atFault SiteSt.tokens (f t x).1) (r : State × Flags) (v : Option Val) :
    r.1.background atFault SiteSt.tokens (State.storeOpt r v f).1 := by
  cases v with
  | none => exact .refl _
  | some x => exact h r.1 x
theorem updateStream_background (s : State) (p : Nat) (g : UpdGroup) (rc : GroupRec) (i : Nat) (st : Stream) :
    s.background atFault SiteSt.tokens (s.updateStream p g rc i st) := by
  unfold State.updateStream
  extract_lets _ L grad c1 c2 prog cols kept fac t put u out
  have ht : s.background atFault SiteSt.tokens t := by
    refine foldl_background _ (fun a e => ?_) _ s
    extract_lets m b gv w mo v m' v' w' nv r1 r2 r3
    have h0 : a.background atFault SiteSt.tokens b := modSite_background _ _ _ (fun _ => by rfl)
    have h1 : b.background atFault SiteSt.tokens r1.1 := storeOpt_background (fun _ _ => storeSr_background ..) (b, nv.fl ||| gv.2) nv.w
    have h2 : r1.1.background atFault SiteSt.tokens r2.1 := storeOpt_background (fun _ _ => storeSr_background ..) r1 nv.m
    have h3 : r2.1.background atFault SiteSt.tokens r3.1 := by
      refine storeOpt_background (fun t x => ?_) r2 nv.v
      split
      · exact engineWrite_background ..
      · exact storeSr_background ..
    exact ite_background (.refl a) ((((h0.trans h1).trans h2).trans h3).trans (orUpdFlags_background ..))
  have hput : ∀ (a : State) n l f, a.background atFault SiteSt.tokens (put a n l f) := fun a n l f =>
    foldl_background _ (fun b x => ite_background (.refl b) ((storeSr_background ..).trans (orUpdFlags_background ..))) _ a
  clear_value put
  have hu : t.background atFault SiteSt.tokens u := ite_background ((hput ..).trans (hput ..)) (.refl t)
  exact (ht.trans hu).trans (foldl_background _ (fun a x => seal_background ..) _ _)
/-- The outcome of a group's verdict that PART.UPDATE and the record take: its step, L, code, and clean count. -/
def outcomeOf (rc : GroupRec) (verdict : Nat) : Nat × Nat × Nat × Nat :=
  let clean := rc.clean + 1
  let full := decide (rc.cleanLimit ≤ clean)
  match verdict with
  | 1 => (rc.t + 1, if full then min rc.lsMax (rc.L + 1) else rc.L, 1, if full then 0 else clean)
  | 2 => (rc.t, max rc.lsMin (rc.L - 1), 2, 0)
  | v => (rc.t, rc.L, v, rc.clean)
theorem outcomeOf_code (rc : GroupRec) (v : Nat) : (outcomeOf rc v).2.2.1 = v := by
  unfold outcomeOf
  split <;> rfl
/-- PART.UPDATE as a resolved group leaves it. -/
def updateWord (rc : GroupRec) (g v : Nat) : Word :=
  BitVec.ofNat 64 ((outcomeOf rc v).2.2.1 + g <<< 8 + (outcomeOf rc v).2.1 <<< 20 + ((outcomeOf rc v).1 % 2 ^ 32) <<< 32)
/-- What a verdict raises: a non-finite skip with the policy, an incomplete group. -/
def State.tellVerdict (s : State) (p v : Nat) : State :=
  match v with
  | 2 => (s.raise .nonfiniteSkip stewardNode (some p) 0).policy p 0 .nonfiniteSkip 0
  | 4 => s.raise .reduceIncomplete stewardNode (some p) 0
  | _ => s
theorem tellVerdict_background (s : State) (p v : Nat) : s.background atFault SiteSt.tokens (s.tellVerdict p v) := by
  unfold State.tellVerdict
  split
  · exact (raise_background ..).trans (policy_background ..)
  · exact raise_background ..
  · exact .refl s
theorem tellVerdict_getF (s : State) (p v : Nat) (g : RF) (i : Nat) (h : g.reg ∉ faultRegs) : (s.tellVerdict p v).getF g i = s.getF g i := by
  unfold State.tellVerdict
  split
  · rw [(policy_faultOnly ..).getF g i h, raise_getF]
  · rw [raise_getF]
  · rfl
/-- The record a group is resolved with: row 0 as the verdict read it. -/
def State.resolveRec (s : State) (p g row0 : Nat) : GroupRec := { (s.readRec p g).recOf p g with row0 := row0 }
/-- The streams of a group updated, where it commits. -/
def State.commitGroup (s : State) (p g : Nat) (u : UpdGroup) (rc : GroupRec) : State :=
  let sts := s.groupStreams p g
  let t := sts.foldl (fun s e => (paramRanges e.2 rc).foldl (fun s x => s.verifyAll ((s.blocksOf p x.1 x.2).getD []) 0) s) s
  sts.foldl (fun s e => s.updateStream p u rc e.1 e.2) t
/-- The sites of a group count what it did there. -/
def State.countSites (s : State) (l : List Nat) (commit : Bool) : State :=
  l.foldl (fun s m =>
    let s := if commit then s.bumpF F.ldgUpdStat_commits m 1 else s.bumpF F.ldgUpdStat_skips m 1
    s.setF F.ldgUpdStat_kelements m (min (2 ^ 32 - 1) ((s.site m).updated / 1024))) s
/-- All that a group's end does before PART.UPDATE shows it. -/
def State.endGroup (s : State) (p g v row0 : Nat) (u : UpdGroup) : State :=
  let rc := s.resolveRec p g row0
  let commit := decide (v = 1)
  let t := s.readRec p g
  let w := (((if commit then t.commitGroup p g u rc else t).openBlocks p g).countSites (t.groupSites p g) commit)
  w.engineWrite p (u.record + 64) 64
    (row1Of (outcomeOf rc v).1 (outcomeOf rc v).2.1 (outcomeOf rc v).2.2.1 (outcomeOf rc v).2.2.2)
theorem endGroup_background (s : State) (p g v row0 : Nat) (u : UpdGroup) : s.background atFault SiteSt.tokens (s.endGroup p g v row0 u) := by
  have hc : ∀ (t : State) rc, t.background atFault SiteSt.tokens (t.commitGroup p g u rc) := fun t rc =>
    (foldl_background _ (fun x _ => foldl_background _ (fun _ _ => verifyAll_background ..) _ x) _ t).trans
      (foldl_background _ (fun _ _ => updateStream_background ..) _ _)
  have hn : ∀ (t : State) l b, t.background atFault SiteSt.tokens (t.countSites l b) := fun t l b =>
    foldl_background _ (fun x m => (ite_background (bumpF_background ..) (bumpF_background ..)).trans (setF_background ..)) l t
  exact (((readRec_background s p g).trans (ite_background (hc ..) (.refl _))).trans (openBlocks_background ..)).trans
    ((hn ..).trans (engineWrite_background ..))
/-- A declared group resolves: beside the barriers, then PART.UPDATE, then its event. -/
theorem resolveGroup_eq {s : State} {p g : Nat} {u : UpdGroup} (h : s.groupOf p g = some u) (v row0 : Nat) :
    s.resolveGroup p g v row0 =
      ((s.endGroup p g v row0 u).setReg .partUpdate p (updateWord (s.resolveRec p g row0) g v)).tellVerdict p v := by
  unfold State.resolveGroup
  simp only [h]
  rfl
theorem resolveGroup_background (s : State) (p g v row0 : Nat) : s.background atFault SiteSt.tokens (s.resolveGroup p g v row0) := by
  cases h : s.groupOf p g with
  | none =>
    unfold State.resolveGroup
    rw [h]
    exact .refl s
  | some u =>
    rw [resolveGroup_eq h]
    exact ((endGroup_background ..).trans (setReg_background ..)).trans (tellVerdict_background ..)
theorem updateWord_outcome (rc : GroupRec) (g v : Nat) (hv : v < 8) : bits (updateWord rc g v) 0 3 = v := by
  rw [updateWord, outcomeOf_code, bits, BitVec.toNat_ofNat, Nat.shiftRight_zero]
  simp only [Nat.shiftLeft_eq]
  omega
theorem updateWord_group (rc : GroupRec) (g v : Nat) (hv : v < 8) (hg : g < 4096) : bits (updateWord rc g v) 8 12 = g := by
  rw [updateWord, outcomeOf_code, bits, BitVec.toNat_ofNat, Nat.shiftRight_eq_div_pow]
  simp only [Nat.shiftLeft_eq]
  omega
/-- A resolved group shows its outcome and its number (R273). -/
theorem resolveGroup_shows {s : State} {p g : Nat} {u : UpdGroup} (h : s.groupOf p g = some u) {v : Nat} (row0 : Nat) (hv : v < 8) (hg : g < 4096) :
    (s.resolveGroup p g v row0).getF F.partUpdate_outcome p = v ∧ (s.resolveGroup p g v row0).getF F.partUpdate_group p = g := by
  rw [resolveGroup_eq h, tellVerdict_getF _ _ _ _ _ (by decide), tellVerdict_getF _ _ _ _ _ (by decide)]
  have hr : ∀ (x : State) w (f : RF), f.reg = .partUpdate → (x.setReg .partUpdate p w).getF f p = bits w f.lo f.len := fun x w f hf => by
    rw [State.getF, hf, reg_setReg_same]
  rw [hr _ _ _ rfl, hr _ _ _ rfl]
  exact ⟨updateWord_outcome _ g v hv, updateWord_group _ g v hv hg⟩
theorem endIncomplete_background (s : State) (p : Nat) : s.background atFault SiteSt.tokens (s.endIncomplete p) := by
  unfold State.endIncomplete
  exact .trans (modPart_background s p (fun q => { q with resolving := [] }) (fun _ => by rfl))
    (foldl_background _ (fun t g => ite_background (resolveGroup_background ..) (.refl t)) _ _)
end Sys2Proof.Machine
end

section
/-! SUPPORT. What a core does at its release (R81, R93, R95, R153), and how a group ends (R273, R275); and the settling of O29. -/
namespace Sys2Proof.Machine
open Host

/-! ### The fresh micro-step (R81, R95, R153) -/
/-- A run of counters set to zero: those are zero, and nothing else differs. -/
theorem zeroRun_facts (l : List Nat) (s : State) (c : Nat) : let t := l.foldl (fun u n => u.setF F.seqCount_value (c * 64 + n) 0) s
    (∀ n ∈ l, t.getF F.seqCount_value (c * 64 + n) = 0) ∧ t = { s with regs := t.regs } ∧ (∀ r i, r ≠ .seqCount → t.reg r i = s.reg r i) ∧
    ∀ i, s.getF F.seqCount_value i = 0 → t.getF F.seqCount_value i = 0 := by
  induction l generalizing s with
  | nil => exact ⟨fun n h => absurd h List.not_mem_nil, rfl, fun _ _ _ => rfl, fun _ h => h⟩
  | cons a l ih =>
    obtain ⟨h1, h2, h3, h4⟩ := ih (s.setF F.seqCount_value (c * 64 + a) 0)
    have hz : ∀ i, (i = c * 64 + a ∨ s.getF F.seqCount_value i = 0) → (s.setF F.seqCount_value (c * 64 + a) 0).getF F.seqCount_value i = 0 := fun i hi => by
      by_cases he : i = c * 64 + a
      · rw [he, getF_setF_same _ _ _ _ (by decide)]
        rfl
      · rw [getF_setF_unit _ _ _ _ he]
        exact hi.resolve_left he
    refine ⟨fun n hn => ?_, ?_, fun r i hr => ?_, fun i hi => h4 i (hz i (Or.inr hi))⟩
    · rcases List.mem_cons.1 hn with rfl | hn
      · exact h4 _ (hz _ (Or.inl rfl))
      · exact h1 n hn
    · rw [List.foldl_cons, h2]
      rfl
    · rw [List.foldl_cons, h3 r i hr]
      exact reg_setF_ne _ _ _ _ _ (Or.inl hr)
theorem zeroCounts_facts (s : State) (c : Nat) : (∀ n < 64, (s.zeroCounts c).getF F.seqCount_value (c * 64 + n) = 0) ∧
    s.zeroCounts c = { s with regs := (s.zeroCounts c).regs } ∧ ∀ r i, r ≠ .seqCount → (s.zeroCounts c).reg r i = s.reg r i := by
  unfold State.zeroCounts
  generalize hl : rangeFrom 0 64 = l
  obtain ⟨h1, h2, h3, -⟩ := zeroRun_facts l s c
  exact ⟨fun n hn => h1 n (by rw [← hl]; exact mem_rangeFrom.2 (by omega)), h2, h3⟩
/-- What a core drops with its micro-step, once its counters are zero. -/
def State.dropMicroStep (s : State) (c : Nat) : State :=
  let s := s.setB F.arrStatus_tile_valid c false
  let s := ((s.setF F.intEpoch_deps c 0).setB F.intEpoch_dep_all c false).setB F.intEpoch_range c false
  s.modCore c (fun q => { q with
    tile := none, mark := none, atBar := none, deps := [], got := [], proven := [], sentLog := [], kept := [], retracted := [], offered := []
    inbound := [], epochEnd := [], boundSeq := q.nextSeq, suppress := none, overrun := false, releasedAt := s.now, epochFail := none })
theorem dropMicroStep_facts (s : State) (c : Nat) : let t := s.dropMicroStep c
    s.coreOnly t c [.arrStatus, .intEpoch] ∧ (t.core c).loops = (s.core c).loops ∧ (t.core c).tile = none ∧ (t.core c).mark = none ∧
    (t.core c).deps = [] := by
  dsimp only
  unfold State.dropMicroStep
  dsimp only
  have h : s.coreOnly ((((s.setB F.arrStatus_tile_valid c false).setF F.intEpoch_deps c 0).setB F.intEpoch_dep_all c false).setB
      F.intEpoch_range c false) c [.arrStatus, .intEpoch] :=
    ((((setF_coreOnly s c F.arrStatus_tile_valid _).mono (by decide)).trans ((setF_coreOnly _ c F.intEpoch_deps _).mono (by decide))).trans
      ((setF_coreOnly _ c F.intEpoch_dep_all _).mono (by decide))).trans ((setF_coreOnly _ c F.intEpoch_range _).mono (by decide))
  have hl : ((((s.setB F.arrStatus_tile_valid c false).setF F.intEpoch_deps c 0).setB F.intEpoch_dep_all c false).setB
      F.intEpoch_range c false).core c = s.core c := by simp only [State.setB_core, State.setF_core]
  generalize (((s.setB F.arrStatus_tile_valid c false).setF F.intEpoch_deps c 0).setB F.intEpoch_dep_all c false).setB
      F.intEpoch_range c false = u at h hl
  refine ⟨h.trans ((modCore_coreOnly u c _).mono (by simp)), ?_, ?_, ?_, ?_⟩
  all_goals rw [core_modCore_same]
  rw [hl]
theorem freshMicroStep_facts (s : State) (c : Nat) : let t := s.freshMicroStep c
    s.unitsOnly t ∧ (∀ n < 64, t.getF F.seqCount_value (c * 64 + n) = 0) ∧
    (∀ r i, r ∉ [Reg.seqCount, .arrStatus, .intEpoch] → t.reg r i = s.reg r i) ∧
    (t.core c).loops = (s.core c).loops ∧ (t.core c).tile = none ∧ (t.core c).mark = none ∧ (t.core c).deps = [] := by
  have he : s.freshMicroStep c = (s.zeroCounts c).dropMicroStep c := rfl
  obtain ⟨h1, h2, h3⟩ := zeroCounts_facts s c
  dsimp only
  rw [he]
  generalize s.zeroCounts c = u at *
  obtain ⟨k1, k2, k3⟩ := dropMicroStep_facts u c
  have hcs : u.cores = s.cores := by rw [h2]
  have hu : s.unitsOnly u := by
    unfold State.unitsOnly
    rw [hcs]
    exact h2
  have hcore : u.core c = s.core c := by rw [State.core, hcs, State.core]
  generalize u.dropMicroStep c = v at *
  refine ⟨hu.trans k1.unitsOnly, fun n hn => ?_, fun r i hr => ?_, by rw [k2, hcore], k3⟩
  · rw [k1.getF _ _ (by decide)]
    exact h1 n hn
  · simp only [List.mem_cons, List.not_mem_nil, or_false, not_or] at hr
    obtain ⟨a1, a2⟩ := hr
    rw [(k1.2.1 r i).resolve_right (fun e => by simp [a2] at e), h3 r i a1]

/-! ### Boundary state (R95, R329) -/
/-- The registers of a boundary state. -/
def boundaryRegs : List Reg := [.seqPc, .seqUstep, .seqTensorId, .arrInScale, .arrConvA, .arrConvB, .speThreshold]
theorem restoreBoundary_coreOnly (s : State) (c : Nat) (b : Boundary) : s.coreOnly (s.restoreBoundary c b) c boundaryRegs := by
  have hr : ∀ (u : State) (r : Reg) (v : Word), r ∈ boundaryRegs → u.coreOnly (u.setReg r c v) c boundaryRegs := fun u r v h =>
    (setReg_coreOnly u c r v).mono (by simpa using h)
  unfold State.restoreBoundary
  dsimp only
  refine .trans ?_ (hr _ .speThreshold _ (by decide))
  refine .trans ?_ (hr _ .arrConvB _ (by decide))
  refine .trans ?_ (hr _ .arrConvA _ (by decide))
  refine .trans ?_ (hr _ .arrInScale _ (by decide))
  refine .trans ?_ (hr _ .seqTensorId _ (by decide))
  refine .trans ?_ (hr _ .seqUstep _ (by decide))
  refine .trans ?_ (hr _ .seqUstep _ (by decide))
  exact .trans ((modCore_coreOnly s c _).mono (by simp)) (hr _ .seqPc _ (by decide))
theorem restoreBoundary_facts (s : State) (c : Nat) (b : Boundary) : let t := s.restoreBoundary c b
    t.core c = { s.core c with loops := b.loops, bound := b, held := none } ∧ t.getF F.seqPc_addr c = b.pc % 2 ^ 48 ∧
    t.getF F.seqUstep_number c = b.number % 2 ^ 32 := by
  dsimp only
  unfold State.restoreBoundary
  dsimp only
  refine ⟨?_, ?_, ?_⟩
  · simp only [State.setReg_core, State.setF_core, core_modCore_same]
  · rw [getF_setReg_ne _ _ _ _ _ (Or.inl (by decide)), getF_setReg_ne _ _ _ _ _ (Or.inl (by decide)), getF_setReg_ne _ _ _ _ _ (Or.inl (by decide)),
      getF_setReg_ne _ _ _ _ _ (Or.inl (by decide)), getF_setReg_ne _ _ _ _ _ (Or.inl (by decide)), getF_setF_ne _ _ _ _ _ _ (by decide),
      getF_setF_ne _ _ _ _ _ _ (by decide), getF_setF_same _ _ _ _ (by decide)]
    rfl
  · rw [getF_setReg_ne _ _ _ _ _ (Or.inl (by decide)), getF_setReg_ne _ _ _ _ _ (Or.inl (by decide)), getF_setReg_ne _ _ _ _ _ (Or.inl (by decide)),
      getF_setReg_ne _ _ _ _ _ (Or.inl (by decide)), getF_setReg_ne _ _ _ _ _ (Or.inl (by decide)), getF_setF_apart _ _ _ _ _ _ (by decide),
      getF_setF_same _ _ _ _ (by decide)]
    rfl
/-- Where no plan starts, the next boundary is past the barrier, in the next micro-step. -/
theorem nextBoundary_facts (s : State) (p c : Nat) (h : (s.part p).planMove = false) :
    (s.nextBoundary p c).pc = (closeLoops (s.getF F.seqPc_addr c + 8) (s.core c).loops).1 % 2 ^ 48 ∧
    (s.nextBoundary p c).loops = (closeLoops (s.getF F.seqPc_addr c + 8) (s.core c).loops).2 ∧
    (s.nextBoundary p c).number = (s.getF F.seqUstep_number c + 1) % 2 ^ 32 := by
  have hp : ∀ n, s.planStarts p n = false := fun n => by rw [State.planStarts, h, Bool.false_and]
  unfold State.nextBoundary
  simp only [hp]
  generalize (s.logicalOf p c).bind (s.program p) = x
  cases x <;> exact ⟨rfl, rfl, rfl⟩

/-! ### The mirror's commit (R352) -/
/-- Nothing a boundary state has differs, no message and no DRAM. -/
def State.mirrorKept (s t : State) (c : Nat) : Prop :=
  (∀ r i, r ≠ .intMirror → t.reg r i = s.reg r i) ∧ t.core c = { s.core c with mirrored := (t.core c).mirrored } ∧ t.ctl = s.ctl ∧ t.dram = s.dram
theorem State.mirrorKept.putRows {s t : State} {c : Nat} (h : s.mirrorKept t c) (r : Nat) (l : List Row) (b : Bool) :
    s.mirrorKept (t.putRows c r l b) c := by
  obtain ⟨h1, h2, h3, h4⟩ := h
  rw [putRows_spadOnly l t c r b]
  exact ⟨h1, h2, h3, h4⟩
theorem mirrorCommit_kept (s : State) (p c : Nat) : s.mirrorKept (s.mirrorCommit p c) c := by
  unfold State.mirrorCommit
  dsimp only
  split
  · exact ⟨fun _ _ _ => rfl, rfl, rfl, rfl⟩
  · refine State.mirrorKept.putRows ?_ _ _ _
    refine ⟨fun r i hr => ?_, ?_, rfl, rfl⟩
    · simp only [State.setB]
      rw [reg_setF_ne _ _ _ _ _ (Or.inl hr), reg_setF_ne _ _ _ _ _ (Or.inl hr), reg_setF_ne _ _ _ _ _ (Or.inl hr), State.modCore_reg]
    · simp only [State.setB_core, State.setF_core, core_modCore_same]

/-! ### The release at a core (R93, R95) -/
theorem boundaryOf_congr {s t : State} {c : Nat} (hr : ∀ r ∈ boundaryRegs, t.reg r c = s.reg r c) (hl : (t.core c).loops = (s.core c).loops) :
    t.boundaryOf c = s.boundaryOf c := by
  unfold State.boundaryOf State.getF
  rw [hl, hr F.seqPc_addr.reg (by decide), hr F.seqUstep_number.reg (by decide), hr F.seqUstep_epoch.reg (by decide), hr .seqTensorId (by decide),
    hr .arrInScale (by decide), hr .arrConvA (by decide), hr .arrConvB (by decide), hr .speThreshold (by decide)]
/-- A core past its STEP barrier, with its boundary state recorded, before the mirror's commit. -/
def State.leaveBarrier (s : State) (p c : Nat) : State :=
  let b := s.nextBoundary p c
  let homes := if s.planStarts p b.number then s.homeTable p else (s.core c).homes
  let s := (s.freshMicroStep c).restoreBoundary c b
  let b := s.boundaryOf c
  s.modCore c (fun q => { q with
    afterStep := true, homes := homes, bound := b, stepBound := if b.number = (s.part p).stepStart then b else q.stepBound })
/-- What a core past its STEP barrier has. -/
structure State.pastBarrier (s t : State) (c : Nat) : Prop where
  number : t.getF F.seqUstep_number c = (s.getF F.seqUstep_number c + 1) % 2 ^ 32
  counts : ∀ n < 64, t.getF F.seqCount_value (c * 64 + n) = 0
  moved : s.movedOn t c 1
  afterStep : (t.core c).afterStep = true
  tile : (t.core c).tile = none
  mark : (t.core c).mark = none
  deps : (t.core c).deps = []
  bound : (t.core c).bound = t.boundaryOf c
theorem leaveBarrier_facts (s : State) (p c : Nat) (h : (s.part p).planMove = false) :
    s.unitsOnly (s.leaveBarrier p c) ∧ s.pastBarrier (s.leaveBarrier p c) c := by
  obtain ⟨n1, n2, n3⟩ := nextBoundary_facts s p c h
  unfold State.leaveBarrier
  dsimp only
  generalize s.nextBoundary p c = b at *
  generalize (if s.planStarts p b.number then s.homeTable p else (s.core c).homes) = homes
  obtain ⟨f1, f2, f3, f4, f5, f6, f7⟩ := freshMicroStep_facts s c
  generalize s.freshMicroStep c = u at *
  have r1 := restoreBoundary_coreOnly u c b
  obtain ⟨r2, r3, r4⟩ := restoreBoundary_facts u c b
  generalize u.restoreBoundary c b = v at *
  generalize (v.part p).stepStart = start
  have hc := core_modCore_same v c (fun q => { q with
    afterStep := true, homes := homes, bound := v.boundaryOf c, stepBound := if (v.boundaryOf c).number = start then v.boundaryOf c else q.stepBound })
  have hm := modCore_coreOnly v c (fun q => { q with
    afterStep := true, homes := homes, bound := v.boundaryOf c, stepBound := if (v.boundaryOf c).number = start then v.boundaryOf c else q.stepBound })
  have hb := State.modCore_reg v c (fun q => { q with
    afterStep := true, homes := homes, bound := v.boundaryOf c, stepBound := if (v.boundaryOf c).number = start then v.boundaryOf c else q.stepBound })
  generalize v.modCore c _ = w at *
  have hg : ∀ g i, w.getF g i = v.getF g i := fun g i => by rw [State.getF, hb, State.getF]
  have hbo : w.boundaryOf c = v.boundaryOf c := boundaryOf_congr (fun r _ => hb r c) (by rw [hc])
  refine ⟨(f1.trans r1.unitsOnly).trans hm.unitsOnly, ?_, fun n hn => ?_, ⟨?_, ?_⟩, by rw [hc], ?_, ?_, ?_, by rw [hc, hbo]⟩
  · rw [hg, r4, n3, Nat.mod_mod]
  · rw [hg, r1.getF _ _ (by decide)]
    exact f2 n hn
  · rw [hg, r3, n1, Nat.mod_mod, Nat.mul_one]
  · rw [hc, r2, Nat.mul_one]
    exact n2
  · rw [hc, r2]
    exact f5
  · rw [hc, r2]
    exact f6
  · rw [hc, r2]
    exact f7
theorem execBarRelease_step {c : CoreIx} {m : Ctl} {tag g : Nat} {s : State} (hh : m.high = true) (hm : m.msg = .barRelease tag true g)
    (ho : s.ownerOf c = some m.part) : exec (.barRelease c m) s =
    .next ((((({ s with ctl := dropFirst m s.ctl } : State).leaveBarrier m.part c).mirrorCommit m.part c).setF F.seqStatus_state c stRunning).setPower c vRun) := by
  have hi : m.msg.isHigh = true := by rw [hm]; rfl
  have ho' : ({ s with ctl := dropFirst m s.ctl } : State).ownerOf c = some m.part := ho
  show execBarRelease c m s = _
  rw [execBarRelease, takeCtl_high _ _ (hh.trans hi.symm), if_neg (not_not.2 ho')]
  simp only [hm]
  rfl
theorem execBarRelease_group {c : CoreIx} {m : Ctl} {tag g : Nat} {s : State} (hh : m.high = true) (hm : m.msg = .barRelease tag false g)
    (ho : s.ownerOf c = some m.part) : exec (.barRelease c m) s =
    .next (((({ s with ctl := dropFirst m s.ctl } : State).modCore c (fun q => { q with atBar := none })).setF F.seqStatus_state c stRunning).advance c 1) := by
  have hi : m.msg.isHigh = true := by rw [hm]; rfl
  have ho' : ({ s with ctl := dropFirst m s.ctl } : State).ownerOf c = some m.part := ho
  show execBarRelease c m s = _
  rw [execBarRelease, takeCtl_high _ _ (hh.trans hi.symm), if_neg (not_not.2 ho')]
  simp only [hm]
theorem execBarRelease_foreign {c : CoreIx} {m : Ctl} {s : State} (hh : m.high = m.msg.isHigh) (ho : s.ownerOf c ≠ some m.part) :
    exec (.barRelease c m) s = .next { s with ctl := dropFirst m s.ctl } := by
  have ho' : ({ s with ctl := dropFirst m s.ctl } : State).ownerOf c ≠ some m.part := ho
  show execBarRelease c m s = _
  rw [execBarRelease, takeCtl_high _ _ hh, if_pos ho']
/-- What stays past the barrier while the mirror commits and the core runs again. -/
theorem State.pastBarrier.mono {s u t : State} {c : Nat} (h : s.pastBarrier u c) (hr : ∀ r i, r ∉ [Reg.intMirror, .seqStatus, .vregPoint] → t.reg r i = u.reg r i)
    (hc : t.core c = { u.core c with mirrored := (t.core c).mirrored }) : s.pastBarrier t c := by
  have hg : ∀ g i, g.reg ∉ [Reg.intMirror, .seqStatus, .vregPoint] → t.getF g i = u.getF g i := fun g i hgi => by rw [State.getF, hr _ _ hgi, State.getF]
  have hl : (t.core c).loops = (u.core c).loops := by rw [hc]
  have hb : t.boundaryOf c = u.boundaryOf c := boundaryOf_congr (fun r hm => hr r c (by revert r; decide)) hl
  refine ⟨(hg _ _ (by decide)).trans h.number, fun n hn => (hg _ _ (by decide)).trans (h.counts n hn),
    ⟨(hg _ _ (by decide)).trans h.moved.1, hl.trans h.moved.2⟩, ?_, ?_, ?_, ?_, ?_⟩
  · rw [hc]
    exact h.afterStep
  · rw [hc]
    exact h.tile
  · rw [hc]
    exact h.mark
  · rw [hc]
    exact h.deps
  · rw [hb, ← h.bound, hc]
/-- The STEP release at a core: past its barrier, with the mirror committed, and running (R95, R352, R469). -/
theorem stepRelease_facts (s : State) (p c : Nat) (h : (s.part p).planMove = false) :
    let t := (((s.leaveBarrier p c).mirrorCommit p c).setF F.seqStatus_state c stRunning).setPower c vRun
    s.pastBarrier t c ∧ t.getF F.seqStatus_state c = stRunning ∧ t.ctl = s.ctl ∧ t.dram = s.dram := by
  obtain ⟨h1, h2⟩ := leaveBarrier_facts s p c h
  dsimp only
  generalize s.leaveBarrier p c = u at *
  obtain ⟨k1, k2, k3, k4⟩ := mirrorCommit_kept u p c
  generalize u.mirrorCommit p c = v at *
  have f1 := setF_coreOnly v c F.seqStatus_state stRunning
  have f2 : (v.setF F.seqStatus_state c stRunning).getF F.seqStatus_state c = stRunning := by
    rw [getF_setF_same _ _ _ _ (by decide)]
    rfl
  have f3 : (v.setF F.seqStatus_state c stRunning).core c = v.core c := rfl
  generalize v.setF F.seqStatus_state c stRunning = w at *
  have g1 := setPower_coreOnly w c vRun
  have g2 := setPower_core w c vRun c
  generalize w.setPower c vRun = t at *
  have hr : ∀ r i, r ∉ [Reg.intMirror, .seqStatus, .vregPoint] → t.reg r i = u.reg r i := fun r i hri => by
    simp only [List.mem_cons, List.not_mem_nil, or_false, not_or] at hri
    obtain ⟨a1, a2, a3⟩ := hri
    rw [(g1.2.1 r i).resolve_right (fun e => a3 (List.mem_singleton.1 e.2)), (f1.2.1 r i).resolve_right (fun e => a2 (List.mem_singleton.1 e.2)), k1 r i a1]
  refine ⟨h2.mono hr (by rw [g2, f3]; exact k2), (g1.getF _ _ (by decide)).trans f2, ?_, ?_⟩
  · rw [g1.ctl, f1.ctl, k3]
    exact unitsOnly_ctl h1
  · rw [g1.memory.2.2.2.1, f1.memory.2.2.2.1, k4]
    exact h1.memory.2.2.2.1
/-- The GROUP release at a core: past its barrier and running, with no counter reset and no micro-step closed (R93). -/
theorem groupRelease_facts (s : State) (c : Nat) : let t := ((s.modCore c (fun q => { q with atBar := none })).setF F.seqStatus_state c stRunning).advance c 1
    t.getF F.seqStatus_state c = stRunning ∧ (∀ g i, g.reg ∉ [Reg.seqStatus, .seqPc] → t.getF g i = s.getF g i) ∧ s.movedOn t c 1 ∧
    (t.core c).atBar = none ∧ (t.core c).tile = (s.core c).tile ∧ s.unitsOnly t := by
  dsimp only
  have h1 := modCore_coreOnly s c (fun q => { q with atBar := none })
  have h2 := core_modCore_same s c (fun q => { q with atBar := none })
  generalize s.modCore c (fun q => { q with atBar := none }) = u at *
  have f1 := setF_coreOnly u c F.seqStatus_state stRunning
  have f2 : (u.setF F.seqStatus_state c stRunning).getF F.seqStatus_state c = stRunning := by
    rw [getF_setF_same _ _ _ _ (by decide)]
    rfl
  have f3 : (u.setF F.seqStatus_state c stRunning).core c = u.core c := rfl
  generalize u.setF F.seqStatus_state c stRunning = v at *
  obtain ⟨g1, g2, g3⟩ := advance_ready_facts v c 1
  obtain ⟨⟨g4, g5⟩, -⟩ := advance_movedOn v c 1
  generalize v.advance c 1 = t at *
  have hpc : v.getF F.seqPc_addr c = s.getF F.seqPc_addr c := (f1.getF _ _ (by decide)).trans (h1.getF _ _ (by decide))
  have hl : (v.core c).loops = (s.core c).loops := by rw [f3, h2]
  refine ⟨(g2 _ _ (by decide)).trans f2, fun g i hg => ?_, ⟨?_, ?_⟩, ?_, ?_, (h1.unitsOnly.trans f1.unitsOnly).trans g1⟩
  · simp only [List.mem_cons, List.not_mem_nil, or_false, not_or] at hg
    obtain ⟨a1, a2⟩ := hg
    rw [g2 g i a2, f1.getF g i (fun e => a1 (List.mem_singleton.1 e)), h1.getF g i (by simp)]
  · rw [g4, hpc, hl]
  · rw [g5, hpc, hl]
  · rw [g3, f3, h2]
  · rw [g3, f3, h2]

/-! ### How a group ends (R273, R275) -/
/-- A group that has resolved at this barrier. -/
def State.markResolved (s : State) (p g : Nat) : State := s.modPart p (fun q => { q with
  prepared := q.prepared.filter (fun e => e.1 ≠ g), resolving := q.resolving.filter (fun e => e.1 ≠ g), resolved := q.resolved ++ [g] })
theorem execGroupResolved_eq {p : PartIx} {g : BitVec 12} {v row0 : Nat} {s : State}
    (h : (s.part p).resolving.find? (fun e => e.1 = g.toNat) = some (g.toNat, v, row0)) (hm : s.mayResolve p g.toNat v = true) :
    exec (.groupResolved p g []) s = .next (((s.resolveGroup p g.toNat v row0).markResolved p g.toNat).tryRelease p) := by
  show execGroupResolved p g [] s = _
  unfold execGroupResolved
  simp only [h, hm]
  rfl
theorem tryRelease_none {s : State} {p : Nat} (h : (s.part p).arrivals = none) : s.tryRelease p = s := by
  unfold State.tryRelease
  simp only [h]
theorem execPrepared_eq {f : KlFrame} {g : Nat} {s : State} (h : f.body = .prepared g) : exec (.prepared f) s =
    .next ((s.takeFrame f).modPart f.part (fun q => { q with
      prepared := if q.prepared.contains (g, f.src) then q.prepared else q.prepared ++ [(g, f.src)] })) := by
  show execPrepared f s = _
  unfold execPrepared
  simp only [h]
/-- Settles O29. -/
theorem releasesAndOutcomes : Obligations.ReleasesAndOutcomes := by
  refine ⟨fun c m tag g s hh => ⟨fun b hm ho => ?_, fun hm ho hp => ?_, fun hm ho => ?_⟩,
    fun p g v row0 u s hf hm hg ha hv1 hv4 => ?_, fun f g s hb => ?_⟩
  · exact execBarRelease_foreign (by rw [hh, hm]; rfl) ho
  · obtain ⟨h1, h2, h3, h4⟩ := stepRelease_facts { s with ctl := dropFirst m s.ctl } m.part c hp
    exact ⟨_, execBarRelease_step hh hm ho, h2, h1.number, h1.counts, h1.moved, h1.afterStep, h1.tile, h1.bound, h1.mark, h1.deps, h3, h4⟩
  · obtain ⟨h1, h2, h3, h4, h5, h6⟩ := groupRelease_facts { s with ctl := dropFirst m s.ctl } c
    exact ⟨_, execBarRelease_group hh hm ho, h1, h2 _ _ (by decide), fun n => h2 _ _ (by decide), h3, h4, h5, unitsOnly_ctl h6, h6.memory⟩
  · have he := execGroupResolved_eq hf hm
    obtain ⟨k1, k2⟩ := resolveGroup_shows hg row0 (show v < 8 by omega) g.isLt
    obtain ⟨-, -, b3, -, b4⟩ := resolveGroup_background s p g.toNat v row0
    have hb := atRoot_of_atFault (b3 p)
    have hs := congrArg Prod.fst b4
    generalize s.resolveGroup p g.toNat v row0 = t at *
    have hpart : (t.markResolved p g.toNat).part p = { t.part p with
        prepared := (t.part p).prepared.filter (fun e => e.1 ≠ g.toNat), resolving := (t.part p).resolving.filter (fun e => e.1 ≠ g.toNat)
        resolved := (t.part p).resolved ++ [g.toNat] } := part_modPart_same ..
    rw [tryRelease_none (by rw [hpart]; exact (arrivals_of_atRoot hb).trans ha)] at he
    refine ⟨_, he, k1, k2, ?_, ?_, hs⟩
    · rw [hpart, ← resolved_of_atRoot hb]
    · rw [hpart]
      simp
  · refine ⟨_, execPrepared_eq hb, ?_, rfl, ⟨rfl, rfl, rfl, rfl, rfl, rfl⟩⟩
    rw [part_modPart_same]
    dsimp only
    split
    next h => exact h
    next => simp
end Sys2Proof.Machine
end

section
/-! SUPPORT. Tokens at a home and messages of the control net (R104, R258, R304, R339, R342, R343), and the settling of O30. -/
namespace Sys2Proof.Machine
open Host

/-! ### A home tends its blocks beside the barriers (R254, R258) -/
theorem setRed_background {α : Type} {f : PartSt → α} (s : State) (m : Nat) (r : RedBlk) : s.background f SiteSt.tokens (s.setRed m r) :=
  modSite_background _ _ _ (fun _ => by rfl)
theorem keepBlk_background (s : State) (m p : Nat) (st : Stream) (r : RedBlk) : s.background atFault SiteSt.tokens (s.keepBlk m p st r) :=
  (setRed_background ..).trans (showBlk_background ..)
theorem ackClosed_background (s : State) (m p i : Nat) (st : Stream) (b : Nat) : s.background atFault SiteSt.tokens (s.ackClosed m p i st b) := by
  refine foldl_background _ (fun t k => ?_) _ s
  split
  · exact .refl t
  · exact ite_background ((foldl_background _ (fun _ _ => setRed_background ..) _ t).trans (injectAll_background ..)) (.refl t)
section
variable {α β : Type} {f : PartSt → α} {g : SiteSt → β}
theorem emit_background (s : State) (o : Out) : s.background f g (s.emit o) := .of_eq rfl rfl rfl rfl rfl
theorem setConn_background (s : State) (c : Conn) : s.background f g (s.setConn c) := by
  unfold State.setConn
  exact ite_background (.of_eq rfl rfl rfl rfl rfl) (.of_eq rfl rfl rfl rfl rfl)
theorem sendOn_background (s : State) (c : Conn) (x : KlFrame) : s.background f g (s.sendOn c x) := by
  unfold State.sendOn
  exact ite_background (emit_background ..) (ite_background (setConn_background ..) ((setConn_background ..).trans (emit_background ..)))
theorem toPeers_background (s : State) (p : Nat) (body : KlBody) (poison : Bool) : s.background f g (s.toPeers p body poison) := by
  refine foldl_background _ (fun t e => ?_) _ s
  unfold State.klSend
  cases t.route p e.2 with
  | none => exact .refl t
  | some c => exact sendOn_background ..
theorem sendSum_background (s : State) (p i : Nat) (st : Stream) (r : RedBlk) : s.background f g (s.sendSum p i st r) := by
  unfold State.sendSum
  dsimp only
  split
  · exact ite_background (toPeers_background ..) (toPeers_background ..)
  · exact toPeers_background ..
theorem resumTensor_background (s : State) (m p i : Nat) (st : Stream) (b : Nat) : s.background f g (s.resumTensor m p i st b) := by
  unfold State.resumTensor
  exact ite_background (.refl s) (foldl_background _ (fun _ _ => sendSum_background ..) _ s)
theorem beforeClose_background (s : State) (m p i : Nat) (st : Stream) (b : Nat) (r : RedBlk) : s.background f g (s.beforeClose m p i st b r) := by
  unfold State.beforeClose
  exact .trans (ite_background (sendSum_background ..) (.refl s)) (ite_background (resumTensor_background ..) (.refl _))
end
theorem closeOn_background (s : State) (m p i : Nat) (st : Stream) (b : Nat) (r : RedBlk) (l : List (Nat × Nat)) :
    s.background atFault SiteSt.tokens (s.closeOn m p i st b r l) := by
  unfold State.closeOn
  exact ite_background (((keepBlk_background ..).trans (bumpF_background ..)).trans (ackClosed_background ..)) (.refl s)
theorem tryClose_background (s : State) (m p i : Nat) (st : Stream) (b : Nat) : s.background atFault SiteSt.tokens (s.tryClose m p i st b) := by
  rw [tryClose_eq]
  exact ite_background (.refl s) (((beforeClose_background ..).trans (setRed_background ..)).trans (closeOn_background ..))
/-- A home with a token kept. -/
def State.keepToken (s : State) (m p core epoch : Nat) (pass : Bool) : State := s.modSite m (fun q => { q with
  tokens := if q.tokens.contains (p, core, epoch, pass) then q.tokens else q.tokens ++ [(p, core, epoch, pass)]
  provs := if pass then q.provs.filter (fun e => ¬ (e.2.1 = p ∧ e.2.2.1 = core ∧ e.2.2.2.1 = epoch)) else q.provs })
theorem keepToken_contains (s : State) (m p core epoch : Nat) (pass : Bool) :
    ((s.keepToken m p core epoch pass).site m).tokens.contains (p, core, epoch, pass) = true := by
  rw [State.keepToken, site_modSite_same]
  dsimp only
  split
  next h => exact h
  next => simp
theorem homeToken_fail (s : State) (m p core epoch : Nat) : s.homeToken m p core epoch false = s.keepToken m p core epoch false := rfl
/-- Beside keeping its token a home only tends its blocks. -/
theorem homeToken_background (s : State) (m p core epoch : Nat) (pass : Bool) :
    (s.keepToken m p core epoch pass).background atFault SiteSt.tokens (s.homeToken m p core epoch pass) := by
  unfold State.homeToken
  extract_lets t touched
  have ht : t = s.keepToken m p core epoch pass := rfl
  rw [← ht]
  clear_value t
  refine ite_background (.refl t) (foldl_background _ (fun u r => ?_) _ t)
  extract_lets
  split
  · exact (keepBlk_background ..).trans (tryClose_background ..)
  · exact setRed_background ..
theorem homeToken_facts (s : State) (m p core epoch : Nat) (pass : Bool) :
    ((s.homeToken m p core epoch pass).site m).tokens.contains (p, core, epoch, pass) = true ∧ (s.homeToken m p core epoch pass).spad = s.spad := by
  obtain ⟨-, -, -, h4, h5⟩ := homeToken_background s m p core epoch pass
  exact ⟨by rw [h4 m]; exact keepToken_contains .., congrArg Prod.fst h5⟩

/-! ### Tokens (R339, R342, R343) -/
theorem execProofToken_eq {m : Ctl} {core e : Nat} {pass : Bool} {s : State} (hm : m.msg = .proofToken core e pass) (hh : m.high = true) :
    let u : State := { s with ctl := dropFirst m s.ctl }
    exec (.proofToken m) s = .next (
      if m.dst = stewardNode then (u.modPart m.part (fun q => { q with
        tokens := if q.tokens.contains (core, e, pass) then q.tokens else q.tokens ++ [(core, e, pass)] })).tryRelease m.part
      else if 0x1000 ≤ m.dst ∧ m.dst < 0x1028 then u.homeToken (m.dst - 0x1000) m.part core e pass
      else if 0x1040 ≤ m.dst ∧ m.dst < 0x1048 then u.forwardToken m.part (m.dst - 0x1040) core e pass false
      else if m.dst < 4096 ∧ pass ∧ u.ownerOf m.dst = some m.part then
        u.modCore m.dst (fun q => { q with proven := if q.proven.contains (core, e) then q.proven else q.proven ++ [(core, e)] })
      else u) := by
  have hi : m.msg.isHigh = true := by rw [hm]; rfl
  show execProofToken m s = _
  rw [execProofToken, takeCtl_high _ _ (hh.trans hi.symm)]
  simp only [hm]
theorem execRetractToken_eq {m : Ctl} {core e : Nat} {pass : Bool} {s : State} (hm : m.msg = .retractToken core e pass) (hh : m.high = true)
    {h : Nat} (hd : m.dst = siteNode h) (hl : h < 40) :
    exec (.retractToken m) s = .next (({ s with ctl := dropFirst m s.ctl } : State).keepToken h m.part core e false) := by
  have hi : m.msg.isHigh = true := by rw [hm]; rfl
  have hn : m.dst = 4096 + h := hd
  show execRetractToken m s = _
  rw [execRetractToken, takeCtl_high _ _ (hh.trans hi.symm)]
  simp only [hm]
  rw [if_pos (by omega), hn, Nat.add_sub_cancel_left, homeToken_fail]
theorem execProofToken_root {m : Ctl} {core e : Nat} {pass : Bool} {s : State} (hm : m.msg = .proofToken core e pass) (hh : m.high = true)
    (hd : m.dst = stewardNode) (ha : (s.part m.part).arrivals = none) : exec (.proofToken m) s =
    .next (({ s with ctl := dropFirst m s.ctl } : State).modPart m.part (fun q => { q with
        tokens := if q.tokens.contains (core, e, pass) then q.tokens else q.tokens ++ [(core, e, pass)] })) := by
  have he := execProofToken_eq (s := s) hm hh
  dsimp only at he
  rw [if_pos hd, tryRelease_none (by rw [part_modPart_same]; exact ha)] at he
  exact he
theorem execProofToken_home {m : Ctl} {core e : Nat} {pass : Bool} {s : State} (hm : m.msg = .proofToken core e pass) (hh : m.high = true)
    {h : Nat} (hd : m.dst = siteNode h) (hl : h < 40) :
    exec (.proofToken m) s = .next (({ s with ctl := dropFirst m s.ctl } : State).homeToken h m.part core e pass) := by
  have hn : m.dst = 4096 + h := hd
  have he := execProofToken_eq (s := s) hm hh
  dsimp only at he
  rw [if_neg (by rw [hn, stewardNode]; omega), if_pos (by omega), hn, Nat.add_sub_cancel_left] at he
  exact he
theorem execProofToken_core {m : Ctl} {core e : Nat} {pass : Bool} {s : State} (hm : m.msg = .proofToken core e pass) (hh : m.high = true)
    {d : CoreIx} (hd : m.dst = d.val) : exec (.proofToken m) s = .next (
      if pass = true ∧ s.ownerOf d = some m.part then ({ s with ctl := dropFirst m s.ctl } : State).modCore d (fun q => { q with
        proven := if q.proven.contains (core, e) then q.proven else q.proven ++ [(core, e)] })
      else { s with ctl := dropFirst m s.ctl }) := by
  have hlt : d.val < 4096 := d.isLt
  have he := execProofToken_eq (s := s) hm hh
  dsimp only at he
  rw [if_neg (by rw [hd, stewardNode]; omega), if_neg (by omega), if_neg (by omega), hd] at he
  rw [he]
  congr 1
  exact if_congr (and_iff_right hlt) rfl rfl
/-- A core's token goes to the root alone where no consumer waits for it (R342). -/
theorem execProofTokenSend_root {c : CoreIx} {epoch : BitVec 16} {pass : Bool} {s : State}
    (hv : (s.core c).verdicts.find? (fun v => decide (v.1 = epoch.toNat)) = some (epoch.toNat, pass)) (ht : (s.core c).tags = [])
    (hc : (s.core c).consumers = []) : exec (.proofTokenSend c epoch) s =
    .next ((s.modCore c (fun q => { q with verdicts := q.verdicts.filter (fun v => v.1 ≠ epoch.toNat)
                                           consumers := q.consumers.filter (fun v => v.1 ≠ epoch.toNat) })).send
      (.proofToken ((s.logicalOf ((s.ownerOf c).getD 255) c).getD 0) epoch.toNat pass) ((s.ownerOf c).getD 255) stewardNode c) := by
  show execProofTokenSend c epoch s = _
  unfold execProofTokenSend
  simp only [hv, ht, hc]
  rfl

/-! ### Messages of the control net (R97, R104, R304) -/
/-- The last alias update of a partition has reached its core. -/
def State.lastAlias (s : State) (p : Nat) : Bool := !s.ctl.any (fun k => decide (k.part = p) && (match k.msg with
  | .aliasUpdate _ _ _ => true
  | _ => false))
theorem execAliasUpdate_eq {c : CoreIx} {m : Ctl} {e new gen : Nat} {s : State} (hm : m.msg = .aliasUpdate e new gen) (hh : m.high = true) :
    exec (.aliasUpdate c m) s = .next (
      let u := ({ s with ctl := dropFirst m s.ctl } : State).modCore c (fun q => { q with xlat := Tab.put (fun _ => 0) e new q.xlat })
      if !u.lastAlias m.part then u else u.setB F.partAliasGen_busy m.part false) := by
  have hi : m.msg.isHigh = true := by rw [hm]; rfl
  show execAliasUpdate c m s = _
  rw [execAliasUpdate, takeCtl_high _ _ (hh.trans hi.symm)]
  simp only [hm, State.lastAlias, Bool.not_not] <;> rfl
theorem lastAlias_of_none {s : State} {p : Nat} (h : s.ctl.all (fun k => decide (k.part ≠ p)) = true) : s.lastAlias p = true := by
  rw [State.lastAlias, Bool.not_eq_true', List.any_eq_false]
  intro k hk
  have hp : k.part ≠ p := by simpa using List.all_eq_true.1 h k hk
  simp [hp]
/-- The root takes a PAUSE's hold with the pauses it asks for (R389). -/
theorem execHold_pause {p : PartIx} {m : Ctl} {s : State} (hm : m.msg = .hold 0) (hh : m.high = true) (ha : (s.part p).arrivals = none) :
    exec (.hold p m) s = .next (({ s with ctl := dropFirst m s.ctl } : State).modPart p (fun q => { q with
      pausePend := q.pausePend ++ q.pauseAsked, pauseAsked := [] })) := by
  have hi : m.msg.isHigh = true := by rw [hm]; rfl
  show execHold p m s = _
  rw [execHold, takeCtl_high _ _ (hh.trans hi.symm)]
  simp only [hm]
  rw [tryRelease_none (by rw [part_modPart_same]; exact ha)]
theorem execHold_recovery {p : PartIx} {m : Ctl} {s : State} (hm : m.msg = .hold 1) (hh : m.high = true) :
    exec (.hold p m) s = .next { s with ctl := dropFirst m s.ctl } := by
  have hi : m.msg.isHigh = true := by rw [hm]; rfl
  show execHold p m s = _
  rw [execHold, takeCtl_high _ _ (hh.trans hi.symm)]
  simp only [hm]
/-- A message whose priority disagrees with its type is counted where it was injected, and nothing else comes of it (R304). -/
theorem takeCtl_dropped {m : Ctl} (s : State) (f : State → State) (h : m.high ≠ m.msg.isHigh) (hs : m.src < 4096) :
    s.takeCtl m f = ({ s with ctl := dropFirst m s.ctl } : State).bumpF F.rtrCnStat_dropped m.src 1 := by
  rw [State.takeCtl, if_neg h, if_pos hs]
theorem proofTokens_spec (m : Ctl) (core e : Nat) (pass : Bool) (s : State) (hh : m.high = true) :
    (m.msg = .proofToken core e pass → m.dst = stewardNode → (s.part m.part).arrivals = none →
      ∃ t, exec (.proofToken m) s = .next t ∧ (t.part m.part).tokens.contains (core, e, pass) = true ∧ t.ctl = dropFirst m s.ctl ∧ s.sameMemory t) ∧
    (∀ h < 40, m.msg = .proofToken core e pass → m.dst = siteNode h →
      ∃ t, exec (.proofToken m) s = .next t ∧ (t.site h).tokens.contains (m.part, core, e, pass) = true ∧ t.spad = s.spad) ∧
    (∀ d : CoreIx, m.msg = .proofToken core e pass → m.dst = d.val → ∃ t, exec (.proofToken m) s = .next t ∧
      t = { s with ctl := dropFirst m s.ctl, cores := t.cores } ∧
      (pass = true → s.ownerOf d = some m.part → (t.core d).proven.contains (core, e) = true) ∧
      (pass = false ∨ s.ownerOf d ≠ some m.part → t.cores = s.cores)) ∧
    (∀ h < 40, m.msg = .retractToken core e pass → m.dst = siteNode h →
      ∃ t, exec (.retractToken m) s = .next t ∧ (t.site h).tokens.contains (m.part, core, e, false) = true ∧ s.sameMemory t) := by
  refine ⟨fun hm hd ha => ?_, fun h hl hm hd => ?_, fun d hm hd => ?_, fun h hl hm hd => ?_⟩
  · refine ⟨_, execProofToken_root hm hh hd ha, ?_, rfl, ⟨rfl, rfl, rfl, rfl, rfl, rfl⟩⟩
    rw [part_modPart_same]
    dsimp only
    split
    next h => exact h
    next => simp
  · obtain ⟨h1, h2⟩ := homeToken_facts { s with ctl := dropFirst m s.ctl } h m.part core e pass
    exact ⟨_, execProofToken_home hm hh hd hl, h1, h2⟩
  · have he := execProofToken_core (s := s) hm hh hd
    by_cases hc : pass = true ∧ s.ownerOf d = some m.part
    · rw [if_pos hc] at he
      refine ⟨_, he, rfl, fun _ _ => ?_, fun hn => absurd hc (by rcases hn with hn | hn <;> simp [hn])⟩
      rw [core_modCore_same]
      dsimp only
      split
      next h => exact h
      next => simp
    · rw [if_neg hc] at he
      exact ⟨_, he, rfl, fun hp ho => absurd ⟨hp, ho⟩ hc, fun _ => rfl⟩
  · exact ⟨_, execRetractToken_eq hm hh hd hl, keepToken_contains .., ⟨rfl, rfl, rfl, rfl, rfl, rfl⟩⟩
/-- Settles O30. -/
theorem tokensAndMessages : Obligations.TokensAndMessages := by
  refine ⟨⟨fun c epoch pass s hv ht hc => ?_, fun m core e pass s hh => proofTokens_spec m core e pass s hh⟩,
    fun c m e new gen s hm hh => ?_, fun p m s hh => ⟨fun hm ha => ?_, fun hm => execHold_recovery hm hh⟩, fun c m s hh hi hs i hmem => ?_⟩
  · refine ⟨_, execProofTokenSend_root hv ht hc, ?_, send_ctl_congr rfl rfl .., rfl, ⟨rfl, rfl, rfl, rfl, rfl, rfl⟩⟩
    rw [State.send_core, core_modCore_same]
  · have he := execAliasUpdate_eq (s := s) (c := c) hm hh
    dsimp only at he
    have hx : ((({ s with ctl := dropFirst m s.ctl } : State).modCore c (fun q => { q with xlat := Tab.put (fun _ => 0) e new q.xlat })).core c).xlat =
        Tab.put (fun _ => 0) e new (s.core c).xlat := by
      rw [core_modCore_same]
      rfl
    have hc : (({ s with ctl := dropFirst m s.ctl } : State).modCore c (fun q => { q with xlat := Tab.put (fun _ => 0) e new q.xlat })).ctl =
        dropFirst m s.ctl := rfl
    have hmem : s.sameMemory (({ s with ctl := dropFirst m s.ctl } : State).modCore c (fun q => { q with xlat := Tab.put (fun _ => 0) e new q.xlat })) :=
      ⟨rfl, rfl, rfl, rfl, rfl, rfl⟩
    generalize ({ s with ctl := dropFirst m s.ctl } : State).modCore c (fun q => { q with xlat := Tab.put (fun _ => 0) e new q.xlat }) = u at *
    by_cases hl : u.lastAlias m.part = true
    · rw [if_neg (by simp [hl])] at he
      refine ⟨_, he, ?_, hc, fun _ => getF_setB_same _ _ _ _ (by decide) (by decide), hmem⟩
      rw [State.setB_core, hx, Tab.get_put_same]
    · rw [if_pos (by simpa using hl)] at he
      refine ⟨_, he, by rw [hx, Tab.get_put_same], hc, fun hall => absurd (lastAlias_of_none (by rw [hc]; exact hall)) hl, hmem⟩
  · refine ⟨_, execHold_pause hm hh ha, ?_, ?_, rfl, ⟨rfl, rfl, rfl, rfl, rfl, rfl⟩⟩
    · rw [part_modPart_same]
      rfl
    · rw [part_modPart_same]
  · refine ⟨({ s with ctl := dropFirst m s.ctl } : State).bumpF F.rtrCnStat_dropped m.src 1, ?_, rfl, rfl, rfl, getF_bumpF_same _ _ _ _ (by decide)⟩
    have hd : m.high ≠ m.msg.isHigh := by rw [hh, hi]; decide
    simp only [List.mem_cons, List.not_mem_nil, or_false] at hmem
    rcases hmem with rfl | rfl | rfl | rfl
    all_goals exact congrArg Outcome.next (takeCtl_dropped s _ hd hs)
end Sys2Proof.Machine
end


section
/-! SUPPORT. The vector unit: operands read and written, the lanes of an element-wise operation, and O8. -/
namespace Sys2Proof.Machine
open Host

/-! ### Operands in scratchpad rows (R111) -/

theorem Fmt.pitch_pos (f : Fmt) : 0 < f.pitch := by unfold Fmt.pitch; split_ifs <;> decide
/-- The 64 elements of a vector fit the rows it takes. -/
theorem Fmt.width_le_pitch (f : Fmt) : f.width * 64 ≤ 512 * f.pitch := by cases f <;> decide
/-- A vector's data comes from its own rows alone. -/
theorem vecCodes_congr {s t : State} {c r v : Nat} {f : Fmt}
    (h : ∀ k, r + v * f.pitch ≤ k → k < r + v * f.pitch + f.pitch → t.row c k = s.row c k) : t.vecCodes c r f v = s.vecCodes c r f v := by
  have hr : t.rows c (r + v * f.pitch) f.pitch = s.rows c (r + v * f.pitch) f.pitch :=
    congrArg ofRows (List.map_congr_left fun k hk => h k (mem_rangeFrom.1 hk).1 (mem_rangeFrom.1 hk).2)
  rw [State.vecCodes, hr, State.vecCodes]
/-- And so does its poison. -/
theorem vecPoison_congr {s t : State} {c r v : Nat} {f : Fmt}
    (h : ∀ k, r + v * f.pitch ≤ k → k < r + v * f.pitch + f.pitch → t.rowPoison c k = s.rowPoison c k) : t.vecPoison c r f v = s.vecPoison c r f v :=
  Bool.eq_iff_iff.2 (by
    simp only [State.vecPoison, State.rowsPoison, List.any_eq_true]
    exact exists_congr fun k => and_congr_right fun hk => by rw [h k (mem_rangeFrom.1 hk).1 (mem_rangeFrom.1 hk).2])
/-- A vector apart from the rows written keeps its data and its poison. -/
theorem State.rowsBut.vector {s t : State} {c r n a v : Nat} {f : Fmt} (h : s.rowsBut t c r n) (hk : a + v * f.pitch + f.pitch ≤ 262144)
    (hap : rowsApart (a + v * f.pitch) f.pitch r n) : t.vecCodes c a f v = s.vecCodes c a f v ∧ t.vecPoison c a f v = s.vecPoison c a f v :=
  ⟨vecCodes_congr fun k h1 h2 => (h c k (by omega) (by omega)).1, vecPoison_congr fun k h1 h2 => (h c k (by omega) (by omega)).2⟩
theorem State.sameMemory.vector {s t : State} (h : s.sameMemory t) (c a v : Nat) (f : Fmt) :
    t.vecCodes c a f v = s.vecCodes c a f v ∧ t.vecPoison c a f v = s.vecPoison c a f v :=
  ⟨vecCodes_congr fun k _ _ => row_of_memory h c k, vecPoison_congr fun k _ _ => rowPoison_of_memory h c k⟩
/-- The rows of a run just written, as one number. -/
theorem rows_putRows (s : State) (c r : Nat) (l : List Row) (p : Bool) (h : r + l.length ≤ 262144) :
    (s.putRows c r l p).rows c r l.length = ofRows l := by
  refine congrArg ofRows (List.ext_getElem? fun k => ?_)
  rw [rangeFrom_eq_range', List.getElem?_map]
  by_cases hk : k < l.length
  · rw [List.getElem?_range' hk, Option.map_some, (putRows_spec l s c r p c _ h (by omega)).1, if_pos (by omega)]
    simp [hk]
  · rw [List.getElem?_eq_none (by simpa using hk), List.getElem?_eq_none (by omega), Option.map_none]
/-- A vector written is read back element by element, with the poison it was written with; only its rows have changed. -/
theorem putVec_spec (s : State) (c r v : Nat) (f : Fmt) (l : List Nat) (p : Bool) (hl : l.length = 64)
    (h : r + v * f.pitch + f.pitch ≤ 262144) : let t := s.putVec c r f v l p
    s.spadOnly t ∧ s.rowsBut t c (r + v * f.pitch) f.pitch ∧ t.vecCodes c r f v = l.map (· % 2 ^ f.width) ∧ t.vecPoison c r f v = p := by
  intro t
  have hn := toRows_length (pack f.width l) f.pitch
  have hb : s.rowsBut t c (r + v * f.pitch) f.pitch := by
    have := putRows_rowsBut s c (r + v * f.pitch) (toRows (pack f.width l) f.pitch) p (by omega)
    rw [hn] at this
    exact this
  have hd : t.rows c (r + v * f.pitch) f.pitch = pack f.width l := by
    have := rows_putRows s c (r + v * f.pitch) (toRows (pack f.width l) f.pitch) p (by omega)
    rw [hn, ofRows_toRows, Nat.mod_eq_of_lt] at this
    · exact this
    · exact (pack_lt f.width l).trans_le (Nat.pow_le_pow_right (by decide) (hl ▸ f.width_le_pitch))
  refine ⟨putRows_spadOnly .., hb, ?_, ?_⟩
  · rw [State.vecCodes, hd]
    refine List.ext_getElem? fun i => ?_
    rw [rangeFrom_eq_range', List.getElem?_map, List.getElem?_map]
    by_cases hi : i < 64
    · have hi' : l[i]? = some (l[i]'(hl ▸ hi)) := List.getElem?_eq_getElem _
      rw [List.getElem?_range' hi, hi', Option.map_some, Option.map_some, Nat.zero_add, Nat.one_mul, elem_pack _ _ _ _ hi']
    · rw [List.getElem?_eq_none (by simpa using hi), List.getElem?_eq_none (by omega)]
      rfl
  · have hp : ∀ k, r + v * f.pitch ≤ k → k < r + v * f.pitch + f.pitch → t.rowPoison c k = p := fun k h1 h2 =>
      (putRows_spec (toRows (pack f.width l) f.pitch) s c (r + v * f.pitch) p c k (by omega) (by omega)).2.trans (if_pos (by omega))
    have := f.pitch_pos
    cases p with
    | true => exact List.any_eq_true.2 ⟨_, mem_rangeFrom.2 ⟨le_rfl, by omega⟩, hp _ le_rfl (by omega)⟩
    | false =>
      refine List.any_eq_false.2 fun k hk => ?_
      rw [hp k (mem_rangeFrom.1 hk).1 (mem_rangeFrom.1 hk).2]
      decide

/-! ### The lanes of an element-wise operation (R84) -/

/-- The rows at which an operation of `nops` operands reads. -/
def VecF.reads (f : VecF) (nops r : Nat) : Prop := r = f.a ∨ (2 ≤ nops ∧ r = f.b) ∨ (3 ≤ nops ∧ r = f.cc)
theorem VecF.reads_all {f : VecF} {nops : Nat} {P : Nat → Prop} (ha : P f.a) (hb : 2 ≤ nops → P f.b) (hc : 3 ≤ nops → P f.cc) :
    ∀ r, f.reads nops r → P r := by
  rintro r (rfl | ⟨h, rfl⟩ | ⟨h, rfl⟩)
  · exact ha
  · exact hb h
  · exact hc h
/-- The results of vector `v`, code and flags. -/
def State.vecOut (u : State) (c : Nat) (f : VecF) (fi fo : Fmt) (nops : Nat) (g : LaneFn) (v : Nat) : List (Nat × Flags) :=
  (rangeFrom 0 64).map (u.elemOut c f fi fo nops g v)
/-- The poison of vector `v` of the operands. -/
def State.vecPo (u : State) (c : Nat) (f : VecF) (fi : Fmt) (nops v : Nat) : Bool :=
  u.vecPoison c f.a fi v || (decide (2 ≤ nops) && u.vecPoison c f.b fi v) || (decide (3 ≤ nops) && u.vecPoison c f.cc fi v)
/-- One vector is read, its results written, and the rest follow. -/
theorem vecLanes_succ (s : State) (c : Nat) (f : VecF) (fi fo : Fmt) (nops : Nat) (g : LaneFn) (n v : Nat) (fl : Flags) :
    s.vecLanes c f fi fo nops g (n + 1) v fl =
      (s.putVec c f.dst fo v ((s.vecOut c f fi fo nops g v).map (·.1)) (s.vecPo c f fi nops v)).vecLanes c f fi fo nops g n (v + 1)
        (fl ||| anyFlags (s.vecOut c f fi fo nops g v)) := by
  rw [State.vecLanes, State.vecOut, State.vecPo]
  unfold State.elemOut
  split_ifs <;> rfl
/-- A result depends on the registers, the owner and the operands read. -/
theorem vecOut_congr {s t : State} {c : Nat} {f : VecF} {fi : Fmt} {nops v : Nat} (h : s.spadOnly t)
    (hr : ∀ r, f.reads nops r → t.vecCodes c r fi v = s.vecCodes c r fi v ∧ t.vecPoison c r fi v = s.vecPoison c r fi v) :
    (∀ (fo : Fmt) (g : LaneFn), t.vecOut c f fi fo nops g v = s.vecOut c f fi fo nops g v) ∧ t.vecPo c f fi nops v = s.vecPo c f fi nops v := by
  obtain ⟨ha, hpa⟩ := hr _ (Or.inl rfl)
  have hsr : ∀ i, t.srOut c v i = s.srOut c v i := fun i => by rw [h]; rfl
  refine ⟨fun fo g => List.map_congr_left fun i _ => ?_, ?_⟩
  · unfold State.elemOut
    simp only [ha, hsr]
    by_cases h2 : 2 ≤ nops
    · simp only [(hr _ (Or.inr (Or.inl ⟨h2, rfl⟩))).1]
      by_cases h3 : 3 ≤ nops
      · simp only [(hr _ (Or.inr (Or.inr ⟨h3, rfl⟩))).1]
      · simp only [if_neg h3]
    · simp only [if_neg h2, if_neg (show ¬ 3 ≤ nops by omega)]
  · rw [State.vecPo, State.vecPo, hpa]
    by_cases h2 : 2 ≤ nops
    · rw [(hr _ (Or.inr (Or.inl ⟨h2, rfl⟩))).2]
      by_cases h3 : 3 ≤ nops
      · rw [(hr _ (Or.inr (Or.inr ⟨h3, rfl⟩))).2]
      · rw [decide_eq_false h3, Bool.false_and, Bool.false_and]
    · rw [decide_eq_false h2, decide_eq_false (show ¬ 3 ≤ nops by omega)]
      rfl
/-- A flag of a list of results is set where one of them sets it. -/
theorem anyFlags_bit {α : Type} (f : α → Nat × Flags) (l : List α) (k : Nat) :
    (anyFlags (l.map f)).getLsbD k = l.any (fun x => (f x).2.getLsbD k) := by
  have h : ∀ (a : Flags), ((l.map f).foldl (fun a x => a ||| x.2) a).getLsbD k = (a.getLsbD k || l.any (fun x => (f x).2.getLsbD k)) := by
    induction l with
    | nil => intro a; simp
    | cons x l ih => intro a; rw [List.map_cons, List.foldl_cons, ih, BitVec.getLsbD_or, List.any_cons, Bool.or_assoc]
  rw [anyFlags, h, BitVec.getLsbD_zero, Bool.false_or]
/-- The lanes of `n` vectors from `v` on: the rows they write, and where no operand of a later vector is written, each vector's result from
the operands as they stand. -/
theorem vecLanes_spec (c : Nat) (f : VecF) (fi fo : Fmt) (nops : Nat) (g : LaneFn) (n v : Nat) (fl : Flags) (s : State)
    (hd : f.dst + (v + n) * fo.pitch ≤ 262144) (ho : ∀ r, f.reads nops r → r + (v + n) * fi.pitch ≤ 262144) :
    ∃ m fl', s.vecLanes c f fi fo nops g n v fl = m.orFlags c .vector fl' ∧ s.spadOnly m ∧
      s.rowsBut m c (f.dst + v * fo.pitch) (n * fo.pitch) ∧
      (n ≤ 1 ∨ (∀ r, f.reads nops r → rowsApart r ((v + n) * fi.pitch) f.dst ((v + n) * fo.pitch)) →
        (∀ j, v ≤ j → j < v + n → m.vecCodes c f.dst fo j = (s.vecOut c f fi fo nops g j).map (·.1 % 2 ^ fo.width) ∧
          m.vecPoison c f.dst fo j = s.vecPo c f fi nops j) ∧
        ∀ k, fl'.getLsbD k = (fl.getLsbD k || (rangeFrom v n).any fun j => (anyFlags (s.vecOut c f fi fo nops g j)).getLsbD k)) := by
  induction n generalizing v fl s with
  | zero =>
    refine ⟨s, fl, rfl, .refl s, .refl _ _ _ _, fun _ => ⟨fun j h1 h2 => absurd h2 (by omega), fun k => ?_⟩⟩
    rw [rangeFrom, List.any_nil, Bool.or_false]
  | succ n ih =>
    rw [show v + (n + 1) = v + 1 + n by omega] at hd ho ⊢
    have e1 : (v + 1 + n) * fo.pitch = v * fo.pitch + fo.pitch + n * fo.pitch := by ring
    have e2 : (v + 1) * fo.pitch = v * fo.pitch + fo.pitch := by ring
    have e3 : (n + 1) * fo.pitch = fo.pitch + n * fo.pitch := by ring
    obtain ⟨p1, p2, p3, p4⟩ := putVec_spec s c f.dst v fo ((s.vecOut c f fi fo nops g v).map (·.1)) (s.vecPo c f fi nops v)
      (by simp [State.vecOut, rangeFrom_eq_range']) (by omega)
    rw [vecLanes_succ]
    generalize s.putVec c f.dst fo v ((s.vecOut c f fi fo nops g v).map (·.1)) (s.vecPo c f fi nops v) = s' at p1 p2 p3 p4 ⊢
    obtain ⟨m, fl', he, i1, i2, i3⟩ := ih (v + 1) (fl ||| anyFlags (s.vecOut c f fi fo nops g v)) s' hd ho
    refine ⟨m, fl', he, p1.trans i1, (p2.mono (by omega) (by omega)).trans (i2.mono (by omega) (by omega)), fun hap => ?_⟩
    have hkeep : ∀ j, v + 1 ≤ j → j < v + 1 + n → (∀ g, s'.vecOut c f fi fo nops g j = s.vecOut c f fi fo nops g j) ∧
        s'.vecPo c f fi nops j = s.vecPo c f fi nops j := fun j h1 h2 => by
      have hc := vecOut_congr (fi := fi) (nops := nops) (v := j) p1 fun r hr => by
        have hj : (v + 1 + n) * fi.pitch = j * fi.pitch + fi.pitch + (v + n - j) * fi.pitch := by
          rw [show v + 1 + n = j + 1 + (v + n - j) by omega]; ring
        have := ho r hr
        have hr' := hap.resolve_left (by omega) r hr
        exact p2.vector (by omega) (by unfold rowsApart at hr' ⊢; omega)
      exact ⟨hc.1 fo, hc.2⟩
    obtain ⟨k1, k2⟩ := i3 (hap.imp_left (by omega))
    refine ⟨fun j h1 h2 => ?_, fun k => ?_⟩
    · by_cases hj : j = v
      · subst hj
        obtain ⟨q1, q2⟩ := i2.vector (a := f.dst) (v := j) (f := fo) (by omega) (Or.inl (by omega))
        rw [q1, q2, p3, p4, List.map_map]
        exact ⟨rfl, rfl⟩
      · obtain ⟨q1, q2⟩ := k1 j (by omega) (by omega)
        obtain ⟨q3, q4⟩ := hkeep j (by omega) (by omega)
        exact ⟨q1.trans (by rw [q3]), q2.trans q4⟩
    · rw [k2, rangeFrom, List.any_cons, BitVec.getLsbD_or, Bool.or_assoc]
      refine congrArg _ (congrArg _ (Bool.eq_iff_iff.2 ?_))
      simp only [List.any_eq_true]
      exact exists_congr fun j => and_congr_right fun hj => by rw [(hkeep j (mem_rangeFrom.1 hj).1 (mem_rangeFrom.1 hj).2).1]

/-! ### Element-wise operations (R84, R150) -/

/-- Flags met by an engine are kept beside those that stood, and touch one register. -/
theorem orFlags_spec (s : State) (c : Nat) (e : Engine) (f : Flags) : s.coreOnly (s.orFlags c e f) c [.fmtFlags] ∧
    (s.orFlags c e f).cores = s.cores ∧
    ∀ k < 5, bit ((s.orFlags c e f).reg .fmtFlags c) k = (bit (s.reg .fmtFlags c) k || f.getLsbD k) := by
  unfold State.orFlags
  split
  · rename_i h
    exact ⟨(State.coreOnly.refl s c []).mono (by simp), rfl, fun k _ => by simp [h]⟩
  · refine ⟨setReg_coreOnly .., rfl, fun k hk => ?_⟩
    have hb : (f.toNat + 2 ^ e.bit).testBit k = f.toNat.testBit k := by
      have : 2 ^ e.bit = 2 ^ 5 * 2 ^ (e.bit - 5) := by cases e <;> rfl
      rw [this, Nat.add_comm, Nat.testBit_two_pow_mul_add _ f.isLt, if_pos hk]
    simp only [reg_setReg_same, bit, BitVec.getLsbD_or, BitVec.getLsbD_ofNat, hb, decide_eq_true (show k < 64 by omega), Bool.true_and,
      BitVec.testBit_toNat]
/-- The element-wise operations run the same lanes. -/
theorem exec_elemOp {op : (CoreIx → Word → Word → Obs → Instr) × Nat × LaneFn} (h : op ∈ elemOps) (c : CoreIx) (w0 w1 : Word) (o : Obs)
    (s : State) : exec (op.1 c w0 w1 o) s = .next (s.vecElem c w0 w1 o op.2.1 op.2.2) := by
  simp only [elemOps, List.mem_cons, List.not_mem_nil, or_false] at h
  rcases h with rfl | rfl | rfl | rfl | rfl | rfl | rfl | rfl | rfl | rfl | rfl | rfl <;> rfl
/-- A ready operation whose fields are in order runs its lanes and moves on. -/
theorem vecElem_ready {c : Nat} {w0 w1 : Word} {o : Obs} {s : State} {fi fo : Fmt} {nops : Nat} {g : LaneFn} (hs : s.ready c w0 true false)
    (hp : (VecF.of w0 w1).plain) (hi : vecFmt (VecF.of w0 w1).ifc = some fi) (ho : vecFmt (VecF.of w0 w1).ofc = some fo)
    (hn : (VecF.of w0 w1).n ≠ 0) (hr : ∀ r, (VecF.of w0 w1).reads nops r → rowsOk r ((VecF.of w0 w1).n * fi.pitch) = true)
    (hd : rowsOk (VecF.of w0 w1).dst ((VecF.of w0 w1).n * fo.pitch) = true) : s.vecElem c w0 w1 o nops g =
      (((s.taken c o).observe c o).vecLanes c (VecF.of w0 w1) fi fo nops g (VecF.of w0 w1).n 0 0#5).advance c 2 := by
  obtain ⟨p1, p2, p3⟩ := hp
  have hb : (decide (nops < 2) || rowsOk (VecF.of w0 w1).b ((VecF.of w0 w1).n * fi.pitch)) = true := by
    by_cases h : nops < 2
    · simp [h]
    · simp [hr _ (Or.inr (Or.inl ⟨by omega, rfl⟩))]
  have hc : (decide (nops < 3) || rowsOk (VecF.of w0 w1).cc ((VecF.of w0 w1).n * fi.pitch)) = true := by
    by_cases h : nops < 3
    · simp [h]
    · simp [hr _ (Or.inr (Or.inr ⟨by omega, rfl⟩))]
  rw [State.vecElem, State.vecRun, dispatch_ready hs]
  simp only [hi, ho, p1, p2, p3, hb, hc, hr _ (Or.inl rfl), if_neg hn]
  simp [hd]

/-- The lanes and the move past the instruction, together. -/
theorem vecLanes_advance {u m : State} {c : Nat} {fl : Flags} {dst n : Nat} (h : u.spadOnly m) (hb : u.rowsBut m c dst n) :
    let t := (m.orFlags c .vector fl).advance c 2
    u.movedOn t c 2 ∧ u.engineOnly t c [.seqPc, .fmtFlags] ∧ u.rowsBut t c dst n ∧ m.sameMemory t ∧
      ∀ k < 5, bit (t.reg .fmtFlags c) k = (bit (u.reg .fmtFlags c) k || fl.getLsbD k) := by
  obtain ⟨f1, f2, f3⟩ := orFlags_spec m c .vector fl
  generalize m.orFlags c .vector fl = m' at f1 f2 f3 ⊢
  obtain ⟨⟨a1, a2⟩, a3⟩ := advance_movedOn m' c 2
  generalize m'.advance c 2 = t at a1 a2 a3 ⊢
  have hall : m.coreOnly t c [.seqPc, .fmtFlags] := (f1.mono (by simp)).trans (a3.mono (by simp))
  have hmem := hall.memory
  have hpc : m'.getF F.seqPc_addr c = u.getF F.seqPc_addr c := (f1.getF _ _ (by decide)).trans (h.getF _ _)
  have hcore : m'.core c = u.core c := (show m'.core c = m.core c by rw [State.core, f2, State.core]).trans (h.core c)
  refine ⟨⟨by rw [a1, hpc, hcore], by rw [a2, hpc, hcore]⟩, ⟨?_, fun r i => ?_, fun d hd => ?_⟩, hb.trans (hmem.rowsBut c dst n), hmem, fun k hk => ?_⟩
  · have e := hall.1
    rw [h] at e
    rw [e]
  · rw [← show m.reg r i = u.reg r i by rw [h]; rfl]
    exact hall.2.1 r i
  · rw [hall.2.2 d hd, h.core]
  · rw [(a3.2.1 .fmtFlags c).resolve_right (by simp), f3 k hk, h]
    rfl

/-- Settles O8: the lanes by induction on the vectors (`vecLanes_spec`), each operation being one of them with its own exact value. -/
theorem vectorElementResults : Obligations.VectorElementResults := by
  intro c w0 w1 o s fi fo op hop hs f u hp hi ho hn ha hb hc hd
  have hn' : ∀ p : Fmt, f.n * p.pitch ≠ 0 := fun p => Nat.mul_ne_zero hn p.pitch_pos.ne'
  have hr := VecF.reads_all (P := fun r => rowsOk r (f.n * fi.pitch) = true) ha hb hc
  obtain ⟨m, fl, he, h1, h2, h3⟩ := vecLanes_spec c f fi fo op.2.1 op.2.2 f.n 0 0#5 u
    (by rw [Nat.zero_add]; exact (rowsOk_le hd (hn' fo)).trans (by decide))
    (fun r h => by rw [Nat.zero_add]; exact (rowsOk_le (hr r h) (hn' fi)).trans (by decide))
  rw [Nat.zero_mul, Nat.add_zero] at h2
  obtain ⟨k1, k2, k3, k4, k5⟩ := vecLanes_advance (fl := fl) h1 h2
  refine ⟨_, (exec_elemOp hop ..).trans (congrArg _ ((vecElem_ready hs hp hi ho hn hr hd).trans (congrArg (·.advance c 2) he))), k1, k2, k3, fun hap => ?_⟩
  obtain ⟨r1, r2⟩ := h3 (hap.imp (fun h => h.le) fun ⟨x1, x2, x3⟩ => by
    rw [Nat.zero_add]
    exact VecF.reads_all (P := fun r => rowsApart r _ _ _) x1 x2 x3)
  refine ⟨fun v hv => ?_, fun k hk => ?_⟩
  · obtain ⟨c1, c2⟩ := r1 v (Nat.zero_le v) (by omega)
    obtain ⟨d1, d2⟩ := k4.vector c f.dst v fo
    exact ⟨d1.trans (c1.trans (List.map_map ..)), d2.trans c2⟩
  · rw [k5 k hk, r2, BitVec.getLsbD_zero, Bool.false_or]
    simp only [State.vecOut, anyFlags_bit]

end Sys2Proof.Machine
end


section
/-! SUPPORT. Overruns, hangs and the retry (R100, R334, R345, R346, R349, R354, R358). -/
namespace Sys2Proof.Machine
open Host

/-! ### The floor plan and the sequencers' states (R32, R354) -/
/-- A rebuild of the floor plan changes its own registers and the records on their way. -/
theorem rebuild_kept (s : State) : s.rebuild.cores = s.cores ∧ s.rebuild.parts = s.parts ∧
    ∀ (g : RF) (i : Nat), g.reg ≠ .modFpGen → g.reg ≠ .partFpGen → s.rebuild.getF g i = s.getF g i := by
  unfold State.rebuild
  split
  · exact ⟨rfl, rfl, fun _ _ _ _ => rfl⟩
  · refine forAll_keeps (fun t => t.cores = s.cores ∧ t.parts = s.parts ∧
      ∀ (g : RF) (i : Nat), g.reg ≠ .modFpGen → g.reg ≠ .partFpGen → t.getF g i = s.getF g i) _ (fun t p ⟨h1, h2, h3⟩ => ?_) _ _ ?_
    · refine ⟨h1, h2, fun g i h h' => ?_⟩
      rw [← h3 g i h h']
      exact (getF_setF_ne _ F.partFpGen_count g _ _ _ h').trans (getF_setF_ne _ F.partFpGen_busy g _ _ _ h')
    · exact ⟨rfl, rfl, fun g i h _ =>
        (getF_setF_ne _ F.modFpGen_count g _ _ _ h).trans (getF_setF_ne _ F.modFpGen_busy g _ _ _ h)⟩
theorem rebuild_core (s : State) (c : Nat) : s.rebuild.core c = s.core c := by rw [State.core, (rebuild_kept s).1, State.core]
theorem rebuild_part (s : State) (p : Nat) : s.rebuild.part p = s.part p := by rw [State.part, (rebuild_kept s).2.1, State.part]
/-- The sequencers of a list that are in one state go to another. -/
def State.turn (s : State) (l : List Nat) (a b : Nat) : State :=
  s.forAll l (fun s k => if s.getF F.seqStatus_state k = a then s.setF F.seqStatus_state k b else s)
theorem turn_regs (s : State) (l : List Nat) (a b : Nat) : s.turn l a b = { s with regs := (s.turn l a b).regs } :=
  forAll_keeps (fun t => t = { s with regs := t.regs }) _ (fun t k h => iteInduction (motive := fun u : State => u = { s with regs := u.regs })
    (fun _ => by rw [State.setF, State.setReg, h]) (fun _ => h)) l s rfl
theorem turn_done (s : State) (l : List Nat) (a b k : Nat) (hb : b < 4) (h : s.getF F.seqStatus_state k = b) :
    (s.turn l a b).getF F.seqStatus_state k = b := by
  refine forAll_keeps (fun t => t.getF F.seqStatus_state k = b) _ (fun t d ht => ?_) l s h
  refine iteInduction (motive := fun u : State => u.getF F.seqStatus_state k = b) (fun _ => ?_) (fun _ => ht)
  by_cases hd : k = d
  · rw [hd, getF_setF_same _ _ _ _ (by decide)]
    exact Nat.mod_eq_of_lt hb
  · rw [getF_setF_unit _ _ _ _ hd, ht]
theorem turn_listed {s : State} {l : List Nat} {a b k : Nat} (hb : b < 4) (hk : k ∈ l) (h : s.getF F.seqStatus_state k = a) :
    (s.turn l a b).getF F.seqStatus_state k = b := by
  induction l generalizing s with
  | nil => cases hk
  | cons d l ih =>
    by_cases hd : k = d
    · subst hd
      refine turn_done _ l a b k hb ?_
      simp only [if_pos h]
      rw [getF_setF_same _ _ _ _ (by decide)]
      exact Nat.mod_eq_of_lt hb
    · refine ih ((List.mem_cons.1 hk).resolve_left hd) ?_
      refine iteInduction (motive := fun u : State => u.getF F.seqStatus_state k = a) (fun _ => ?_) (fun _ => h)
      rw [getF_setF_unit _ _ _ _ hd, h]
theorem holdPart_eq (s : State) (p : Nat) : s.holdPart p = (s.send (.hold 1) p 0 stewardNode).turn (s.coresOf p) stRunning stHeld := rfl

/-! ### Overruns (R100) -/
theorem execUstepOverrun_known {c : CoreIx} {s : State} (h : (s.core c).overrun = true ∨
    s.now - (s.core c).releasedAt ≤ 100 * s.getF F.seqUstepLimit_limit c) : exec (.ustepOverrun c) s = .next s :=
  congrArg Outcome.next (if_pos h)
/-- A fault of an owned core is told, and the policy of its partition applies. -/
theorem fault_owned {s : State} {c p : Nat} (h : s.ownerOf c = some p) (e : Ev) (d : Nat) :
    s.fault c e d = (s.raise e c (some p) d).policy p c e d := by
  rw [State.fault, h]
/-- The policy loses no record, and leaves memory and a core's overrun as they were. -/
theorem fault_facts {s : State} {c p : Nat} (h : s.ownerOf c = some p) (e : Ev) (d : Nat) (he : e.atPart = true) :
    s.raisedOne (s.fault c e d) e c p p d ∧ s.sameMemory (s.fault c e d) ∧ ((s.fault c e d).core c).overrun = (s.core c).overrun := by
  have hf : s.faultOnly (s.fault c e d) := by
    rw [fault_owned h]
    exact (raise_faultOnly ..).trans (policy_faultOnly ..)
  refine ⟨?_, hf.memory, by rw [hf.2.2.2 c]⟩
  rw [fault_owned h]
  exact (raise_raisedOne s s e c p d he rfl).mono (policy_background (g := id) (s.raise e c (some p) d) p c e d).1
theorem execUstepOverrun_new {c : CoreIx} {p : Nat} {s : State} (ho : s.ownerOf c = some p) (h : (s.core c).overrun = false)
    (hl : 100 * s.getF F.seqUstepLimit_limit c < s.now - (s.core c).releasedAt) :
    ∃ t, exec (.ustepOverrun c) s = .next t ∧ (t.core c).overrun = true ∧ s.raisedOne t .ustepOverrun c p p 0 ∧ s.sameMemory t := by
  have hn : ¬ ((s.core c).overrun = true ∨ s.now - (s.core c).releasedAt ≤ 100 * s.getF F.seqUstepLimit_limit c) := by
    rintro (k | k)
    · simp [h] at k
    · omega
  obtain ⟨h1, h2, h3⟩ := fault_facts (s := s.modCore c (fun q => { q with overrun := true })) ho .ustepOverrun 0 rfl
  refine ⟨_, congrArg Outcome.next (if_neg hn), ?_, h1, h2⟩
  rw [h3, core_modCore_same]

/-! ### Hangs under the policy (R334, R345, R346, R354) -/
/-- A class under RECOVER recovers, but for an instruction fault met again. -/
theorem policy_recover {s : State} {p k : Nat} {e : Ev} (c d : Nat) (he : e.faultClass = some k) (hn : e ≠ .seqFault)
    (hb : bits (s.reg .partFaultPolicy p) (2 * k) 2 = 2) : s.policy p c e d = s.recover p c e d := by
  unfold State.policy
  simp only [he, hb, hn, false_and, if_false]
/-- A fault with none to join starts a recovery of its own. -/
theorem newFault_starts {s : State} {p : Nat} (r : Recovery) (h : ∀ x, (s.part p).recov = some x → 2 ≤ x.stage) :
    ∃ x, ((s.newFault p r).part p).recov = some x ∧ x.logical = r.logical ∧ x.phys = r.phys ∧ x.stage = r.stage := by
  unfold State.newFault
  rw [part_modPart_same]
  cases hr : (s.part p).recov with
  | none => exact ⟨r, rfl, rfl, rfl, rfl⟩
  | some x =>
    simp only [if_neg (Nat.not_lt.2 (h x hr))]
    exact ⟨_, rfl, rfl, rfl, rfl⟩
/-- A fault joins a recovery that has not drained. -/
theorem newFault_joins {s : State} {p : Nat} (r : Recovery) {x : Recovery} (h : (s.part p).recov = some x) (hx : x.stage < 2) :
    ((s.newFault p r).part p).recov = some x ∧ ((s.newFault p r).part p).faults = (s.part p).faults ++ [r] := by
  unfold State.newFault
  rw [part_modPart_same]
  simp only [h, if_pos hx]
  trivial
/-- The fault that RECOVER starts or adds. -/
def State.newRecovery (s : State) (n c : Nat) (e : Ev) (d : Nat) : Recovery := ⟨n, c, e.num, d, 0, s.getF F.seqUstep_epoch c, false, []⟩
section
variable {s : State} {p c : Nat} {e : Ev} {d : Nat}
/-- A core under test or fenced starts nothing. -/
theorem recover_known (h : 2 ≤ (s.core c).state) : s.recover p c e d = s := if_pos h
theorem recover_state (h : (s.core c).state ≤ 1) : ((s.recover p c e d).core c).state = 2 := by
  unfold State.recover
  rw [if_neg (by omega), rebuild_core, core_modCore_same]
/-- A core that holds no number is isolated alone. -/
theorem recover_unnumbered (h : (s.core c).state ≤ 1) (hl : s.logicalOf p c = none) : ((s.recover p c e d).part p).recov = (s.part p).recov ∧
    ∀ k, (s.recover p c e d).getF F.seqStatus_state k = s.getF F.seqStatus_state k := by
  unfold State.recover
  rw [if_neg (by omega)]
  simp only [hl]
  refine ⟨?_, fun k => ((rebuild_kept _).2.2 _ _ (by decide) (by decide)).trans rfl⟩
  rw [rebuild_part, State.modCore_part, part_modPart_same]
/-- A core that holds a number starts or joins a recovery, and every core that runs is held. -/
theorem recover_numbered {n : Nat} (h : (s.core c).state ≤ 1) (hl : s.logicalOf p c = some n) :
    (s.recover p c e d).part p = (s.newFault p (s.newRecovery n c e d)).part p ∧
    ∀ k ∈ s.coresOf p, s.getF F.seqStatus_state k = stRunning → (s.recover p c e d).getF F.seqStatus_state k = stHeld := by
  have hp := (holdPart_background (f := id) (g := id) (s.newFault p (s.newRecovery n c e d)) p).2.2.1 p
  unfold State.recover
  rw [if_neg (by omega)]
  simp only [hl]
  refine ⟨?_, fun k hk hr => ?_⟩
  · rw [rebuild_part]
    exact hp
  · rw [(rebuild_kept _).2.2 _ _ (by decide) (by decide)]
    exact turn_listed (by decide) hk hr
end
section
variable {s : State} {c : CoreIx} {p : Nat} (ho : s.ownerOf c = some p)
include ho
theorem execCoreHang_eq : exec (.coreHang c) s = .next ((s.raise .coreHang c (some p) 0).policy p c .coreHang 0) :=
  congrArg Outcome.next (fault_owned ho .coreHang 0)
/-- A hang under RECOVER. -/
theorem execCoreHang_recover (hb : bits (s.reg .partFaultPolicy p) 6 2 = 2) :
    exec (.coreHang c) s = .next ((s.raise .coreHang c (some p) 0).recover p c .coreHang 0) := by
  rw [execCoreHang_eq ho, policy_recover (k := 3) _ _ rfl (by decide) (by rw [raise_reg]; exact hb)]
theorem execCoreHang_spec : ∃ t, exec (.coreHang c) s = .next t ∧ s.raisedOne t .coreHang c p p 0 ∧ s.sameMemory t ∧
      (bits (s.reg .partFaultPolicy p) 6 2 = 1 → (t.part p).stopHold = true ∧ (s.pState p = psRunning → t.pState p = psStopped)) ∧
      (bits (s.reg .partFaultPolicy p) 6 2 = 2 → (s.core c).state ≤ 1 → (t.core c).state = 2 ∧
        (s.logicalOf p c = none → (t.part p).recov = (s.part p).recov ∧ ∀ k, t.getF F.seqStatus_state k = s.getF F.seqStatus_state k) ∧
        (∀ n, s.logicalOf p c = some n →
          ((∀ r, (s.part p).recov = some r → 2 ≤ r.stage) →
            ∃ r, (t.part p).recov = some r ∧ r.logical = n ∧ r.phys = c.val ∧ r.stage = 0) ∧
          (∀ r, (s.part p).recov = some r → r.stage < 2 → (t.part p).recov = some r ∧
            ∃ x, (t.part p).faults = (s.part p).faults ++ [x] ∧ x.logical = n ∧ x.phys = c.val ∧ x.stage = 0) ∧
          (∀ k ∈ s.coresOf p, s.getF F.seqStatus_state k = stRunning → t.getF F.seqStatus_state k = stHeld))) ∧
      (bits (s.reg .partFaultPolicy p) 6 2 = 2 → 2 ≤ (s.core c).state → (t.core c).state = (s.core c).state ∧ t.parts = s.parts) := by
  obtain ⟨f1, f2, -⟩ := fault_facts ho .coreHang 0 rfl
  refine ⟨_, rfl, f1, f2, fun hb => ?_, fun hb hs => ?_, fun hb hs => ?_⟩
  · obtain ⟨k1, k2⟩ := stopPart_facts (s.raise .coreHang c (some p) 0) p (decide (3 ≤ 1 ∨ 3 = 3 ∨ 3 = 4))
    rw [fault_owned ho, policy_stop (k := 3) _ _ rfl (by rw [raise_reg]; exact hb)]
    exact ⟨k1, fun hr => (k2 (by rw [State.pState, raise_getF]; exact hr)).1⟩
  all_goals
    have he : s.fault c .coreHang 0 = (s.raise .coreHang c (some p) 0).recover p c .coreHang 0 :=
      Outcome.next.inj (execCoreHang_recover ho hb)
    have hcore : (s.raise .coreHang c (some p) 0).core c = s.core c := raise_core ..
    rw [he]
  · have hpart : (s.raise .coreHang c (some p) 0).part p = s.part p := raise_part ..
    have hlog : (s.raise .coreHang c (some p) 0).logicalOf p c = s.logicalOf p c := by rw [State.logicalOf, hpart, State.logicalOf]
    have hcs : (s.raise .coreHang c (some p) 0).coresOf p = s.coresOf p := raise_coresOf ..
    have hg : ∀ k, (s.raise .coreHang c (some p) 0).getF F.seqStatus_state k = s.getF F.seqStatus_state k := fun k => raise_getF ..
    generalize s.raise .coreHang c (some p) 0 = u at *
    rw [← hcore] at hs
    refine ⟨recover_state hs, fun hl => ?_, fun n hl => ?_⟩
    · obtain ⟨k1, k2⟩ := recover_unnumbered (e := .coreHang) (d := 0) hs (hlog.trans hl)
      exact ⟨k1.trans (congrArg PartSt.recov hpart), fun k => (k2 k).trans (hg k)⟩
    · obtain ⟨k1, k2⟩ := recover_numbered (e := .coreHang) (d := 0) hs (hlog.trans hl)
      rw [← hpart, k1, ← hcs]
      refine ⟨fun hr => newFault_starts _ hr, fun r hr hr' => ?_, fun k hk hr => k2 k hk ((hg k).trans hr)⟩
      obtain ⟨j1, j2⟩ := newFault_joins (u.newRecovery n c .coreHang 0) hr hr'
      exact ⟨j1, _, j2, rfl, rfl, rfl⟩
  · rw [recover_known (by rw [hcore]; exact hs), hcore]
    exact ⟨rfl, raise_parts ..⟩
end

/-! ### Charges against a core (R349) -/
/-- Nothing differs but registers, cores, partitions, health and messages; the count of fences stays. -/
def State.retryOnly (s t : State) : Prop :=
  t = { s with regs := t.regs, cores := t.cores, parts := t.parts, health := t.health, ctl := t.ctl, fab := t.fab, evSeq := t.evSeq, evNet := t.evNet } ∧
  ∀ i, t.reg .partRecovery i = s.reg .partRecovery i
theorem State.retryOnly.trans {s t u : State} (h : s.retryOnly t) (k : t.retryOnly u) : s.retryOnly u := by
  obtain ⟨h1, h2⟩ := h
  obtain ⟨k1, k2⟩ := k
  exact ⟨by rw [k1, h1], fun i => (k2 i).trans (h2 i)⟩
theorem State.retryOnly.refl (s : State) : s.retryOnly s := ⟨rfl, fun _ => rfl⟩
theorem State.retryOnly.memory {s t : State} (h : s.retryOnly t) : s.sameMemory t := by rw [h.1]; exact ⟨rfl, rfl, rfl, rfl, rfl, rfl⟩
theorem State.faultOnly.retryOnly {s t : State} (h : s.faultOnly t) : s.retryOnly t := ⟨by rw [h.1], fun i => h.2.1 _ i (by decide)⟩
theorem State.faultOnly.health {s t : State} (h : s.faultOnly t) : t.health = s.health := by rw [h.1]
theorem setF_retryOnly (s : State) (f : RF) (i v : Nat) (h : f.reg ≠ .partRecovery) : s.retryOnly (s.setF f i v) :=
  ⟨rfl, fun _ => reg_setF_ne _ _ _ _ _ (Or.inl (Ne.symm h))⟩
theorem modCore_retryOnly (s : State) (c : Nat) (f : CoreSt → CoreSt) : s.retryOnly (s.modCore c f) := ⟨rfl, fun _ => rfl⟩
theorem setHealth_retryOnly (s : State) (u : Nat) (h : Health) : s.retryOnly (s.setHealth u h) := ⟨rfl, fun _ => rfl⟩
/-- A core's state and derating as its entry gives them. -/
def CoreSt.applied (q : CoreSt) (n : Nat) : CoreSt := { q with
  state := if 2 ≤ q.state then q.state else if n = 0 then 0 else if n = 3 then 4 else 1
  derateV := if n = 1 ∨ n = 2 then 1 else 0
  derateD := if n = 2 then 1 else 0 }
theorem applyCore_spec (s : State) (c n : Nat) : s.retryOnly (s.applyCore c n) ∧ (s.applyCore c n).health = s.health ∧
    (s.applyCore c n).core c = (s.core c).applied n ∧ (s.applyCore c n).parts = s.parts ∧ (s.applyCore c n).now = s.now := by
  have hm := modCore_retryOnly s c (fun q => q.applied n)
  have hc : (s.modCore c (fun q => q.applied n)).core c = (s.core c).applied n := core_modCore_same ..
  have hk : (s.modCore c (fun q => q.applied n)).health = s.health ∧ (s.modCore c (fun q => q.applied n)).parts = s.parts ∧
    (s.modCore c (fun q => q.applied n)).now = s.now := ⟨rfl, rfl, rfl⟩
  have he : s.applyCore c n = let u := s.modCore c (fun q => q.applied n)
      match u.ownerOf c with
      | some p => if u.getF F.partState_state p = 3 then u else u.setF F.vregPoint_mv c (u.vCommand c (u.getF F.vregPoint_divisor c))
      | none => u.setF F.vregPoint_mv c (u.vCommand c (u.getF F.vregPoint_divisor c)) := rfl
  rw [he]
  generalize s.modCore c (fun q => q.applied n) = u at hm hc hk
  obtain ⟨hk1, hk2, hk3⟩ := hk
  have hset : ∀ v, s.retryOnly (u.setF F.vregPoint_mv c v) := fun v => hm.trans (setF_retryOnly _ _ _ _ (by decide))
  dsimp only
  split
  · split
    · exact ⟨hm, hk1, hc, hk2, hk3⟩
    · exact ⟨hset _, hk1, hc, hk2, hk3⟩
  · exact ⟨hset _, hk1, hc, hk2, hk3⟩
theorem healthOf_setHealth (s : State) (u : Nat) (h : Health) : (s.setHealth u h).healthOf u = h := Tab.get_put_same ..
theorem healthOf_congr {s t : State} (h : t.health = s.health) (u : Nat) : t.healthOf u = s.healthOf u := by rw [State.healthOf, h, State.healthOf]
theorem setUnit_core_spec (s : State) {c : Nat} (hc : c < 4096) (n : Nat) (h : Health) :
    s.retryOnly (s.setUnit (unitCore c) n h) ∧ (s.setUnit (unitCore c) n h).unitState (unitCore c) = n := by
  have hu : ∀ t : State, t.applyUnit (unitCore c) n = t.applyCore c n := fun t => by
    rw [State.applyUnit, show unitCore c / 0x2000 = 0 from Nat.div_eq_of_lt (hc.trans (by decide))]
    rfl
  unfold State.setUnit
  simp only [hu]
  have h1 := (setHealth_retryOnly s (unitCore c) { h with state := n, changed := s.seconds, due := true }).trans
    (setF_retryOnly _ F.hlthGen_count 0 ((s.setHealth (unitCore c) { h with state := n, changed := s.seconds, due := true }).getF F.hlthGen_count 0 + 1) (by decide))
  have h2 : (((s.setHealth (unitCore c) { h with state := n, changed := s.seconds, due := true }).setF F.hlthGen_count 0
    ((s.setHealth (unitCore c) { h with state := n, changed := s.seconds, due := true }).getF F.hlthGen_count 0 + 1)).healthOf (unitCore c)).state = n :=
    congrArg Health.state (healthOf_setHealth ..)
  generalize State.setF _ F.hlthGen_count 0 _ = t at h1 h2
  obtain ⟨a1, a2, -⟩ := applyCore_spec t c n
  have h3 : s.retryOnly (t.applyCore c n) := h1.trans a1
  have h4 : ((t.applyCore c n).healthOf (unitCore c)).state = n := by rw [healthOf_congr a2]; exact h2
  generalize t.applyCore c n = v at h3 h4
  have hr : ∀ w : State, v.faultOnly w → s.retryOnly w.rebuild ∧ w.rebuild.unitState (unitCore c) = n := fun w hw =>
    ⟨h3.trans (hw.trans (rebuild_faultOnly w)).retryOnly,
      (congrArg Health.state (healthOf_congr (hw.trans (rebuild_faultOnly w)).health _)).trans h4⟩
  exact iteInduction (motive := fun w : State => s.retryOnly w.rebuild ∧ w.rebuild.unitState (unitCore c) = n)
    (fun _ => hr _ (raise_faultOnly ..)) (fun _ => hr _ (.refl v))
/-- The entry of a charged unit but for its state. -/
def Health.charged (h : Health) (t cause : Nat) : Health :=
  { h with cause := cause, count := min (h.count + 1) 0xFFFFFFFF, times := (t :: h.times).take 4, due := true }
/-- The state a charge moves a unit to. -/
def Health.next (h : Health) (t : Nat) (repeats : Bool) : Nat :=
  let third := match h.times[1]? with
    | some x => decide (t ≤ x + 86400)
    | none => false
  if repeats then 3 else if h.state = 0 then third.toNat else min 3 (h.state + 1)
theorem charge_eq (s : State) (u cause : Nat) (b : Bool) : s.charge u cause b =
    let h' := (s.healthOf u).charged s.seconds cause
    if (s.healthOf u).next s.seconds b = (s.healthOf u).state then (s.setHealth u h').setF F.hlthGen_count 0 (s.getF F.hlthGen_count 0 + 1)
    else s.setUnit u ((s.healthOf u).next s.seconds b) h' := rfl
/-- A core charged is in the state its charge moves it to. -/
theorem charge_core_spec (s : State) {c : Nat} (hc : c < 4096) (cause : Nat) (b : Bool) :
    s.retryOnly (s.charge (unitCore c) cause b) ∧ (s.charge (unitCore c) cause b).unitState (unitCore c) = (s.healthOf (unitCore c)).next s.seconds b := by
  rw [charge_eq]
  dsimp only
  split
  next h =>
    refine ⟨(setHealth_retryOnly ..).trans (setF_retryOnly _ F.hlthGen_count _ _ (by decide)), ?_⟩
    show ((s.setHealth (unitCore c) ((s.healthOf (unitCore c)).charged s.seconds cause)).healthOf (unitCore c)).state = _
    rw [healthOf_setHealth, h]
    rfl
  next => exact setUnit_core_spec s hc _ _

/-! ### The retry (R358, R359) -/
/-- A retry is over: its fault is ready for the drain, and a cross-check past the switch is done with. -/
def State.closeRetry (s : State) (p c : Nat) (gone : Bool) : State :=
  let done (x : Recovery) : Recovery := if x.phys = c ∧ x.isLocal then { x with repeats := gone, stage := if x.stage = 0 then 1 else x.stage } else x
  s.modPart p (fun q => { q with
    recov := q.recov.map done, faults := (q.faults.map done).filter (fun x => decide (x.phys ≠ c) || !x.isLocal || decide (x.stage < 2)) })
theorem closeRetry_retryOnly (s : State) (p c : Nat) (b : Bool) : s.retryOnly (s.closeRetry p c b) := ⟨rfl, fun _ => rfl⟩
/-- A core whose fault repeats is fenced. -/
def State.fence (s : State) (p c : Nat) : State :=
  ((s.modCore c (fun q => { q with state := 4 })).bumpF F.partRecovery_fences p 1).raise .coreFenced stewardNode (some p) c
theorem execFaultRetryDone_eq {p : PartIx} {repeats : Bool} {digest : BitVec 32} {unit : BitVec 16} {s : State} {r : Recovery}
    (h : s.retried p = some r) : exec (.faultRetryDone p repeats digest unit) s = .next (
      let rep := s.faultRepeats r repeats digest
      let u := s.chargeRetry p r rep unit.toNat
      let gone := rep || decide (u.unitState (unitCore r.phys) = 3)
      let v := u.closeRetry p r.phys gone
      (if gone then v.fence p r.phys else v.returnCore p r).rebuild) := by
  show execFaultRetryDone p repeats digest unit s = _
  rw [execFaultRetryDone, h]
  rfl
theorem execFaultRetryDone_none {p : PartIx} (repeats : Bool) (digest : BitVec 32) (unit : BitVec 16) {s : State} (h : s.retried p = none) :
    exec (.faultRetryDone p repeats digest unit) s = .next s := by
  show execFaultRetryDone p repeats digest unit s = _
  rw [execFaultRetryDone, h]
/-- The retry that is over is that of the recovery's own fault, where its core is under test and it is no range failure. -/
theorem retried_own {s : State} {p : Nat} {r : Recovery} (h : (s.part p).recov = some r) (hl : r.logical < 65536) (hs : (s.core r.phys).state = 2)
    (he : r.ev ≠ Ev.rangeFail.num) : s.retried p = some r := by
  rw [State.retried, h]
  simp [Recovery.isLocal, hl, hs, he]
/-- A lone fault whose core is not under test waits for no retry. -/
theorem retried_lone {s : State} {p : Nat} {r : Recovery} (h : (s.part p).recov = some r) (hf : (s.part p).faults = [])
    (hs : (s.core r.phys).state ≠ 2) : s.retried p = none := by
  rw [State.retried, h, hf]
  simp [hs]
theorem retried_no {s : State} {p : Nat} (h : (s.part p).recov = none) (hf : (s.part p).faults = []) : s.retried p = none := by
  rw [State.retried, h, hf]
  rfl
section
variable {s : State} {p : Nat} {r : Recovery}
/-- A hang charges its core. -/
theorem chargeRetry_hang (h : r.ev = Ev.coreHang.num) (b : Bool) (n : Nat) : s.chargeRetry p r b n = s.charge (unitCore r.phys) 3 b := by
  unfold State.chargeRetry
  simp only [h]
  rfl
theorem faultRepeats_hang (h : r.ev = Ev.coreHang.num) (b : Bool) (x : BitVec 32) : s.faultRepeats r b x = b := by
  unfold State.faultRepeats
  simp only [h]
  rw [if_neg (by decide)]
  simp
theorem bumpF_memory (s : State) (f : RF) (i n : Nat) : s.sameMemory (s.bumpF f i n) := ⟨rfl, rfl, rfl, rfl, rfl, rfl⟩
theorem fence_memory (s : State) (p c : Nat) : s.sameMemory (s.fence p c) :=
  sameMemory_trans (sameMemory_trans (modCore_coreOnly s c (fun q => { q with state := 4 })).memory (bumpF_memory ..)) (raise_faultOnly ..).memory
theorem fence_state (s : State) (p c : Nat) : ((s.fence p c).core c).state = 4 := by
  rw [State.fence, raise_core, State.bumpF_core, core_modCore_same]
theorem fence_health (s : State) (p c : Nat) : (s.fence p c).health = s.health := by
  rw [State.fence, (raise_faultOnly ..).health, State.bumpF_health, State.modCore_health]
theorem fence_fences (s : State) (p c : Nat) : (s.fence p c).getF F.partRecovery_fences p = min (s.getF F.partRecovery_fences p + 1) 4095 := by
  rw [State.fence, raise_getF, getF_bumpF_same _ _ _ _ (by decide), State.modCore_getF, show F.partRecovery_fences.len = 12 from rfl]
  norm_num
theorem fence_raisedOne (s : State) (p c : Nat) : s.raisedOne (s.fence p c) .coreFenced stewardNode p p c := by
  rw [State.fence]
  exact raise_raisedOne s _ _ _ _ _ rfl (by rw [State.bumpF_now, State.modCore_now])
/-- A hang that repeats: charged, its core is retired and fenced (R349, R358). -/
theorem faultRetryDone_repeats {p : PartIx} (digest : BitVec 32) (unit : BitVec 16) (h : (s.part p).recov = some r) (hc : r.phys < 4096)
    (hl : r.logical < 65536) (hs : (s.core r.phys).state = 2) (he : r.ev = Ev.coreHang.num) :
    ∃ t, exec (.faultRetryDone p true digest unit) s = .next t ∧ (t.core r.phys).state = 4 ∧
      t.getF F.partRecovery_fences p = min (s.getF F.partRecovery_fences p + 1) 4095 ∧ t.unitState (unitCore r.phys) = 3 ∧
      s.raisedOne t .coreFenced stewardNode p p r.phys ∧ s.sameMemory t := by
  obtain ⟨c1, c2⟩ := charge_core_spec s hc 3 true
  have hx := execFaultRetryDone_eq (repeats := true) (digest := digest) (unit := unit) (retried_own h hl hs (by rw [he]; decide))
  simp only [faultRepeats_hang he, chargeRetry_hang he, Bool.true_or, if_true] at hx
  have hv : s.retryOnly ((s.charge (unitCore r.phys) 3 true).closeRetry p r.phys true) := c1.trans (closeRetry_retryOnly ..)
  have hh : ((s.charge (unitCore r.phys) 3 true).closeRetry p r.phys true).unitState (unitCore r.phys) = 3 := c2
  generalize (s.charge (unitCore r.phys) 3 true).closeRetry p r.phys true = v at hx hv hh
  obtain ⟨q, f5⟩ := fence_raisedOne v p r.phys
  have hf : v.getF F.partRecovery_fences p = s.getF F.partRecovery_fences p := congrArg (fun w : Word => bits w 28 12) (hv.2 p)
  have hnow : v.now = s.now := by rw [hv.1]
  rw [hnow] at f5
  refine ⟨_, hx, by rw [rebuild_core, fence_state], ?_, ?_, State.raisedOne.mono ⟨q, f5⟩ (rebuild_background (f := id) (g := id) _).1,
    sameMemory_trans (sameMemory_trans hv.memory (fence_memory ..)) (rebuild_faultOnly _).memory⟩
  · rw [(rebuild_kept _).2.2 _ _ (by decide) (by decide), fence_fences, hf]
  · rw [State.unitState, healthOf_congr ((rebuild_faultOnly _).health.trans (fence_health ..))]
    exact hh
/-- A core back from its retry while the recovery runs is in service, and told of with the micro-step's release. -/
theorem returnCore_spec (h : (s.part p).recov.isSome = true) (hr : r.stage < 2) (hu : s.unitState (unitCore r.phys) = 0) :
    s.sameMemory (s.returnCore p r) ∧ ((s.returnCore p r).core r.phys).state = 0 ∧
    ((s.returnCore p r).part p).returned = (s.part p).returned ++ [r.phys] := by
  have hm := modCore_coreOnly s r.phys (fun q => { q with state := 0 })
  have hc : (s.modCore r.phys (fun q => { q with state := 0 })).core r.phys = { s.core r.phys with state := 0 } := core_modCore_same ..
  have hp := hm.part p
  unfold State.returnCore
  simp only [if_neg (Nat.not_le.2 hr), hu]
  generalize s.modCore r.phys (fun q => { q with state := 0 }) = u at *
  obtain ⟨a1, -, a3, a4, -⟩ := applyCore_spec u r.phys 0
  have hv : (u.applyCore r.phys 0).part p = s.part p := by rw [State.part, a4]; exact hp
  have hs : ((u.applyCore r.phys 0).core r.phys).state = 0 := by rw [a3, hc]; rfl
  have hk : s.sameMemory (u.applyCore r.phys 0) := sameMemory_trans hm.memory a1.memory
  generalize u.applyCore r.phys 0 = v at *
  rw [if_pos (by rw [hv]; exact h)]
  refine ⟨hk, hs, ?_⟩
  rw [part_modPart_same, hv]
/-- A hang that does not repeat, of a core with no faults before it: the core comes back (R349, R358, R359). -/
theorem faultRetryDone_returns {p : PartIx} (digest : BitVec 32) (unit : BitVec 16) (h : (s.part p).recov = some r) (hc : r.phys < 4096)
    (hl : r.logical < 65536) (hs : (s.core r.phys).state = 2) (he : r.ev = Ev.coreHang.num) (hst : r.stage = 0)
    (hh : (s.healthOf r.phys).state = 0) (ht : (s.healthOf r.phys).times = []) :
    ∃ t, exec (.faultRetryDone p false digest unit) s = .next t ∧ (t.core r.phys).state = 0 ∧
      (t.part p).returned = (s.part p).returned ++ [r.phys] ∧ s.sameMemory t := by
  obtain ⟨c1, c2⟩ := charge_core_spec s hc 3 false
  have hz : (s.healthOf (unitCore r.phys)).next s.seconds false = 0 := by
    rw [show s.healthOf (unitCore r.phys) = s.healthOf r.phys from rfl, Health.next, hh, ht]
    rfl
  rw [hz] at c2
  have hp : (s.charge (unitCore r.phys) 3 false).part p = s.part p := (charge_background (f := id) (g := id) s (unitCore r.phys) 3 false).2.2.1 p
  have hx := execFaultRetryDone_eq (repeats := false) (digest := digest) (unit := unit) (retried_own h hl hs (by rw [he]; decide))
  simp only [faultRepeats_hang he, chargeRetry_hang he, c2, Bool.false_or, show ¬ (0 = 3) by decide, decide_false, Bool.false_eq_true, if_false] at hx
  have hv : s.retryOnly ((s.charge (unitCore r.phys) 3 false).closeRetry p r.phys false) := c1.trans (closeRetry_retryOnly ..)
  have hn : ((s.charge (unitCore r.phys) 3 false).closeRetry p r.phys false).unitState (unitCore r.phys) = 0 := c2
  have hq : (((s.charge (unitCore r.phys) 3 false).closeRetry p r.phys false).part p).recov.isSome = true ∧
      (((s.charge (unitCore r.phys) 3 false).closeRetry p r.phys false).part p).returned = (s.part p).returned := by
    rw [State.closeRetry, part_modPart_same, hp, h]
    exact ⟨rfl, rfl⟩
  generalize (s.charge (unitCore r.phys) 3 false).closeRetry p r.phys false = v at hx hv hn hq
  obtain ⟨k1, k2, k3⟩ := returnCore_spec hq.1 (show r.stage < 2 by omega) hn
  exact ⟨_, hx, by rw [rebuild_core, k2], by rw [rebuild_part, k3, hq.2],
    sameMemory_trans (sameMemory_trans hv.memory k1) (rebuild_faultOnly _).memory⟩
end
end Sys2Proof.Machine
end


section
/-! SUPPORT. The drain: FAULTED_HOLD, retractions, switches and the step replay (R105, R354, R355, R360 to R362). -/
namespace Sys2Proof.Machine
open Host

/-! ### When the drain is done (R354) -/
theorem execRecoveryDrainDone_waits {p : PartIx} {s : State} (h : ∃ c ∈ s.coresOf p, (s.core c).tags ≠ []) :
    exec (.recoveryDrainDone p) s = .next s := by
  obtain ⟨c, hc, ht⟩ := h
  have : (s.coresOf p).any (fun c => !(s.core c).tags.isEmpty) = true := List.any_eq_true.2 ⟨c, hc, by simpa using ht⟩
  show execRecoveryDrainDone p s = _
  rw [execRecoveryDrainDone]
  simp only [this, Bool.or_true, if_true]
theorem execRecoveryDrainDone_none {p : PartIx} {s : State} (h : (s.part p).recov = none) : exec (.recoveryDrainDone p) s = .next s := by
  show execRecoveryDrainDone p s = _
  rw [execRecoveryDrainDone, PartSt.batch, h]
  rfl
/-- With every tag free and every fault's retry over, the drain goes on. -/
theorem execRecoveryDrainDone_ready {p : PartIx} {s : State} {l : List Recovery} (hb : (s.part p).batch = l) (hl : l ≠ [])
    (hr : ∀ r ∈ l, r.stage = 1) (ht : ∀ c ∈ s.coresOf p, (s.core c).tags = []) : exec (.recoveryDrainDone p) s = .next (s.afterDrain p l) := by
  have h1 : l.any (fun r => !r.ready Ev.rangeFail.num) = false := List.any_eq_false.2 fun r hr' => by simp [Recovery.ready, hr r hr']
  have h2 : (s.coresOf p).any (fun c => !(s.core c).tags.isEmpty) = false := List.any_eq_false.2 fun c hc => by simp [ht c hc]
  have h3 : l.isEmpty = false := by simpa using hl
  show execRecoveryDrainDone p s = _
  rw [execRecoveryDrainDone, hb]
  simp only [h1, h2, h3, Bool.or_self, Bool.false_eq_true, if_false]

/-! ### FAULTED_HOLD (R361) -/
/-- Nothing of a partition. -/
def noPart (_ : PartSt) : Unit := ()
theorem State.background.bare {α β : Type} {f : PartSt → α} {g : SiteSt → β} {s t : State} (h : s.background f g t) : s.background noPart noSite t :=
  h.mono (fun _ _ _ => rfl) (fun _ _ _ => rfl)
theorem State.background.now {α β : Type} {f : PartSt → α} {g : SiteSt → β} {s t : State} (h : s.background f g t) : t.now = s.now :=
  congrArg Prod.snd h.2.2.2.2
theorem State.unitsOnly.background {α β : Type} {f : PartSt → α} {g : SiteSt → β} {s t : State} (h : s.unitsOnly t) : s.background f g t :=
  h.pointsOnly.background
theorem unitsOnly_part {s t : State} (h : s.unitsOnly t) (p : Nat) : t.part p = s.part p := (h.background (f := id) (g := noSite)).2.2.1 p
theorem modPart_bare (s : State) (p : Nat) (x : PartSt → PartSt) : s.background noPart noSite (s.modPart p x) := modPart_background s p x (fun _ => rfl)
theorem leaveRun_unitsOnly (s : State) (c : Nat) : s.unitsOnly (s.leaveRun c) :=
  ((modCore_coreOnly s c (fun q => { q with atBar := none, loops := [] })).unitsOnly.trans (setF_coreOnly ..).unitsOnly).trans
    (setPower_coreOnly ..).unitsOnly
theorem loaded_background {α β : Type} {f : PartSt → α} {g : SiteSt → β} (s : State) (p : Nat) : s.background f g (s.loaded p) :=
  ((setB_background ..).trans (setB_background ..)).trans (setF_background ..)
theorem endRun_background (s : State) (p code : Nat) : s.background noPart noSite (s.endRun p code true) := by
  have hd : s.endRun p code true = (s.discardSums p).endRun p code false := by
    simp only [State.endRun, if_true, Bool.false_eq_true, if_false]
  obtain ⟨v, f, hv, he⟩ := endRun_eq (s.discardSums p) p code
  rw [hd, he]
  refine .trans (.trans (.trans (discardSums_background s p).bare hv.background) ?_) (foldl_background _ (fun t c => (leaveRun_unitsOnly t c).background) _ _)
  exact (modPart_bare v p f).trans (loaded_background ..)
/-- A held partition's cores are stopped and idle. -/
def State.stopAll (s : State) (l : List Nat) : State := s.forAll l (fun s c => (s.setF F.seqStatus_state c stStopped).setPower c vIdle)
theorem stopAll_unitsOnly (s : State) (l : List Nat) : s.unitsOnly (s.stopAll l) :=
  forAll_keeps (fun t => s.unitsOnly t) _ (fun t c h => h.trans ((setF_coreOnly t c F.seqStatus_state stStopped).unitsOnly.trans
    (setPower_coreOnly ..).unitsOnly)) l s rfl
/-- The partition of a held run, with no recovery. -/
def State.dropRecovery (s : State) (p : Nat) : State :=
  s.modPart p (fun q => { q with faultHold := true, recov := none, faults := s.openFaults p, moved := [] })
theorem faultedHold_eq (s : State) (p : Nat) : s.faultedHold p =
    let u := ((s.endIncomplete p).endRun p ccFaulted true).dropRecovery p
    (((u.stopAll (u.coresOf p)).setB F.partRecovery_held p true).setPState p psHeld).raise .partitionFaultedHold stewardNode (some p) 0 := rfl
theorem faultedHold_facts (s : State) (p : Nat) : (s.faultedHold p).pState p = psHeld ∧ (s.faultedHold p).getF F.partRecovery_held p = 1 ∧
    ((s.faultedHold p).part p).recov = none ∧ s.raisedOne (s.faultedHold p) .partitionFaultedHold stewardNode p p 0 := by
  rw [faultedHold_eq]
  have hb := (endIncomplete_background s p).bare.trans (endRun_background (s.endIncomplete p) p ccFaulted)
  generalize (s.endIncomplete p).endRun p ccFaulted true = v at *
  have hr : ((v.dropRecovery p).part p).recov = none := by rw [State.dropRecovery, part_modPart_same]
  have hn : (v.dropRecovery p).now = s.now := hb.now
  dsimp only
  generalize v.dropRecovery p = u at *
  have hs := stopAll_unitsOnly u (u.coresOf p)
  generalize u.stopAll (u.coresOf p) = w at *
  refine ⟨?_, ?_, ?_, raise_raisedOne s _ _ _ _ _ rfl ?_⟩
  · rw [State.pState, raise_getF, State.setPState, getF_setF_same _ _ _ _ (by decide)]
    exact Nat.mod_eq_of_lt (by decide)
  · rw [raise_getF, State.setPState, getF_setF_ne _ _ _ _ _ _ (by decide), State.setB, if_pos rfl, getF_setF_same _ _ _ _ (by decide)]
    exact Nat.mod_eq_of_lt (by decide)
  · rw [raise_part, State.setPState, State.setF_part, State.setB_part, unitsOnly_part hs p, hr]
  · rw [State.setPState, State.setF_now, State.setB_now, (hs.background (f := noPart) (g := noSite)).now, hn]

/-! ### Retractions (R258, R355) -/
section
variable {α β : Type} {f : PartSt → α} {g : SiteSt → β}
theorem retract_background (s : State) (p : Nat) (m : Nat × Nat × Nat) : s.background f g (s.retract p m) := by
  unfold State.retract
  dsimp only
  refine State.background.trans (modCore_background s m.2.1 (fun q => { q with offered := [] })) ?_
  refine foldl_background _ (fun t d => foldl_background _ (fun u x => ?_) _ _) _ _
  split
  · refine ite_background (.refl u) ?_
    split
    · exact .refl u
    · exact .trans (.trans (modCore_background ..) (send_background _ _ _ _ _ rfl)) (inject_background ..)
  · exact .refl u
theorem retractFor_background (s : State) (p : Nat) (m : Nat × Nat × Nat) : s.background f g (s.retractFor p m) :=
  foldl_background _ (fun t _ => foldl_background _ (fun u _ => (send_background u _ _ _ _ rfl).trans (inject_background ..)) _ t) _ s
end

/-! ### Switches (R102, R105, R358, R362) -/
theorem entryKind_active {c : Nat} (h : c < 4096) : entryKind (entryOf c 1) = 1 := by
  simp only [entryKind, entryOf, Nat.shiftLeft_eq]
  omega
theorem standby_lt {s : State} {p : Nat} {sb : Nat × Nat} (h : sb ∈ s.standbys p) : sb.2 < 4096 := by
  obtain ⟨e, -, rfl⟩ := List.mem_map.1 h
  simp only [entryCore]
  omega
theorem sendAlias_part (s : State) (p e new : Nat) : (s.sendAlias p e new).part p =
    { s.part p with aliasTab := Tab.put (fun _ => 0) e new (s.part p).aliasTab } := by
  unfold State.sendAlias
  rw [foldl_send_part, State.setB_part, part_modPart_same]
theorem sendAlias_background (s : State) (p e new : Nat) : s.background noPart noSite (s.sendAlias p e new) := by
  unfold State.sendAlias
  extract_lets g t
  have ht : s.background noPart noSite t := (modPart_bare s p _).trans (setB_background ..)
  exact ht.trans (foldl_background _ (fun t c => send_background t _ _ _ _ rfl) _ _)
theorem showStandbys_background (s : State) (p : Nat) : s.background noPart noSite (s.showStandbys p) := by
  unfold State.showStandbys
  exact setF_background ..
theorem showStandbys_part (s : State) (p k : Nat) : (s.showStandbys p).part k = s.part k := by rw [State.showStandbys, State.setF_part]
theorem aliasSwitch_facts (s : State) (p n : Nat) (sb : Nat × Nat) : s.background noPart noSite (s.aliasSwitch p n sb) ∧
    (s.aliasSwitch p n sb).part p = { s.part p with
      aliasTab := Tab.put (fun _ => 0) sb.1 0 (Tab.put (fun _ => 0) n (entryOf sb.2 1) (s.part p).aliasTab), switched := true } ∧
    s.raisedOne (s.aliasSwitch p n sb) .placementSwitched stewardNode p p n := by
  unfold State.aliasSwitch
  dsimp only
  have h0 : s.background noPart noSite (s.setF F.partAliasGen_generation p (satAdd 16 (s.getF F.partAliasGen_generation p) 1)) := setF_background ..
  have p0 : (s.setF F.partAliasGen_generation p (satAdd 16 (s.getF F.partAliasGen_generation p) 1)).part p = s.part p := by rw [State.setF_part]
  generalize s.setF F.partAliasGen_generation p (satAdd 16 (s.getF F.partAliasGen_generation p) 1) = u at *
  have h1 := h0.trans ((sendAlias_background u p n (entryOf sb.2 1)).trans (sendAlias_background _ p sb.1 0))
  have p1 : ((u.sendAlias p n (entryOf sb.2 1)).sendAlias p sb.1 0).part p = { s.part p with
      aliasTab := Tab.put (fun _ => 0) sb.1 0 (Tab.put (fun _ => 0) n (entryOf sb.2 1) (s.part p).aliasTab) } := by
    rw [sendAlias_part, sendAlias_part, p0]
  generalize (u.sendAlias p n (entryOf sb.2 1)).sendAlias p sb.1 0 = v at *
  have h2 : s.background noPart noSite ((v.modPart p (fun q => { q with switched := true })).setB F.seqStatus_standby sb.2 false) :=
    h1.trans ((modPart_bare v p _).trans (setB_background ..))
  have p2 : ((v.modPart p (fun q => { q with switched := true })).setB F.seqStatus_standby sb.2 false).part p = { s.part p with
      aliasTab := Tab.put (fun _ => 0) sb.1 0 (Tab.put (fun _ => 0) n (entryOf sb.2 1) (s.part p).aliasTab), switched := true } := by
    rw [State.setB_part, part_modPart_same, p1]
  generalize (v.modPart p (fun q => { q with switched := true })).setB F.seqStatus_standby sb.2 false = w at *
  have h3 : s.background noPart noSite ((w.setB F.intMirror_valid sb.2 false).showStandbys p) := h2.trans ((setB_background ..).trans (showStandbys_background ..))
  have p3 : ((w.setB F.intMirror_valid sb.2 false).showStandbys p).part p = w.part p := by
    rw [showStandbys_part, State.setB_part]
  generalize (w.setB F.intMirror_valid sb.2 false).showStandbys p = x at *
  exact ⟨h3.trans (raise_background ..), by rw [raise_part, p3, p2], raise_raisedOne s x _ _ _ _ rfl h3.now⟩
/-- A core that returns as a standby takes an entry that was unused. -/
theorem returnStandby_facts (s : State) (p c : Nat) : s.background noPart noSite (s.returnStandby p c) ∧
    ∃ tab, (s.returnStandby p c).part p = { s.part p with aliasTab := tab } ∧
      ∀ m, entryKind (Tab.get (fun _ => 0) (s.part p).aliasTab m) ≠ 0 → Tab.get (fun _ => 0) tab m = Tab.get (fun _ => 0) (s.part p).aliasTab m := by
  unfold State.returnStandby
  extract_lets a b named
  split
  · exact ⟨.refl s, _, rfl, fun _ _ => rfl⟩
  · split
    next e he =>
      have h1 := sendAlias_background s p e (entryOf c 2)
      have p1 := sendAlias_part s p e (entryOf c 2)
      generalize s.sendAlias p e (entryOf c 2) = u at *
      have h2 := setPower_coreOnly (u.setB F.seqStatus_standby c true) c vIdle
      have p2 := h2.part p
      rw [State.setB_part, p1] at p2
      have h3 := h1.trans ((setB_background u F.seqStatus_standby c true).trans h2.unitsOnly.background)
      generalize (u.setB F.seqStatus_standby c true).setPower c vIdle = v at *
      refine ⟨h3.trans (showStandbys_background ..), Tab.put (fun _ => 0) e (entryOf c 2) (s.part p).aliasTab, ?_, fun m hm => Tab.get_put_ne _ _ _ ?_⟩
      · rw [showStandbys_part, p2]
      rintro rfl
      exact hm (by simpa using List.find?_some he)
    next => exact ⟨.refl s, _, rfl, fun _ _ => rfl⟩
/-- A failed number moved to a standby: its entry is the standby's core, the standby's own is unused, and other entries in use stay. -/
theorem switchIn_facts (s : State) (p : Nat) (r : Recovery) {sb : Nat × Nat} (hn : sb.1 ≠ r.logical) (hc : sb.2 < 4096) : let t := s.switchIn p r sb
    s.background noPart noSite t ∧ (t.part p).recov = (s.part p).recov ∧
    Tab.get (fun _ => 0) (t.part p).aliasTab r.logical = entryOf sb.2 1 ∧
    (∀ m, m ≠ r.logical → m ≠ sb.1 → entryKind (Tab.get (fun _ => 0) (s.part p).aliasTab m) ≠ 0 →
      Tab.get (fun _ => 0) (t.part p).aliasTab m = Tab.get (fun _ => 0) (s.part p).aliasTab m) ∧
    (t.part p).failedStep = (s.part p).failedStep ++ [r.logical] ∧ s.raisedOne t .placementSwitched stewardNode p p r.logical := by
  obtain ⟨a1, a2, a3⟩ := aliasSwitch_facts s p r.logical sb
  unfold State.switchIn
  extract_lets past u old v w x y t
  have ht : t = y.returnStandby p r.phys ∨ t = y :=
    iteInduction (motive := fun t => t = y.returnStandby p r.phys ∨ t = y) (fun _ => Or.inl rfl) (fun _ => Or.inr rfl)
  have hf : ∀ (t : State) f c n, t.unitsOnly (t.setF f c n) := fun t f c n => (setF_coreOnly t c f n).unitsOnly
  have hv : u.unitsOnly v := (modCore_coreOnly ..).unitsOnly
  have hw : u.unitsOnly w := iteInduction (motive := fun t => u.unitsOnly t)
    (fun _ => hv.trans ((((restoreBoundary_coreOnly v sb.2 old.bound).unitsOnly.trans (hf ..)).trans (hf ..)).trans (hf ..))) (fun _ => hv)
  have hx : u.unitsOnly x := hw.trans (modCore_coreOnly ..).unitsOnly
  have hy : s.background noPart noSite y :=
    a1.trans (hx.background.trans ((setF_background ..).trans (modPart_bare _ p _)))
  have py : y.part p = { u.part p with
      failedStep := (u.part p).failedStep ++ [r.logical], moved := (u.part p).moved.filter (fun n => n ≠ r.logical) ++ [r.logical] } := by
    rw [← unitsOnly_part hx p, ← State.setF_part x F.seqStatus_state r.phys stStopped p]
    exact part_modPart_same ..
  have a2 : u.part p = _ := a2
  rw [a2] at py
  have hev : s.raisedOne y .placementSwitched stewardNode p p r.logical := a3.mono (hx.background.trans ((setF_background ..).trans (modPart_bare _ p _))).1
  clear_value t y
  have pt : (y.part p).aliasTab = Tab.put (fun _ => 0) sb.1 0 (Tab.put (fun _ => 0) r.logical (entryOf sb.2 1) (s.part p).aliasTab) := by rw [py]
  have tn : Tab.get (fun _ => 0) (y.part p).aliasTab r.logical = entryOf sb.2 1 := by
    rw [pt, Tab.get_put_ne _ _ _ hn.symm, Tab.get_put_same]
  have tm : ∀ m, m ≠ r.logical → m ≠ sb.1 → Tab.get (fun _ => 0) (y.part p).aliasTab m = Tab.get (fun _ => 0) (s.part p).aliasTab m := fun m h1 h2 => by
    rw [pt, Tab.get_put_ne _ _ _ h2, Tab.get_put_ne _ _ _ h1]
  have hr : (y.part p).recov = (s.part p).recov := by rw [py]
  have hf : (y.part p).failedStep = (s.part p).failedStep ++ [r.logical] := by rw [py]
  rcases ht with rfl | rfl
  · obtain ⟨b1, tab, b2, b3⟩ := returnStandby_facts y p r.phys
    refine ⟨hy.trans b1, by rw [b2]; exact hr, ?_, fun m h1 h2 h3 => ?_, by rw [b2]; exact hf, hev.mono b1.1⟩
    · rw [b2]
      exact (b3 _ (by rw [tn, entryKind_active hc]; decide)).trans tn
    · rw [b2]
      exact (b3 m (by rw [tm m h1 h2]; exact h3)).trans (tm m h1 h2)
  · exact ⟨hy, hr, tn, fun m h1 h2 _ => tm m h1 h2, hf, hev⟩
end Sys2Proof.Machine
end


section
/-! SUPPORT. The step replay, the end of the drain and the mirror restore (R354 to R362), and the settling of O41. -/
namespace Sys2Proof.Machine
open Host

/-! ### The step replay (R328, R360) -/
theorem loadHomes_background {α β : Type} {f : PartSt → α} {g : SiteSt → β} (s : State) (p : Nat) : s.background f g (s.loadHomes p) :=
  foldl_background _ (fun t _ => modCore_background t _ _) _ s
theorem quiet_unitsOnly (s : State) (c : Nat) : s.unitsOnly (s.quiet c) := (modCore_coreOnly ..).unitsOnly.trans (showTags_facts ..).1
/-- A core put at a boundary state with nothing in flight. -/
theorem atBoundary_unitsOnly (s : State) (c : Nat) (b : Boundary) : s.unitsOnly (((s.quiet c).freshMicroStep c).restoreBoundary c b) :=
  ((quiet_unitsOnly s c).trans (freshMicroStep_facts (s.quiet c) c).1).trans (restoreBoundary_coreOnly ((s.quiet c).freshMicroStep c) c b).unitsOnly
theorem failedStep_of_draining {q : PartSt} {r : Recovery} {l : List Nat} (h : draining q = some (r, l)) : q.failedStep = l := by
  unfold draining at h
  obtain ⟨x, -, hx⟩ := Option.map_eq_some_iff.1 h
  exact congrArg Prod.snd hx
theorem draining_of_atFault {q q' : PartSt} (h : atFault q = atFault q') : draining q = draining q' := congrArg Prod.snd h
/-- A step replay ends the recovery and is told; aliases and the numbers that failed in the step stay. -/
theorem stepReplay_facts {s : State} {p : Nat} {r : Recovery} (h : (s.part p).recov = some r) (hr : r.stage = 1) : let t := s.stepReplay p
    s.evNet <+: t.evNet ∧ (t.part p).recov = none ∧ (t.part p).aliasTab = (s.part p).aliasTab ∧ (t.part p).failedStep = (s.part p).failedStep ∧
    s.raisedOne t .stepReplayed stewardNode p p 0 := by
  unfold State.stepReplay
  extract_lets s1 start cs s2 s3 s4 t
  have h1 : s.background atFault noSite s1 := (endIncomplete_background s p).anySite.trans (discardSums_background ..)
  have hf1 : (s1.part p).failedStep = (s.part p).failedStep := by
    refine failedStep_of_draining (r := r) ((draining_of_atFault (h1.2.2.1 p)).trans ?_)
    simp [draining, Option.filter, h, hr]
  have ha1 := aliasTab_of_atRoot (atRoot_of_atFault (h1.2.2.1 p))
  have h2 : s1.background noPart noSite s2 := modPart_bare ..
  have hp2 : (s2.part p).recov = none ∧ (s2.part p).aliasTab = (s1.part p).aliasTab ∧ (s2.part p).failedStep = (s1.part p).failedStep := by
    clear_value s1
    refine ⟨?_, ?_, ?_⟩ <;> rw [part_modPart_same]
  have h3 : s2.background placed noSite s3 := (boundary_background ..).trans (loadHomes_background ..)
  have h4 : s3.background id noSite s4 := by
    refine foldl_background _ (fun t e => ?_) cs s3
    extract_lets b b' u
    have hu : t.unitsOnly u := atBoundary_unitsOnly ..
    clear_value u
    exact (((hu.trans (modCore_coreOnly ..).unitsOnly).trans (setF_coreOnly ..).unitsOnly).trans (setPower_coreOnly ..).unitsOnly).background
  clear_value s4 s3 s2 s1
  have hev := (((h1.bare.trans h2).trans h3.bare).trans h4.bare)
  have hp4 : s4.part p = s3.part p := h4.2.2.1 p
  have hp3 := h3.2.2.1 p
  obtain ⟨r2, a2, f2⟩ := hp2
  have hb : ∀ (x : State) f k n, (x.bumpF f k n).part p = x.part p := fun _ _ _ _ => rfl
  have ht : t.part p = { s4.part p with planMove := false } := by
    show (State.raise _ _ _ _ _).part p = _
    rw [raise_part, hb, part_modPart_same]
  have h5 : s4.background noPart noSite ((s4.modPart p (fun q => { q with planMove := false })).bumpF F.partRecovery_step_replays p 1) :=
    (modPart_bare ..).trans (bumpF_background ..)
  refine ⟨(hev.trans (h5.trans (raise_background ..))).1, ?_, ?_, ?_, raise_raisedOne s _ _ _ _ _ rfl (hev.trans h5).now⟩
  all_goals rw [ht, hp4]
  · exact (congrArg (fun x => x.2.1) hp3).trans r2
  · exact ((aliasTab_of_atRoot (atRoot_of_placed _ _ hp3)).trans a2).trans ha1
  · exact ((congrArg (fun x => x.2.2.2.2) hp3).trans f2).trans hf1

/-! ### The end of the drain (R354, R360 to R362) -/
/-- A recovery on its way to the restore, with its replay set. -/
def State.toRestore (s : State) (p : Nat) (l : List Recovery) (set : Taint) : State := s.modPart p (fun q => { q with
  recov := l.head?.map (fun r => { r with stage := 2, replay := set.map (fun m => (m.1, m.2.2)) }), faults := s.untested q.faults })
theorem toRestore_facts (s : State) (p : Nat) (r : Recovery) (l : List Recovery) (set : Taint) : let t := s.toRestore p (r :: l) set
    s.evNet <+: t.evNet ∧ (t.part p).aliasTab = (s.part p).aliasTab ∧ (t.part p).failedStep = (s.part p).failedStep ∧
    (t.part p).recov = some { r with stage := 2, replay := set.map (fun m => (m.1, m.2.2)) } := by
  refine ⟨List.prefix_rfl, ?_⟩
  rw [State.toRestore, part_modPart_same]
  exact ⟨rfl, rfl, rfl⟩
/-- What ends a drain once the switches are made: a step replay where one micro-step is not enough, else the way to the restore. -/
def State.endDrain (s : State) (p : Nat) (l : List Recovery) (wide : Bool) (set : Taint) : State :=
  if wide then s.stepReplay p else s.toRestore p l set
theorem endDrain_facts {s : State} {p : Nat} {r : Recovery} {l : List Recovery} (h : (s.part p).recov = some r) (hr : r.stage = 1)
    (wide : Bool) (set : Taint) : let t := s.endDrain p (r :: l) wide set
    s.evNet <+: t.evNet ∧ (t.part p).aliasTab = (s.part p).aliasTab ∧ (t.part p).failedStep = (s.part p).failedStep ∧
    ((t.part p).recov = none ∧ s.raisedOne t .stepReplayed stewardNode p p 0 ∨ ∃ x, (t.part p).recov = some { r with stage := 2, replay := x }) := by
  cases wide with
  | true =>
    obtain ⟨h1, h2, h3, h4, h5⟩ := stepReplay_facts h hr
    exact ⟨h1, h3, h4, Or.inl ⟨h2, h5⟩⟩
  | false =>
    obtain ⟨h1, h2, h3, h4⟩ := toRestore_facts s p r l set
    exact ⟨h1, h2, h3, Or.inr ⟨_, h4⟩⟩
/-- The switches of a drain, each failed number to a standby of its own. -/
def State.switchAll (s : State) (p : Nat) (l : List (Recovery × Nat × Nat)) : State := l.foldl (fun s x => s.switchIn p x.1 x.2) s
section
variable {s : State} {p : Nat} {l : List Recovery}
theorem afterDrain_held (h : ((l.filter Recovery.isLocal).map (·.logical)).any (fun n => (s.part p).failedStep.contains n) = true ∨
    (s.standbys p).length < (l.filter Recovery.isLocal).length) : s.afterDrain p l = s.faultedHold p := by
  unfold State.afterDrain
  exact if_pos (by simpa only [Bool.or_eq_true, decide_eq_true_iff] using h)
/-- With a standby for each failed number, and none failed before in the step, the drain retracts, switches and ends. -/
theorem afterDrain_switches (hf : ((l.filter Recovery.isLocal).map (·.logical)).any (fun n => (s.part p).failedStep.contains n) = false)
    (hs : (l.filter Recovery.isLocal).length ≤ (s.standbys p).length) : ∃ v wide set, s.background id noSite v ∧
      s.afterDrain p l = (v.switchAll p ((l.filter Recovery.isLocal).zip (s.standbys p))).endDrain p l wide set := by
  unfold State.afterDrain
  extract_lets failing out sbs set wide v w
  refine ⟨v, wide, set, ?_, if_neg ?_⟩
  · exact ite_background (.refl s) (foldl_background _ (fun t m => ite_background (retractFor_background ..) (retract_background ..)) _ s)
  · have h2 : decide (sbs.length < failing.length) = false := decide_eq_false (Nat.not_lt.2 hs)
    rw [show out.any (fun n => (s.part p).failedStep.contains n) = false from hf, h2]
    decide
end
theorem raisedOne_of_now {s s' t : State} {e : Ev} {src k p d : Nat} (h : s'.raisedOne t e src k p d) (hn : s'.now = s.now) :
    s.raisedOne t e src k p d := by
  rw [State.raisedOne, hn] at h
  exact h
section
variable {p : PartIx} {r : Recovery} {s : State} (h : (s.part p).recov = some r) (hr : r.stage = 1) (hl : r.logical < 65536)
  (ht : ∀ c ∈ s.coresOf p, (s.core c).tags = [])
include h hr hl ht
omit hl in
theorem recoveryDrainDone_lone (hf : (s.part p).faults = []) : exec (.recoveryDrainDone p) s = .next (s.afterDrain p [r]) := by
  refine execRecoveryDrainDone_ready ?_ (by simp) (by simpa using hr) ht
  rw [PartSt.batch, h, hf]
  simp [hr]
/-- A number that fails twice in a step, or has no standby, holds the partition (R361). -/
theorem recoveryDrainDone_holds (hf : (s.part p).faults = []) (hn : (s.part p).failedStep.contains r.logical = true ∨ s.standbys p = []) :
    ∃ t, exec (.recoveryDrainDone p) s = .next t ∧ t.pState p = psHeld ∧ t.getF F.partRecovery_held p = 1 ∧ (t.part p).recov = none ∧
      s.raisedOne t .partitionFaultedHold stewardNode p p 0 := by
  have hloc : [r].filter Recovery.isLocal = [r] := by simp [Recovery.isLocal, hl]
  refine ⟨_, (recoveryDrainDone_lone h hr ht hf).trans (congrArg Outcome.next (afterDrain_held ?_)), faultedHold_facts s p⟩
  rw [hloc]
  refine hn.imp (fun hc => ?_) (fun hc => ?_)
  · simpa using hc
  · rw [hc]
    exact Nat.one_pos
/-- A lone fault takes the first standby (R105, R354). -/
theorem recoveryDrainDone_switches {sb : Nat × Nat} {l : List (Nat × Nat)} (hf : (s.part p).faults = [])
    (hn : (s.part p).failedStep.contains r.logical = false) (hsb : s.standbys p = sb :: l) (hne : sb.1 ≠ r.logical) :
    ∃ t, exec (.recoveryDrainDone p) s = .next t ∧
      Tab.get (fun _ => 0) (t.part p).aliasTab r.logical = entryOf sb.2 1 ∧ (t.part p).failedStep.contains r.logical = true ∧
      s.raisedOne t .placementSwitched stewardNode p p r.logical ∧
      ((t.part p).recov = none ∧ s.raisedOne t .stepReplayed stewardNode p p 0 ∨ ∃ x, (t.part p).recov = some { r with stage := 2, replay := x }) := by
  have hloc : [r].filter Recovery.isLocal = [r] := by simp [Recovery.isLocal, hl]
  obtain ⟨v, wide, set, hv, he⟩ := afterDrain_switches (s := s) (p := p) (l := [r]) (by rw [hloc]; simpa using hn) (by rw [hloc, hsb]; simp)
  rw [hloc, hsb, List.zip_cons_cons, List.zip_nil_left] at he
  have hvp : v.part p = s.part p := hv.2.2.1 p
  obtain ⟨k1, k2, k3, -, k5, k6⟩ := switchIn_facts v p r hne (standby_lt (hsb ▸ List.mem_cons_self))
  have hnow : (v.switchIn p r sb).now = s.now := k1.now.trans hv.now
  rw [State.switchAll, List.foldl_cons, List.foldl_nil] at he
  generalize v.switchIn p r sb = w at *
  obtain ⟨e1, e2, e3, e4⟩ := endDrain_facts (l := []) (k2.trans (hvp ▸ h)) hr wide set
  refine ⟨_, (recoveryDrainDone_lone h hr ht hf).trans (congrArg Outcome.next he), by rw [e2, k3], by rw [e3, k5]; simp,
    (raisedOne_of_now k6 hv.now).mono e1, e4.imp_left (And.imp_right fun x => raisedOne_of_now x hnow)⟩
/-- Two faults take the first two standbys, each its own (R362). -/
theorem recoveryDrainDone_switches_both {r' : Recovery} {sb sb' : Nat × Nat} {l : List (Nat × Nat)} (hf : (s.part p).faults = [r'])
    (hr' : r'.stage = 1) (hl' : r'.logical < 65536) (hrr : r'.logical ≠ r.logical) (hn : (s.part p).failedStep.contains r.logical = false)
    (hn' : (s.part p).failedStep.contains r'.logical = false) (hsb : s.standbys p = sb :: sb' :: l) (h1 : sb.1 ≠ r.logical)
    (h3 : sb'.1 ≠ r.logical) (h4 : sb'.1 ≠ r'.logical) :
    ∃ t, exec (.recoveryDrainDone p) s = .next t ∧ Tab.get (fun _ => 0) (t.part p).aliasTab r.logical = entryOf sb.2 1 ∧
      Tab.get (fun _ => 0) (t.part p).aliasTab r'.logical = entryOf sb'.2 1 ∧ (t.part p).failedStep.contains r.logical = true ∧
      (t.part p).failedStep.contains r'.logical = true := by
  have hloc : [r, r'].filter Recovery.isLocal = [r, r'] := by simp [Recovery.isLocal, hl, hl']
  have hb : (s.part p).batch = [r, r'] := by
    rw [PartSt.batch, h, hf]
    simp [hr, hr']
  have hx := execRecoveryDrainDone_ready hb (by simp) (by simp [hr, hr']) ht
  obtain ⟨v, wide, set, hv, he⟩ := afterDrain_switches (s := s) (p := p) (l := [r, r'])
    (by rw [hloc, List.map_cons, List.map_cons, List.map_nil, List.any_cons, List.any_cons, hn, hn', List.any_nil]; rfl) (by rw [hloc, hsb]; simp)
  rw [hloc, hsb, List.zip_cons_cons, List.zip_cons_cons, List.zip_nil_left] at he
  have hvp : v.part p = s.part p := hv.2.2.1 p
  have c1 : sb.2 < 4096 := standby_lt (hsb ▸ List.mem_cons_self)
  have c2 : sb'.2 < 4096 := standby_lt (hsb ▸ List.mem_cons_of_mem _ List.mem_cons_self)
  rw [State.switchAll, List.foldl_cons, List.foldl_cons, List.foldl_nil] at he
  obtain ⟨-, k2, k3, -, k5, -⟩ := switchIn_facts v p r h1 c1
  generalize v.switchIn p r sb = w at *
  obtain ⟨-, j2, j3, j4, j5, -⟩ := switchIn_facts w p r' h4 c2
  generalize w.switchIn p r' sb' = x at *
  obtain ⟨-, e2, e3, -⟩ := endDrain_facts (l := [r']) (j2.trans (k2.trans (hvp ▸ h))) hr wide set
  refine ⟨_, hx.trans (congrArg Outcome.next he), ?_, by rw [e2, j3], by rw [e3, j5, k5]; simp, by rw [e3, j5]; simp⟩
  rw [e2, j4 _ hrr.symm h3.symm (by rw [k3, entryKind_active c1]; decide), k3]
end

/-! ### The mirror restore (R352, R354) -/
theorem execMirrorRestoreDone_none {p : PartIx} {s : State} (h : (s.part p).recov = none) : exec (.mirrorRestoreDone p) s = .next s := by
  show execMirrorRestoreDone p s = _
  rw [execMirrorRestoreDone]
  simp only [h]
theorem execMirrorRestoreDone_early {p : PartIx} {s : State} {r : Recovery} (h : (s.part p).recov = some r) (hr : r.stage ≠ 2) :
    exec (.mirrorRestoreDone p) s = .next s := by
  show execMirrorRestoreDone p s = _
  rw [execMirrorRestoreDone]
  simp only [h, hr, ne_eq, not_false_eq_true, if_true]
theorem resendTo_nil (s : State) (p : Nat) : s.resendTo p [] = s := by
  unfold State.resendTo
  refine foldl_keeps (fun t => t = s) _ (fun t n ht => ?_) _ s rfl
  rw [ht, List.any_nil, if_neg (by decide)]
  split
  · rfl
  · simp
theorem loadMirror_spadOnly (s : State) (p n c : Nat) : s.spadOnly (s.loadMirror p n c).1 := by
  unfold State.loadMirror
  split
  · exact foldl_keeps (fun t => s.spadOnly t) _ (fun t i ht => ht.trans (putRows_spadOnly [_] t c _ _)) _ s (.refl s)
  · exact .refl s
/-- A recovery that replays: nothing has moved any more, and cores of the replay set have not arrived. -/
def State.replays (s : State) (p : Nat) (r : Recovery) (arrived : Nat) : State := s.modPart p (fun q => { q with
  recov := some { r with stage := 3 }, moved := [], replaying := !r.replay.isEmpty
  arrivals := q.arrivals.map (fun a => { a with count := a.count - arrived }) })
section
variable {p : PartIx} {s : State} {r : Recovery} {c : Nat} (h : (s.part p).recov = some r) (hr : r.stage = 2) (hn : r.replay = [])
  (hm : (s.part p).moved = [r.logical]) (hc : s.physOf p r.logical = some c) (hg : (s.loadMirror p r.logical c).2 = true)
include h hr hn hm hc hg
/-- With no set to replay, the moved number's region is loaded and the held cores go on. -/
theorem execMirrorRestoreDone_moved : exec (.mirrorRestoreDone p) s = .next (
    let u := (s.loadMirror p r.logical c).1.replays p r 0
    (u.turn (u.coresOf p) stHeld stRunning).tryRelease p) := by
  show execMirrorRestoreDone p s = _
  rw [execMirrorRestoreDone]
  simp only [h, hr, hn, hm, hc, hg, List.map_nil, List.all_nil, List.filter_cons, List.filter_nil, List.nil_append, List.foldl_cons, List.foldl_nil,
    List.length_nil, List.isEmpty_nil, resendTo_nil, ne_eq, not_true_eq_false, if_true, if_false, Bool.true_or, Bool.true_and, Bool.not_true,
    Bool.false_eq_true]
  rw [State.replays, hn]
  rfl
theorem mirrorRestoreDone_moved (ha : (s.part p).arrivals = none) : ∃ t, exec (.mirrorRestoreDone p) s = .next t ∧
    (t.part p).recov = some { r with stage := 3 } ∧ (∀ k ∈ s.coresOf p, s.getF F.seqStatus_state k = stHeld → t.getF F.seqStatus_state k = stRunning) ∧
    t.spad = (s.loadMirror p r.logical c).1.spad ∧ t.dram = s.dram := by
  have he := execMirrorRestoreDone_moved h hr hn hm hc hg
  have hu := loadMirror_spadOnly s p r.logical c
  generalize (s.loadMirror p r.logical c).1 = u at *
  have hp : u.part p = s.part p := by rw [hu]; rfl
  have hd : u.dram = s.dram := by rw [hu]
  have hcs : (u.replays p r 0).coresOf p = s.coresOf p := (State.modPart_coresOf ..).trans (by rw [hu]; rfl)
  have hg : ∀ k, (u.replays p r 0).getF F.seqStatus_state k = s.getF F.seqStatus_state k := fun k => hu.getF _ k
  have hq : ((u.replays p r 0).part p).recov = some { r with stage := 3 } ∧ ((u.replays p r 0).part p).arrivals = none := by
    rw [State.replays, part_modPart_same, hp, ha]
    exact ⟨rfl, rfl⟩
  have hs : (u.replays p r 0).spad = u.spad ∧ (u.replays p r 0).dram = u.dram := ⟨rfl, rfl⟩
  generalize u.replays p r 0 = v at *
  have hw := turn_regs v (v.coresOf p) stHeld stRunning
  have hwp : (v.turn (v.coresOf p) stHeld stRunning).part p = v.part p := by rw [hw]; rfl
  have hws : (v.turn (v.coresOf p) stHeld stRunning).spad = v.spad ∧ (v.turn (v.coresOf p) stHeld stRunning).dram = v.dram := by rw [hw]; exact ⟨rfl, rfl⟩
  have hwk : ∀ k ∈ s.coresOf p, s.getF F.seqStatus_state k = stHeld → (v.turn (v.coresOf p) stHeld stRunning).getF F.seqStatus_state k = stRunning :=
    fun k hk hh => turn_listed (by decide) (by rw [hcs]; exact hk) ((hg k).trans hh)
  dsimp only at he
  rw [tryRelease_none (by rw [hwp, hq.2])] at he
  exact ⟨_, he, by rw [hwp, hq.1], hwk, hws.1.trans hs.1, hws.2.trans (hs.2.trans hd)⟩
end

/-- Settles O41: hangs by the policy, the retry by what it charges, the drain by its switches and the step replay, the restore by the region loaded. -/
theorem recoveryProceeds : Obligations.RecoveryProceeds := by
  refine ⟨fun c p s ho => ⟨fun h => execUstepOverrun_known (Or.inl h), fun h => execUstepOverrun_known (Or.inr h), execUstepOverrun_new ho,
    execCoreHang_spec ho⟩, fun p repeats digest unit r s h => ⟨fun hs hf => ?_, fun hc hl hs he hst => ⟨?_, ?_⟩, fun c hc ht => ?_, ?_, ?_, ?_, ?_, ?_⟩, ?_⟩
  · exact execFaultRetryDone_none repeats digest unit (retried_lone h hf hs)
  · rintro rfl
    exact faultRetryDone_repeats digest unit h hc hl hs he
  · rintro rfl hh htimes
    exact faultRetryDone_returns digest unit h hc hl hs he hst hh htimes
  · exact execRecoveryDrainDone_waits ⟨c, hc, ht⟩
  · exact fun hr hl hf ht hn => recoveryDrainDone_holds h hr hl ht hf hn
  · exact fun r' sb sb' l hr hl hf hr' hl' hrr ht hn hn' hsb h1 _ h3 h4 =>
      recoveryDrainDone_switches_both h hr hl ht hf hr' hl' hrr hn hn' hsb h1 h3 h4
  · exact fun sb l hr hl hf ht hn hsb hne => recoveryDrainDone_switches h hr hl ht hf hn hsb hne
  · exact execMirrorRestoreDone_early h
  · exact fun c hr hn hm hc hg ha => mirrorRestoreDone_moved h hr hn hm hc hg ha
  · intro p repeats digest unit s hr hf i hi
    simp only [List.mem_cons, List.not_mem_nil, or_false] at hi
    rcases hi with rfl | rfl | rfl
    · exact execFaultRetryDone_none repeats digest unit (retried_no hr hf)
    · exact execRecoveryDrainDone_none hr
    · exact execMirrorRestoreDone_none hr
end Sys2Proof.Machine
end
